-- ==== Sys2Proof/Word.lean ====
section
/-!
DEFINITION. The word types and the one container of the model: sparse tables kept as ordered association lists.
-/

namespace Sys2Proof

/-- A byte of memory. -/
abbrev Byte := BitVec 8

/-- A 64-bit word: scalar registers, system registers, addresses. -/
abbrev Word := BitVec 64

/-- A 32-bit instruction word (R139). -/
abbrev IWord := BitVec 32

/-- A sparse table: pairs of an index and a value, indices rising. An index that is not listed reads as a default. -/
abbrev Table (α : Type) := List (Nat × α)

/-- The value at an index, or the default. -/
def Table.get {α : Type} (d : α) : Table α → Nat → α
  | [], _ => d
  | (j, a) :: t, i => if i = j then a else Table.get d t i

/-- The table with one value replaced or added, kept in order. -/
def Table.set {α : Type} : Table α → Nat → α → Table α
  | [], i, x => [(i, x)]
  | (j, a) :: t, i, x =>
    if i = j then (i, x) :: t
    else if i < j then (i, x) :: (j, a) :: t
    else (j, a) :: Table.set t i x

/-- The table without one index. -/
def Table.del {α : Type} : Table α → Nat → Table α
  | [], _ => []
  | (j, a) :: t, i => if i = j then Table.del t i else (j, a) :: Table.del t i

/-- The value at an index when one is listed. -/
def Table.find {α : Type} : Table α → Nat → Option α
  | [], _ => none
  | (j, a) :: t, i => if i = j then some a else Table.find t i

/-- The listed indices. -/
def Table.keys {α : Type} (t : Table α) : List Nat := t.map (fun p => p.1)

end Sys2Proof
end

