-- ==== Sys2Proof/Syntax.lean ====
section
/-!
DEFINITION. The instruction set as syntax: one constructor of `Instr` per row of the opcode table, in the table's
order. The first 237 are the encoded 32-bit words (R145 to R154; the end mark E is framing and no part of an
instruction, R139); their fields carry the names and widths of the table. The other 77 are the device's steps that have
no encoding: their arguments name the object the step acts on and what the world outside brings to it.
-/

namespace Sys2Proof

/-- The SI operand (R145): `imm10` alone, or `cat(ext27, imm10)` when an LX word extends the word. -/
inductive Imm where
  /-- No LX word: the 10-bit field. -/
  | short (imm : BitVec 10)
  /-- With an LX word: the 37-bit value `cat(ext27, imm10)`. -/
  | long (imm : BitVec 37)
deriving DecidableEq, Repr

/-- What arrives through a fabric port or at a memory site (R101, R352): a message this device sent, named by its
number, with the target's answer to the admission rule when the target is another device; or an access by another device. -/
inductive Arrival where
  /-- The message `id` of this device; `admitted` is read only when its target is another device. -/
  | own (id : Nat) (admitted : Bool)
  /-- An access of core `core` of device `dev` carrying `tag`, to address `addr`, with the bytes `data` it stores (for a
  read, the bytes only give its length; for an atomic, `op` is the code of Table 7.17 and `data` holds y then c). -/
  | remote (dev : BitVec 19) (core : BitVec 10) (tag : BitVec 64) (addr : BitVec 64) (op : BitVec 5) (data : List Byte)
deriving DecidableEq, Repr

/-- What arrives at a source port (R375): a packet of a stream over a link (0 host, 1 GXL), or an edge of a direct input or of
the reference source. -/
inductive Feed where
  | packet (link : BitVec 1) (stream : BitVec 32)
  | edge (source : BitVec 9)
deriving DecidableEq, Repr

/-- A step of a chunk in flight on a channel (R254): the chunk at CURSOR commits, or its accesses perform, or those of the
chunk behind it. -/
inductive ChunkStep where
  | commit (ch : BitVec 2)
  | move (ch : BitVec 2)
  | ahead (ch : BitVec 2)
deriving DecidableEq, Repr

/-- What stops a chunk on a channel: a check of its own accesses (R256), or another device that refuses them (R352). -/
inductive ChunkStop where
  | own (ch : BitVec 2)
  | refused (ch : BitVec 2)
deriving DecidableEq, Repr

/-- What the arrivals of a member on another device bring to a barrier completion (R74, R327): the device, the member, its
t(i) for a WORK phase that ends, and the C of its region. -/
structure Afar where
  dev : BitVec 19
  core : BitVec 10
  res : BitVec 1
  time : Nat
  c : BitVec 32
deriving DecidableEq, Repr

/-- A completion of a barrier at a scope: with the arrivals of all members on other devices (R70, R327). -/
structure BarEnd where
  scope : BitVec 3
  afar : List Afar
deriving DecidableEq, Repr

/-- A register of a stream, v24 + `n`, and the answer of the admission rule when its memory is another device's (R115, R352). -/
structure StreamMove where
  n : BitVec 3
  admitted : Bool
deriving DecidableEq, Repr

/-- The instructions: every row of the opcode table. -/
inductive Instr where
  /-- NOP (R143). All-zero SR word; does nothing. -/
  | nop
  /-- ADD (R161). Writes ga + gb to gd. -/
  | add (d : BitVec 6) (a : BitVec 6) (b : BitVec 6)
  /-- SUB (R161). Writes ga - gb to gd. -/
  | sub (d : BitVec 6) (a : BitVec 6) (b : BitVec 6)
  /-- AND (R161). Bitwise and of two registers. -/
  | and (d : BitVec 6) (a : BitVec 6) (b : BitVec 6)
  /-- OR (R161). Bitwise or of two registers. -/
  | or (d : BitVec 6) (a : BitVec 6) (b : BitVec 6)
  /-- XOR (R161). Bitwise exclusive or of two registers. -/
  | xor (d : BitVec 6) (a : BitVec 6) (b : BitVec 6)
  /-- ANDN (R161). Writes ga and not gb. -/
  | andn (d : BitVec 6) (a : BitVec 6) (b : BitVec 6)
  /-- SHL (R161). Shifts left by gb[5:0]. -/
  | shl (d : BitVec 6) (a : BitVec 6) (b : BitVec 6)
  /-- SHR (R161). Logical right shift. -/
  | shr (d : BitVec 6) (a : BitVec 6) (b : BitVec 6)
  /-- SRA (R161). Arithmetic right shift. -/
  | sra (d : BitVec 6) (a : BitVec 6) (b : BitVec 6)
  /-- ROL (R161). Rotates left. -/
  | rol (d : BitVec 6) (a : BitVec 6) (b : BitVec 6)
  /-- ROR (R161). Rotates right. -/
  | ror (d : BitVec 6) (a : BitVec 6) (b : BitVec 6)
  /-- MUL (R161). Low 64 bits of the product, after 3 cycles. -/
  | mul (d : BitVec 6) (a : BitVec 6) (b : BitVec 6)
  /-- MULH (R161). High 64 bits of the signed product. -/
  | mulh (d : BitVec 6) (a : BitVec 6) (b : BitVec 6)
  /-- MULHN (R161). High 64 bits of the unsigned product. -/
  | mulhn (d : BitVec 6) (a : BitVec 6) (b : BitVec 6)
  /-- DIV (R162). Signed division, 20 cycles. -/
  | div (d : BitVec 6) (a : BitVec 6) (b : BitVec 6)
  /-- DIVN (R162). Unsigned division. -/
  | divn (d : BitVec 6) (a : BitVec 6) (b : BitVec 6)
  /-- REM (R162). Signed remainder. -/
  | rem (d : BitVec 6) (a : BitVec 6) (b : BitVec 6)
  /-- REMN (R162). Unsigned remainder. -/
  | remn (d : BitVec 6) (a : BitVec 6) (b : BitVec 6)
  /-- MIN (R161). Signed minimum. -/
  | min (d : BitVec 6) (a : BitVec 6) (b : BitVec 6)
  /-- MAX (R161). Signed maximum. -/
  | max (d : BitVec 6) (a : BitVec 6) (b : BitVec 6)
  /-- MINN (R161). Unsigned minimum. -/
  | minn (d : BitVec 6) (a : BitVec 6) (b : BitVec 6)
  /-- MAXN (R161). Unsigned maximum. -/
  | maxn (d : BitVec 6) (a : BitVec 6) (b : BitVec 6)
  /-- CEQ (R161). 1 if equal, else 0. -/
  | ceq (d : BitVec 6) (a : BitVec 6) (b : BitVec 6)
  /-- CNE (R161). 1 if not equal. -/
  | cne (d : BitVec 6) (a : BitVec 6) (b : BitVec 6)
  /-- CLT (R161). 1 if signed less than. -/
  | clt (d : BitVec 6) (a : BitVec 6) (b : BitVec 6)
  /-- CLE (R161). 1 if signed less or equal. -/
  | cle (d : BitVec 6) (a : BitVec 6) (b : BitVec 6)
  /-- CLTN (R161). 1 if unsigned less than. -/
  | cltn (d : BitVec 6) (a : BitVec 6) (b : BitVec 6)
  /-- CLEN (R161). 1 if unsigned less or equal. -/
  | clen (d : BitVec 6) (a : BitVec 6) (b : BitVec 6)
  /-- SEL (R163). Selects ga or gb by the old gd. -/
  | sel (d : BitVec 6) (a : BitVec 6) (b : BitVec 6)
  /-- CLZ (R161). Counts leading zero bits. -/
  | clz (d : BitVec 6) (a : BitVec 6)
  /-- CTZ (R161). Counts trailing zero bits. -/
  | ctz (d : BitVec 6) (a : BitVec 6)
  /-- POPC (R161). Counts one bits. -/
  | popc (d : BitVec 6) (a : BitVec 6)
  /-- BREV (R161). Reverses bit order. -/
  | brev (d : BitVec 6) (a : BitVec 6)
  /-- BSWAP (R161). Reverses byte order. -/
  | bswap (d : BitVec 6) (a : BitVec 6)
  /-- EXTS (R163). Sign-extends the low w bits. -/
  | exts (d : BitVec 6) (a : BitVec 6) (w : BitVec 6)
  /-- EXTZ (R163). Zero-extends the low w bits. -/
  | extz (d : BitVec 6) (a : BitVec 6) (w : BitVec 6)
  /-- ADD_W (R161). 32-bit add, sign-extended. -/
  | addW (d : BitVec 6) (a : BitVec 6) (b : BitVec 6)
  /-- SUB_W (R161). 32-bit subtract, sign-extended. -/
  | subW (d : BitVec 6) (a : BitVec 6) (b : BitVec 6)
  /-- SHL_W (R161). 32-bit left shift. -/
  | shlW (d : BitVec 6) (a : BitVec 6) (b : BitVec 6)
  /-- SHR_W (R161). 32-bit logical right shift. -/
  | shrW (d : BitVec 6) (a : BitVec 6) (b : BitVec 6)
  /-- SRA_W (R161). 32-bit arithmetic right shift. -/
  | sraW (d : BitVec 6) (a : BitVec 6) (b : BitVec 6)
  /-- MUL_W (R161). 32-bit multiply, sign-extended. -/
  | mulW (d : BitVec 6) (a : BitVec 6) (b : BitVec 6)
  /-- DIV_W (R162). 32-bit signed division. -/
  | divW (d : BitVec 6) (a : BitVec 6) (b : BitVec 6)
  /-- DIVN_W (R162). 32-bit unsigned division. -/
  | divnW (d : BitVec 6) (a : BitVec 6) (b : BitVec 6)
  /-- REM_W (R162). 32-bit signed remainder. -/
  | remW (d : BitVec 6) (a : BitVec 6) (b : BitVec 6)
  /-- REMN_W (R162). 32-bit unsigned remainder. -/
  | remnW (d : BitVec 6) (a : BitVec 6) (b : BitVec 6)
  /-- ADDI (R164). Adds an immediate. -/
  | addi (d : BitVec 6) (a : BitVec 6) (i : Imm)
  /-- ANDI (R164). Ands an immediate. -/
  | andi (d : BitVec 6) (a : BitVec 6) (i : Imm)
  /-- ORI (R164). Ors an immediate. -/
  | ori (d : BitVec 6) (a : BitVec 6) (i : Imm)
  /-- XORI (R164). Exclusive-ors an immediate. -/
  | xori (d : BitVec 6) (a : BitVec 6) (i : Imm)
  /-- SHLI (R165). Shifts left by an immediate count. -/
  | shli (d : BitVec 6) (a : BitVec 6) (i : Imm)
  /-- SHRI (R165). Logical right shift by an immediate. -/
  | shri (d : BitVec 6) (a : BitVec 6) (i : Imm)
  /-- SRAI (R165). Arithmetic right shift by an immediate. -/
  | srai (d : BitVec 6) (a : BitVec 6) (i : Imm)
  /-- MULI (R164). Multiplies by an immediate. -/
  | muli (d : BitVec 6) (a : BitVec 6) (i : Imm)
  /-- CEQI (R164). 1 if equal to the immediate. -/
  | ceqi (d : BitVec 6) (a : BitVec 6) (i : Imm)
  /-- CLTI (R164). 1 if signed less than the immediate. -/
  | clti (d : BitVec 6) (a : BitVec 6) (i : Imm)
  /-- CLTNI (R164). 1 if unsigned less than the immediate. -/
  | cltni (d : BitVec 6) (a : BitVec 6) (i : Imm)
  /-- MOVHI (R165). Places immediate bits above x[36:0]. -/
  | movhi (d : BitVec 6) (a : BitVec 6) (i : Imm)
  /-- ADPC (R165). Writes pc plus the immediate. -/
  | adpc (d : BitVec 6) (i : Imm)
  /-- ADDWI (R164). 32-bit add of an immediate. -/
  | addwi (d : BitVec 6) (a : BitVec 6) (i : Imm)
  /-- BEQ (R167). Branches if equal. -/
  | beq (a : BitVec 6) (b : BitVec 6) (o : BitVec 11)
  /-- BNE (R167). Branches if not equal. -/
  | bne (a : BitVec 6) (b : BitVec 6) (o : BitVec 11)
  /-- BLT (R167). Branches if signed less. -/
  | blt (a : BitVec 6) (b : BitVec 6) (o : BitVec 11)
  /-- BGE (R167). Branches if signed greater or equal. -/
  | bge (a : BitVec 6) (b : BitVec 6) (o : BitVec 11)
  /-- BLTN (R167). Branches if unsigned less. -/
  | bltn (a : BitVec 6) (b : BitVec 6) (o : BitVec 11)
  /-- BGEN (R167). Branches if unsigned greater or equal. -/
  | bgen (a : BitVec 6) (b : BitVec 6) (o : BitVec 11)
  /-- JMP (R167). Jumps pc-relative. -/
  | jmp (o : BitVec 17)
  /-- JAL (R167). Jumps and links next into gd. -/
  | jal (d : BitVec 6) (o : BitVec 17)
  /-- JR (R167). Jumps to a register plus offset. -/
  | jr (a : BitVec 6) (o : BitVec 11)
  /-- JALR (R168). Register jump linking into gb. -/
  | jalr (a : BitVec 6) (b : BitVec 6) (o : BitVec 11)
  /-- LOOP (R169). Starts a hardware loop or skips the body. -/
  | loop (a : BitVec 6) (o : BitVec 11)
  /-- KNEXT (R61). Ends a kernel iteration; sequencer continues, chooses, switches or pre-empts. -/
  | knext
  /-- END (R61). Ends the task; sequencer chooses the next record. -/
  | endTask
  /-- TRAP (R172). Takes the precise TRAP trap after its bundle. -/
  | trap (d : BitVec 6) (o : BitVec 17)
  /-- SRR (R173). Reads a system register. -/
  | srr (d : BitVec 6) (s : BitVec 9)
  /-- SRW (R173). Writes a system register, returning the old value. -/
  | srw (d : BitVec 6) (a : BitVec 6) (s : BitVec 9)
  /-- SRS (R173). Sets bits of a system register. -/
  | srs (d : BitVec 6) (a : BitVec 6) (s : BitVec 9)
  /-- SRC (R173). Clears bits of a system register. -/
  | src (d : BitVec 6) (a : BitVec 6) (s : BitVec 9)
  /-- IDLE (R176). Holds issue until a wake event or the cycle count. -/
  | idle (d : BitVec 6) (a : BitVec 6)
  /-- DIGEST (R177). Folds memory words into the step digest. -/
  | digest (d : BitVec 6) (a : BitVec 6) (z : BitVec 1)
  /-- BREAK (R179). Acts as a TRAP with code 0x1FFFF. -/
  | brk
  /-- ERET (R358). Ends a handler, restores level and shadow, resumes reported copies. -/
  | eret
  /-- TLBI (R182). Invalidates translations by kind and stalls until done. -/
  | tlbi (a : BitVec 6) (k : BitVec 3)
  /-- SWCTX (R181). Ends the current residency slice. -/
  | swctx
  /-- FLUSHI (R181). Discards fetched bundles. -/
  | flushi
  /-- RETIME (R183). Posts a retime request to the region mailbox. -/
  | retime (d : BitVec 6) (a : BitVec 6) (r : BitVec 5)
  /-- MMA (R241). Queues a matrix multiply-accumulate from two rings. -/
  | mma (c : BitVec 3) (h : BitVec 4) (j : BitVec 4) (f : BitVec 3) (g : BitVec 3) (v : BitVec 2) (l : BitVec 1) (z : BitVec 1) (p : BitVec 1) (q : BitVec 1)
  /-- MMAS (R242). Queues a 2:4 sparse multiply-accumulate. -/
  | mmas (c : BitVec 3) (h : BitVec 4) (j : BitVec 4) (f : BitVec 3) (g : BitVec 3) (v : BitVec 2) (l : BitVec 1) (z : BitVec 1) (q : BitVec 1)
  /-- MMAG (R243). Queues a multiply with gathered B rows. -/
  | mmag (c : BitVec 3) (h : BitVec 4) (j : BitVec 2) (f : BitVec 3) (g : BitVec 3) (v : BitVec 1) (l : BitVec 1) (z : BitVec 1) (p : BitVec 1) (q : BitVec 1)
  /-- MHAD (R246). Queues a Hadamard pass of a tile. -/
  | mhad (c : BitVec 3) (h : BitVec 3) (n : BitVec 2)
  /-- MZERO (R247). Queues zeroing of a tile with a kind. -/
  | mzero (c : BitVec 3) (k : BitVec 2)
  /-- MDRAIN (R248). Drains a tile block into a vector register. -/
  | mdrain (c : BitVec 3) (h : BitVec 4) (j : BitVec 4) (f : BitVec 3) (k : BitVec 1) (u : BitVec 1) (w : BitVec 1) (r : BitVec 2) (d : BitVec 5)
  /-- MLOAD (R247). Queues a raw tile load from a ring slot. -/
  | mload (c : BitVec 3) (h : BitVec 4) (v : BitVec 1) (k : BitVec 2)
  /-- ECW (R250). Writes 64 bytes into an engine space. -/
  | ecw (a : BitVec 6) (b : BitVec 6)
  /-- ECR (R250). Reads an engine-space record into the vault. -/
  | ecr (a : BitVec 6) (b : BitVec 6)
  /-- CPY (R254). Queues a templated copy on a channel. -/
  | cpy (a : BitVec 6) (b : BitVec 6) (m : BitVec 2) (c : BitVec 2)
  /-- CPYX (R258). Cancels a channel's copy and waiting commands. -/
  | cpyx (a : BitVec 6) (c : BitVec 2)
  /-- GCFG (R244). Installs a gather configuration. -/
  | gcfg (a : BitVec 6) (s : BitVec 2)
  /-- CTBLK (R278). Declares a contact block. -/
  | ctblk (a : BitVec 6) (k : BitVec 4)
  /-- CTSNAP (R279). Thumbnails a tile and writes its sheet bit. -/
  | ctsnap (a : BitVec 6) (k : BitVec 4)
  /-- CTQRY (R280). Returns sheet bits or block status. -/
  | ctqry (a : BitVec 6) (b : BitVec 6) (k : BitVec 4)
  /-- CTSTEP (R280). Commits pending thumbnails of unskipped tiles. -/
  | ctstep (k : BitVec 4)
  /-- CTCLR (R280). Clears sheet bits and optionally valid bits. -/
  | ctclr (a : BitVec 6) (k : BitVec 4)
  /-- CTSAVE (R281). Writes the contact state image. -/
  | ctsave (a : BitVec 6)
  /-- CTLOAD (R281). Loads the contact state image. -/
  | ctload (a : BitVec 6)
  /-- KVCOMMIT (R260). Moves accepted draft rows and commits the KV length. -/
  | kvcommit (a : BitVec 6) (b : BitVec 6) (c : BitVec 2)
  /-- KVRESET (R261). Rewrites LEN and DN of a KV descriptor. -/
  | kvreset (a : BitVec 6) (b : BitVec 6) (c : BitVec 2)
  /-- XBIND (R284). Binds or unbinds a crossing end. -/
  | xbind (a : BitVec 6) (b : BitVec 6)
  /-- XSTAT (R287). Returns a crossing channel status word. -/
  | xstat (a : BitVec 6) (b : BitVec 6)
  /-- RCFG (R262). Configures a ring and resets its indices. -/
  | rcfg (a : BitVec 6) (b : BitVec 6) (r : BitVec 4)
  /-- RRST (R262). Resets a ring's indices. -/
  | rrst (r : BitVec 4)
  /-- HCFG (R263). Installs a hoist descriptor, disarmed. -/
  | hcfg (a : BitVec 6) (k : BitVec 5)
  /-- HARM (R263). Arms or disarms a hoist. -/
  | harm (a : BitVec 6) (k : BitVec 5)
  /-- HREAD (R263). Returns a hoist's count and reach count. -/
  | hread (a : BitVec 6) (b : BitVec 6) (k : BitVec 5)
  /-- VADD (R188). Lane-wise add. -/
  | vadd (f : BitVec 3) (m : BitVec 3) (d : BitVec 5) (a : BitVec 5) (b : BitVec 5)
  /-- VSUB (R188). Lane-wise subtract. -/
  | vsub (f : BitVec 3) (m : BitVec 3) (d : BitVec 5) (a : BitVec 5) (b : BitVec 5)
  /-- VMUL (R188). Lane-wise multiply. -/
  | vmul (f : BitVec 3) (m : BitVec 3) (d : BitVec 5) (a : BitVec 5) (b : BitVec 5)
  /-- VFMA (R189). Fused a*b + d. -/
  | vfma (f : BitVec 3) (m : BitVec 3) (d : BitVec 5) (a : BitVec 5) (b : BitVec 5)
  /-- VFMS (R189). Fused a*b - d. -/
  | vfms (f : BitVec 3) (m : BitVec 3) (d : BitVec 5) (a : BitVec 5) (b : BitVec 5)
  /-- VFNMA (R189). Fused -(a*b) + d. -/
  | vfnma (f : BitVec 3) (m : BitVec 3) (d : BitVec 5) (a : BitVec 5) (b : BitVec 5)
  /-- VMIN (R189). Lane-wise minimum. -/
  | vmin (f : BitVec 3) (m : BitVec 3) (d : BitVec 5) (a : BitVec 5) (b : BitVec 5)
  /-- VMAX (R189). Lane-wise maximum. -/
  | vmax (f : BitVec 3) (m : BitVec 3) (d : BitVec 5) (a : BitVec 5) (b : BitVec 5)
  /-- VABS (R189). Lane-wise absolute value. -/
  | vabs (f : BitVec 3) (m : BitVec 3) (d : BitVec 5) (a : BitVec 5)
  /-- VNEG (R189). Lane-wise negation. -/
  | vneg (f : BitVec 3) (m : BitVec 3) (d : BitVec 5) (a : BitVec 5)
  /-- VAND (R192). Bitwise and of lanes. -/
  | vand (f : BitVec 3) (m : BitVec 3) (d : BitVec 5) (a : BitVec 5) (b : BitVec 5)
  /-- VOR (R192). Bitwise or of lanes. -/
  | vor (f : BitVec 3) (m : BitVec 3) (d : BitVec 5) (a : BitVec 5) (b : BitVec 5)
  /-- VXOR (R192). Bitwise exclusive or of lanes. -/
  | vxor (f : BitVec 3) (m : BitVec 3) (d : BitVec 5) (a : BitVec 5) (b : BitVec 5)
  /-- VNOT (R192). Bitwise not of lanes. -/
  | vnot (f : BitVec 3) (m : BitVec 3) (d : BitVec 5) (a : BitVec 5)
  /-- VSHL (R188). Lane-wise left shift. -/
  | vshl (f : BitVec 3) (m : BitVec 3) (d : BitVec 5) (a : BitVec 5) (b : BitVec 5)
  /-- VSHR (R188). Lane-wise logical right shift. -/
  | vshr (f : BitVec 3) (m : BitVec 3) (d : BitVec 5) (a : BitVec 5) (b : BitVec 5)
  /-- VSRA (R188). Lane-wise arithmetic right shift. -/
  | vsra (f : BitVec 3) (m : BitVec 3) (d : BitVec 5) (a : BitVec 5) (b : BitVec 5)
  /-- VMOV (R192). Copies a register; consumes or fills a bound stream, with crossing fills. -/
  | vmov (f : BitVec 3) (m : BitVec 3) (d : BitVec 5) (a : BitVec 5)
  /-- VSEL (R192). Selects lanes of a or b by mask. -/
  | vsel (f : BitVec 3) (m : BitVec 3) (d : BitVec 5) (a : BitVec 5) (b : BitVec 5)
  /-- VCEQ (R191). Writes equality bits to a mask. -/
  | vceq (f : BitVec 3) (m : BitVec 3) (d : BitVec 5) (a : BitVec 5) (b : BitVec 5)
  /-- VCNE (R191). Writes inequality bits to a mask. -/
  | vcne (f : BitVec 3) (m : BitVec 3) (d : BitVec 5) (a : BitVec 5) (b : BitVec 5)
  /-- VCLT (R191). Writes less-than bits to a mask. -/
  | vclt (f : BitVec 3) (m : BitVec 3) (d : BitVec 5) (a : BitVec 5) (b : BitVec 5)
  /-- VCLE (R191). Writes less-or-equal bits to a mask. -/
  | vcle (f : BitVec 3) (m : BitVec 3) (d : BitVec 5) (a : BitVec 5) (b : BitVec 5)
  /-- VSCALEB (R193). Scales lanes by 2^k exactly. -/
  | vscaleb (f : BitVec 3) (m : BitVec 3) (d : BitVec 5) (a : BitVec 5) (b : BitVec 5)
  /-- VEXPO (R193). Writes the integer exponent of lanes. -/
  | vexpo (f : BitVec 3) (m : BitVec 3) (d : BitVec 5) (a : BitVec 5)
  /-- VCVT (R195). Converts lanes between formats. -/
  | vcvt (f : BitVec 3) (m : BitVec 3) (d : BitVec 5) (a : BitVec 5) (p : BitVec 2) (s : BitVec 3)
  /-- VCVTS (R196). Converts with stochastic rounding. -/
  | vcvts (f : BitVec 3) (m : BitVec 3) (d : BitVec 5) (a : BitVec 5) (p : BitVec 2) (s : BitVec 3)
  /-- VRMAX (R197). Row maxima. -/
  | vrmax (f : BitVec 3) (m : BitVec 3) (d : BitVec 5) (a : BitVec 5)
  /-- VRMIN (R197). Row minima. -/
  | vrmin (f : BitVec 3) (m : BitVec 3) (d : BitVec 5) (a : BitVec 5)
  /-- VRSUM (R198). Row sums, rounded once. -/
  | vrsum (f : BitVec 3) (m : BitVec 3) (d : BitVec 5) (a : BitVec 5)
  /-- VRSSQ (R198). Row sums of squares. -/
  | vrssq (f : BitVec 3) (m : BitVec 3) (d : BitVec 5) (a : BitVec 5)
  /-- VRAMAX (R197). Row maximum magnitudes. -/
  | vramax (f : BitVec 3) (m : BitVec 3) (d : BitVec 5) (a : BitVec 5)
  /-- VRARG (R197). Row argmax columns. -/
  | vrarg (f : BitVec 3) (m : BitVec 3) (d : BitVec 5) (a : BitVec 5)
  /-- VCSUM (R199). Column sums. -/
  | vcsum (f : BitVec 3) (m : BitVec 3) (d : BitVec 5) (a : BitVec 5)
  /-- VSCAN (R199). Inclusive row prefix sums. -/
  | vscan (f : BitVec 3) (m : BitVec 3) (d : BitVec 5) (a : BitVec 5)
  /-- VBROW (R200). Broadcasts a row vector. -/
  | vbrow (f : BitVec 3) (m : BitVec 3) (d : BitVec 5) (a : BitVec 5)
  /-- VBCOL (R200). Broadcasts a column vector. -/
  | vbcol (f : BitVec 3) (m : BitVec 3) (d : BitVec 5) (a : BitVec 5)
  /-- VSPLAT (R200). Fills every lane from a scalar register. -/
  | vsplat (f : BitVec 3) (m : BitVec 3) (d : BitVec 5) (a : BitVec 5)
  /-- VINS (R200). Inserts a scalar into one lane. -/
  | vins (f : BitVec 3) (d : BitVec 5) (a : BitVec 5) (b : BitVec 5)
  /-- VEXT (R200). Extracts one lane into a scalar register. -/
  | vext (f : BitVec 3) (d : BitVec 5) (a : BitVec 5) (b : BitVec 5)
  /-- VPERM (R200). Permutes lanes by index. -/
  | vperm (f : BitVec 3) (m : BitVec 3) (d : BitVec 5) (a : BitVec 5) (b : BitVec 5)
  /-- VTRANS (R200). Transposes the register tile. -/
  | vtrans (f : BitVec 3) (m : BitVec 3) (d : BitVec 5) (a : BitVec 5)
  /-- VIOTA (R200). Writes lane indices. -/
  | viota (f : BitVec 3) (m : BitVec 3) (d : BitVec 5)
  /-- VRAND (R201). Fills lanes with hashed random bits. -/
  | vrand (f : BitVec 3) (m : BitVec 3) (d : BitVec 5) (a : BitVec 5)
  /-- VOXD (R202). Decodes OX4 blocks into lanes. -/
  | voxd (f : BitVec 3) (m : BitVec 3) (d : BitVec 5) (a : BitVec 5) (b : BitVec 5)
  /-- VOXE (R203). Encodes lanes into OX4 blocks. -/
  | voxe (f : BitVec 3) (d : BitVec 5) (a : BitVec 5) (b : BitVec 5)
  /-- MAND (R204). Mask and. -/
  | mand (d : BitVec 5) (a : BitVec 5) (b : BitVec 5)
  /-- MOR (R204). Mask or. -/
  | mor (d : BitVec 5) (a : BitVec 5) (b : BitVec 5)
  /-- MXOR (R204). Mask exclusive or. -/
  | mxor (d : BitVec 5) (a : BitVec 5) (b : BitVec 5)
  /-- MNOT (R204). Mask not. -/
  | mnot (d : BitVec 5) (a : BitVec 5)
  /-- MPOPC (R204). Counts mask bits into a scalar. -/
  | mpopc (f : BitVec 3) (d : BitVec 5) (a : BitVec 5)
  /-- VTREE (R205). Builds a tree attention bias. -/
  | vtree (f : BitVec 3) (m : BitVec 3) (d : BitVec 5) (a : BitVec 5) (b : BitVec 5)
  /-- PPINIT (R269). Sets a polynomial to 1. -/
  | ppinit (d : BitVec 5)
  /-- PPDEG (R269). Sets the degree bound and renormalises. -/
  | ppdeg (d : BitVec 5) (a : BitVec 5)
  /-- PPMUL (R270). Multiplies in one linear factor per active lane. -/
  | ppmul (f : BitVec 3) (m : BitVec 3) (d : BitVec 5) (a : BitVec 5) (b : BitVec 5)
  /-- PPDIV (R271). Deflates one linear factor. -/
  | ppdiv (f : BitVec 3) (m : BitVec 3) (d : BitVec 5) (a : BitVec 5) (b : BitVec 5)
  /-- PPRD (R273). Reads coefficients into lanes. -/
  | pprd (f : BitVec 3) (m : BitVec 3) (d : BitVec 5) (a : BitVec 5) (b : BitVec 5)
  /-- PPSCALE (R269). Scales a polynomial by 2^s. -/
  | ppscale (d : BitVec 5) (a : BitVec 5)
  /-- PPSTAT (R273). Returns the polynomial status word. -/
  | ppstat (d : BitVec 5) (a : BitVec 5)
  /-- FEXP2 (R206). 2^x per lane. -/
  | fexp2 (f : BitVec 3) (m : BitVec 3) (d : BitVec 5) (a : BitVec 5)
  /-- FEXP2M (R207). 2^(x - m) with a row exponent. -/
  | fexp2m (f : BitVec 3) (m : BitVec 3) (d : BitVec 5) (a : BitVec 5) (b : BitVec 5)
  /-- FLOG2 (R206). log2 x per lane. -/
  | flog2 (f : BitVec 3) (m : BitVec 3) (d : BitVec 5) (a : BitVec 5)
  /-- FRCP (R206). Reciprocal per lane. -/
  | frcp (f : BitVec 3) (m : BitVec 3) (d : BitVec 5) (a : BitVec 5)
  /-- FRSQ (R206). Reciprocal square root. -/
  | frsq (f : BitVec 3) (m : BitVec 3) (d : BitVec 5) (a : BitVec 5)
  /-- FSQRT (R206). Square root. -/
  | fsqrt (f : BitVec 3) (m : BitVec 3) (d : BitVec 5) (a : BitVec 5)
  /-- FSIN (R206). Sine. -/
  | fsin (f : BitVec 3) (m : BitVec 3) (d : BitVec 5) (a : BitVec 5)
  /-- FCOS (R206). Cosine. -/
  | fcos (f : BitVec 3) (m : BitVec 3) (d : BitVec 5) (a : BitVec 5)
  /-- FTANH (R206). Hyperbolic tangent. -/
  | ftanh (f : BitVec 3) (m : BitVec 3) (d : BitVec 5) (a : BitVec 5)
  /-- FSIGM (R206). Logistic sigmoid. -/
  | fsigm (f : BitVec 3) (m : BitVec 3) (d : BitVec 5) (a : BitVec 5)
  /-- FERF (R206). Error function. -/
  | ferf (f : BitVec 3) (m : BitVec 3) (d : BitVec 5) (a : BitVec 5)
  /-- FSILU (R206). SiLU. -/
  | fsilu (f : BitVec 3) (m : BitVec 3) (d : BitVec 5) (a : BitVec 5)
  /-- LDB (R208). Loads a sign-extended byte. -/
  | ldb (d : BitVec 6) (a : BitVec 6) (o : BitVec 10)
  /-- LDH (R208). Loads a sign-extended halfword. -/
  | ldh (d : BitVec 6) (a : BitVec 6) (o : BitVec 10)
  /-- LDW (R208). Loads a sign-extended word. -/
  | ldw (d : BitVec 6) (a : BitVec 6) (o : BitVec 10)
  /-- LDD (R209). Loads 8 bytes. -/
  | ldd (d : BitVec 6) (a : BitVec 6) (o : BitVec 10)
  /-- LDBN (R208). Loads a zero-extended byte. -/
  | ldbn (d : BitVec 6) (a : BitVec 6) (o : BitVec 10)
  /-- LDHN (R208). Loads a zero-extended halfword. -/
  | ldhn (d : BitVec 6) (a : BitVec 6) (o : BitVec 10)
  /-- LDWN (R208). Loads a zero-extended word. -/
  | ldwn (d : BitVec 6) (a : BitVec 6) (o : BitVec 10)
  /-- STB (R208). Stores a byte. -/
  | stb (d : BitVec 6) (a : BitVec 6) (o : BitVec 10)
  /-- STH (R208). Stores a halfword. -/
  | sth (d : BitVec 6) (a : BitVec 6) (o : BitVec 10)
  /-- STW (R208). Stores a word. -/
  | stw (d : BitVec 6) (a : BitVec 6) (o : BitVec 10)
  /-- STD (R209). Stores 8 bytes; a copy aperture store starts a copy. -/
  | std (d : BitVec 6) (a : BitVec 6) (o : BitVec 10)
  /-- VLD (R210). Loads a vector register in segments. -/
  | vld (d : BitVec 5) (a : BitVec 6) (o : BitVec 10)
  /-- VST (R210). Stores a vector register in segments. -/
  | vst (d : BitVec 5) (a : BitVec 6) (o : BitVec 10)
  /-- VLDX (R211). Indexed granule load into a vector register. -/
  | vldx (d : BitVec 5) (a : BitVec 6) (o : BitVec 10)
  /-- LDF (R212). LDD that returns 0 and invalid instead of a translation trap. -/
  | ldf (d : BitVec 6) (a : BitVec 6) (o : BitVec 10)
  /-- PPSAVE (R274). Writes a polynomial image to memory. -/
  | ppsave (d : BitVec 3) (a : BitVec 6) (o : BitVec 10)
  /-- PPLOAD (R274). Loads a polynomial image from memory. -/
  | ppload (d : BitVec 3) (a : BitVec 6) (o : BitVec 10)
  /-- AADD (R215). Atomic add. -/
  | aadd (d : BitVec 6) (a : BitVec 6) (b : BitVec 6) (s : BitVec 3) (r : BitVec 1)
  /-- AMIN (R215). Atomic signed minimum. -/
  | amin (d : BitVec 6) (a : BitVec 6) (b : BitVec 6) (s : BitVec 3) (r : BitVec 1)
  /-- AMAX (R215). Atomic signed maximum. -/
  | amax (d : BitVec 6) (a : BitVec 6) (b : BitVec 6) (s : BitVec 3) (r : BitVec 1)
  /-- AMINN (R215). Atomic unsigned minimum. -/
  | aminn (d : BitVec 6) (a : BitVec 6) (b : BitVec 6) (s : BitVec 3) (r : BitVec 1)
  /-- AMAXN (R215). Atomic unsigned maximum. -/
  | amaxn (d : BitVec 6) (a : BitVec 6) (b : BitVec 6) (s : BitVec 3) (r : BitVec 1)
  /-- AAND (R215). Atomic and. -/
  | aand (d : BitVec 6) (a : BitVec 6) (b : BitVec 6) (s : BitVec 3) (r : BitVec 1)
  /-- AOR (R215). Atomic or. -/
  | aor (d : BitVec 6) (a : BitVec 6) (b : BitVec 6) (s : BitVec 3) (r : BitVec 1)
  /-- AXOR (R215). Atomic exclusive or. -/
  | axor (d : BitVec 6) (a : BitVec 6) (b : BitVec 6) (s : BitVec 3) (r : BitVec 1)
  /-- ASWAP (R215). Atomic swap. -/
  | aswap (d : BitVec 6) (a : BitVec 6) (b : BitVec 6) (s : BitVec 3) (r : BitVec 1)
  /-- ACAS (R215). Atomic compare and swap. -/
  | acas (d : BitVec 6) (a : BitVec 6) (b : BitVec 6) (s : BitVec 3) (r : BitVec 1)
  /-- AGTS (R215). Atomic store if signed greater. -/
  | agts (d : BitVec 6) (a : BitVec 6) (b : BitVec 6) (s : BitVec 3) (r : BitVec 1)
  /-- AGTSN (R215). Atomic store if unsigned greater. -/
  | agtsn (d : BitVec 6) (a : BitVec 6) (b : BitVec 6) (s : BitVec 3) (r : BitVec 1)
  /-- AVSWAP (R215). Atomic versioned swap. -/
  | avswap (d : BitVec 6) (a : BitVec 6) (b : BitVec 6) (s : BitVec 3) (r : BitVec 1)
  /-- ATAGSWAP (R215). Atomic tagged compare and swap. -/
  | atagswap (d : BitVec 6) (a : BitVec 6) (b : BitVec 6) (s : BitVec 3) (r : BitVec 1)
  /-- AFADD (R215). Atomic FP32 add. -/
  | afadd (d : BitVec 6) (a : BitVec 6) (b : BitVec 6) (s : BitVec 3) (r : BitVec 1)
  /-- LDACQ (R213). Acquire load of 8 bytes. -/
  | ldacq (d : BitVec 6) (a : BitVec 6) (s : BitVec 3)
  /-- STREL (R213). Release store of 8 bytes. -/
  | strel (a : BitVec 6) (b : BitVec 6) (s : BitVec 3)
  /-- FENCE (R218). Writes a fence token covering earlier accesses. -/
  | fence (a : BitVec 6) (m : BitVec 4) (s : BitVec 3)
  /-- FWAIT (R219). Stalls until a token's accesses have performed. -/
  | fwait (a : BitVec 6) (k : BitVec 5)
  /-- BAR (R220). Arrives at a barrier and waits for completion. -/
  | bar (a : BitVec 6) (s : BitVec 3) (k : BitVec 5)
  /-- BARA (R220). Arrives at a barrier without waiting. -/
  | bara (a : BitVec 6) (s : BitVec 3)
  /-- BARW (R220). Waits for the phase count to change. -/
  | barw (a : BitVec 6) (s : BitVec 3) (k : BitVec 5)
  /-- BARQ (R220). Returns the phase count of an instance. -/
  | barq (a : BitVec 6) (s : BitVec 3)
  /-- SBAR (R221). Orders stream classes. -/
  | sbar (c : BitVec 3)
  /-- HWAIT (R222). Waits for a hoist reach count. -/
  | hwait (a : BitVec 6) (h : BitVec 5) (k : BitVec 5)
  /-- RWAIT (R223). Waits for full or free ring slots. -/
  | rwait (a : BitVec 6) (h : BitVec 4) (f : BitVec 1) (k : BitVec 5)
  /-- RADVP (R224). Marks ring slots FULL and advances P. -/
  | radvp (h : BitVec 4) (n : BitVec 9)
  /-- RADVC (R224). Marks ring slots EMPTY and advances Q. -/
  | radvc (h : BitVec 4) (n : BitVec 9)
  /-- ENQ (R226). Sends a packet to a queue. -/
  | enq (a : BitVec 6) (b : BitVec 6)
  /-- DEQ (R227). Takes the head packet of an own queue. -/
  | deq (a : BitVec 6) (b : BitVec 6)
  /-- QWAIT (R227). Waits for a queue to hold a packet. -/
  | qwait (a : BitVec 6) (k : BitVec 5)
  /-- STBIND (R228). Binds a vector register to a stream. -/
  | stbind (a : BitVec 6) (w : BitVec 1) (n : BitVec 3)
  /-- STUNB (R230). Unbinds a stream register. -/
  | stunb (n : BitVec 3)
  /-- PENN (R231). Writes a pennant as a release. -/
  | penn (a : BitVec 6) (b : BitVec 6) (s : BitVec 3)
  /-- RESIDENCY_SWITCH (R325). Hands the core to the other context after polynomials go idle. -/
  | residencySwitch (core : BitVec 10)
  /-- IDLE_CORE_DISPATCH (R324). An idle core starts a newly ready record. -/
  | idleCoreDispatch (core : BitVec 10)
  /-- IDLE_TIMEOUT (R176). IDLE ends when its cycle count elapses. -/
  | idleTimeout (core : BitVec 10)
  /-- PERIOD_BOUNDARY (R13). Region boundary: counters advance and complete schedules restart. -/
  | periodBoundary (region : BitVec 5)
  /-- SAMPLE_ARRIVAL (R376). A packet or input edge arrives at a source port: of a packet, the IEEE 1588 time at which its first
  sample falls due and its samples; an edge has neither. `freq` is the frequency measured with it, in mHz. -/
  | sampleArrival (source : Feed) (time : BitVec 64) (freq : Nat) (value : List (BitVec 32))
  /-- MISSED_SAMPLE_TIME (R16). A sample time finds the elastic empty and is filled. -/
  | missedSampleTime (region : BitVec 5)
  /-- REGION_RESUMPTION (R378). A relocked region resumes and adjusts $gap and $period. -/
  | regionResumption (region : BitVec 5)
  /-- OUTPUT_SAMPLE_TIME (R229). The port sends one output sample or a fill. -/
  | outputSampleTime (region : BitVec 5)
  /-- RAIL_SWITCH_END (R384). A rail switch completes and MOVE clears. -/
  | railSwitchEnd (region : BitVec 5)
  /-- ENERGY_BUCKET_UPDATE (R388). Microsecond update of the energy bucket and GRANT. -/
  | energyBucketUpdate (power : BitVec 16)
  /-- BALLAST_PASS (R391). The controller runs a ballast pass to limit current slope. -/
  | ballastPass (core : BitVec 10)
  /-- HOIST_REACH (R119). A hoist reaches its total, performs its action and rearms. -/
  | hoistReach (core : BitVec 10) (res : BitVec 1) (k : BitVec 5)
  /-- PENDING_SLOT_ACTION_RELEASE (R114). Pending slot actions perform after Q advances or a ring reset. -/
  | pendingSlotActionRelease (core : BitVec 10) (res : BitVec 1) (h : BitVec 4)
  /-- BARRIER_COMPLETION (R70). All members arrived and released; the phase count rises. -/
  | barrierCompletion (core : BitVec 10) (res : BitVec 1) (scope : BarEnd)
  /-- REGISTER_DATA_ARRIVAL (R103). Data for a busy register arrives and clears the busy bit. -/
  | registerDataArrival (msg : Nat)
  /-- WAIT_LIMIT_EXPIRY (R217). A stall's cycle limit expires. -/
  | waitLimitExpiry (core : BitVec 10)
  /-- MATRIX_COMMAND_START (R239). A queued matrix command starts once its rings are FULL. -/
  | matrixCommandStart (core : BitVec 10)
  /-- MATRIX_COMMAND_END (R239). A matrix command ends, clears busy and raises flags. -/
  | matrixCommandEnd (core : BitVec 10)
  /-- MATRIX_WAIT_LIMIT_EXPIRY (R240). A matrix ring wait expires and later commands are discarded. -/
  | matrixWaitLimitExpiry (core : BitVec 10)
  /-- COPY_BEGIN (R254). A copy or KV command begins on an idle channel. -/
  | copyBegin (core : BitVec 10) (ch : BitVec 2)
  /-- CHUNK_COMMIT (R254). A copy chunk commits, is counted and sets W tags. -/
  | chunkCommit (core : BitVec 10) (ch : ChunkStep)
  /-- COPY_CHUNK_FAULT (R256). A chunk fault suspends the copy. -/
  | copyChunkFault (core : BitVec 10) (ch : ChunkStop)
  /-- COPY_COMPLETION_ACTION (R256). Source-released or visible action is written. -/
  | copyCompletionAction (core : BitVec 10) (ch : BitVec 2)
  /-- WATERMARK_WAIT_LIMIT_EXPIRY (R257). A watermark wait expires and the copy suspends. -/
  | watermarkWaitLimitExpiry (core : BitVec 10) (ch : BitVec 2)
  /-- COPY_CANCEL_COMPLETE (R258). A cancelled channel returns IDLE and answers CPYX. -/
  | copyCancelComplete (core : BitVec 10) (ch : BitVec 2)
  /-- APERTURE_COMMAND_ARRIVAL (R232). A store from another agent to a copy aperture starts a copy. -/
  | apertureCommandArrival (core : BitVec 10) (off : BitVec 12) (value : BitVec 64)
  /-- CONTACT_COMMAND_START (R277). A queued contact command starts. -/
  | contactCommandStart (core : BitVec 10)
  /-- STREAM_TRANSFER (R115). A stream transfer unit moves one register of data. -/
  | streamTransfer (core : BitVec 10) (res : BitVec 1) (n : StreamMove)
  /-- FABRIC_WRITE (R101). A store or engine write arrives through the fabric port. -/
  | fabricWrite (arrival : Arrival)
  /-- FABRIC_ATOMIC (R216). An atomic arrives as a message and executes at its site. -/
  | fabricAtomic (arrival : Arrival)
  /-- FABRIC_READ (R103). A lateral or far read is served at its target. -/
  | fabricRead (arrival : Arrival)
  /-- ENQUEUE_REQUEST (R226). A packet reaches a queue and is accepted or refused. -/
  | enqueueRequest (msg : Nat)
  /-- LAUNCH_PACKET_TAKE (R310). The launch unit takes a packet and writes tables. -/
  | launchPacketTake (region : BitVec 5)
  /-- LAUNCH_COMPLETION (R312). All records done and effects performed; completion pennant. -/
  | launchCompletion (lid : BitVec 64)
  /-- HOST_WINDOW_SUBMIT (R315). A submit write enqueues the staged packet. -/
  | hostWindowSubmit (w : BitVec 6) (handle : BitVec 64)
  /-- QUEUE_ENABLE (R307). A queue entry commit sets EN. -/
  | queueEnable (q : BitVec 13) (word : BitVec 64)
  /-- QUEUE_DISABLE (R307). A queue entry commit clears EN. -/
  | queueDisable (q : BitVec 13) (word : BitVec 64)
  /-- QUEUE_SWAP_OUT (R307). A commit sets SWAP and moves the queue to its mirror. -/
  | queueSwapOut (q : BitVec 13) (word : BitVec 64)
  /-- QUEUE_SWAP_IN (R307). A commit clears SWAP and copies packets back. -/
  | queueSwapIn (q : BitVec 13) (word : BitVec 64)
  /-- QUEUE_GENERATION_CHANGE (R307). A commit changes GEN, staling old handles. -/
  | queueGenerationChange (q : BitVec 13) (word : BitVec 64)
  /-- HBM_STACK_FAILURE (R318). An HBM stack fails and its queues run from the other mirror. -/
  | hbmStackFailure (stack : BitVec 4)
  /-- PREEMPT_SAVE (R329). A SAVE request commits. -/
  | preemptSave (core : BitVec 10) (word : BitVec 64)
  /-- SAVE_COMPLETE (R329). The energy word performs and STATE becomes SAVED. -/
  | saveComplete (core : BitVec 10)
  /-- PREEMPT_RESTORE (R335). A RESTORE request commits and reads the image. -/
  | preemptRestore (core : BitVec 10) (word : BitVec 64)
  /-- RESTORE_COMPLETE (R335). The image is taken and STATE becomes RESUMED. -/
  | restoreComplete (core : BitVec 10)
  /-- PARTITION_ENTRY_COMMIT (R349). A partition entry is committed or refused. -/
  | partitionEntryCommit (p : BitVec 3) (word : BitVec 64)
  /-- CLUSTER_ENTRY_COMMIT (R373). A cluster entry changes region membership. -/
  | clusterEntryCommit (k : BitVec 7) (word : BitVec 64)
  /-- SOURCE_ENABLE (R374). Setting EN puts the region's source in LOCKING. -/
  | sourceEnable (region : BitVec 5) (word : BitVec 64)
  /-- SOURCE_DISABLE (R374). Clearing EN puts the source in OFF. -/
  | sourceDisable (region : BitVec 5) (word : BitVec 64)
  /-- RATE_ENTRY_COMMIT (R375). A source rate entry is committed or refused. -/
  | rateEntryCommit (source : BitVec 9) (word : BitVec 64)
  /-- CROSSING_ENABLE (R381). Setting EN configures a crossing unit. -/
  | crossingEnable (u : BitVec 6) (word : BitVec 64)
  /-- CROSSING_DISABLE (R381). Clearing EN unconfigures a crossing unit. -/
  | crossingDisable (u : BitVec 6) (word : BitVec 64)
  /-- REGION_STATUS_CLEAR (R380). Host clears sticky event bits of a region status entry. -/
  | regionStatusClear (region : BitVec 5) (word : BitVec 64)
  /-- POWER_ENTRY_COMMIT (R389). The package power thresholds are committed or refused. -/
  | powerEntryCommit (word : BitVec 64)
  /-- REPLICA_RELEASE (R372). Performs held pennants after a mismatch. -/
  | replicaRelease (p : BitVec 3)
  /-- REPLICA_DISCARD (R372). Drops held and later pennants of the launch. -/
  | replicaDiscard (p : BitVec 3)
  /-- REPLICA_DIGEST_ARRIVAL (R372). The peer's step digest arrives and is compared. -/
  | replicaDigestArrival (p : BitVec 3) (digest : BitVec 128) (step : BitVec 32)
  /-- REPLICA_DIGEST_TIMEOUT (R372). No peer digest within LIMIT is a mismatch. -/
  | replicaDigestTimeout (p : BitVec 3)
  /-- LOADER_LOAD (R405). A LOAD action starts loading an image. -/
  | loaderLoad (p : BitVec 3) (word : BitVec 64)
  /-- LOADER_UNLOAD (R405). An UNLOAD action frees an image. -/
  | loaderUnload (p : BitVec 3) (word : BitVec 64)
  /-- LOAD_DONE (R405). The load finishes and STATUS takes its code. -/
  | loadDone (p : BitVec 3)
  /-- CONSTANT_STORE_WRITE (R108). A BAR0 write to the constant store, refused for a bound crossing table. -/
  | constantStoreWrite (off : BitVec 24) (value : BitVec 64)
  /-- BAR4_ACCESS (R398). A host access through the BAR4 memory window. -/
  | bar4Access (off : BitVec 40) (data : List Byte)
  /-- REGISTER_WRITE (R399). A BAR0 write to an entry with no row of its own, staged or committed. -/
  | registerWrite (off : BitVec 26) (value : BitVec 64)
  /-- FIRMWARE_START (R406). FWCTL START checks the firmware and begins TRAINING. -/
  | firmwareStart (word : BitVec 64)
  /-- PERST (R407). PERST# or link loss returns the device to RESET. -/
  | perst (asserted : Bool)
  /-- TRAINING_DONE (R406). HBM, GXL and CXL training completes. -/
  | trainingDone (trained : BitVec 12) (cxl : List (BitVec 43))
  /-- TAGS_DONE (R406). Vault words and tags are cleared. -/
  | tagsDone
  /-- SELFTEST_DONE (R406). SRAM and engine tests complete. -/
  | selftestDone (pass : Bool)
  /-- LOCKING_DONE (R406). Reference lock completes; READY pennant is written. -/
  | lockingDone (pass : Bool)
  /-- CXL_EXPANDER_LOSS (R400). A CXL expander is lost while running. -/
  | cxlExpanderLoss (port : BitVec 2) (lo : BitVec 42) (hi : BitVec 43)
  /-- GXL_PORT_FAILURE (R401). A GXL port fails and its traffic is replayed. -/
  | gxlPortFailure (port : BitVec 6)
  /-- SCRUB_READ (R368). The vault controller scrubs one word. -/
  | scrubRead (core : BitVec 10) (word : BitVec 19)
  /-- POWER_LOSS (R408). The device supplies go down, losing HBM contents and so the queue directory and mirrors. -/
  | powerLoss
  /-- MIRROR_COPY_COMPLETE (R318). Firmware finishes copying a surviving queue mirror to a new stack, and acceptance resumes. -/
  | mirrorCopyComplete (stack : BitVec 4) (fresh : BitVec 4)
  /-- SWAP_IN_COPY_COMPLETE (R307). The copy of packets from the first mirror back into the vault image ends, and the queue answers enqueues again. -/
  | swapInCopyComplete (q : BitVec 13)
  /-- PACKET_STAGING_WRITE (R314). A host write to a producer window's 64-byte packet staging buffer in BAR2. -/
  | packetStagingWrite (w : BitVec 6) (off : BitVec 6) (data : List Byte)
deriving DecidableEq, Repr

end Sys2Proof
end

