-- ==== Sys2Proof/WellFormed.lean ====
section
/-!
DEFINITION. Which instructions are well formed: the half of step 5 of R142 that depends on the instruction alone
(field codes that an entry does not accept, register numbers outside their file), and the ranges of the objects that a
step without an encoding names.
-/

namespace Sys2Proof

/-- The element size in bytes of a fmt3 code (Table 7.3). -/
def fmtBytes (f : BitVec 3) : Nat :=
  match f.toNat with
  | 0 => 4 | 1 => 2 | 2 => 2 | 3 => 1 | 4 => 1 | 5 => 1 | 6 => 4 | _ => 2

/-- F: f32, bf16, f16 (R186). -/
def fmtF (f : BitVec 3) : Bool := f.toNat < 3

/-- I: s8, s32, s16 (R186). -/
def fmtI (f : BitVec 3) : Bool := 5 ≤ f.toNat

/-- F or I (R186). -/
def fmtFI (f : BitVec 3) : Bool := fmtF f || fmtI f

/-- The number of parts q of a conversion (R194). -/
def partCount (f s : BitVec 3) : Nat :=
  max (fmtBytes f) (fmtBytes s) / min (fmtBytes f) (fmtBytes s)

/-- The pairs of VCVTS (R196): f32 to bf16, f16, e4m3, e5m2; bf16 or f16 to e4m3 or e5m2. -/
def stochPair (f s : BitVec 3) : Bool :=
  (s = 0 && 1 ≤ f.toNat && f.toNat ≤ 4) || ((s = 1 || s = 2) && (f = 3 || f = 4))

/-- The OX4 blocks a register of the format holds (R202). -/
def oxBlocks (f : BitVec 3) : Nat := 512 / fmtBytes f / 32

/-- Scope codes 101 to 111 are reserved (R146). -/
def scopeOk (s : BitVec 3) : Bool := s.toNat ≤ 4

/-- Limit codes 19 to 31 are reserved (R217). -/
def limitOk (k : BitVec 5) : Bool := k.toNat ≤ 18

/-- The SI operand, sign-extended (R145). -/
def Imm.val : Imm → Word
  | .short i => i.signExtend 64
  | .long i => i.signExtend 64

/-- A shift count of SHLI, SHRI, SRAI lies in 0 to 63 (R165). -/
def Imm.count63 (i : Imm) : Bool := i.val.toNat < 64

/-- The state-independent part of step 5 of R142. -/
def Instr.wf : Instr → Bool
  | .nop => true
  | .add _ _ _ => true
  | .sub _ _ _ => true
  | .and _ _ _ => true
  | .or _ _ _ => true
  | .xor _ _ _ => true
  | .andn _ _ _ => true
  | .shl _ _ _ => true
  | .shr _ _ _ => true
  | .sra _ _ _ => true
  | .rol _ _ _ => true
  | .ror _ _ _ => true
  | .mul _ _ _ => true
  | .mulh _ _ _ => true
  | .mulhn _ _ _ => true
  | .div _ _ _ => true
  | .divn _ _ _ => true
  | .rem _ _ _ => true
  | .remn _ _ _ => true
  | .min _ _ _ => true
  | .max _ _ _ => true
  | .minn _ _ _ => true
  | .maxn _ _ _ => true
  | .ceq _ _ _ => true
  | .cne _ _ _ => true
  | .clt _ _ _ => true
  | .cle _ _ _ => true
  | .cltn _ _ _ => true
  | .clen _ _ _ => true
  | .sel _ _ _ => true
  | .clz _ _ => true
  | .ctz _ _ => true
  | .popc _ _ => true
  | .brev _ _ => true
  | .bswap _ _ => true
  | .exts _ _ w => w != 0
  | .extz _ _ w => w != 0
  | .addW _ _ _ => true
  | .subW _ _ _ => true
  | .shlW _ _ _ => true
  | .shrW _ _ _ => true
  | .sraW _ _ _ => true
  | .mulW _ _ _ => true
  | .divW _ _ _ => true
  | .divnW _ _ _ => true
  | .remW _ _ _ => true
  | .remnW _ _ _ => true
  | .addi _ _ _ => true
  | .andi _ _ _ => true
  | .ori _ _ _ => true
  | .xori _ _ _ => true
  | .shli _ _ i => i.count63
  | .shri _ _ i => i.count63
  | .srai _ _ i => i.count63
  | .muli _ _ _ => true
  | .ceqi _ _ _ => true
  | .clti _ _ _ => true
  | .cltni _ _ _ => true
  | .movhi _ _ _ => true
  | .adpc _ _ => true
  | .addwi _ _ _ => true
  | .beq _ _ _ => true
  | .bne _ _ _ => true
  | .blt _ _ _ => true
  | .bge _ _ _ => true
  | .bltn _ _ _ => true
  | .bgen _ _ _ => true
  | .jmp _ => true
  | .jal _ _ => true
  | .jr _ _ => true
  | .jalr _ _ _ => true
  | .loop _ o => 0 < o.toNat && o.toNat < 1024
  | .knext => true
  | .endTask => true
  | .trap _ o => o != 0x1FFFF
  | .srr _ _ => true
  | .srw _ _ _ => true
  | .srs _ _ _ => true
  | .src _ _ _ => true
  | .idle _ _ => true
  | .digest _ _ _ => true
  | .brk => true
  | .eret => true
  | .tlbi _ k => k.toNat < 4
  | .swctx => true
  | .flushi => true
  | .retime _ _ _ => true
  | .mma _ _ _ _ _ _ _ _ _ _ => true
  | .mmas _ _ _ _ _ _ _ _ _ => true
  | .mmag _ _ _ _ _ _ _ _ _ _ => true
  | .mhad _ _ n => n != 3
  | .mzero _ k => k != 3
  | .mdrain _ _ _ _ _ _ _ _ _ => true
  | .mload _ _ _ k => k != 3
  | .ecw _ _ => true
  | .ecr _ _ => true
  | .cpy _ _ _ _ => true
  | .cpyx _ _ => true
  | .gcfg _ _ => true
  | .ctblk _ _ => true
  | .ctsnap _ _ => true
  | .ctqry _ _ _ => true
  | .ctstep _ => true
  | .ctclr _ _ => true
  | .ctsave _ => true
  | .ctload _ => true
  | .kvcommit _ _ _ => true
  | .kvreset _ _ _ => true
  | .xbind _ _ => true
  | .xstat _ _ => true
  | .rcfg _ _ _ => true
  | .rrst _ => true
  | .hcfg _ _ => true
  | .harm _ _ => true
  | .hread _ _ _ => true
  | .vadd f _ _ _ _ => fmtFI f
  | .vsub f _ _ _ _ => fmtFI f
  | .vmul f _ _ _ _ => fmtFI f
  | .vfma f _ _ _ _ => fmtFI f
  | .vfms f _ _ _ _ => fmtFI f
  | .vfnma f _ _ _ _ => fmtFI f
  | .vmin f _ _ _ _ => fmtFI f
  | .vmax f _ _ _ _ => fmtFI f
  | .vabs f _ _ _ => fmtFI f
  | .vneg f _ _ _ => fmtFI f
  | .vand _ _ _ _ _ => true
  | .vor _ _ _ _ _ => true
  | .vxor _ _ _ _ _ => true
  | .vnot _ _ _ _ => true
  | .vshl f _ _ _ _ => fmtI f
  | .vshr f _ _ _ _ => fmtI f
  | .vsra f _ _ _ _ => fmtI f
  | .vmov _ _ _ _ => true
  | .vsel _ _ _ _ _ => true
  | .vceq f _ d _ _ => fmtFI f && d.toNat < 8
  | .vcne f _ d _ _ => fmtFI f && d.toNat < 8
  | .vclt f _ d _ _ => fmtFI f && d.toNat < 8
  | .vcle f _ d _ _ => fmtFI f && d.toNat < 8
  | .vscaleb f _ _ _ _ => fmtF f
  | .vexpo f _ _ _ => fmtF f
  | .vcvt f _ _ _ p s => p.toNat < partCount f s
  | .vcvts f _ _ _ p s => stochPair f s && p.toNat < partCount f s
  | .vrmax f _ _ _ => fmtFI f
  | .vrmin f _ _ _ => fmtFI f
  | .vrsum f _ _ _ => fmtFI f
  | .vrssq f _ _ _ => fmtF f
  | .vramax f _ _ _ => fmtFI f
  | .vrarg f _ _ _ => fmtFI f
  | .vcsum f _ _ _ => fmtFI f
  | .vscan f _ _ _ => fmtFI f
  | .vbrow _ _ _ _ => true
  | .vbcol _ _ _ _ => true
  | .vsplat _ _ _ _ => true
  | .vins _ _ _ _ => true
  | .vext _ _ _ _ => true
  | .vperm _ _ _ _ _ => true
  | .vtrans _ _ _ _ => true
  | .viota _ _ _ => true
  | .vrand f _ _ _ => fmtI f
  | .voxd f _ _ _ b => fmtF f && b.toNat + oxBlocks f <= 30
  | .voxe f _ _ b => fmtF f && b.toNat + oxBlocks f <= 30
  | .mand d a b => d.toNat < 8 && a.toNat < 8 && b.toNat < 8
  | .mor d a b => d.toNat < 8 && a.toNat < 8 && b.toNat < 8
  | .mxor d a b => d.toNat < 8 && a.toNat < 8 && b.toNat < 8
  | .mnot d a => d.toNat < 8 && a.toNat < 8
  | .mpopc _ _ a => a.toNat < 8
  | .vtree f _ _ _ _ => fmtF f
  | .ppinit d => d.toNat < 8
  | .ppdeg d _ => d.toNat < 8
  | .ppmul f _ d _ _ => fmtF f && d.toNat < 8
  | .ppdiv f _ d _ _ => fmtF f && d.toNat < 8
  | .pprd f _ _ a _ => fmtF f && a.toNat < 8
  | .ppscale d _ => d.toNat < 8
  | .ppstat _ a => a.toNat < 8
  | .fexp2 f _ _ _ => fmtF f
  | .fexp2m f _ _ _ _ => fmtF f
  | .flog2 f _ _ _ => fmtF f
  | .frcp f _ _ _ => fmtF f
  | .frsq f _ _ _ => fmtF f
  | .fsqrt f _ _ _ => fmtF f
  | .fsin f _ _ _ => fmtF f
  | .fcos f _ _ _ => fmtF f
  | .ftanh f _ _ _ => fmtF f
  | .fsigm f _ _ _ => fmtF f
  | .ferf f _ _ _ => fmtF f
  | .fsilu f _ _ _ => fmtF f
  | .ldb _ _ _ => true
  | .ldh _ _ _ => true
  | .ldw _ _ _ => true
  | .ldd _ _ _ => true
  | .ldbn _ _ _ => true
  | .ldhn _ _ _ => true
  | .ldwn _ _ _ => true
  | .stb _ _ _ => true
  | .sth _ _ _ => true
  | .stw _ _ _ => true
  | .std _ _ _ => true
  | .vld _ _ _ => true
  | .vst _ _ _ => true
  | .vldx _ _ _ => true
  | .ldf _ _ _ => true
  | .ppsave _ _ _ => true
  | .ppload _ _ _ => true
  | .aadd _ _ _ s _ => scopeOk s
  | .amin _ _ _ s _ => scopeOk s
  | .amax _ _ _ s _ => scopeOk s
  | .aminn _ _ _ s _ => scopeOk s
  | .amaxn _ _ _ s _ => scopeOk s
  | .aand _ _ _ s _ => scopeOk s
  | .aor _ _ _ s _ => scopeOk s
  | .axor _ _ _ s _ => scopeOk s
  | .aswap _ _ _ s _ => scopeOk s
  | .acas _ _ _ s _ => scopeOk s
  | .agts _ _ _ s _ => scopeOk s
  | .agtsn _ _ _ s _ => scopeOk s
  | .avswap _ _ _ s _ => scopeOk s
  | .atagswap _ _ _ s _ => scopeOk s
  | .afadd _ _ _ s _ => scopeOk s
  | .ldacq _ _ s => scopeOk s
  | .strel _ _ s => scopeOk s
  | .fence _ _ s => scopeOk s
  | .fwait _ k => limitOk k
  | .bar _ s k => scopeOk s && limitOk k
  | .bara _ s => scopeOk s
  | .barw _ s k => scopeOk s && limitOk k
  | .barq _ s => scopeOk s
  | .sbar _ => true
  | .hwait _ _ k => limitOk k
  | .rwait _ _ _ k => limitOk k
  | .radvp _ n => 0 < n.toNat && n.toNat <= 256
  | .radvc _ n => 0 < n.toNat && n.toNat <= 256
  | .enq _ _ => true
  | .deq _ _ => true
  | .qwait _ k => limitOk k
  | .stbind _ _ _ => true
  | .stunb _ => true
  | .penn _ _ s => scopeOk s
  | .residencySwitch core => core.toNat < 768
  | .idleCoreDispatch core => core.toNat < 768
  | .idleTimeout core => core.toNat < 768
  | .periodBoundary _ => true
  | .sampleArrival (.packet _ _) _ _ _ => true
  | .sampleArrival (.edge source) _ _ _ => source.toNat < 0x105
  | .missedSampleTime _ => true
  | .regionResumption _ => true
  | .outputSampleTime _ => true
  | .railSwitchEnd _ => true
  | .energyBucketUpdate _ => true
  | .ballastPass core => core.toNat < 768
  | .hoistReach core _ _ => core.toNat < 768
  | .pendingSlotActionRelease core _ _ => core.toNat < 768
  | .barrierCompletion core _ scope => core.toNat < 768 && scopeOk scope.scope && scope.afar.all (fun a => a.core.toNat < 768)
  | .registerDataArrival _ => true
  | .waitLimitExpiry core => core.toNat < 768
  | .matrixCommandStart core => core.toNat < 768
  | .matrixCommandEnd core => core.toNat < 768
  | .matrixWaitLimitExpiry core => core.toNat < 768
  | .copyBegin core _ => core.toNat < 768
  | .chunkCommit core _ => core.toNat < 768
  | .copyChunkFault core _ => core.toNat < 768
  | .copyCompletionAction core _ => core.toNat < 768
  | .watermarkWaitLimitExpiry core _ => core.toNat < 768
  | .copyCancelComplete core _ => core.toNat < 768
  | .apertureCommandArrival core _ _ => core.toNat < 768
  | .contactCommandStart core => core.toNat < 768
  | .streamTransfer core _ _ => core.toNat < 768
  | .fabricWrite _ => true
  | .fabricAtomic _ => true
  | .fabricRead _ => true
  | .enqueueRequest _ => true
  | .launchPacketTake _ => true
  | .launchCompletion _ => true
  | .hostWindowSubmit _ _ => true
  | .queueEnable q _ => q.toNat < 6144
  | .queueDisable q _ => q.toNat < 6144
  | .queueSwapOut q _ => q.toNat < 6144
  | .queueSwapIn q _ => q.toNat < 6144
  | .queueGenerationChange q _ => q.toNat < 6144
  | .hbmStackFailure stack => stack.toNat < 12
  | .preemptSave core _ => core.toNat < 768
  | .saveComplete core => core.toNat < 768
  | .preemptRestore core _ => core.toNat < 768
  | .restoreComplete core => core.toNat < 768
  | .partitionEntryCommit _ _ => true
  | .clusterEntryCommit k _ => k.toNat < 96
  | .sourceEnable _ _ => true
  | .sourceDisable _ _ => true
  | .rateEntryCommit source _ => source.toNat < 0x104
  | .crossingEnable _ _ => true
  | .crossingDisable _ _ => true
  | .regionStatusClear _ _ => true
  | .powerEntryCommit _ => true
  | .replicaRelease _ => true
  | .replicaDiscard _ => true
  | .replicaDigestArrival _ _ _ => true
  | .replicaDigestTimeout _ => true
  | .loaderLoad _ _ => true
  | .loaderUnload _ _ => true
  | .loadDone _ => true
  | .constantStoreWrite _ _ => true
  | .bar4Access _ _ => true
  | .registerWrite _ _ => true
  | .firmwareStart _ => true
  | .perst _ => true
  | .trainingDone _ _ => true
  | .tagsDone => true
  | .selftestDone _ => true
  | .lockingDone _ => true
  | .cxlExpanderLoss _ _ _ => true
  | .gxlPortFailure port => port.toNat < 36
  | .scrubRead core _ => core.toNat < 768
  | .powerLoss => true
  | .mirrorCopyComplete stack fresh => stack.toNat < 12 && fresh.toNat < 12
  | .swapInCopyComplete q => q.toNat < 6144
  | .packetStagingWrite _ _ _ => true

end Sys2Proof
end

