-- ==== Sys2Proof/Decode.lean ====
section
/-!
DEFINITION. The decoder of instruction words (R139 to R154, Tables 7.2 and 7.6 to 7.18), total on every word and every
list of bytes, and after it the encoder, written from the same tables. The decoder rejects by name: a reserved group, a
reserved opcode or engine command, a set reserved bit (R142 steps 3 and 5). A field code that an instruction's entry
does not accept decodes and is refused by `Instr.wf`, the other half of step 5.
-/

namespace Sys2Proof

/-- Why a word is no instruction. -/
inductive DecodeError where
  /-- G = 0xE or 0xF (R142 step 3). -/
  | reservedGroup
  /-- An LX word where an instruction should start (R140). -/
  | strayExtension
  /-- A reserved opcode or engine command of the named group (R150). -/
  | reservedOpcode (group : Nat) (op : Nat)
  /-- A reserved bit of the named instruction is set (R143, R146). -/
  | reservedField (mnemonic : String)
  /-- Fewer bytes than one word. -/
  | noBytes
deriving DecidableEq, Repr

/-- `len` bits of a word from bit `lo` up. -/
def fld (w : IWord) (lo len : Nat) : BitVec len := w.extractLsb' lo len

/-- The group field G (R139). -/
def group (w : IWord) : Nat := (fld w 27 4).toNat

/-- The end mark E (R139). -/
def endMark (w : IWord) : Bool := fld w 31 1 = 1#1

/-- The SI operand of a word and of the LX word behind it (R145). -/
def immOf (w : IWord) (lx : Option (BitVec 27)) : Imm :=
  match lx with
  | none => .short (fld w 0 10)
  | some e => .long (e ++ fld w 0 10)

/-- The instruction when its reserved bits are clear. -/
def clear (name : String) (ok : Bool) (i : Instr) : Except DecodeError Instr :=
  if ok then .ok i else .error (.reservedField name)

/-- The SR group (G = 0x0). -/
def decodeSR (w : IWord) : Except DecodeError Instr :=
  match (fld w 18 9).toNat with
  | 0 => clear "NOP" (fld w 0 18 = 0#18) .nop
  | 1 => .ok (.add (fld w 12 6) (fld w 6 6) (fld w 0 6))
  | 2 => .ok (.sub (fld w 12 6) (fld w 6 6) (fld w 0 6))
  | 3 => .ok (.and (fld w 12 6) (fld w 6 6) (fld w 0 6))
  | 4 => .ok (.or (fld w 12 6) (fld w 6 6) (fld w 0 6))
  | 5 => .ok (.xor (fld w 12 6) (fld w 6 6) (fld w 0 6))
  | 6 => .ok (.andn (fld w 12 6) (fld w 6 6) (fld w 0 6))
  | 7 => .ok (.shl (fld w 12 6) (fld w 6 6) (fld w 0 6))
  | 8 => .ok (.shr (fld w 12 6) (fld w 6 6) (fld w 0 6))
  | 9 => .ok (.sra (fld w 12 6) (fld w 6 6) (fld w 0 6))
  | 10 => .ok (.rol (fld w 12 6) (fld w 6 6) (fld w 0 6))
  | 11 => .ok (.ror (fld w 12 6) (fld w 6 6) (fld w 0 6))
  | 12 => .ok (.mul (fld w 12 6) (fld w 6 6) (fld w 0 6))
  | 13 => .ok (.mulh (fld w 12 6) (fld w 6 6) (fld w 0 6))
  | 14 => .ok (.mulhn (fld w 12 6) (fld w 6 6) (fld w 0 6))
  | 15 => .ok (.div (fld w 12 6) (fld w 6 6) (fld w 0 6))
  | 16 => .ok (.divn (fld w 12 6) (fld w 6 6) (fld w 0 6))
  | 17 => .ok (.rem (fld w 12 6) (fld w 6 6) (fld w 0 6))
  | 18 => .ok (.remn (fld w 12 6) (fld w 6 6) (fld w 0 6))
  | 19 => .ok (.min (fld w 12 6) (fld w 6 6) (fld w 0 6))
  | 20 => .ok (.max (fld w 12 6) (fld w 6 6) (fld w 0 6))
  | 21 => .ok (.minn (fld w 12 6) (fld w 6 6) (fld w 0 6))
  | 22 => .ok (.maxn (fld w 12 6) (fld w 6 6) (fld w 0 6))
  | 23 => .ok (.ceq (fld w 12 6) (fld w 6 6) (fld w 0 6))
  | 24 => .ok (.cne (fld w 12 6) (fld w 6 6) (fld w 0 6))
  | 25 => .ok (.clt (fld w 12 6) (fld w 6 6) (fld w 0 6))
  | 26 => .ok (.cle (fld w 12 6) (fld w 6 6) (fld w 0 6))
  | 27 => .ok (.cltn (fld w 12 6) (fld w 6 6) (fld w 0 6))
  | 28 => .ok (.clen (fld w 12 6) (fld w 6 6) (fld w 0 6))
  | 29 => .ok (.sel (fld w 12 6) (fld w 6 6) (fld w 0 6))
  | 30 => clear "CLZ" (fld w 0 6 = 0#6) (.clz (fld w 12 6) (fld w 6 6))
  | 31 => clear "CTZ" (fld w 0 6 = 0#6) (.ctz (fld w 12 6) (fld w 6 6))
  | 32 => clear "POPC" (fld w 0 6 = 0#6) (.popc (fld w 12 6) (fld w 6 6))
  | 33 => clear "BREV" (fld w 0 6 = 0#6) (.brev (fld w 12 6) (fld w 6 6))
  | 34 => clear "BSWAP" (fld w 0 6 = 0#6) (.bswap (fld w 12 6) (fld w 6 6))
  | 35 => .ok (.exts (fld w 12 6) (fld w 6 6) (fld w 0 6))
  | 36 => .ok (.extz (fld w 12 6) (fld w 6 6) (fld w 0 6))
  | 257 => .ok (.addW (fld w 12 6) (fld w 6 6) (fld w 0 6))
  | 258 => .ok (.subW (fld w 12 6) (fld w 6 6) (fld w 0 6))
  | 263 => .ok (.shlW (fld w 12 6) (fld w 6 6) (fld w 0 6))
  | 264 => .ok (.shrW (fld w 12 6) (fld w 6 6) (fld w 0 6))
  | 265 => .ok (.sraW (fld w 12 6) (fld w 6 6) (fld w 0 6))
  | 268 => .ok (.mulW (fld w 12 6) (fld w 6 6) (fld w 0 6))
  | 271 => .ok (.divW (fld w 12 6) (fld w 6 6) (fld w 0 6))
  | 272 => .ok (.divnW (fld w 12 6) (fld w 6 6) (fld w 0 6))
  | 273 => .ok (.remW (fld w 12 6) (fld w 6 6) (fld w 0 6))
  | 274 => .ok (.remnW (fld w 12 6) (fld w 6 6) (fld w 0 6))
  | n => .error (.reservedOpcode 0 n)

/-- The SI group (G = 0x1). -/
def decodeSI (w : IWord) (lx : Option (BitVec 27)) : Except DecodeError Instr :=
  match (fld w 22 5).toNat with
  | 0 => .ok (.addi (fld w 16 6) (fld w 10 6) (immOf w lx))
  | 1 => .ok (.andi (fld w 16 6) (fld w 10 6) (immOf w lx))
  | 2 => .ok (.ori (fld w 16 6) (fld w 10 6) (immOf w lx))
  | 3 => .ok (.xori (fld w 16 6) (fld w 10 6) (immOf w lx))
  | 4 => .ok (.shli (fld w 16 6) (fld w 10 6) (immOf w lx))
  | 5 => .ok (.shri (fld w 16 6) (fld w 10 6) (immOf w lx))
  | 6 => .ok (.srai (fld w 16 6) (fld w 10 6) (immOf w lx))
  | 7 => .ok (.muli (fld w 16 6) (fld w 10 6) (immOf w lx))
  | 8 => .ok (.ceqi (fld w 16 6) (fld w 10 6) (immOf w lx))
  | 9 => .ok (.clti (fld w 16 6) (fld w 10 6) (immOf w lx))
  | 10 => .ok (.cltni (fld w 16 6) (fld w 10 6) (immOf w lx))
  | 11 => .ok (.movhi (fld w 16 6) (fld w 10 6) (immOf w lx))
  | 12 => clear "ADPC" (fld w 10 6 = 0#6) (.adpc (fld w 16 6) (immOf w lx))
  | 13 => .ok (.addwi (fld w 16 6) (fld w 10 6) (immOf w lx))
  | n => .error (.reservedOpcode 1 n)

/-- The Control group (G = 0x2). -/
def decodeControl (w : IWord) : Except DecodeError Instr :=
  match (fld w 23 4).toNat with
  | 0 => .ok (.beq (fld w 17 6) (fld w 11 6) (fld w 0 11))
  | 1 => .ok (.bne (fld w 17 6) (fld w 11 6) (fld w 0 11))
  | 2 => .ok (.blt (fld w 17 6) (fld w 11 6) (fld w 0 11))
  | 3 => .ok (.bge (fld w 17 6) (fld w 11 6) (fld w 0 11))
  | 4 => .ok (.bltn (fld w 17 6) (fld w 11 6) (fld w 0 11))
  | 5 => .ok (.bgen (fld w 17 6) (fld w 11 6) (fld w 0 11))
  | 8 => clear "JMP" (fld w 17 6 = 0#6) (.jmp (fld w 0 17))
  | 9 => .ok (.jal (fld w 17 6) (fld w 0 17))
  | 10 => clear "JR" (fld w 11 6 = 0#6) (.jr (fld w 17 6) (fld w 0 11))
  | 11 => .ok (.jalr (fld w 17 6) (fld w 11 6) (fld w 0 11))
  | 12 => clear "LOOP" (fld w 11 6 = 0#6) (.loop (fld w 17 6) (fld w 0 11))
  | 13 => clear "KNEXT" (fld w 0 23 = 0#23) .knext
  | 14 => clear "END" (fld w 0 23 = 0#23) .endTask
  | 15 => .ok (.trap (fld w 17 6) (fld w 0 17))
  | n => .error (.reservedOpcode 2 n)

/-- The SY group (G = 0x3). -/
def decodeSY (w : IWord) : Except DecodeError Instr :=
  match (fld w 21 6).toNat with
  | 0 => clear "SRR" (fld w 9 6 = 0#6) (.srr (fld w 15 6) (fld w 0 9))
  | 1 => .ok (.srw (fld w 15 6) (fld w 9 6) (fld w 0 9))
  | 2 => .ok (.srs (fld w 15 6) (fld w 9 6) (fld w 0 9))
  | 3 => .ok (.src (fld w 15 6) (fld w 9 6) (fld w 0 9))
  | 4 => clear "IDLE" (fld w 0 9 = 0#9) (.idle (fld w 15 6) (fld w 9 6))
  | 5 => clear "DIGEST" (fld w 1 8 = 0#8) (.digest (fld w 15 6) (fld w 9 6) (fld w 0 1))
  | 6 => clear "BREAK" (fld w 0 21 = 0#21) .brk
  | 7 => clear "ERET" (fld w 0 21 = 0#21) .eret
  | 8 => clear "TLBI" (fld w 3 6 = 0#6 && fld w 15 6 = 0#6) (.tlbi (fld w 9 6) (fld w 0 3))
  | 9 => clear "SWCTX" (fld w 0 21 = 0#21) .swctx
  | 10 => clear "FLUSHI" (fld w 0 21 = 0#21) .flushi
  | 11 => clear "RETIME" (fld w 5 4 = 0#4) (.retime (fld w 15 6) (fld w 9 6) (fld w 0 5))
  | n => .error (.reservedOpcode 3 n)

/-- The MX group (G = 0x4). -/
def decodeMX (w : IWord) : Except DecodeError Instr :=
  match (fld w 24 3).toNat with
  | 0 => clear "MMA" (fld w 0 1 = 0#1) (.mma (fld w 21 3) (fld w 17 4) (fld w 13 4) (fld w 10 3) (fld w 7 3) (fld w 5 2) (fld w 4 1) (fld w 3 1) (fld w 2 1) (fld w 1 1))
  | 1 => clear "MMAS" (fld w 0 1 = 0#1 && fld w 2 1 = 0#1) (.mmas (fld w 21 3) (fld w 17 4) (fld w 13 4) (fld w 10 3) (fld w 7 3) (fld w 5 2) (fld w 4 1) (fld w 3 1) (fld w 1 1))
  | 2 => clear "MMAG" (fld w 0 1 = 0#1 && fld w 6 1 = 0#1 && fld w 15 2 = 0#2) (.mmag (fld w 21 3) (fld w 17 4) (fld w 13 2) (fld w 10 3) (fld w 7 3) (fld w 5 1) (fld w 4 1) (fld w 3 1) (fld w 2 1) (fld w 1 1))
  | 3 => clear "MHAD" (fld w 2 15 = 0#15 && fld w 20 1 = 0#1) (.mhad (fld w 21 3) (fld w 17 3) (fld w 0 2))
  | 4 => clear "MZERO" (fld w 2 19 = 0#19) (.mzero (fld w 21 3) (fld w 0 2))
  | 5 => .ok (.mdrain (fld w 21 3) (fld w 17 4) (fld w 13 4) (fld w 10 3) (fld w 9 1) (fld w 8 1) (fld w 7 1) (fld w 5 2) (fld w 0 5))
  | 6 => clear "MLOAD" (fld w 2 3 = 0#3 && fld w 6 11 = 0#11) (.mload (fld w 21 3) (fld w 17 4) (fld w 5 1) (fld w 0 2))
  | n => .error (.reservedOpcode 4 n)

/-- The CX group (G = 0x5). -/
def decodeCX (w : IWord) : Except DecodeError Instr :=
  match (fld w 18 9).toNat with
  | 0 => clear "ECW" (fld w 0 6 = 0#6) (.ecw (fld w 12 6) (fld w 6 6))
  | 1 => clear "ECR" (fld w 0 6 = 0#6) (.ecr (fld w 12 6) (fld w 6 6))
  | 64 => clear "CPY" (fld w 4 2 = 0#2) (.cpy (fld w 12 6) (fld w 6 6) (fld w 2 2) (fld w 0 2))
  | 65 => clear "CPYX" (fld w 2 10 = 0#10) (.cpyx (fld w 12 6) (fld w 0 2))
  | 128 => clear "GCFG" (fld w 2 10 = 0#10) (.gcfg (fld w 12 6) (fld w 0 2))
  | 192 => clear "CTBLK" (fld w 4 8 = 0#8) (.ctblk (fld w 12 6) (fld w 0 4))
  | 193 => clear "CTSNAP" (fld w 4 8 = 0#8) (.ctsnap (fld w 12 6) (fld w 0 4))
  | 194 => clear "CTQRY" (fld w 4 2 = 0#2) (.ctqry (fld w 12 6) (fld w 6 6) (fld w 0 4))
  | 195 => clear "CTSTEP" (fld w 4 14 = 0#14) (.ctstep (fld w 0 4))
  | 196 => clear "CTCLR" (fld w 4 8 = 0#8) (.ctclr (fld w 12 6) (fld w 0 4))
  | 197 => clear "CTSAVE" (fld w 0 12 = 0#12) (.ctsave (fld w 12 6))
  | 198 => clear "CTLOAD" (fld w 0 12 = 0#12) (.ctload (fld w 12 6))
  | 256 => clear "KVCOMMIT" (fld w 2 4 = 0#4) (.kvcommit (fld w 12 6) (fld w 6 6) (fld w 0 2))
  | 257 => clear "KVRESET" (fld w 2 4 = 0#4) (.kvreset (fld w 12 6) (fld w 6 6) (fld w 0 2))
  | 320 => clear "XBIND" (fld w 0 6 = 0#6) (.xbind (fld w 12 6) (fld w 6 6))
  | 321 => clear "XSTAT" (fld w 0 6 = 0#6) (.xstat (fld w 12 6) (fld w 6 6))
  | 384 => clear "RCFG" (fld w 4 2 = 0#2) (.rcfg (fld w 12 6) (fld w 6 6) (fld w 0 4))
  | 385 => clear "RRST" (fld w 4 14 = 0#14) (.rrst (fld w 0 4))
  | 448 => clear "HCFG" (fld w 5 7 = 0#7) (.hcfg (fld w 12 6) (fld w 0 5))
  | 449 => clear "HARM" (fld w 5 7 = 0#7) (.harm (fld w 12 6) (fld w 0 5))
  | 450 => clear "HREAD" (fld w 5 1 = 0#1) (.hread (fld w 12 6) (fld w 6 6) (fld w 0 5))
  | n => .error (.reservedOpcode 5 n)

/-- The VV group (G = 0x6). -/
def decodeVV (w : IWord) : Except DecodeError Instr :=
  match (fld w 21 6).toNat with
  | 0 => .ok (.vadd (fld w 18 3) (fld w 15 3) (fld w 10 5) (fld w 5 5) (fld w 0 5))
  | 1 => .ok (.vsub (fld w 18 3) (fld w 15 3) (fld w 10 5) (fld w 5 5) (fld w 0 5))
  | 2 => .ok (.vmul (fld w 18 3) (fld w 15 3) (fld w 10 5) (fld w 5 5) (fld w 0 5))
  | 3 => .ok (.vfma (fld w 18 3) (fld w 15 3) (fld w 10 5) (fld w 5 5) (fld w 0 5))
  | 4 => .ok (.vfms (fld w 18 3) (fld w 15 3) (fld w 10 5) (fld w 5 5) (fld w 0 5))
  | 5 => .ok (.vfnma (fld w 18 3) (fld w 15 3) (fld w 10 5) (fld w 5 5) (fld w 0 5))
  | 6 => .ok (.vmin (fld w 18 3) (fld w 15 3) (fld w 10 5) (fld w 5 5) (fld w 0 5))
  | 7 => .ok (.vmax (fld w 18 3) (fld w 15 3) (fld w 10 5) (fld w 5 5) (fld w 0 5))
  | 8 => clear "VABS" (fld w 0 5 = 0#5) (.vabs (fld w 18 3) (fld w 15 3) (fld w 10 5) (fld w 5 5))
  | 9 => clear "VNEG" (fld w 0 5 = 0#5) (.vneg (fld w 18 3) (fld w 15 3) (fld w 10 5) (fld w 5 5))
  | 10 => .ok (.vand (fld w 18 3) (fld w 15 3) (fld w 10 5) (fld w 5 5) (fld w 0 5))
  | 11 => .ok (.vor (fld w 18 3) (fld w 15 3) (fld w 10 5) (fld w 5 5) (fld w 0 5))
  | 12 => .ok (.vxor (fld w 18 3) (fld w 15 3) (fld w 10 5) (fld w 5 5) (fld w 0 5))
  | 13 => clear "VNOT" (fld w 0 5 = 0#5) (.vnot (fld w 18 3) (fld w 15 3) (fld w 10 5) (fld w 5 5))
  | 14 => .ok (.vshl (fld w 18 3) (fld w 15 3) (fld w 10 5) (fld w 5 5) (fld w 0 5))
  | 15 => .ok (.vshr (fld w 18 3) (fld w 15 3) (fld w 10 5) (fld w 5 5) (fld w 0 5))
  | 16 => .ok (.vsra (fld w 18 3) (fld w 15 3) (fld w 10 5) (fld w 5 5) (fld w 0 5))
  | 17 => clear "VMOV" (fld w 0 5 = 0#5) (.vmov (fld w 18 3) (fld w 15 3) (fld w 10 5) (fld w 5 5))
  | 18 => .ok (.vsel (fld w 18 3) (fld w 15 3) (fld w 10 5) (fld w 5 5) (fld w 0 5))
  | 19 => .ok (.vceq (fld w 18 3) (fld w 15 3) (fld w 10 5) (fld w 5 5) (fld w 0 5))
  | 20 => .ok (.vcne (fld w 18 3) (fld w 15 3) (fld w 10 5) (fld w 5 5) (fld w 0 5))
  | 21 => .ok (.vclt (fld w 18 3) (fld w 15 3) (fld w 10 5) (fld w 5 5) (fld w 0 5))
  | 22 => .ok (.vcle (fld w 18 3) (fld w 15 3) (fld w 10 5) (fld w 5 5) (fld w 0 5))
  | 23 => .ok (.vscaleb (fld w 18 3) (fld w 15 3) (fld w 10 5) (fld w 5 5) (fld w 0 5))
  | 24 => clear "VEXPO" (fld w 0 5 = 0#5) (.vexpo (fld w 18 3) (fld w 15 3) (fld w 10 5) (fld w 5 5))
  | n => .error (.reservedOpcode 6 n)

/-- The VR group (G = 0x7). -/
def decodeVR (w : IWord) : Except DecodeError Instr :=
  match (fld w 21 6).toNat with
  | 0 => .ok (.vcvt (fld w 18 3) (fld w 15 3) (fld w 10 5) (fld w 5 5) (fld w 3 2) (fld w 0 3))
  | 1 => .ok (.vcvts (fld w 18 3) (fld w 15 3) (fld w 10 5) (fld w 5 5) (fld w 3 2) (fld w 0 3))
  | 2 => clear "VRMAX" (fld w 0 5 = 0#5) (.vrmax (fld w 18 3) (fld w 15 3) (fld w 10 5) (fld w 5 5))
  | 3 => clear "VRMIN" (fld w 0 5 = 0#5) (.vrmin (fld w 18 3) (fld w 15 3) (fld w 10 5) (fld w 5 5))
  | 4 => clear "VRSUM" (fld w 0 5 = 0#5) (.vrsum (fld w 18 3) (fld w 15 3) (fld w 10 5) (fld w 5 5))
  | 5 => clear "VRSSQ" (fld w 0 5 = 0#5) (.vrssq (fld w 18 3) (fld w 15 3) (fld w 10 5) (fld w 5 5))
  | 6 => clear "VRAMAX" (fld w 0 5 = 0#5) (.vramax (fld w 18 3) (fld w 15 3) (fld w 10 5) (fld w 5 5))
  | 7 => clear "VRARG" (fld w 0 5 = 0#5) (.vrarg (fld w 18 3) (fld w 15 3) (fld w 10 5) (fld w 5 5))
  | 8 => clear "VCSUM" (fld w 0 5 = 0#5) (.vcsum (fld w 18 3) (fld w 15 3) (fld w 10 5) (fld w 5 5))
  | 9 => clear "VSCAN" (fld w 0 5 = 0#5) (.vscan (fld w 18 3) (fld w 15 3) (fld w 10 5) (fld w 5 5))
  | 10 => clear "VBROW" (fld w 0 5 = 0#5) (.vbrow (fld w 18 3) (fld w 15 3) (fld w 10 5) (fld w 5 5))
  | 11 => clear "VBCOL" (fld w 0 5 = 0#5) (.vbcol (fld w 18 3) (fld w 15 3) (fld w 10 5) (fld w 5 5))
  | 12 => clear "VSPLAT" (fld w 0 5 = 0#5) (.vsplat (fld w 18 3) (fld w 15 3) (fld w 10 5) (fld w 5 5))
  | 13 => clear "VINS" (fld w 15 3 = 0#3) (.vins (fld w 18 3) (fld w 10 5) (fld w 5 5) (fld w 0 5))
  | 14 => clear "VEXT" (fld w 15 3 = 0#3) (.vext (fld w 18 3) (fld w 10 5) (fld w 5 5) (fld w 0 5))
  | 15 => .ok (.vperm (fld w 18 3) (fld w 15 3) (fld w 10 5) (fld w 5 5) (fld w 0 5))
  | 16 => clear "VTRANS" (fld w 0 5 = 0#5) (.vtrans (fld w 18 3) (fld w 15 3) (fld w 10 5) (fld w 5 5))
  | 17 => clear "VIOTA" (fld w 0 10 = 0#10) (.viota (fld w 18 3) (fld w 15 3) (fld w 10 5))
  | 18 => clear "VRAND" (fld w 0 5 = 0#5) (.vrand (fld w 18 3) (fld w 15 3) (fld w 10 5) (fld w 5 5))
  | 19 => .ok (.voxd (fld w 18 3) (fld w 15 3) (fld w 10 5) (fld w 5 5) (fld w 0 5))
  | 20 => clear "VOXE" (fld w 15 3 = 0#3) (.voxe (fld w 18 3) (fld w 10 5) (fld w 5 5) (fld w 0 5))
  | n => .error (.reservedOpcode 7 n)

/-- The VM group (G = 0x8). -/
def decodeVM (w : IWord) : Except DecodeError Instr :=
  match (fld w 21 6).toNat with
  | 0 => clear "MAND" (fld w 15 6 = 0#6) (.mand (fld w 10 5) (fld w 5 5) (fld w 0 5))
  | 1 => clear "MOR" (fld w 15 6 = 0#6) (.mor (fld w 10 5) (fld w 5 5) (fld w 0 5))
  | 2 => clear "MXOR" (fld w 15 6 = 0#6) (.mxor (fld w 10 5) (fld w 5 5) (fld w 0 5))
  | 3 => clear "MNOT" (fld w 0 5 = 0#5 && fld w 15 6 = 0#6) (.mnot (fld w 10 5) (fld w 5 5))
  | 4 => clear "MPOPC" (fld w 0 5 = 0#5 && fld w 15 3 = 0#3) (.mpopc (fld w 18 3) (fld w 10 5) (fld w 5 5))
  | 5 => .ok (.vtree (fld w 18 3) (fld w 15 3) (fld w 10 5) (fld w 5 5) (fld w 0 5))
  | 6 => clear "PPINIT" (fld w 0 10 = 0#10 && fld w 15 6 = 0#6) (.ppinit (fld w 10 5))
  | 7 => clear "PPDEG" (fld w 0 5 = 0#5 && fld w 15 6 = 0#6) (.ppdeg (fld w 10 5) (fld w 5 5))
  | 8 => .ok (.ppmul (fld w 18 3) (fld w 15 3) (fld w 10 5) (fld w 5 5) (fld w 0 5))
  | 9 => .ok (.ppdiv (fld w 18 3) (fld w 15 3) (fld w 10 5) (fld w 5 5) (fld w 0 5))
  | 10 => .ok (.pprd (fld w 18 3) (fld w 15 3) (fld w 10 5) (fld w 5 5) (fld w 0 5))
  | 11 => clear "PPSCALE" (fld w 0 5 = 0#5 && fld w 15 6 = 0#6) (.ppscale (fld w 10 5) (fld w 5 5))
  | 12 => clear "PPSTAT" (fld w 0 5 = 0#5 && fld w 15 6 = 0#6) (.ppstat (fld w 10 5) (fld w 5 5))
  | n => .error (.reservedOpcode 8 n)

/-- The FS group (G = 0x9). -/
def decodeFS (w : IWord) : Except DecodeError Instr :=
  match (fld w 22 5).toNat with
  | 0 => clear "FEXP2" (fld w 0 6 = 0#6) (.fexp2 (fld w 19 3) (fld w 16 3) (fld w 11 5) (fld w 6 5))
  | 1 => clear "FEXP2M" (fld w 0 1 = 0#1) (.fexp2m (fld w 19 3) (fld w 16 3) (fld w 11 5) (fld w 6 5) (fld w 1 5))
  | 2 => clear "FLOG2" (fld w 0 6 = 0#6) (.flog2 (fld w 19 3) (fld w 16 3) (fld w 11 5) (fld w 6 5))
  | 3 => clear "FRCP" (fld w 0 6 = 0#6) (.frcp (fld w 19 3) (fld w 16 3) (fld w 11 5) (fld w 6 5))
  | 4 => clear "FRSQ" (fld w 0 6 = 0#6) (.frsq (fld w 19 3) (fld w 16 3) (fld w 11 5) (fld w 6 5))
  | 5 => clear "FSQRT" (fld w 0 6 = 0#6) (.fsqrt (fld w 19 3) (fld w 16 3) (fld w 11 5) (fld w 6 5))
  | 6 => clear "FSIN" (fld w 0 6 = 0#6) (.fsin (fld w 19 3) (fld w 16 3) (fld w 11 5) (fld w 6 5))
  | 7 => clear "FCOS" (fld w 0 6 = 0#6) (.fcos (fld w 19 3) (fld w 16 3) (fld w 11 5) (fld w 6 5))
  | 8 => clear "FTANH" (fld w 0 6 = 0#6) (.ftanh (fld w 19 3) (fld w 16 3) (fld w 11 5) (fld w 6 5))
  | 9 => clear "FSIGM" (fld w 0 6 = 0#6) (.fsigm (fld w 19 3) (fld w 16 3) (fld w 11 5) (fld w 6 5))
  | 10 => clear "FERF" (fld w 0 6 = 0#6) (.ferf (fld w 19 3) (fld w 16 3) (fld w 11 5) (fld w 6 5))
  | 11 => clear "FSILU" (fld w 0 6 = 0#6) (.fsilu (fld w 19 3) (fld w 16 3) (fld w 11 5) (fld w 6 5))
  | n => .error (.reservedOpcode 9 n)

/-- The ML group (G = 0xA). -/
def decodeML (w : IWord) : Except DecodeError Instr :=
  match (fld w 22 5).toNat with
  | 0 => .ok (.ldb (fld w 16 6) (fld w 10 6) (fld w 0 10))
  | 1 => .ok (.ldh (fld w 16 6) (fld w 10 6) (fld w 0 10))
  | 2 => .ok (.ldw (fld w 16 6) (fld w 10 6) (fld w 0 10))
  | 3 => .ok (.ldd (fld w 16 6) (fld w 10 6) (fld w 0 10))
  | 4 => .ok (.ldbn (fld w 16 6) (fld w 10 6) (fld w 0 10))
  | 5 => .ok (.ldhn (fld w 16 6) (fld w 10 6) (fld w 0 10))
  | 6 => .ok (.ldwn (fld w 16 6) (fld w 10 6) (fld w 0 10))
  | 7 => .ok (.stb (fld w 16 6) (fld w 10 6) (fld w 0 10))
  | 8 => .ok (.sth (fld w 16 6) (fld w 10 6) (fld w 0 10))
  | 9 => .ok (.stw (fld w 16 6) (fld w 10 6) (fld w 0 10))
  | 10 => .ok (.std (fld w 16 6) (fld w 10 6) (fld w 0 10))
  | 11 => clear "VLD" (fld w 21 1 = 0#1) (.vld (fld w 16 5) (fld w 10 6) (fld w 0 10))
  | 12 => clear "VST" (fld w 21 1 = 0#1) (.vst (fld w 16 5) (fld w 10 6) (fld w 0 10))
  | 13 => clear "VLDX" (fld w 21 1 = 0#1) (.vldx (fld w 16 5) (fld w 10 6) (fld w 0 10))
  | 14 => .ok (.ldf (fld w 16 6) (fld w 10 6) (fld w 0 10))
  | 15 => clear "PPSAVE" (fld w 19 3 = 0#3) (.ppsave (fld w 16 3) (fld w 10 6) (fld w 0 10))
  | 16 => clear "PPLOAD" (fld w 19 3 = 0#3) (.ppload (fld w 16 3) (fld w 10 6) (fld w 0 10))
  | n => .error (.reservedOpcode 10 n)

/-- The MA group (G = 0xB). -/
def decodeMA (w : IWord) : Except DecodeError Instr :=
  match (fld w 22 5).toNat with
  | 0 => .ok (.aadd (fld w 16 6) (fld w 10 6) (fld w 4 6) (fld w 1 3) (fld w 0 1))
  | 1 => .ok (.amin (fld w 16 6) (fld w 10 6) (fld w 4 6) (fld w 1 3) (fld w 0 1))
  | 2 => .ok (.amax (fld w 16 6) (fld w 10 6) (fld w 4 6) (fld w 1 3) (fld w 0 1))
  | 3 => .ok (.aminn (fld w 16 6) (fld w 10 6) (fld w 4 6) (fld w 1 3) (fld w 0 1))
  | 4 => .ok (.amaxn (fld w 16 6) (fld w 10 6) (fld w 4 6) (fld w 1 3) (fld w 0 1))
  | 5 => .ok (.aand (fld w 16 6) (fld w 10 6) (fld w 4 6) (fld w 1 3) (fld w 0 1))
  | 6 => .ok (.aor (fld w 16 6) (fld w 10 6) (fld w 4 6) (fld w 1 3) (fld w 0 1))
  | 7 => .ok (.axor (fld w 16 6) (fld w 10 6) (fld w 4 6) (fld w 1 3) (fld w 0 1))
  | 8 => .ok (.aswap (fld w 16 6) (fld w 10 6) (fld w 4 6) (fld w 1 3) (fld w 0 1))
  | 9 => .ok (.acas (fld w 16 6) (fld w 10 6) (fld w 4 6) (fld w 1 3) (fld w 0 1))
  | 10 => .ok (.agts (fld w 16 6) (fld w 10 6) (fld w 4 6) (fld w 1 3) (fld w 0 1))
  | 11 => .ok (.agtsn (fld w 16 6) (fld w 10 6) (fld w 4 6) (fld w 1 3) (fld w 0 1))
  | 12 => .ok (.avswap (fld w 16 6) (fld w 10 6) (fld w 4 6) (fld w 1 3) (fld w 0 1))
  | 13 => .ok (.atagswap (fld w 16 6) (fld w 10 6) (fld w 4 6) (fld w 1 3) (fld w 0 1))
  | 14 => .ok (.afadd (fld w 16 6) (fld w 10 6) (fld w 4 6) (fld w 1 3) (fld w 0 1))
  | 15 => clear "LDACQ" (fld w 0 1 = 0#1 && fld w 4 6 = 0#6) (.ldacq (fld w 16 6) (fld w 10 6) (fld w 1 3))
  | 16 => clear "STREL" (fld w 0 1 = 0#1 && fld w 16 6 = 0#6) (.strel (fld w 10 6) (fld w 4 6) (fld w 1 3))
  | n => .error (.reservedOpcode 11 n)

/-- The MS group (G = 0xC). -/
def decodeMS (w : IWord) : Except DecodeError Instr :=
  match (fld w 21 6).toNat with
  | 0 => clear "FENCE" (fld w 7 8 = 0#8) (.fence (fld w 15 6) (fld w 3 4) (fld w 0 3))
  | 1 => clear "FWAIT" (fld w 5 10 = 0#10) (.fwait (fld w 15 6) (fld w 0 5))
  | 2 => clear "BAR" (fld w 8 7 = 0#7) (.bar (fld w 15 6) (fld w 5 3) (fld w 0 5))
  | 3 => clear "BARA" (fld w 0 5 = 0#5 && fld w 8 7 = 0#7) (.bara (fld w 15 6) (fld w 5 3))
  | 4 => clear "BARW" (fld w 8 7 = 0#7) (.barw (fld w 15 6) (fld w 5 3) (fld w 0 5))
  | 5 => clear "BARQ" (fld w 0 5 = 0#5 && fld w 8 7 = 0#7) (.barq (fld w 15 6) (fld w 5 3))
  | 6 => clear "SBAR" (fld w 3 18 = 0#18) (.sbar (fld w 0 3))
  | 7 => clear "HWAIT" (fld w 5 4 = 0#4 && fld w 14 1 = 0#1) (.hwait (fld w 15 6) (fld w 9 5) (fld w 0 5))
  | 8 => clear "RWAIT" (fld w 6 3 = 0#3 && fld w 13 2 = 0#2) (.rwait (fld w 15 6) (fld w 9 4) (fld w 5 1) (fld w 0 5))
  | 9 => clear "RADVP" (fld w 13 8 = 0#8) (.radvp (fld w 9 4) (fld w 0 9))
  | 10 => clear "RADVC" (fld w 13 8 = 0#8) (.radvc (fld w 9 4) (fld w 0 9))
  | 11 => clear "ENQ" (fld w 0 9 = 0#9) (.enq (fld w 15 6) (fld w 9 6))
  | 12 => clear "DEQ" (fld w 0 9 = 0#9) (.deq (fld w 15 6) (fld w 9 6))
  | 13 => clear "QWAIT" (fld w 5 10 = 0#10) (.qwait (fld w 15 6) (fld w 0 5))
  | 14 => clear "STBIND" (fld w 4 11 = 0#11) (.stbind (fld w 15 6) (fld w 3 1) (fld w 0 3))
  | 15 => clear "STUNB" (fld w 3 18 = 0#18) (.stunb (fld w 0 3))
  | 16 => clear "PENN" (fld w 3 6 = 0#6) (.penn (fld w 15 6) (fld w 9 6) (fld w 0 3))
  | n => .error (.reservedOpcode 12 n)

/-- The instruction of a word, with the 27 bits of the LX word that extends it, if any. DEDUCED, log 67. -/
def decodeWord (w : IWord) (lx : Option (BitVec 27)) : Except DecodeError Instr :=
  match group w with
  | 0 => decodeSR w
  | 1 => decodeSI w lx
  | 2 => decodeControl w
  | 3 => decodeSY w
  | 4 => decodeMX w
  | 5 => decodeCX w
  | 6 => decodeVV w
  | 7 => decodeVR w
  | 8 => decodeVM w
  | 9 => decodeFS w
  | 10 => decodeML w
  | 11 => decodeMA w
  | 12 => decodeMS w
  | 13 => .error .strayExtension
  | _ => .error .reservedGroup

/-- The LX bits of a word, when it is an LX word (G = 0xD). -/
def lxBits (w : IWord) : Option (BitVec 27) := if group w = 13 then some (fld w 0 27) else none

/-- The first little-endian word of a list of bytes (R139), and the bytes after it. -/
def takeWord : List Byte → Option (IWord × List Byte)
  | b0 :: b1 :: b2 :: b3 :: r => some (b3 ++ b2 ++ b1 ++ b0, r)
  | _ => none

/-- The first instruction of a list of bytes with the bytes after it: one word, or an SI word that does not end its bundle
and the LX word behind it. -/
def decodeBytes (bs : List Byte) : Except DecodeError (Instr × List Byte) :=
  match takeWord bs with
  | none => .error .noBytes
  | some (w, r) =>
    if group w = 1 && !endMark w then
      match takeWord r with
      | some (x, r') =>
        match lxBits x with
        | some e => (decodeWord w (some e)).map (fun i => (i, r'))
        | none => (decodeWord w none).map (fun i => (i, r))
      | none => (decodeWord w none).map (fun i => (i, r))
    else (decodeWord w none).map (fun i => (i, r))

/-- `n` bytes of a number, least significant first. -/
def leBytes : Nat → Nat → List Byte
  | 0, _ => []
  | n + 1, v => BitVec.ofNat 8 v :: leBytes n (v / 256)

/-- The instruction the decoder reads from the bits `w` of the opcode table: words of 32 bits, the first at the lowest
address, each little-endian; bits above `nbits` are 0, so the bytes of four more words of zeros follow. -/
def decodeTableWord (nbits w : Nat) : Option Instr :=
  match decodeBytes (leBytes 20 (w % 2 ^ nbits)) with
  | .ok (i, _) => some i
  | .error _ => none

/-- A word from a number. -/
def iw (n : Nat) : IWord := BitVec.ofNat 32 n

/-- The low ten bits of an SI operand, as the SI word holds them. -/
def Imm.low : Imm → Nat
  | .short i => i.toNat
  | .long v => v.toNat % 1024

/-- The bits of the LX word of an SI operand. -/
def Imm.ext : Imm → Option (BitVec 27)
  | .short _ => none
  | .long v => some (BitVec.ofNat 27 (v.toNat / 1024))

/-- The word of an instruction with E = 0, and the bits of its LX word; none for a step that has no encoding. -/
def encode : Instr → Option (IWord × Option (BitVec 27))
  | .nop => some (iw (0x00000000), none)
  | .add d a b => some (iw (0x00040000 + d.toNat * 4096 + a.toNat * 64 + b.toNat), none)
  | .sub d a b => some (iw (0x00080000 + d.toNat * 4096 + a.toNat * 64 + b.toNat), none)
  | .and d a b => some (iw (0x000C0000 + d.toNat * 4096 + a.toNat * 64 + b.toNat), none)
  | .or d a b => some (iw (0x00100000 + d.toNat * 4096 + a.toNat * 64 + b.toNat), none)
  | .xor d a b => some (iw (0x00140000 + d.toNat * 4096 + a.toNat * 64 + b.toNat), none)
  | .andn d a b => some (iw (0x00180000 + d.toNat * 4096 + a.toNat * 64 + b.toNat), none)
  | .shl d a b => some (iw (0x001C0000 + d.toNat * 4096 + a.toNat * 64 + b.toNat), none)
  | .shr d a b => some (iw (0x00200000 + d.toNat * 4096 + a.toNat * 64 + b.toNat), none)
  | .sra d a b => some (iw (0x00240000 + d.toNat * 4096 + a.toNat * 64 + b.toNat), none)
  | .rol d a b => some (iw (0x00280000 + d.toNat * 4096 + a.toNat * 64 + b.toNat), none)
  | .ror d a b => some (iw (0x002C0000 + d.toNat * 4096 + a.toNat * 64 + b.toNat), none)
  | .mul d a b => some (iw (0x00300000 + d.toNat * 4096 + a.toNat * 64 + b.toNat), none)
  | .mulh d a b => some (iw (0x00340000 + d.toNat * 4096 + a.toNat * 64 + b.toNat), none)
  | .mulhn d a b => some (iw (0x00380000 + d.toNat * 4096 + a.toNat * 64 + b.toNat), none)
  | .div d a b => some (iw (0x003C0000 + d.toNat * 4096 + a.toNat * 64 + b.toNat), none)
  | .divn d a b => some (iw (0x00400000 + d.toNat * 4096 + a.toNat * 64 + b.toNat), none)
  | .rem d a b => some (iw (0x00440000 + d.toNat * 4096 + a.toNat * 64 + b.toNat), none)
  | .remn d a b => some (iw (0x00480000 + d.toNat * 4096 + a.toNat * 64 + b.toNat), none)
  | .min d a b => some (iw (0x004C0000 + d.toNat * 4096 + a.toNat * 64 + b.toNat), none)
  | .max d a b => some (iw (0x00500000 + d.toNat * 4096 + a.toNat * 64 + b.toNat), none)
  | .minn d a b => some (iw (0x00540000 + d.toNat * 4096 + a.toNat * 64 + b.toNat), none)
  | .maxn d a b => some (iw (0x00580000 + d.toNat * 4096 + a.toNat * 64 + b.toNat), none)
  | .ceq d a b => some (iw (0x005C0000 + d.toNat * 4096 + a.toNat * 64 + b.toNat), none)
  | .cne d a b => some (iw (0x00600000 + d.toNat * 4096 + a.toNat * 64 + b.toNat), none)
  | .clt d a b => some (iw (0x00640000 + d.toNat * 4096 + a.toNat * 64 + b.toNat), none)
  | .cle d a b => some (iw (0x00680000 + d.toNat * 4096 + a.toNat * 64 + b.toNat), none)
  | .cltn d a b => some (iw (0x006C0000 + d.toNat * 4096 + a.toNat * 64 + b.toNat), none)
  | .clen d a b => some (iw (0x00700000 + d.toNat * 4096 + a.toNat * 64 + b.toNat), none)
  | .sel d a b => some (iw (0x00740000 + d.toNat * 4096 + a.toNat * 64 + b.toNat), none)
  | .clz d a => some (iw (0x00780000 + d.toNat * 4096 + a.toNat * 64), none)
  | .ctz d a => some (iw (0x007C0000 + d.toNat * 4096 + a.toNat * 64), none)
  | .popc d a => some (iw (0x00800000 + d.toNat * 4096 + a.toNat * 64), none)
  | .brev d a => some (iw (0x00840000 + d.toNat * 4096 + a.toNat * 64), none)
  | .bswap d a => some (iw (0x00880000 + d.toNat * 4096 + a.toNat * 64), none)
  | .exts d a w => some (iw (0x008C0000 + d.toNat * 4096 + a.toNat * 64 + w.toNat), none)
  | .extz d a w => some (iw (0x00900000 + d.toNat * 4096 + a.toNat * 64 + w.toNat), none)
  | .addW d a b => some (iw (0x04040000 + d.toNat * 4096 + a.toNat * 64 + b.toNat), none)
  | .subW d a b => some (iw (0x04080000 + d.toNat * 4096 + a.toNat * 64 + b.toNat), none)
  | .shlW d a b => some (iw (0x041C0000 + d.toNat * 4096 + a.toNat * 64 + b.toNat), none)
  | .shrW d a b => some (iw (0x04200000 + d.toNat * 4096 + a.toNat * 64 + b.toNat), none)
  | .sraW d a b => some (iw (0x04240000 + d.toNat * 4096 + a.toNat * 64 + b.toNat), none)
  | .mulW d a b => some (iw (0x04300000 + d.toNat * 4096 + a.toNat * 64 + b.toNat), none)
  | .divW d a b => some (iw (0x043C0000 + d.toNat * 4096 + a.toNat * 64 + b.toNat), none)
  | .divnW d a b => some (iw (0x04400000 + d.toNat * 4096 + a.toNat * 64 + b.toNat), none)
  | .remW d a b => some (iw (0x04440000 + d.toNat * 4096 + a.toNat * 64 + b.toNat), none)
  | .remnW d a b => some (iw (0x04480000 + d.toNat * 4096 + a.toNat * 64 + b.toNat), none)
  | .addi d a i => some (iw (0x08000000 + d.toNat * 65536 + a.toNat * 1024 + i.low), i.ext)
  | .andi d a i => some (iw (0x08400000 + d.toNat * 65536 + a.toNat * 1024 + i.low), i.ext)
  | .ori d a i => some (iw (0x08800000 + d.toNat * 65536 + a.toNat * 1024 + i.low), i.ext)
  | .xori d a i => some (iw (0x08C00000 + d.toNat * 65536 + a.toNat * 1024 + i.low), i.ext)
  | .shli d a i => some (iw (0x09000000 + d.toNat * 65536 + a.toNat * 1024 + i.low), i.ext)
  | .shri d a i => some (iw (0x09400000 + d.toNat * 65536 + a.toNat * 1024 + i.low), i.ext)
  | .srai d a i => some (iw (0x09800000 + d.toNat * 65536 + a.toNat * 1024 + i.low), i.ext)
  | .muli d a i => some (iw (0x09C00000 + d.toNat * 65536 + a.toNat * 1024 + i.low), i.ext)
  | .ceqi d a i => some (iw (0x0A000000 + d.toNat * 65536 + a.toNat * 1024 + i.low), i.ext)
  | .clti d a i => some (iw (0x0A400000 + d.toNat * 65536 + a.toNat * 1024 + i.low), i.ext)
  | .cltni d a i => some (iw (0x0A800000 + d.toNat * 65536 + a.toNat * 1024 + i.low), i.ext)
  | .movhi d a i => some (iw (0x0AC00000 + d.toNat * 65536 + a.toNat * 1024 + i.low), i.ext)
  | .adpc d i => some (iw (0x0B000000 + d.toNat * 65536 + i.low), i.ext)
  | .addwi d a i => some (iw (0x0B400000 + d.toNat * 65536 + a.toNat * 1024 + i.low), i.ext)
  | .beq a b o => some (iw (0x10000000 + a.toNat * 131072 + b.toNat * 2048 + o.toNat), none)
  | .bne a b o => some (iw (0x10800000 + a.toNat * 131072 + b.toNat * 2048 + o.toNat), none)
  | .blt a b o => some (iw (0x11000000 + a.toNat * 131072 + b.toNat * 2048 + o.toNat), none)
  | .bge a b o => some (iw (0x11800000 + a.toNat * 131072 + b.toNat * 2048 + o.toNat), none)
  | .bltn a b o => some (iw (0x12000000 + a.toNat * 131072 + b.toNat * 2048 + o.toNat), none)
  | .bgen a b o => some (iw (0x12800000 + a.toNat * 131072 + b.toNat * 2048 + o.toNat), none)
  | .jmp o => some (iw (0x14000000 + o.toNat), none)
  | .jal d o => some (iw (0x14800000 + d.toNat * 131072 + o.toNat), none)
  | .jr a o => some (iw (0x15000000 + a.toNat * 131072 + o.toNat), none)
  | .jalr a b o => some (iw (0x15800000 + a.toNat * 131072 + b.toNat * 2048 + o.toNat), none)
  | .loop a o => some (iw (0x16000000 + a.toNat * 131072 + o.toNat), none)
  | .knext => some (iw (0x16800000), none)
  | .endTask => some (iw (0x17000000), none)
  | .trap d o => some (iw (0x17800000 + d.toNat * 131072 + o.toNat), none)
  | .srr d s => some (iw (0x18000000 + d.toNat * 32768 + s.toNat), none)
  | .srw d a s => some (iw (0x18200000 + d.toNat * 32768 + a.toNat * 512 + s.toNat), none)
  | .srs d a s => some (iw (0x18400000 + d.toNat * 32768 + a.toNat * 512 + s.toNat), none)
  | .src d a s => some (iw (0x18600000 + d.toNat * 32768 + a.toNat * 512 + s.toNat), none)
  | .idle d a => some (iw (0x18800000 + d.toNat * 32768 + a.toNat * 512), none)
  | .digest d a z => some (iw (0x18A00000 + d.toNat * 32768 + a.toNat * 512 + z.toNat), none)
  | .brk => some (iw (0x18C00000), none)
  | .eret => some (iw (0x18E00000), none)
  | .tlbi a k => some (iw (0x19000000 + a.toNat * 512 + k.toNat), none)
  | .swctx => some (iw (0x19200000), none)
  | .flushi => some (iw (0x19400000), none)
  | .retime d a r => some (iw (0x19600000 + d.toNat * 32768 + a.toNat * 512 + r.toNat), none)
  | .mma c h j f g v l z p q => some (iw (0x20000000 + c.toNat * 2097152 + h.toNat * 131072 + j.toNat * 8192 + f.toNat * 1024 + g.toNat * 128 + v.toNat * 32 + l.toNat * 16 + z.toNat * 8 + p.toNat * 4 + q.toNat * 2), none)
  | .mmas c h j f g v l z q => some (iw (0x21000000 + c.toNat * 2097152 + h.toNat * 131072 + j.toNat * 8192 + f.toNat * 1024 + g.toNat * 128 + v.toNat * 32 + l.toNat * 16 + z.toNat * 8 + q.toNat * 2), none)
  | .mmag c h j f g v l z p q => some (iw (0x22000000 + c.toNat * 2097152 + h.toNat * 131072 + j.toNat * 8192 + f.toNat * 1024 + g.toNat * 128 + v.toNat * 32 + l.toNat * 16 + z.toNat * 8 + p.toNat * 4 + q.toNat * 2), none)
  | .mhad c h n => some (iw (0x23000000 + c.toNat * 2097152 + h.toNat * 131072 + n.toNat), none)
  | .mzero c k => some (iw (0x24000000 + c.toNat * 2097152 + k.toNat), none)
  | .mdrain c h j f k u w r d => some (iw (0x25000000 + c.toNat * 2097152 + h.toNat * 131072 + j.toNat * 8192 + f.toNat * 1024 + k.toNat * 512 + u.toNat * 256 + w.toNat * 128 + r.toNat * 32 + d.toNat), none)
  | .mload c h v k => some (iw (0x26000000 + c.toNat * 2097152 + h.toNat * 131072 + v.toNat * 32 + k.toNat), none)
  | .ecw a b => some (iw (0x28000000 + a.toNat * 4096 + b.toNat * 64), none)
  | .ecr a b => some (iw (0x28040000 + a.toNat * 4096 + b.toNat * 64), none)
  | .cpy a b m c => some (iw (0x29000000 + a.toNat * 4096 + b.toNat * 64 + m.toNat * 4 + c.toNat), none)
  | .cpyx a c => some (iw (0x29040000 + a.toNat * 4096 + c.toNat), none)
  | .gcfg a s => some (iw (0x2A000000 + a.toNat * 4096 + s.toNat), none)
  | .ctblk a k => some (iw (0x2B000000 + a.toNat * 4096 + k.toNat), none)
  | .ctsnap a k => some (iw (0x2B040000 + a.toNat * 4096 + k.toNat), none)
  | .ctqry a b k => some (iw (0x2B080000 + a.toNat * 4096 + b.toNat * 64 + k.toNat), none)
  | .ctstep k => some (iw (0x2B0C0000 + k.toNat), none)
  | .ctclr a k => some (iw (0x2B100000 + a.toNat * 4096 + k.toNat), none)
  | .ctsave a => some (iw (0x2B140000 + a.toNat * 4096), none)
  | .ctload a => some (iw (0x2B180000 + a.toNat * 4096), none)
  | .kvcommit a b c => some (iw (0x2C000000 + a.toNat * 4096 + b.toNat * 64 + c.toNat), none)
  | .kvreset a b c => some (iw (0x2C040000 + a.toNat * 4096 + b.toNat * 64 + c.toNat), none)
  | .xbind a b => some (iw (0x2D000000 + a.toNat * 4096 + b.toNat * 64), none)
  | .xstat a b => some (iw (0x2D040000 + a.toNat * 4096 + b.toNat * 64), none)
  | .rcfg a b r => some (iw (0x2E000000 + a.toNat * 4096 + b.toNat * 64 + r.toNat), none)
  | .rrst r => some (iw (0x2E040000 + r.toNat), none)
  | .hcfg a k => some (iw (0x2F000000 + a.toNat * 4096 + k.toNat), none)
  | .harm a k => some (iw (0x2F040000 + a.toNat * 4096 + k.toNat), none)
  | .hread a b k => some (iw (0x2F080000 + a.toNat * 4096 + b.toNat * 64 + k.toNat), none)
  | .vadd f m d a b => some (iw (0x30000000 + f.toNat * 262144 + m.toNat * 32768 + d.toNat * 1024 + a.toNat * 32 + b.toNat), none)
  | .vsub f m d a b => some (iw (0x30200000 + f.toNat * 262144 + m.toNat * 32768 + d.toNat * 1024 + a.toNat * 32 + b.toNat), none)
  | .vmul f m d a b => some (iw (0x30400000 + f.toNat * 262144 + m.toNat * 32768 + d.toNat * 1024 + a.toNat * 32 + b.toNat), none)
  | .vfma f m d a b => some (iw (0x30600000 + f.toNat * 262144 + m.toNat * 32768 + d.toNat * 1024 + a.toNat * 32 + b.toNat), none)
  | .vfms f m d a b => some (iw (0x30800000 + f.toNat * 262144 + m.toNat * 32768 + d.toNat * 1024 + a.toNat * 32 + b.toNat), none)
  | .vfnma f m d a b => some (iw (0x30A00000 + f.toNat * 262144 + m.toNat * 32768 + d.toNat * 1024 + a.toNat * 32 + b.toNat), none)
  | .vmin f m d a b => some (iw (0x30C00000 + f.toNat * 262144 + m.toNat * 32768 + d.toNat * 1024 + a.toNat * 32 + b.toNat), none)
  | .vmax f m d a b => some (iw (0x30E00000 + f.toNat * 262144 + m.toNat * 32768 + d.toNat * 1024 + a.toNat * 32 + b.toNat), none)
  | .vabs f m d a => some (iw (0x31000000 + f.toNat * 262144 + m.toNat * 32768 + d.toNat * 1024 + a.toNat * 32), none)
  | .vneg f m d a => some (iw (0x31200000 + f.toNat * 262144 + m.toNat * 32768 + d.toNat * 1024 + a.toNat * 32), none)
  | .vand f m d a b => some (iw (0x31400000 + f.toNat * 262144 + m.toNat * 32768 + d.toNat * 1024 + a.toNat * 32 + b.toNat), none)
  | .vor f m d a b => some (iw (0x31600000 + f.toNat * 262144 + m.toNat * 32768 + d.toNat * 1024 + a.toNat * 32 + b.toNat), none)
  | .vxor f m d a b => some (iw (0x31800000 + f.toNat * 262144 + m.toNat * 32768 + d.toNat * 1024 + a.toNat * 32 + b.toNat), none)
  | .vnot f m d a => some (iw (0x31A00000 + f.toNat * 262144 + m.toNat * 32768 + d.toNat * 1024 + a.toNat * 32), none)
  | .vshl f m d a b => some (iw (0x31C00000 + f.toNat * 262144 + m.toNat * 32768 + d.toNat * 1024 + a.toNat * 32 + b.toNat), none)
  | .vshr f m d a b => some (iw (0x31E00000 + f.toNat * 262144 + m.toNat * 32768 + d.toNat * 1024 + a.toNat * 32 + b.toNat), none)
  | .vsra f m d a b => some (iw (0x32000000 + f.toNat * 262144 + m.toNat * 32768 + d.toNat * 1024 + a.toNat * 32 + b.toNat), none)
  | .vmov f m d a => some (iw (0x32200000 + f.toNat * 262144 + m.toNat * 32768 + d.toNat * 1024 + a.toNat * 32), none)
  | .vsel f m d a b => some (iw (0x32400000 + f.toNat * 262144 + m.toNat * 32768 + d.toNat * 1024 + a.toNat * 32 + b.toNat), none)
  | .vceq f m d a b => some (iw (0x32600000 + f.toNat * 262144 + m.toNat * 32768 + d.toNat * 1024 + a.toNat * 32 + b.toNat), none)
  | .vcne f m d a b => some (iw (0x32800000 + f.toNat * 262144 + m.toNat * 32768 + d.toNat * 1024 + a.toNat * 32 + b.toNat), none)
  | .vclt f m d a b => some (iw (0x32A00000 + f.toNat * 262144 + m.toNat * 32768 + d.toNat * 1024 + a.toNat * 32 + b.toNat), none)
  | .vcle f m d a b => some (iw (0x32C00000 + f.toNat * 262144 + m.toNat * 32768 + d.toNat * 1024 + a.toNat * 32 + b.toNat), none)
  | .vscaleb f m d a b => some (iw (0x32E00000 + f.toNat * 262144 + m.toNat * 32768 + d.toNat * 1024 + a.toNat * 32 + b.toNat), none)
  | .vexpo f m d a => some (iw (0x33000000 + f.toNat * 262144 + m.toNat * 32768 + d.toNat * 1024 + a.toNat * 32), none)
  | .vcvt f m d a p s => some (iw (0x38000000 + f.toNat * 262144 + m.toNat * 32768 + d.toNat * 1024 + a.toNat * 32 + p.toNat * 8 + s.toNat), none)
  | .vcvts f m d a p s => some (iw (0x38200000 + f.toNat * 262144 + m.toNat * 32768 + d.toNat * 1024 + a.toNat * 32 + p.toNat * 8 + s.toNat), none)
  | .vrmax f m d a => some (iw (0x38400000 + f.toNat * 262144 + m.toNat * 32768 + d.toNat * 1024 + a.toNat * 32), none)
  | .vrmin f m d a => some (iw (0x38600000 + f.toNat * 262144 + m.toNat * 32768 + d.toNat * 1024 + a.toNat * 32), none)
  | .vrsum f m d a => some (iw (0x38800000 + f.toNat * 262144 + m.toNat * 32768 + d.toNat * 1024 + a.toNat * 32), none)
  | .vrssq f m d a => some (iw (0x38A00000 + f.toNat * 262144 + m.toNat * 32768 + d.toNat * 1024 + a.toNat * 32), none)
  | .vramax f m d a => some (iw (0x38C00000 + f.toNat * 262144 + m.toNat * 32768 + d.toNat * 1024 + a.toNat * 32), none)
  | .vrarg f m d a => some (iw (0x38E00000 + f.toNat * 262144 + m.toNat * 32768 + d.toNat * 1024 + a.toNat * 32), none)
  | .vcsum f m d a => some (iw (0x39000000 + f.toNat * 262144 + m.toNat * 32768 + d.toNat * 1024 + a.toNat * 32), none)
  | .vscan f m d a => some (iw (0x39200000 + f.toNat * 262144 + m.toNat * 32768 + d.toNat * 1024 + a.toNat * 32), none)
  | .vbrow f m d a => some (iw (0x39400000 + f.toNat * 262144 + m.toNat * 32768 + d.toNat * 1024 + a.toNat * 32), none)
  | .vbcol f m d a => some (iw (0x39600000 + f.toNat * 262144 + m.toNat * 32768 + d.toNat * 1024 + a.toNat * 32), none)
  | .vsplat f m d a => some (iw (0x39800000 + f.toNat * 262144 + m.toNat * 32768 + d.toNat * 1024 + a.toNat * 32), none)
  | .vins f d a b => some (iw (0x39A00000 + f.toNat * 262144 + d.toNat * 1024 + a.toNat * 32 + b.toNat), none)
  | .vext f d a b => some (iw (0x39C00000 + f.toNat * 262144 + d.toNat * 1024 + a.toNat * 32 + b.toNat), none)
  | .vperm f m d a b => some (iw (0x39E00000 + f.toNat * 262144 + m.toNat * 32768 + d.toNat * 1024 + a.toNat * 32 + b.toNat), none)
  | .vtrans f m d a => some (iw (0x3A000000 + f.toNat * 262144 + m.toNat * 32768 + d.toNat * 1024 + a.toNat * 32), none)
  | .viota f m d => some (iw (0x3A200000 + f.toNat * 262144 + m.toNat * 32768 + d.toNat * 1024), none)
  | .vrand f m d a => some (iw (0x3A400000 + f.toNat * 262144 + m.toNat * 32768 + d.toNat * 1024 + a.toNat * 32), none)
  | .voxd f m d a b => some (iw (0x3A600000 + f.toNat * 262144 + m.toNat * 32768 + d.toNat * 1024 + a.toNat * 32 + b.toNat), none)
  | .voxe f d a b => some (iw (0x3A800000 + f.toNat * 262144 + d.toNat * 1024 + a.toNat * 32 + b.toNat), none)
  | .mand d a b => some (iw (0x40000000 + d.toNat * 1024 + a.toNat * 32 + b.toNat), none)
  | .mor d a b => some (iw (0x40200000 + d.toNat * 1024 + a.toNat * 32 + b.toNat), none)
  | .mxor d a b => some (iw (0x40400000 + d.toNat * 1024 + a.toNat * 32 + b.toNat), none)
  | .mnot d a => some (iw (0x40600000 + d.toNat * 1024 + a.toNat * 32), none)
  | .mpopc f d a => some (iw (0x40800000 + f.toNat * 262144 + d.toNat * 1024 + a.toNat * 32), none)
  | .vtree f m d a b => some (iw (0x40A00000 + f.toNat * 262144 + m.toNat * 32768 + d.toNat * 1024 + a.toNat * 32 + b.toNat), none)
  | .ppinit d => some (iw (0x40C00000 + d.toNat * 1024), none)
  | .ppdeg d a => some (iw (0x40E00000 + d.toNat * 1024 + a.toNat * 32), none)
  | .ppmul f m d a b => some (iw (0x41000000 + f.toNat * 262144 + m.toNat * 32768 + d.toNat * 1024 + a.toNat * 32 + b.toNat), none)
  | .ppdiv f m d a b => some (iw (0x41200000 + f.toNat * 262144 + m.toNat * 32768 + d.toNat * 1024 + a.toNat * 32 + b.toNat), none)
  | .pprd f m d a b => some (iw (0x41400000 + f.toNat * 262144 + m.toNat * 32768 + d.toNat * 1024 + a.toNat * 32 + b.toNat), none)
  | .ppscale d a => some (iw (0x41600000 + d.toNat * 1024 + a.toNat * 32), none)
  | .ppstat d a => some (iw (0x41800000 + d.toNat * 1024 + a.toNat * 32), none)
  | .fexp2 f m d a => some (iw (0x48000000 + f.toNat * 524288 + m.toNat * 65536 + d.toNat * 2048 + a.toNat * 64), none)
  | .fexp2m f m d a b => some (iw (0x48400000 + f.toNat * 524288 + m.toNat * 65536 + d.toNat * 2048 + a.toNat * 64 + b.toNat * 2), none)
  | .flog2 f m d a => some (iw (0x48800000 + f.toNat * 524288 + m.toNat * 65536 + d.toNat * 2048 + a.toNat * 64), none)
  | .frcp f m d a => some (iw (0x48C00000 + f.toNat * 524288 + m.toNat * 65536 + d.toNat * 2048 + a.toNat * 64), none)
  | .frsq f m d a => some (iw (0x49000000 + f.toNat * 524288 + m.toNat * 65536 + d.toNat * 2048 + a.toNat * 64), none)
  | .fsqrt f m d a => some (iw (0x49400000 + f.toNat * 524288 + m.toNat * 65536 + d.toNat * 2048 + a.toNat * 64), none)
  | .fsin f m d a => some (iw (0x49800000 + f.toNat * 524288 + m.toNat * 65536 + d.toNat * 2048 + a.toNat * 64), none)
  | .fcos f m d a => some (iw (0x49C00000 + f.toNat * 524288 + m.toNat * 65536 + d.toNat * 2048 + a.toNat * 64), none)
  | .ftanh f m d a => some (iw (0x4A000000 + f.toNat * 524288 + m.toNat * 65536 + d.toNat * 2048 + a.toNat * 64), none)
  | .fsigm f m d a => some (iw (0x4A400000 + f.toNat * 524288 + m.toNat * 65536 + d.toNat * 2048 + a.toNat * 64), none)
  | .ferf f m d a => some (iw (0x4A800000 + f.toNat * 524288 + m.toNat * 65536 + d.toNat * 2048 + a.toNat * 64), none)
  | .fsilu f m d a => some (iw (0x4AC00000 + f.toNat * 524288 + m.toNat * 65536 + d.toNat * 2048 + a.toNat * 64), none)
  | .ldb d a o => some (iw (0x50000000 + d.toNat * 65536 + a.toNat * 1024 + o.toNat), none)
  | .ldh d a o => some (iw (0x50400000 + d.toNat * 65536 + a.toNat * 1024 + o.toNat), none)
  | .ldw d a o => some (iw (0x50800000 + d.toNat * 65536 + a.toNat * 1024 + o.toNat), none)
  | .ldd d a o => some (iw (0x50C00000 + d.toNat * 65536 + a.toNat * 1024 + o.toNat), none)
  | .ldbn d a o => some (iw (0x51000000 + d.toNat * 65536 + a.toNat * 1024 + o.toNat), none)
  | .ldhn d a o => some (iw (0x51400000 + d.toNat * 65536 + a.toNat * 1024 + o.toNat), none)
  | .ldwn d a o => some (iw (0x51800000 + d.toNat * 65536 + a.toNat * 1024 + o.toNat), none)
  | .stb d a o => some (iw (0x51C00000 + d.toNat * 65536 + a.toNat * 1024 + o.toNat), none)
  | .sth d a o => some (iw (0x52000000 + d.toNat * 65536 + a.toNat * 1024 + o.toNat), none)
  | .stw d a o => some (iw (0x52400000 + d.toNat * 65536 + a.toNat * 1024 + o.toNat), none)
  | .std d a o => some (iw (0x52800000 + d.toNat * 65536 + a.toNat * 1024 + o.toNat), none)
  | .vld d a o => some (iw (0x52C00000 + d.toNat * 65536 + a.toNat * 1024 + o.toNat), none)
  | .vst d a o => some (iw (0x53000000 + d.toNat * 65536 + a.toNat * 1024 + o.toNat), none)
  | .vldx d a o => some (iw (0x53400000 + d.toNat * 65536 + a.toNat * 1024 + o.toNat), none)
  | .ldf d a o => some (iw (0x53800000 + d.toNat * 65536 + a.toNat * 1024 + o.toNat), none)
  | .ppsave d a o => some (iw (0x53C00000 + d.toNat * 65536 + a.toNat * 1024 + o.toNat), none)
  | .ppload d a o => some (iw (0x54000000 + d.toNat * 65536 + a.toNat * 1024 + o.toNat), none)
  | .aadd d a b s r => some (iw (0x58000000 + d.toNat * 65536 + a.toNat * 1024 + b.toNat * 16 + s.toNat * 2 + r.toNat), none)
  | .amin d a b s r => some (iw (0x58400000 + d.toNat * 65536 + a.toNat * 1024 + b.toNat * 16 + s.toNat * 2 + r.toNat), none)
  | .amax d a b s r => some (iw (0x58800000 + d.toNat * 65536 + a.toNat * 1024 + b.toNat * 16 + s.toNat * 2 + r.toNat), none)
  | .aminn d a b s r => some (iw (0x58C00000 + d.toNat * 65536 + a.toNat * 1024 + b.toNat * 16 + s.toNat * 2 + r.toNat), none)
  | .amaxn d a b s r => some (iw (0x59000000 + d.toNat * 65536 + a.toNat * 1024 + b.toNat * 16 + s.toNat * 2 + r.toNat), none)
  | .aand d a b s r => some (iw (0x59400000 + d.toNat * 65536 + a.toNat * 1024 + b.toNat * 16 + s.toNat * 2 + r.toNat), none)
  | .aor d a b s r => some (iw (0x59800000 + d.toNat * 65536 + a.toNat * 1024 + b.toNat * 16 + s.toNat * 2 + r.toNat), none)
  | .axor d a b s r => some (iw (0x59C00000 + d.toNat * 65536 + a.toNat * 1024 + b.toNat * 16 + s.toNat * 2 + r.toNat), none)
  | .aswap d a b s r => some (iw (0x5A000000 + d.toNat * 65536 + a.toNat * 1024 + b.toNat * 16 + s.toNat * 2 + r.toNat), none)
  | .acas d a b s r => some (iw (0x5A400000 + d.toNat * 65536 + a.toNat * 1024 + b.toNat * 16 + s.toNat * 2 + r.toNat), none)
  | .agts d a b s r => some (iw (0x5A800000 + d.toNat * 65536 + a.toNat * 1024 + b.toNat * 16 + s.toNat * 2 + r.toNat), none)
  | .agtsn d a b s r => some (iw (0x5AC00000 + d.toNat * 65536 + a.toNat * 1024 + b.toNat * 16 + s.toNat * 2 + r.toNat), none)
  | .avswap d a b s r => some (iw (0x5B000000 + d.toNat * 65536 + a.toNat * 1024 + b.toNat * 16 + s.toNat * 2 + r.toNat), none)
  | .atagswap d a b s r => some (iw (0x5B400000 + d.toNat * 65536 + a.toNat * 1024 + b.toNat * 16 + s.toNat * 2 + r.toNat), none)
  | .afadd d a b s r => some (iw (0x5B800000 + d.toNat * 65536 + a.toNat * 1024 + b.toNat * 16 + s.toNat * 2 + r.toNat), none)
  | .ldacq d a s => some (iw (0x5BC00000 + d.toNat * 65536 + a.toNat * 1024 + s.toNat * 2), none)
  | .strel a b s => some (iw (0x5C000000 + a.toNat * 1024 + b.toNat * 16 + s.toNat * 2), none)
  | .fence a m s => some (iw (0x60000000 + a.toNat * 32768 + m.toNat * 8 + s.toNat), none)
  | .fwait a k => some (iw (0x60200000 + a.toNat * 32768 + k.toNat), none)
  | .bar a s k => some (iw (0x60400000 + a.toNat * 32768 + s.toNat * 32 + k.toNat), none)
  | .bara a s => some (iw (0x60600000 + a.toNat * 32768 + s.toNat * 32), none)
  | .barw a s k => some (iw (0x60800000 + a.toNat * 32768 + s.toNat * 32 + k.toNat), none)
  | .barq a s => some (iw (0x60A00000 + a.toNat * 32768 + s.toNat * 32), none)
  | .sbar c => some (iw (0x60C00000 + c.toNat), none)
  | .hwait a h k => some (iw (0x60E00000 + a.toNat * 32768 + h.toNat * 512 + k.toNat), none)
  | .rwait a h f k => some (iw (0x61000000 + a.toNat * 32768 + h.toNat * 512 + f.toNat * 32 + k.toNat), none)
  | .radvp h n => some (iw (0x61200000 + h.toNat * 512 + n.toNat), none)
  | .radvc h n => some (iw (0x61400000 + h.toNat * 512 + n.toNat), none)
  | .enq a b => some (iw (0x61600000 + a.toNat * 32768 + b.toNat * 512), none)
  | .deq a b => some (iw (0x61800000 + a.toNat * 32768 + b.toNat * 512), none)
  | .qwait a k => some (iw (0x61A00000 + a.toNat * 32768 + k.toNat), none)
  | .stbind a w n => some (iw (0x61C00000 + a.toNat * 32768 + w.toNat * 8 + n.toNat), none)
  | .stunb n => some (iw (0x61E00000 + n.toNat), none)
  | .penn a b s => some (iw (0x62000000 + a.toNat * 32768 + b.toNat * 512 + s.toNat), none)
  | .residencySwitch _ => none
  | .idleCoreDispatch _ => none
  | .idleTimeout _ => none
  | .periodBoundary _ => none
  | .sampleArrival _ _ _ _ => none
  | .missedSampleTime _ => none
  | .regionResumption _ => none
  | .outputSampleTime _ => none
  | .railSwitchEnd _ => none
  | .energyBucketUpdate _ => none
  | .ballastPass _ => none
  | .hoistReach _ _ _ => none
  | .pendingSlotActionRelease _ _ _ => none
  | .barrierCompletion _ _ _ => none
  | .registerDataArrival _ => none
  | .waitLimitExpiry _ => none
  | .matrixCommandStart _ => none
  | .matrixCommandEnd _ => none
  | .matrixWaitLimitExpiry _ => none
  | .copyBegin _ _ => none
  | .chunkCommit _ _ => none
  | .copyChunkFault _ _ => none
  | .copyCompletionAction _ _ => none
  | .watermarkWaitLimitExpiry _ _ => none
  | .copyCancelComplete _ _ => none
  | .apertureCommandArrival _ _ _ => none
  | .contactCommandStart _ => none
  | .streamTransfer _ _ _ => none
  | .fabricWrite _ => none
  | .fabricAtomic _ => none
  | .fabricRead _ => none
  | .enqueueRequest _ => none
  | .launchPacketTake _ => none
  | .launchCompletion _ => none
  | .hostWindowSubmit _ _ => none
  | .queueEnable _ _ => none
  | .queueDisable _ _ => none
  | .queueSwapOut _ _ => none
  | .queueSwapIn _ _ => none
  | .queueGenerationChange _ _ => none
  | .hbmStackFailure _ => none
  | .preemptSave _ _ => none
  | .saveComplete _ => none
  | .preemptRestore _ _ => none
  | .restoreComplete _ => none
  | .partitionEntryCommit _ _ => none
  | .clusterEntryCommit _ _ => none
  | .sourceEnable _ _ => none
  | .sourceDisable _ _ => none
  | .rateEntryCommit _ _ => none
  | .crossingEnable _ _ => none
  | .crossingDisable _ _ => none
  | .regionStatusClear _ _ => none
  | .powerEntryCommit _ => none
  | .replicaRelease _ => none
  | .replicaDiscard _ => none
  | .replicaDigestArrival _ _ _ => none
  | .replicaDigestTimeout _ => none
  | .loaderLoad _ _ => none
  | .loaderUnload _ _ => none
  | .loadDone _ => none
  | .constantStoreWrite _ _ => none
  | .bar4Access _ _ => none
  | .registerWrite _ _ => none
  | .firmwareStart _ => none
  | .perst _ => none
  | .trainingDone _ _ => none
  | .tagsDone => none
  | .selftestDone _ => none
  | .lockingDone _ => none
  | .cxlExpanderLoss _ _ _ => none
  | .gxlPortFailure _ => none
  | .scrubRead _ _ => none
  | .powerLoss => none
  | .mirrorCopyComplete _ _ => none
  | .swapInCopyComplete _ => none
  | .packetStagingWrite _ _ _ => none

/-- The words of an instruction in order, the last with E = `e` (R139). -/
def encodeWords (i : Instr) (e : Bool) : List IWord :=
  match encode i with
  | none => []
  | some (w, none) => [iw (w.toNat + (if e then 2147483648 else 0))]
  | some (w, some x) => [w, iw (0x68000000 + x.toNat + (if e then 2147483648 else 0))]

end Sys2Proof
end

