-- ==== Sys2Proof/Config.lean ====
section
/-!
DEFINITION. The values that the specification leaves open: constants without a body, applied to a counter of the state,
so that no proof can use a value of them.
-/

namespace Sys2Proof

/-- The nanoseconds by which `$wall` advances across one step (R24, R386): the reference clock runs beside the regions, and
nothing ties it to a region cycle or to an event. -/
opaque Config.wallStep : Nat → BitVec 32

/-- Data that a double-bit error leaves in a word of HBM or CXL memory read by a slot: the stored bits or all ones (R367).
-/
opaque Config.poison : Nat → Bool

/-- What an engine works with in place of bytes that it does not read: a read that a DET conflict stopped (R138), the end of a
row longer than its pitch (R238). -/
opaque Config.unread : Nat → Nat

/-- The sum of a group of s8 products of which one has a NaN element (R91, R242). -/
opaque Config.nanSum : Nat → BitVec 32

/-- How far a step of the power cap moves the clock ceilings, in 65,536ths (R392). -/
opaque Config.capStep : Nat → BitVec 16

/-- Whether a word of a save image that is written while a RESTORE reads it is read as its new value (R335). -/
opaque Config.torn : Nat → Bool

end Sys2Proof
end

