-- ==== Sys2Proof/Machine/State.lean ====
section
/-!
DEFINITION. The state of the device: everything the specification gives the machine, as plain data, and the state
right after reset. Registers keep the manual's names and widths. Times are cycle numbers of the owning region.
-/

namespace Sys2Proof.Machine

/-- No event of this hardware stops the machine: a context that can run no further is halted (R359) and a region that
loses its source freezes (R18), and both are states. The one constructor keeps the type inhabited; nothing raises it. -/
inductive Fault where
  /-- Raised by nothing; safe. -/
  | unreachable
deriving DecidableEq, Repr

/-- Why an instruction has no meaning. -/
inductive Refusal where
  /-- An arm of `exec` that has no meaning yet, by mnemonic. Raised only there; safe. -/
  | notModelled (mnemonic : String)
deriving DecidableEq, Repr

/-! ### Small enumerations -/

/-- The kind tag of an accumulator tile (R236). -/
inductive Tag where
  | f | i | x
deriving DecidableEq, Repr

/-- The states of a loop record (R63). -/
inductive RecSt where
  | waiting | ready | running | suspended | skipped | done
deriving DecidableEq, Repr

/-- The states of a region's source (Table 21.4). -/
inductive Src where
  | off | locking | locked | fast | holdover | frozen | relock
deriving DecidableEq, Repr

/-- The states of a copy channel (Table 11.8). -/
inductive ChSt where
  | idle | active | suspended | cancelling
deriving DecidableEq, Repr

/-- The bring-up states (Table 23.8). -/
inductive Boot where
  | reset | firmware | training | tags | selftest | locking | ready | failed
deriving DecidableEq, Repr

/-- The pre-emption states (Table 18.3). -/
inductive PreSt where
  | idle | pending | saving | saved | restoring | resumed | refused
deriving DecidableEq, Repr

/-- The states of a replica entry (Table 20.8). -/
inductive RepSt where
  | idle | waiting | matched | mismatch
deriving DecidableEq, Repr

/-- The operation classes of Table 6.1 that travel as messages; `post` is a pennant of a record, a hoist or a command. -/
inductive Cls where
  | ld | st | at | acq | rel | acqrel | ew | str | pen | post
deriving DecidableEq, Repr

/-- The page kinds (R111). -/
inductive PKind where
  | rc | so | uo
deriving DecidableEq, Repr

/-- A register that an instruction writes. -/
inductive Reg where
  | g (n : BitVec 6)
  | v (n : BitVec 5)
  | m (n : BitVec 3)
  | sys (n : BitVec 9)
deriving DecidableEq, Repr

/-- A register or polynomial that a lateral or far load can keep busy (R103, R274). -/
inductive BusyReg where
  | g (n : BitVec 6)
  | v (n : BitVec 5)
  | q (n : BitVec 3)
deriving DecidableEq, Repr

/-! ### One residency context (Table 17.4) -/

/-- A polynomial q0 to q7 (R265). -/
structure Poly where
  c : Table (BitVec 48)
  e : BitVec 16
  d : BitVec 6
  n : BitVec 16
  t : Bool
  x : Bool
  ov : Bool
  uf : Bool
deriving DecidableEq, Repr

/-- A register write in flight (R155) or in the latency shadow (R159): the bits of `value` under `mask` replace those of
the register. `due` is the cycle it performs, in the shadow the distance d. `flags` go to `$flags`, or to `$mxstat`. -/
structure RegWrite where
  reg : Reg
  value : BitVec 4096
  mask : BitVec 4096
  flags : BitVec 5
  toMx : Bool
  due : Nat
  seq : Nat
  slot : Nat
  issued : Nat
deriving DecidableEq, Repr

/-- A ring (Table 5.6). -/
structure Ring where
  conf : Bool
  base : Word
  slots : BitVec 16
  slotsize : BitVec 24
  p : BitVec 9
  q : BitVec 9
  rel : Nat                         -- pending slot actions the next cycle releases (R114)
  relNow : Nat                      -- those this cycle releases
deriving DecidableEq, Repr

/-- A hoist (R117 to R119, Table 11.11): the installed descriptor, the key of its base in memory, the live state, the
stamps of the pending slot actions, whether HCFG changed a total fixed in the image, and whether a reach is held back
while 256 actions pend (R114). -/
structure Hoist where
  installed : Bool
  desc : BitVec 320
  home : Nat
  err : Bool
  armed : Bool
  count : BitVec 40
  reach : BitVec 32
  pend : List Nat
  fixed : Bool
  changed : Bool
  held : Bool
deriving DecidableEq, Repr

/-- A failed check of a stream that the next bundle naming the register meets (R228): trap code, cause, argument. -/
structure StreamFail where
  code : BitVec 8
  cause : BitVec 8
  arg : Word
deriving DecidableEq, Repr

/-- A binding of v24 to v31 (R115, R228): the descriptor, whether it has been read, the registers that the transfer unit
moved, those that bundles took or gave, the data between them, and for a port stream its next sample position. -/
structure Stream where
  id : Nat                          -- number of its STBIND
  reg : Nat                         -- the register, 24 to 31
  write : Bool
  addr : Word
  read : Bool
  desc : BitVec 512
  moved : Nat
  taken : Nat
  data : List (BitVec 4096)
  fail : Option StreamFail
  pos : Nat
  bound : Bool
deriving DecidableEq, Repr

/-- A fence not yet known complete (R218): number, the covered messages, near accesses and commands, and the covered
streams with the registers that must have moved. -/
structure Fence where
  num : BitVec 16
  covers : List Nat
  streams : List (Nat × Nat)
deriving DecidableEq, Repr

/-- A contact block declaration (R275). -/
structure Block where
  desc : BitVec 208
  declared : Bool
  err : Bool
deriving DecidableEq, Repr

/-- A loop record (Table 3.1) with its dynamic state (R333), and what tells the effects of its task apart (R62): `since`
and `runs` are the numbers issued while it runs and while it ran before, `base` the stream registers written when it came
to run last, `marks` those that it wrote before. -/
structure Rec where
  bits : BitVec 512
  st : RecSt
  n : BitVec 32
  epi : Bool
  covf : Bool
  iovf : Bool
  credits : BitVec 16
  used : Table (BitVec 32)
  ok : Bool                         -- hoists, credit as choices of this cycle see them (R67, R320)
  skip : Bool                       -- the guard skips it, as seen likewise (R68)
  since : Nat
  runs : List (Nat × Nat)
  base : List (Nat × Nat)
  marks : List (Nat × Nat)
deriving DecidableEq, Repr

/-- What stands for a record that a table does not hold. -/
def Rec.blank : Rec := ⟨0, .done, 0, false, false, false, 0, [], false, false, 0, [], [], []⟩

/-- A completion pennant of a record that waits for the effects of its task (R62). -/
structure RecPen where
  record : Nat
  addr : Word
  value : Word
  after : List Nat
  streams : List (Nat × Nat)
deriving DecidableEq, Repr

/-- A stall in progress (R157, R217): WAIT_LIMIT cause, object, the bundle's pc and the cycles stalled. -/
structure Stall where
  cause : BitVec 8
  obj : BitVec 16
  pc : Word
  cycles : Nat
deriving DecidableEq, Repr

/-- A DIGEST under way (R177, R178): its bundle, issue cycle, range, reset flag and the words read, by index. -/
structure Dig where
  pc : Word
  slot : Nat                        -- word index in its bundle
  issue : Nat
  va : Word
  len : Nat
  z : Bool
  got : Table Nat
deriving DecidableEq, Repr

/-- An unreported fault record held in the queue (R362, R363): its slot, its key (code, object, granule, phase) for
coalescing, and its 64 bytes. -/
structure FRec where
  stamp : Nat
  slot : BitVec 6
  key : Nat
  bits : BitVec 512
deriving DecidableEq, Repr

/-- An access of an engine or a transfer unit that met a DET conflict and did not perform (R138): cause, granule, the other
agent, the command or binding, the bundle and word it belongs to, and the ranges that the command writes, by key. -/
structure DetStop where
  cause : BitVec 8
  granule : Nat
  other : Option (Nat × BitVec 1)
  cmd : Option Nat
  pc : Word
  slot : Nat
  feeds : List (Nat × Nat)
deriving DecidableEq, Repr

/-- A TLBI that has dropped its entries and waits for what used them (R347): its bundle, the messages, and the chunks by
core, channel, command and number. -/
structure TlbiWait where
  pc : Word
  msgs : List Nat
  chunks : List (Nat × Nat × Nat × Nat)
deriving DecidableEq, Repr

/-- A residency context. -/
structure Ctx where
  g : Table Word
  v : Table (BitVec 4096)
  m : Table (BitVec 512)
  acc : Table (BitVec 131072)
  tag : Table Tag
  q : Table Poly
  qbusy : Table Nat                 -- polynomial busy until this cycle (PPMUL, PPDIV, near PPLOAD; R267)
  pc : Word
  lact : Bool
  lbeg : Word
  lend : Word
  lcnt : Word
  lvl : BitVec 2
  halted : Bool
  busy : List (BusyReg × Nat)       -- busy bit and the message that clears it (R103)
  abandoned : List BusyReg          -- abandoned bits (R332, R335)
  writes : List RegWrite
  shadow : List RegWrite
  -- system registers of the context (Tables 7.5 and 17.2)
  flags : BitVec 5
  round : BitVec 3
  vshape : BitVec 3
  pitch : BitVec 26
  seg : BitVec 2
  fxq : BitVec 8
  satf : Bool
  fx : Bool
  mxstat : BitVec 8
  raised : BitVec 5                 -- flags of this cycle, which enter `$flags` at its end (R89)
  raisedMx : BitVec 8               -- and those of `$mxstat` (R235)
  key : Word
  tile : Word
  bracket : Word
  dmem : BitVec 5
  lid : Word
  energy : BitVec 48
  esat : Bool
  fqCount : BitVec 7
  fqBase : BitVec 45
  fqHead : BitVec 6
  fqOvf : Bool
  d0 : BitVec 32
  d1 : BitVec 32
  d2 : BitVec 32
  d3 : BitVec 32
  evsel : Table (BitVec 10)
  evcnt : Table (BitVec 49)
  ctthr : Table (BitVec 32)
  tvec : Word
  tret : Word
  tcause : BitVec 20
  targ : Word
  tscr : Word
  ptroot : BitVec 40
  pten : Bool
  asid : BitVec 16
  -- synchronisation
  fenceNo : BitVec 16
  fences : List Fence
  arrived : List (BitVec 3)
  barWait : List (BitVec 3 × BitVec 32 × Word)   -- BARs that wait: scope, count at the arrival, bundle
  tlbiWait : Option TlbiWait
  sbars : List (BitVec 3 × List (Nat × Nat))
  -- rings, hoists, engine configurations
  rings : Table Ring
  hoists : Table Hoist
  gcfg : Table (BitVec 1536)
  tmpl : Table (BitVec 512)
  sheet : BitVec 4096
  prevv : BitVec 4096
  pendv : BitVec 4096
  blocks : Table Block
  streams : Table Stream
  drains : List Stream              -- write streams unbound by STUNB whose data still moves (R230)
  -- the sequencer's side
  recs : List Rec
  cursor : BitVec 12
  running : Option Nat
  resume : Option (Nat × Word)      -- a restored record and the RESUME address it goes on at (R335)
  current : Nat                     -- the record that runs or ran last (R65)
  pact : Bool                       -- a boundary has started the period schedule (R13, R64)
  stopped : Bool                    -- the boundary after an accepted STOP has passed (R313)
  seg0 : Option Nat                 -- the bracket record whose segment runs, while it runs (R73)
  held : Nat                        -- held count (R322)
  heldRun : Bool                    -- the held count runs
  span : Option Nat                 -- cycle in which the span of R321 began
  spans : List (Nat × Nat × Nat)    -- spans that a polynomial still keeps open (R321): record, first cycle, last cycle so far
  segOf : Table (Nat × Nat)         -- of a record in a bracket segment: its bracket record and bracket (R327)
  traceWait : Nat                   -- cycles that a traced choice has waited (R338)
  tracePos : Nat                    -- entries of the dispatch trace written or read (R336, R338)
  traceEnd : Bool
  recPens : List RecPen
  -- traps and records
  overrun : Nat                     -- PERIOD_OVERRUNs pending, one for each boundary (R14, R335, R354)
  mismatch : Option (BitVec 32 × BitVec 128 × BitVec 128 × BitVec 8)  -- DIGEST_MISMATCH pending: step, own, peer, cause
  asyncWl : Option (Nat × Word × Word × Nat)  -- a WAIT_LIMIT raised at the next bundle (R240): ring, P, Q, commands
  detWl : List DetStop              -- DET conflicts of engine accesses that no bundle has met yet, oldest first (R138)
  seqNo : BitVec 32
  unrep : List FRec
  lostN : Nat
  lostCode : BitVec 16
  lostAt : Nat
  evs : List (Nat × Bool)           -- events of this cycle, and whether the context was at task level (R395)
  charge : Nat                      -- energy charges of this cycle (R394)
  reported : List (Nat × Nat)       -- channels (core, channel) whose suspension a report has named (R364)
  stall : Option Stall
  idle : Option (Nat × BitVec 6)    -- IDLE: the cycle that ends it without an event, and gd (R176)
  idleEvent : Bool                  -- something woke the IDLE
  gate : Nat                        -- first cycle in which the context may issue (R144)
  saved : Bool                      -- SAVING, SAVED or RESTORING: holds no state in the core (R329)
  savedOk : Bool                    -- the saved image is complete (SAVED)
  folding : Option Dig              -- a DIGEST whose reads have not all performed (R178)
  upsets : List (Nat × Bool)        -- 64-bit words of the register files in error, double-bit (R367)
deriving DecidableEq, Repr

/-! ### One core -/

/-- A queued matrix command (R239): its word, context, issue, `$mxcfg` at issue, tile tags to put back when discarded,
start cycle, rows read so far and the operand bytes collected. -/
structure MxCmd where
  i : Instr
  res : BitVec 1
  issue : Nat
  seq : Nat
  pc : Word
  slot : Nat                        -- word index in its bundle
  fxq : BitVec 8
  satf : Bool
  fx : Bool
  tags : List (Nat × Tag)
  gates : List Nat                  -- acquires that its reads must not pass (R132)
  gcfgAfter : List Nat              -- GCFG commands that must install first
  cfg : BitVec 1536                 -- gather configuration the command uses (R239)
  head : Option Nat                 -- cycle in which it reached the head of the queue
  start : Option Nat
  shift : Nat
  row : Nat
  aPend : Bool                      -- the A read of the row is still due
  bPend : Bool
  aRows : Table Nat
  bRows : Table Nat
  endAt : Option Nat
deriving DecidableEq, Repr

/-- A copy or KV command (R254, R260, R261) with what it latched. `kind`: 0 CPY, 1 KVCOMMIT, 2 KVRESET. -/
structure CopyCmd where
  kind : BitVec 2
  res : BitVec 1
  seq : Nat
  pc : Word
  slot : Nat                        -- word index in its bundle
  issue : Nat
  tidx : BitVec 6
  mode : BitVec 2
  disp : Word
  aperture : Bool                   -- started by another agent (R232)
  sat : Option Bool                 -- latched `$round.sat`
  tmpl : Option (BitVec 512)        -- latched template
  kvDesc : Word
  kvPath : Word
  after : List Nat                  -- ECW commands that must install first (R250)
  gates : List Nat                  -- acquires that its accesses must not pass (R132)
  cursor0 : BitVec 32               -- CURSOR it starts from (restored commands, R335)
  kvBuf : Table Nat                 -- granules read of the KV descriptor and path (R260)
  kvShift : Nat
deriving DecidableEq, Repr

/-- One write of the cycle in hand: the key of its first byte and its bytes (R101). -/
structure Write where
  key : Nat
  bytes : List Byte
deriving DecidableEq, Repr

/-- A write of an engine on its way out of the core: virtual address, parts it goes to, and bytes (R254). -/
structure OutWrite where
  va : Nat
  key : Nat
  bytes : List Byte
deriving DecidableEq, Repr

/-- A copy channel (Table 11.8) with its running command and its progress. -/
structure Chan where
  st : ChSt
  seq : Word
  flags : BitVec 5
  tlast : BitVec 8
  cursor : BitVec 32
  aerr : BitVec 32
  terr : BitVec 32
  cur : Option CopyCmd
  queue : List CopyCmd
  beginAt : Nat                     -- cycle a (R254, R255)
  y : Nat                           -- destination stream bytes moved by timed accesses
  shift : Nat
  rdDone : Bool                     -- source-released action written
  wmWait : Nat                      -- cycles a watermark wait has lasted
  pat : List (Nat × Nat × Nat)      -- rows of a KV command still to move: source, destination, length
  ahead : List Nat                  -- chunks in flight that have moved as a whole and not committed (R254)
  out : List (Nat × OutWrite)       -- writes of chunks in flight that leave the core, by chunk
  cancel : List (Nat × BitVec 6 × BitVec 1 × Bool)  -- CPYX to answer: number, register, residency, found it IDLE
  doneBytes : Nat                   -- destination bytes committed by the running copy
  fault : Option (BitVec 8 × BitVec 8 × Word)  -- the fault that suspended it: cause, sub-cause, address
deriving DecidableEq, Repr

/-- A contact command (R277). -/
structure CtCmd where
  i : Instr
  res : BitVec 1
  issue : Nat
  seq : Nat
  pc : Word
  slot : Nat                        -- word index in its bundle
  a : Word
  b : Word
  gates : List Nat                  -- acquires that its accesses must not pass (R132)
  th : BitVec 32
  start : Option Nat
  shift : Nat
  k : Nat                           -- accesses done
  buf : Table Nat
deriving DecidableEq, Repr

/-- An engine command with a short fixed script of own-vault accesses: ECW, ECR, GCFG, HCFG, HARM, HREAD (R244, R250,
R263). -/
structure SmallCmd where
  i : Instr
  res : BitVec 1
  issue : Nat
  seq : Nat
  pc : Word
  slot : Nat                        -- word index in its bundle
  a : Word
  b : Word
  gates : List Nat                  -- acquires that its accesses must not pass (R132)
  shift : Nat
  k : Nat
  buf : Table Nat
deriving DecidableEq, Repr

/-- What a timed slot effect does when it performs (R101, R155, R216, R224, R226 to R228, R267). -/
inductive Act where
  /-- A near load: `(vault offset, length)` pieces into a register at byte offsets rising; sign extension from `sext`
  bits, 0 for none. -/
  | load (reg : Reg) (pieces : List (Nat × Nat)) (sext : Nat)
  | store (off : Nat) (bytes : List Byte)
  | atomic (op : BitVec 5) (reg : BitVec 6) (off : Nat) (y : Word) (c : Word)
  | ring (h : BitVec 4) (isP : Bool) (n : BitVec 9)
  | ringSet (h : BitVec 4) (r : Ring)
  | poly (q : BitVec 3) (p : Poly) (flags : BitVec 5)
  | polyLoad (q : BitVec 3) (off : Nat) (k : Nat) (got : List Byte)
  | enqRead (reg : BitVec 6) (va : Nat) (handle : Word)
  | deq (reg : BitVec 6) (handle : Word) (off : Nat)
  | streamDesc (n : BitVec 3) (off : Nat)
  | xbind (a : Word) (b : Word)
deriving DecidableEq, Repr

/-- What became of the register write of a near load or atomic in flight (R159): not held, held at a distance in the
latency shadow, or due at a cycle after the return. -/
inductive Hold where
  | no
  | dist (d : Nat)
  | due (cycle : Nat)
deriving DecidableEq, Repr

/-- A timed effect in flight. `rank`: 2 slot port 0, 3 slot port 1 (R101). -/
structure Timed where
  due : Nat
  rank : Nat
  seq : Nat
  slot : Nat
  res : BitVec 1
  pc : Word
  cls : Cls
  hold : Hold
  act : Act
deriving DecidableEq, Repr

/-- A translation a TLB holds (R346): partition, address space, page base, page size, leaf entry. -/
structure TlbEnt where
  part : BitVec 3
  asid : BitVec 16
  va : Nat
  size : Nat
  entry : Word
deriving DecidableEq, Repr

/-- A core (Table 1.1). -/
structure Core where
  a : Ctx
  b : Ctx
  holder : BitVec 1
  idle : Bool
  switch : Option Nat               -- a switch is under way: the incoming context issues in this cycle (R325)
  switchWait : Bool                 -- a switch waits for polynomials of the outgoing context
  switchFrom : Nat                  -- cycle t of the choice that caused it
  switchAt : Nat                    -- cycle t' from which the writes of the outgoing context are held
  sla : BitVec 32
  slb : BitVec 32
  part : BitVec 3
  lq : Word
  qmir : BitVec 8
  mq : List MxCmd
  mqEnd : Nat                       -- cycle in which the last matrix command ended
  chans : Table Chan
  ct : List CtCmd
  ctEnd : Nat
  small : List SmallCmd
  timed : List Timed
  tlb : List TlbEnt
  -- pre-emption (Tables 18.2, 18.3)
  preSt : PreSt
  preCause : BitVec 8
  preArea : Word
  preRes : BitVec 1
  prePhase : BitVec 4               -- step of R329
  preCount : Nat                    -- the save's cycle t', then cycles it has waited for outstanding loads (R329)
  preCmds : List (Nat × Nat × Bool × CopyCmd)  -- copies taken by saves (R330): channel, position, suspended, command
  preOut : List Nat                 -- image writes that have not performed
  preEnergy : Option Nat            -- the write of the `$energy` word
  preOld : List Host.Cell           -- the area as it stood when a RESTORE committed (R335)
deriving DecidableEq, Repr

/-! ### Fabric, regions, device -/

/-- Where an access goes once resolved (R98, R344): a key of memory, or the copy aperture of a core. -/
inductive Place where
  | mem (key : Nat)
  | aperture (core : Nat) (off : Nat)
deriving DecidableEq, Repr

/-- One part of an access, on one page (R112): `page` is the page's base, or a number for a vault of the window, and `span`
the page's size, 0 in the window. -/
structure Part where
  place : Place
  len : Nat
  kind : PKind
  det : Bool                        -- checked in deterministic mode (R137)
  page : Nat
  span : Nat
deriving DecidableEq, Repr

/-- What a message asks of its target. -/
inductive Ask where
  | read
  | write (bytes : List Byte)
  | atomic (op : BitVec 5) (y : Word) (c : Word)
  | enq (handle : Word) (packet : List Byte)
  | deq (handle : Word)
deriving DecidableEq, Repr

/-- Where an answer is written. `sext`: bits sign-extended from, 0 for none. For a polynomial the whole image. -/
inductive Dest where
  | none
  | reg (r : BusyReg) (sext : Nat)
  | hread (a : BitVec 6) (b : BitVec 6)
  | digest (off : Nat)
deriving DecidableEq, Repr

/-- A message on the fabric: a lateral or far access, an enqueue, or a release that is held (R22, R103, R132). `after`
names the accesses that must perform first (Tables 6.2 to 6.6); a release to the own vault performs by itself. An access
that has arrived at the vault of a core performs in the next cycle of that core's region, in the order of R101. -/
structure Msg where
  id : Nat
  dev : Option (BitVec 19)          -- the sending device, when another
  core : Nat
  res : BitVec 1
  host : Bool                       -- sent by no context of this device
  arrived : Bool
  cls : Cls
  scope : BitVec 3
  va : Word
  parts : List Part
  ask : Ask
  dest : Dest
  got : List Byte                   -- what the parts on the pages done so far answered (R112)
  answer : Option (List Byte)
  after : List Nat
  due : Nat                         -- earliest cycle, for a release held to the own vault
  own : Bool                        -- target is the own vault
  pc : Word
  slot : Nat
  det : Bool
  ofCmd : Option Nat                -- the engine command whose pennant this is
  step : BitVec 32                  -- step of a replicated launch in which it was issued (R371)
  heldRep : Option (Nat × Word)     -- held for the replica entry of this partition, as a pennant of this launch
deriving DecidableEq, Repr

/-- A member of a launch or a domain: core and residency. -/
abbrev Member := Nat × BitVec 1

/-- A domain instance (R69 to R74). `group` tells the instances of one launch and scope apart: the cluster, the region, or
0; at system scope it is the system group, which the launches of one GROUP share. Arrivals carry the accesses that must perform (R133) and the time t(i) (R74). -/
structure Domain where
  lid : Word
  scope : BitVec 3
  group : Nat
  members : List Member
  others : Nat                      -- members on other devices of the system group
  count : BitVec 32
  arrivals : List (Member × List Nat × Nat)
  since : Nat                       -- time of the last completion, in the unit of R74
  times : List ((Nat × Member) × Nat)   -- t(i) of the WORK phase that ended last, by device and member (R74)
  bset : Option (BitVec 4)
  bracket : Nat
deriving DecidableEq, Repr

/-- A bracket set of an image (R72, R403). -/
structure BSet where
  scope : BitVec 3
  n : Nat
  scheds : List Nat
  needs : List Nat
  shares : List (List Nat)
deriving DecidableEq, Repr

/-- A loaded image (R404, R405): what the launch unit reads of it. -/
structure Image where
  part : BitVec 3
  region : BitVec 5
  res : BitVec 1
  id : BitVec 16
  recs : List (BitVec 512)
  scheds : List (BitVec 1 × Nat × Nat)   -- context, first record, record count
  bsets : List BSet
  code : List (Nat × Nat)                -- address and size in the instruction store
  bufs : List (Nat × Nat)                -- offset and size in the vaults
  credits : List Nat                     -- records that a launch action of its hoists names (R67)
deriving DecidableEq, Repr

/-- A launch that has been started (R305 to R313). -/
structure Launch where
  lid : Word
  queue : Nat
  slot : Nat
  packet : BitVec 512
  region : BitVec 5
  part : BitVec 3
  res : BitVec 1
  members : List Member
  stop : Bool
  stopSlots : List (Nat × Nat)      -- the STOP packets that named it: queue and slot
  stopped : Bool                    -- the boundary after the STOP has passed
  step : BitVec 32                  -- phase count of the widest domain (R370)
  drop : Bool                       -- a DISCARD drops its pennants (R372)
  ending : Option (List Nat)        -- its completion pennant, once written: the message not yet performed, if any (R312)
  bset : Option BSet
deriving DecidableEq, Repr

/-- A hardware queue (R307, R317): entry, indices, per-producer sequence, retired slots, and what holds it. -/
structure Queue where
  en : Bool
  seq : Bool
  log2n : BitVec 4
  swap : Bool
  gen : BitVec 12
  img : BitVec 22
  moff : BitVec 36
  head : BitVec 32
  tail : BitVec 32
  last : Table (BitVec 32)
  retired : List Nat
  taken : List Nat                  -- slots the launch unit has taken
  again : List Nat                  -- slots that a reset brought back and the launch unit has still to take (R317)
  copying : Bool                    -- a swap-in or a mirror copy is under way (R307, R318)
deriving DecidableEq, Repr

/-- One retime request (R183, R384). -/
structure Retime where
  c : BitVec 32
  s : BitVec 16
  rail : BitVec 1
  boost : Bool
deriving DecidableEq, Repr

/-- A region: source entry, source state, counters, port (R11 to R20, R229, R374 to R384). -/
structure Region where
  sel : BitVec 9
  en : Bool
  rail : BitVec 1
  boost : Bool
  boosted : Bool                    -- the boost ceiling is in force (R11, R388, R390)
  policy : BitVec 1
  s : BitVec 16
  c : BitVec 32
  st : Src
  stop : Bool
  good : Nat
  miss : Nat                        -- consecutive misses
  anchor : Option (Word × Nat)      -- anchor time and sample times since (R376)
  freq : Nat                        -- measured source frequency in mHz
  now : Nat                         -- cycles ticked, freezing cycles included: the time base of every due
  cycle : Word
  period : Word
  gap : Word
  slip : Word
  into : Nat                        -- cycles since the boundary
  samp : Nat                        -- sample times since the boundary
  missN : BitVec 16
  ovr : BitVec 16
  slow : Bool
  mbox : Option Retime
  move : Bool
  ceil : BitVec 32                  -- clock ceiling under a cap, in MHz; 0 for none (R392)
  wf : Word
  undr : BitVec 16
  stale : Bool
  slowev : Bool
  stopev : Bool
  fastev : Bool
  start : Bool                      -- locked, and waiting for the sample time of boundary 0 (R377)
  drain : Bool                      -- freezing: effects issued before the boundary complete (R19)
  elastic : List (BitVec 32)
  ins : List (Nat × List (BitVec 32))   -- input samples by period
  lastIn : Option (BitVec 32)
  outs : List (Nat × BitVec 32)         -- output samples held, with the period they were written in
  lastOut : BitVec 32
  outDue : Bool                         -- the output sample of the last sample time has still to leave (R229)
  sent : List (BitVec 32)               -- output samples sent, newest first (what leaves the device)
deriving DecidableEq, Repr

/-- A source rate entry (Table 21.2). -/
structure Rate where
  en : Bool
  link : BitVec 1
  stream : BitVec 32
  fill : BitVec 2
  den : BitVec 16
  num : BitVec 32
deriving DecidableEq, Repr

/-- One channel of a crossing (R283 to R287, R382). -/
structure XChan where
  ins : List (BitVec 32)            -- the inputs still held, oldest first
  first : Nat                       -- index of the oldest held input
  low : Nat                         -- index of the oldest input that an output may still need
  iw : Nat
  n : Nat
  delta : BitVec 64
  t0 : Option Int
  last : BitVec 32
  pushed : List (BitVec 32)         -- outputs returned by a save (R331)
  satf : Bool
  stale : Bool
  steps : BitVec 16
  gap : BitVec 32
  boundP : Option (Nat × BitVec 1 × Nat)  -- core, residency, G
  boundC : Option (Nat × BitVec 1 × Nat)
deriving DecidableEq, Repr

/-- A crossing unit (Table 21.5). -/
structure Crossing where
  en : Bool
  cons : BitVec 5
  prod : BitVec 5
  nch : BitVec 6
  policy : BitVec 2
  phm : BitVec 6
  table : BitVec 14
  b : BitVec 24
  a : BitVec 24
  chans : Table XChan
deriving DecidableEq, Repr

/-- A partition entry (Table 19.7) and the partition status (Table 23.2). -/
structure Partition where
  en : Bool
  regions : BitVec 32
  cross : BitVec 64
  hbmg : BitVec 96
  cxlp : BitVec 4
  hostw : BitVec 64
  tag : Word
  lroot : Word
  cfgErr : BitVec 32
  dblTrap : BitVec 32
  scrubErr : BitVec 32
  refused : BitVec 32
  lostPen : BitVec 32
deriving DecidableEq, Repr

/-- A replica entry (Table 20.8) with the step awaiting its peer. -/
structure Replica where
  en : Bool
  peer : BitVec 19
  group : BitVec 32
  limit : BitVec 32
  st : RepSt
  lid : Word                        -- the launch whose step mismatched last
  steps : List (Word × BitVec 32 × BitVec 128 × Word)  -- steps ended and not yet compared: launch, number, own digest,
                                                       -- `$wall` at the end
  peers : List (BitVec 32 × BitVec 128)         -- the peer's steps not yet compared
  sent : List (BitVec 19 × BitVec 32 × BitVec 128)  -- step digests sent, newest first: PEER, number, digest
deriving DecidableEq, Repr

/-- A loader entry (Table 23.4). -/
structure Loader where
  act : BitVec 2
  res : BitVec 1
  region : BitVec 5
  image : BitVec 16
  status : BitVec 8
  file : Word
  root : Word
  dbase : Word
deriving DecidableEq, Repr

/-- A producer window (Table 17.7). -/
structure Window where
  staging : BitVec 512
  answer : Word
  pending : Bool
  handle : Word
deriving DecidableEq, Repr

/-- A DET record of a granule (R137). -/
structure DetRec where
  launch : Word
  phase : BitVec 8
  writer : Option Member
  reader : Option Member
  many : Bool
deriving DecidableEq, Repr

/-- The granule tag of a vault granule (Table 5.3). -/
structure GTag where
  guard : Bool
  w : Bool
  phase : BitVec 8
deriving DecidableEq, Repr

/-- What the outside brings, in order: a step of the device that waits on the outside, one cycle of a named region, an upset
of a 64-bit word of a memory or a register file, named by its key (R367), or a value that firmware writes to `$lq` or
`$qmir` of a core (R306, R307). -/
inductive Turn where
  | event (i : Instr)
  | cycle (region : BitVec 5)
  | sampleTime (region : BitVec 5)
  | upset (word : Nat) (double : Bool)
  | firmware (core : BitVec 10) (sys : BitVec 9) (value : Word)
deriving DecidableEq, Repr

/-- Where the control word of the bundle in hand goes (R144, R61). -/
inductive Go where
  | next
  | jump (target : Word)
  | knext
  | endTask
deriving DecidableEq, Repr

/-- What the words of the bundle in hand ask for, done when the bundle has issued: the transfer of its control word, the
trap of its first TRAP or BREAK with code, argument and word index (R172, R179), ERET, and FLUSHI (R181). -/
structure Ctl where
  go : Go
  trap : Option (BitVec 17 × Word × Nat)
  eret : Bool
  refetch : Bool
deriving DecidableEq, Repr

/-- A bundle that goes on to the next. -/
def Ctl.plain : Ctl := ⟨.next, Option.none, false, false⟩

/-- Memory contents that a step loses (R406, R408): none; all but HBM and what lies outside the package, with PERST#; all
but the latter, with the supplies; the vaults, in TAGS. -/
inductive Wipe where
  | none | package | supplies | vaults
deriving DecidableEq, Repr

/-- The whole device. -/
structure State where
  mem : List Host.Cell
  cores : Table Core
  gtags : Table GTag                -- by vault granule: core × 65,536 + granule
  dets : Table DetRec               -- by granule key
  regions : Table Region
  clusters : Table (BitVec 6)       -- Table 21.6: AS and REGION
  ctlbs : Table (List TlbEnt)       -- cluster TLBs (R346)
  rates : Table Rate
  packets : Table (List (Word × Nat × BitVec 32))  -- samples of recovered sources not yet due: `$wall` time, frequency, value
  crossings : Table Crossing
  queues : Table Queue
  windows : Table Window
  partitions : Table Partition
  replicas : Table Replica
  loaders : Table Loader
  images : List Image
  launches : List Launch
  domains : List Domain
  fabric : List Msg
  failedStacks : BitVec 12
  lqKept : Table Word                -- launch queue handles restored before READY, by region (R317)
  -- package power entry (Table 22.1)
  excess : Nat                         -- drawn above 3,000 W at level 0, in microjoules; OVER shows joules
  level : Nat                        -- bucket level in microjoules; LEVEL shows millijoules
  pwr : BitVec 16
  capact : Bool
  grant : Bool
  high : BitVec 16
  low : BitVec 16
  -- device block (Table 23.3)
  boot : Boot
  bootCause : BitVec 8
  fwLen : BitVec 32
  readyAddr : Word
  devId : BitVec 19
  cfgErr : BitVec 32
  wbase : BitVec 31
  offset : Word
  cxlCap : Table (BitVec 43)
  cxlLost : List (Nat × Nat)        -- CXL ranges whose expander is lost (R400)
  gxlDown : BitVec 36
  fwImage : Table Word              -- the firmware staging window (R407), by 8-byte word
  barStaged : Table Word            -- words written to BAR0 entries and not committed, by offset (R399)
  wall : Word
  ecc : List (Nat × Bool)           -- words in error: key of the word, double-bit
  -- the model's own fields
  inputs : List Turn
  turn : BitVec 5
  cur : BitVec 10
  bundle : Option Word              -- inside a bundle of several words: the address behind it
  ctl : Ctl
  slotNo : Nat
  wordIx : Nat
  wlog : List Write                  -- writes of the step in hand, which apply at its end
  wipe : Wipe                        -- memory lost in the step in hand, before its writes
  seq : Nat
  free : Nat
deriving DecidableEq, Repr

/-! ### Values right after reset -/

/-- A polynomial with every field zero (R265). -/
def Poly.zero : Poly := ⟨[], 0, 0, 0, false, false, false, false⟩

/-- An unconfigured ring (R113). -/
def Ring.none : Ring := ⟨false, 0, 0, 0, 0, 0, 0, 0⟩

/-- A hoist handle without a descriptor (R263). -/
def Hoist.none : Hoist := ⟨false, 0, 0, false, false, 0, 0, [], false, false, false⟩

/-- A contact block never declared (R275). -/
def Block.none : Block := ⟨0, false, false⟩

/-- An unbound stream register. -/
def Stream.none : Stream := ⟨0, 0, false, 0, false, 0, 0, 0, [], Option.none, 0, false⟩

/-- A context that no launch has used (R148, R234, R236, Table 7.5); the runtime registers are zero by choice.
DESIGN CHOICE, log 3. DEDUCED, log 4. -/
def Ctx.fresh : Ctx :=
  { g := [], v := [], m := [], acc := [], tag := [], q := [], qbusy := [], pc := 0,
    lact := false, lbeg := 0, lend := 0, lcnt := 0, lvl := 0, halted := false,
    busy := [], abandoned := [], writes := [], shadow := [],
    flags := 0, round := 4, vshape := 0, pitch := 0, seg := 0, fxq := 0xE0, satf := false, fx := false, mxstat := 0, raised := 0, raisedMx := 0,
    key := 0, tile := 0, bracket := 0, dmem := 0, lid := BitVec.allOnes 64, energy := 0, esat := false,
    fqCount := 0, fqBase := 0, fqHead := 0, fqOvf := false, d0 := 0, d1 := 0, d2 := 0, d3 := 0,
    evsel := [], evcnt := [], ctthr := [], tvec := 0, tret := 0, tcause := 0, targ := 0, tscr := 0,
    ptroot := 0, pten := false, asid := 0,
    fenceNo := 0, fences := [], arrived := [], barWait := [], tlbiWait := none, sbars := [],
    rings := [], hoists := [], gcfg := [], tmpl := [], sheet := 0, prevv := 0, pendv := 0, blocks := [],
    streams := [], drains := [],
    recs := [], cursor := 0, running := Option.none, resume := Option.none, current := 0, pact := false, stopped := false,
    seg0 := Option.none, held := 0, heldRun := false, span := none, spans := [], segOf := [], traceWait := 0, tracePos := 0, traceEnd := false, recPens := [],
    overrun := 0, mismatch := Option.none, asyncWl := none, detWl := [], seqNo := 0, unrep := [], lostN := 0,
    lostCode := 0, lostAt := 0, evs := [], charge := 0, reported := [], stall := Option.none, idle := Option.none, idleEvent := false, gate := 0,
    saved := false, savedOk := false, folding := none, upsets := [] }

/-- An idle copy channel (Table 11.8). -/
def Chan.fresh : Chan :=
  { st := .idle, seq := 0, flags := 0, tlast := 0, cursor := 0, aerr := 0, terr := 0, cur := none, queue := [],
    beginAt := 0, y := 0, shift := 0, rdDone := false, wmWait := 0, pat := [], ahead := [], out := [], cancel := [],
    doneBytes := 0, fault := none }

/-- A core on which no context has issued: context A is the holder (R324, R411), slices of Table 17.3.
DESIGN CHOICE, log 3. -/
def Core.fresh : Core :=
  { a := Ctx.fresh, b := Ctx.fresh, holder := 0, idle := true, switch := none, switchWait := false, switchFrom := 0, switchAt := 0,
    sla := 0x10000, slb := 0x10000, part := 0, lq := 0, qmir := 0x60, mq := [], mqEnd := 0, chans := [], ct := [],
    ctEnd := 0, small := [], timed := [], tlb := [], preSt := .idle, preCause := 0, preArea := 0, preRes := 0,
    prePhase := 0, preCount := 0, preCmds := [], preOut := [], preEnergy := none, preOld := [] }

/-- A region whose source is OFF (Table 21.1, Table 21.3). -/
def Region.fresh : Region :=
  { sel := 0, en := false, rail := 0, boost := false, boosted := false, policy := 0, s := 0, c := 0, st := .off, stop := false, good := 0,
    miss := 0, anchor := none, freq := 0, now := 0, cycle := 0, period := 0, gap := 0, slip := 0, into := 0, samp := 0,
    missN := 0, ovr := 0, slow := false, mbox := none, move := false, ceil := 0, wf := 0, undr := 0, stale := false,
    slowev := false, stopev := false, fastev := false, start := false, drain := false, elastic := [], ins := [], lastIn := none,
    outs := [], lastOut := 0, outDue := false, sent := [] }

/-- A rate entry at reset (Table 21.2). -/
def Rate.fresh : Rate := ⟨false, 0, 0, 0, 0, 0⟩

/-- A channel of a crossing just configured (R381). -/
def XChan.fresh : XChan :=
  { ins := [], first := 0, low := 0, iw := 0, n := 0, delta := 0, t0 := none, last := 0, pushed := [], satf := false,
    stale := false, steps := 0, gap := 0, boundP := none, boundC := none }

/-- An unconfigured crossing unit (Table 21.5). -/
def Crossing.fresh : Crossing := ⟨false, 0, 0, 0, 0, 0, 0, 0, 0, []⟩

/-- A disabled queue (Table 17.9). -/
def Queue.fresh : Queue :=
  { en := false, seq := false, log2n := 0, swap := false, gen := 0, img := 0, moff := 0, head := 0, tail := 0,
    last := [], retired := [], taken := [], again := [], copying := false }

/-- A producer window with nothing submitted; the answer register reads 0 by choice. DESIGN CHOICE, log 3. -/
def Window.fresh : Window := ⟨0, 0, false, 0⟩

/-- A partition entry at reset (Table 19.7). -/
def Partition.fresh : Partition := ⟨false, 0, 0, 0, 0, 0, 0, 0, 0, 0, 0, 0, 0⟩

/-- A replica entry at reset (Table 20.8). -/
def Replica.fresh : Replica := ⟨false, 0, 0, 0, .idle, BitVec.allOnes 64, [], [], []⟩

/-- A loader entry at reset (Table 23.4). -/
def Loader.fresh : Loader := ⟨0, 0, 0, 0, 0, 0, 0, 0⟩

/-- A granule tag at bring-up (R104). -/
def GTag.clear : GTag := ⟨false, false, 0⟩

/-- An empty DET record (R137). -/
def DetRec.empty : DetRec := ⟨0, 0, none, none, false⟩

/-- The device right after reset: PERST# asserted, the bring-up state RESET (R406, R408). -/
def State.reset : State :=
  { mem := [], cores := [], gtags := [], dets := [], regions := [], clusters := [], ctlbs := [], rates := [], packets := [],
    crossings := [], queues := [], windows := [], partitions := [], replicas := [], loaders := [], images := [],
    launches := [], domains := [], fabric := [], failedStacks := 0, lqKept := [],
    excess := 0, level := 4800000000, pwr := 0, capact := false, grant := true, high := 1200, low := 480,
    boot := .reset, bootCause := 0, fwLen := 0, readyAddr := 0, devId := 0, cfgErr := 0, wbase := 0, offset := 0,
    cxlCap := [], cxlLost := [], gxlDown := 0, fwImage := [], barStaged := [], wall := 0, ecc := [],
    inputs := [], turn := 0, cur := 0, bundle := none, ctl := .plain, slotNo := 0, wordIx := 0, wlog := [], wipe := .none, seq := 0, free := 0 }

end Sys2Proof.Machine
end

