-- ==== Sys2Proof/Machine/Formats.lean ====
section
/-!
DEFINITION. Number formats and their arithmetic (R80 to R89, R93, R94): decoding, exact values, the one rounding
function, overflow by `$round`, and stochastic rounding. Exact values are dyadic: a sign, a magnitude and a power of
two. A flag set is a `BitVec 5` in the order of Table 4.4.
-/

namespace Sys2Proof.Machine

/-- A flag set in the order of Table 4.4. -/
abbrev Flags := BitVec 5

def fInvalid : Flags := 1
def fOverflow : Flags := 2
def fUnderflow : Flags := 4
def fInexact : Flags := 8
def fSaturation : Flags := 16

/-- A flag when a condition holds. -/
def flagIf (c : Bool) (f : Flags) : Flags := if c then f else 0

/-- A floating-point element format (Table 4.1): exponent bits, mantissa bits, bias, the largest exponent field that
holds numbers, the largest mantissa under it, and whether it has infinities. -/
structure FFmt where
  width : Nat
  ebits : Nat
  mbits : Nat
  bias : Int
  emax : Nat
  mmax : Nat
  hasInf : Bool
  nan : Nat
deriving DecidableEq, Repr

def f32 : FFmt := ⟨32, 8, 23, 127, 254, 0x7FFFFF, true, 0x7FC00000⟩
def bf16 : FFmt := ⟨16, 8, 7, 127, 254, 0x7F, true, 0x7FC0⟩
def f16 : FFmt := ⟨16, 5, 10, 15, 30, 0x3FF, true, 0x7E00⟩
def e4m3 : FFmt := ⟨8, 4, 3, 7, 15, 6, false, 0x7F⟩
def e5m2 : FFmt := ⟨8, 5, 2, 15, 30, 3, true, 0x7E⟩
/-- E2M1: no infinity and no NaN; the NaN field is not used. -/
def e2m1 : FFmt := ⟨4, 2, 1, 1, 3, 1, false, 0⟩

/-- The format of a fmt3 code that is a floating-point format (Table 7.3). -/
def ffmtOf (f : BitVec 3) : FFmt :=
  match f.toNat with
  | 0 => f32 | 1 => bf16 | 2 => f16 | 3 => e4m3 | _ => e5m2

/-- Whether a fmt3 code is an integer format. -/
def isInt (f : BitVec 3) : Bool := 5 ≤ f.toNat

/-- A decoded value (R85): NaN, marked signalling or not; an infinity; or a finite value (−1)^neg × m × 2^e. -/
inductive Num where
  | nan (sig : Bool)
  | inf (neg : Bool)
  | fin (neg : Bool) (m : Nat) (e : Int)
deriving DecidableEq, Repr

/-- The value +0. -/
def Num.zero : Num := .fin false 0 0

def Num.isNan : Num → Bool
  | .nan _ => true
  | _ => false

def Num.isInf : Num → Bool
  | .inf _ => true
  | _ => false

def Num.isZero : Num → Bool
  | .fin _ m _ => m = 0
  | _ => false

def Num.isSig : Num → Bool
  | .nan s => s
  | _ => false

/-- The sign of a value; of a NaN, positive. -/
def Num.neg : Num → Bool
  | .nan _ => false
  | .inf n => n
  | .fin n _ _ => n

/-- The value with its sign inverted. -/
def Num.flip : Num → Num
  | .nan s => .nan s
  | .inf n => .inf (!n)
  | .fin n m e => .fin (!n) m e

/-- The magnitude. -/
def Num.mag : Num → Num
  | .nan s => .nan s
  | .inf _ => .inf false
  | .fin _ m e => .fin false m e

/-- An integer as a value; zero is +0. -/
def Num.ofInt (z : Int) : Num := .fin (z < 0) z.natAbs 0

/-- decode(fmt, bits) (R80, R85). A signalling NaN is one whose top mantissa bit is 0, in FP32, BF16 and FP16 only
(R81). -/
def decodeF (f : FFmt) (bits : Nat) : Num :=
  let neg := bits / 2 ^ (f.ebits + f.mbits) % 2 = 1
  let e := bits / 2 ^ f.mbits % 2 ^ f.ebits
  let m := bits % 2 ^ f.mbits
  if e = 0 then .fin neg m (1 - f.bias - f.mbits)
  else if f.emax < e ∨ (e = f.emax ∧ f.mmax < m) then
    if f.hasInf ∧ m = 0 then .inf neg
    else .nan (decide (8 < f.width ∧ m / 2 ^ (f.mbits - 1) = 0))
  else .fin neg (2 ^ f.mbits + m) (e - f.bias - f.mbits)

/-- The bits of an infinity, or of the E4M3 NaN that keeps the sign (R87). -/
def infBits (f : FFmt) (neg : Bool) : Nat :=
  (if neg then 2 ^ (f.width - 1) else 0) +
    (if f.hasInf then (2 ^ f.ebits - 1) * 2 ^ f.mbits else f.nan)

/-- The bits of the largest finite value. -/
def maxBits (f : FFmt) (neg : Bool) : Nat :=
  (if neg then 2 ^ (f.width - 1) else 0) + f.emax * 2 ^ f.mbits + f.mmax

/-- How an operation rounds: mode rm, and saturation on overflow (Table 4.3). -/
structure Rnd where
  rm : BitVec 2
  sat : Bool
deriving DecidableEq, Repr

/-- RNE with a given overflow rule. -/
def rne (sat : Bool) : Rnd := ⟨0, sat⟩

/-- An exact magnitude with a sticky remainder: at least m × 2^e, equal to it when `sticky` is false, and below
(m + 1) × 2^e. Results of division, roots and special functions reach the rounding in this form. -/
structure Mag where
  m : Nat
  e : Int
  sticky : Bool
deriving DecidableEq, Repr

/-- floor(log2) of a positive natural number. -/
def ilog2 (n : Nat) : Nat := Nat.log2 n

/-- A magnitude cut at the grid 2^q: the quotient, the remainder compared with one half (0 below, 1 equal, 2 above),
and whether anything was cut. -/
def Mag.cut (x : Mag) (q : Int) : Nat × Nat × Bool :=
  if q ≤ x.e then (x.m * 2 ^ (x.e - q).toNat, 0, x.sticky)
  else
    let s := (q - x.e).toNat
    let k := x.m / 2 ^ s
    let r := x.m % 2 ^ s
    let h := 2 ^ (s - 1)
    (k, if r < h then 0 else if r = h ∧ ¬ x.sticky then 1 else 2, x.sticky || r != 0)

/-- Whether the mode takes the neighbour of larger magnitude (R86). -/
def roundsUp (rm : BitVec 2) (neg : Bool) (k half : Nat) (cut : Bool) : Bool :=
  match rm.toNat with
  | 0 => half = 2 || (half = 1 && k % 2 = 1)
  | 1 => false
  | 2 => neg && cut
  | _ => !neg && cut

/-- The exponent of the grid of a format at a magnitude (R86): subnormals below, the spacing of the top binade above. -/
def gridExp (f : FFmt) (x : Mag) : Int :=
  let lo : Int := 1 - f.bias
  let hi : Int := f.emax - f.bias
  let E : Int := ilog2 x.m + x.e
  (if E < lo then lo else if hi < E then hi else E) - f.mbits

/-- The bits of k × 2^q, a grid value not above the largest finite value. -/
def packF (f : FFmt) (neg : Bool) (k : Nat) (q : Int) : Nat :=
  let s := if neg then 2 ^ (f.width - 1) else 0
  if k < 2 ^ f.mbits then s + k
  else
    let up := ilog2 k - f.mbits
    let ef := (q + up + f.mbits + f.bias).toNat
    s + ef * 2 ^ f.mbits + (k / 2 ^ up - 2 ^ f.mbits)

/-- Whether k × 2^q exceeds the largest finite value. -/
def tooBig (f : FFmt) (k : Nat) (q : Int) : Bool :=
  let top : Int := f.emax - f.bias - f.mbits
  (2 ^ f.mbits + f.mmax) * 2 ^ (top - q).toNat < k * 2 ^ (q - top).toNat

/-- The outcome of an overflow (R87) with its flags. -/
def overflow (f : FFmt) (r : Rnd) (neg : Bool) : Nat × Flags :=
  if r.sat then (maxBits f neg, fSaturation ||| fInexact)
  else
    let toInf := match r.rm.toNat with
      | 0 => true
      | 1 => false
      | 2 => neg
      | _ => !neg
    (if toInf then infBits f neg else maxBits f neg, fOverflow ||| fInexact)

/-- round of a nonzero exact magnitude (R86 to R88); a sticky magnitude may have m = 0 at any grid. -/
def roundMag (f : FFmt) (r : Rnd) (neg : Bool) (x : Mag) : Nat × Flags :=
  if x.m = 0 ∧ ¬ x.sticky then (packF f neg 0 0, 0) else
  let q := if x.m = 0 then 1 - f.bias - f.mbits else gridExp f x
  let (k, half, cut) := x.cut q
  let k' := if roundsUp r.rm neg k half cut then k + 1 else k
  if tooBig f k' q then overflow f r neg
  else
    let tiny : Bool := k < 2 ^ f.mbits
    (packF f neg k' q, flagIf cut fInexact ||| flagIf (cut && tiny) fUnderflow)

/-- round(x, fmt, rm) of a decoded value, with the flags of an operation that uses it: NaN gives the canonical NaN,
raising invalid when signalling; an infinity passes, and converts to E4M3 as R87 gives. -/
def roundNum (f : FFmt) (r : Rnd) : Num → Nat × Flags
  | .nan s => (f.nan, flagIf s fInvalid)
  | .inf n =>
    if f.hasInf then (infBits f n, 0)
    else if r.sat then (maxBits f n, fSaturation)
    else (f.nan, fInvalid)
  | .fin n m e => roundMag f r n ⟨m, e, false⟩

/-- The canonical NaN with invalid raised (R81). -/
def newNan (f : FFmt) : Nat × Flags := (f.nan, fInvalid)

/-- The canonical NaN for NaN operands: invalid when one of them is signalling (R81). -/
def propNan (f : FFmt) (xs : List Num) : Nat × Flags := (f.nan, flagIf (xs.any Num.isSig) fInvalid)

/-- A finite value as a signed integer at exponent e, where e is at most its own exponent. -/
def atExp (neg : Bool) (m : Nat) (x e : Int) : Int :=
  let z : Int := m * 2 ^ (x - e).toNat
  if neg then -z else z

/-- A signed integer at an exponent as a value; a zero takes the given sign. -/
def Num.ofDyadic (z : Int) (e : Int) (zeroNeg : Bool) : Num :=
  if z = 0 then .fin zeroNeg 0 0 else .fin (z < 0) z.natAbs e

/-- The sign of an exact zero sum (R86): of two zeros of one sign that sign, else negative only under RDN. -/
def zeroSign (rm : BitVec 2) (allNegZero allPosZero : Bool) : Bool :=
  if allNegZero then true else if allPosZero then false else rm = 2

/-- The exact sum of two values under R81 and R86: the value and whether a NaN was made. -/
def addNum (rm : BitVec 2) (a b : Num) : Num × Bool :=
  match a, b with
  | .nan s, .nan t => (.nan (s || t), false)
  | .nan s, _ => (.nan s, false)
  | _, .nan s => (.nan s, false)
  | .inf x, .inf y => if x = y then (.inf x, false) else (.nan false, true)
  | .inf x, _ => (.inf x, false)
  | _, .inf y => (.inf y, false)
  | .fin n m e, .fin n' m' e' =>
    let q := min e e'
    let z := atExp n m e q + atExp n' m' e' q
    (Num.ofDyadic z q (zeroSign rm (m = 0 && m' = 0 && n && n') (m = 0 && m' = 0 && !n && !n')), false)

/-- The exact product of two values under R81. -/
def mulNum (a b : Num) : Num × Bool :=
  match a, b with
  | .nan s, .nan t => (.nan (s || t), false)
  | .nan s, _ => (.nan s, false)
  | _, .nan s => (.nan s, false)
  | .inf x, .inf y => (.inf (x != y), false)
  | .inf x, .fin n m _ => if m = 0 then (.nan false, true) else (.inf (x != n), false)
  | .fin n m _, .inf y => if m = 0 then (.nan false, true) else (.inf (y != n), false)
  | .fin n m e, .fin n' m' e' => (.fin (n != n') (m * m') (e + e'), false)

/-- The rounded result of an exact computation that may have made a NaN. -/
def finish (f : FFmt) (r : Rnd) (x : Num × Bool) : Nat × Flags :=
  let (b, g) := roundNum f r x.1
  (b, g ||| flagIf x.2 fInvalid)

/-- a < b for values that are not NaN, with −0 below +0 (R189). -/
def ltNumZ (a b : Num) : Bool :=
  match a, b with
  | .inf x, .inf y => x && !y
  | .inf x, _ => x
  | _, .inf y => !y
  | .fin n m e, .fin n' m' e' =>
    if m = 0 ∧ m' = 0 then n && !n'
    else
      let q := min e e'
      decide (atExp n m e q < atExp n' m' e' q)
  | _, _ => false

/-- a < b for values that are not NaN, with +0 = −0 (R191). -/
def ltNum (a b : Num) : Bool :=
  if a.isZero && b.isZero then false else ltNumZ a b

/-- a = b for values that are not NaN, with +0 = −0. -/
def eqNum (a b : Num) : Bool := !ltNum a b && !ltNum b a

/-- A magnitude rounded to an integer (R86). -/
def roundIntMag (rm : BitVec 2) (neg : Bool) (x : Mag) : Int × Bool :=
  let (k, half, cut) := x.cut 0
  let k' : Int := if roundsUp rm neg k half cut then k + 1 else k
  (if neg then -k' else k', cut)

/-- sat(x, lo, hi) (R86) and whether it changed x. -/
def satInt (lo hi x : Int) : Int × Bool :=
  if x < lo then (lo, true) else if hi < x then (hi, true) else (x, false)

/-- A value converted to a signed integer of w bits (R88): NaN gives 0 with invalid, out of range clamps with invalid and
saturation; inexact when the rounding changed a value that stayed in range or a fraction was dropped. DEDUCED, log 79. -/
def toInt (w : Nat) (rm : BitVec 2) : Num → Int × Flags
  | .nan _ => (0, fInvalid)
  | .inf n => (if n then -2 ^ (w - 1) else 2 ^ (w - 1) - 1, fInvalid ||| fSaturation)
  | .fin n m e =>
    let (z, cut) := roundIntMag rm n ⟨m, e, false⟩
    let (y, c) := satInt (-2 ^ (w - 1)) (2 ^ (w - 1) - 1) z
    (y, flagIf cut fInexact ||| flagIf c (fInvalid ||| fSaturation))

/-- The two's complement bits of an integer. -/
def intBits (w : Nat) (z : Int) : Nat := (z % 2 ^ w).toNat

/-- The signed value of w bits. -/
def sintOf (w : Nat) (b : Nat) : Int :=
  let u := b % 2 ^ w
  if u < 2 ^ (w - 1) then u else (u : Int) - 2 ^ w

/-! ### Stochastic rounding (R93, R94) -/

/-- mix32 (R93). -/
def mix32 (x : BitVec 32) : BitVec 32 :=
  let x := (x ^^^ (x >>> 16)) * 0x7FEB352D
  let x := (x ^^^ (x >>> 15)) * 0x846CA68B
  x ^^^ (x >>> 16)

/-- rotl32 (R96). -/
def rotl32 (w : BitVec 32) (n : Nat) : BitVec 32 := (w <<< (n % 32)) ||| (w >>> ((32 - n % 32) % 64))

/-- sr_word (R93) from the key, the tile coordinate, the row and the period count. -/
def srWord (key tile : Word) (row : BitVec 32) (period : Word) : BitVec 32 :=
  let tx : BitVec 32 := (tile.setWidth 16).setWidth 32
  let ty : BitVec 32 := ((tile >>> 16).setWidth 16).setWidth 32
  mix32 (key.setWidth 32 ^^^ (tx * 0x85EBCA6B) ^^^ (ty * 0xC2B2AE35) ^^^ (row * 0x27D4EB2F) ^^^ period.setWidth 32)

/-- sr_lane (R93). -/
def srLane (w : BitVec 32) (l : Nat) : BitVec 32 := rotl32 w (5 * l) ^^^ (BitVec.ofNat 32 l * 0x9E3779B9)

/-- round_sr(x, fmt, r16) (R94). A NaN gives the canonical NaN and an infinity converts as R87 gives. -/
def roundSr (f : FFmt) (sat : Bool) (r16 : BitVec 16) : Num → Nat × Flags
  | .fin n m e =>
    if m = 0 then (packF f n 0 0, 0) else
    let x : Mag := ⟨m, e, false⟩
    let q := gridExp f x
    let (k, _, cut) := x.cut q
    if ¬ cut then
      if tooBig f k q then overflow f (rne sat) n else (packF f n k q, 0)
    else
      let s := (q - e).toNat
      let frac := (m % 2 ^ s) * 65536 / 2 ^ s
      let k' := if r16.toNat < frac then k + 1 else k
      if tooBig f k' q then overflow f (rne sat) n
      else (packF f n k' q, fInexact ||| flagIf (k < 2 ^ f.mbits) fUnderflow)
  | x => roundNum f (rne sat) x

/-! ### Block elements (R83, R84) -/

/-- sint4 (R84). -/
def sint4 (n : Nat) : Int := sintOf 4 n

/-- A value times 2^k, exactly. -/
def Num.scale (k : Int) : Num → Num
  | .fin n m e => .fin n m (e + k)
  | x => x

/-- The element of an OX4 block before its scale (R84), from the 17 bytes of the block as a number. -/
def ox4Elem (blk : Nat) (e : Nat) : Num :=
  let j := e / 4
  let p := e % 4
  let b0 := blk / 256 ^ (2 * j) % 256
  let b1 := blk / 256 ^ (2 * j + 1) % 256
  if b0 / 16 = 8 then
    if p = 0 then Num.ofInt (sint4 (b0 % 16)) else if p = 1 then decodeF e4m3 b1 else Num.zero
  else if b1 / 16 = 8 then
    if p = 2 then Num.ofInt (sint4 (b1 % 16)) else if p = 3 then decodeF e4m3 b0 else Num.zero
  else Num.ofInt (sint4 (match p with | 0 => b0 % 16 | 1 => b0 / 16 | 2 => b1 % 16 | _ => b1 / 16))

/-- apply_scale (R84): NaN for code 0xFF. -/
def applyScale (v : Num) (c : Nat) : Num := if c = 255 then .nan false else v.scale (c - 127 : Int)

end Sys2Proof.Machine
end

