-- ==== Sys2Proof/Machine/Lanes.lean ====
section
/-!
DEFINITION. What the vector, mask and OX4 instructions compute, as functions of their operands alone (R184 to R205):
lanes and shapes, element-wise arithmetic, conversions, reductions, scans, lane moves, OX4 and tree masks.
-/

namespace Sys2Proof.Machine

/-- What an instruction reads of the context besides its operands: `$vshape`.rl, `$round`, `$key`, `$tile` and the
region's `$period` (R93, R184). -/
structure Env where
  rl : Nat
  rnd : Rnd
  key : Word
  tile : Word
  period : Word
deriving DecidableEq, Repr

/-- A vector result: the value, the bits written, and the flags of the active lanes (R89). -/
structure VRes where
  val : BitVec 4096
  mask : BitVec 4096
  flags : Flags
deriving DecidableEq, Repr

/-- Bits of an element of a fmt3 code. -/
def eb (f : BitVec 3) : Nat := 8 * fmtBytes f

/-- Lanes of a format (R184). -/
def laneCount (f : BitVec 3) : Nat := 512 / fmtBytes f

/-- Rows R of the shape (R184). -/
def rowsOf (rl : Nat) (f : BitVec 3) : Nat := min (2 ^ rl) (laneCount f / 8)

/-- Columns C of the shape (R184). -/
def colsOf (rl : Nat) (f : BitVec 3) : Nat := laneCount f / rowsOf rl f

/-- The bits of lane ℓ of w bits. -/
def lane (w : Nat) (v : BitVec 4096) (l : Nat) : Nat := v.toNat / 2 ^ (w * l) % 2 ^ w

/-- Whether bit ℓ of a mask is set. -/
def bitOf (m : BitVec 512) (l : Nat) : Bool := m.getLsbD l

/-- Lanes 0 to n − 1 computed one by one: value, written bits and flags of those that are active. -/
def lanesNat (w : Nat) (act : Nat → Bool) (f : Nat → Nat × Flags) : Nat → Nat × Nat × Flags
  | 0 => (0, 0, 0)
  | k + 1 =>
    let (v, m, g) := lanesNat w act f k
    if act k then
      let (x, h) := f k
      (v + (x % 2 ^ w) * 2 ^ (w * k), m + (2 ^ w - 1) * 2 ^ (w * k), g ||| h)
    else (v, m, g)

/-- A vector result from a lane function. -/
def lanes (w n : Nat) (act : Nat → Bool) (f : Nat → Nat × Flags) : VRes :=
  let (v, m, g) := lanesNat w act f n
  ⟨BitVec.ofNat 4096 v, BitVec.ofNat 4096 m, g⟩

/-- A result that writes the whole register. -/
def VRes.whole (r : VRes) : VRes := { r with mask := BitVec.allOnes 4096 }

/-- An element-wise operation on lanes of format f under mask m. -/
def each (f : BitVec 3) (m : BitVec 512) (op : Nat → Nat × Flags) : VRes :=
  lanes (eb f) (laneCount f) (bitOf m) op

/-! ### Element arithmetic (R188 to R193) -/

/-- A float or integer binary operation on two lanes. -/
def arith (f : BitVec 3) (fl : Num → Num → Nat × Flags) (int : Int → Int → Int) (a b : Nat) : Nat × Flags :=
  if isInt f then (intBits (eb f) (int (sintOf (eb f) a) (sintOf (eb f) b)), 0)
  else fl (decodeF (ffmtOf f) a) (decodeF (ffmtOf f) b)

def vadd (f : BitVec 3) (r : Rnd) : Nat → Nat → Nat × Flags :=
  arith f (fun a b => finish (ffmtOf f) r (addNum r.rm a b)) (fun a b => a + b)

def vsub (f : BitVec 3) (r : Rnd) : Nat → Nat → Nat × Flags :=
  arith f (fun a b => finish (ffmtOf f) r (addNum r.rm a b.flip)) (fun a b => a - b)

def vmul (f : BitVec 3) (r : Rnd) : Nat → Nat → Nat × Flags :=
  arith f (fun a b => finish (ffmtOf f) r (mulNum a b)) (fun a b => a * b)

/-- The fused forms: ±(a × b) ± d, rounded once (R189). -/
def fused (f : BitVec 3) (r : Rnd) (negP negD : Bool) (a b d : Nat) : Nat × Flags :=
  if isInt f then
    let w := eb f
    let p := sintOf w a * sintOf w b
    (intBits w ((if negP then -p else p) + (if negD then -sintOf w d else sintOf w d)), 0)
  else
    let ff := ffmtOf f
    let x := decodeF ff a; let y := decodeF ff b; let z := decodeF ff d
    let (p, bad) := mulNum x y
    if x.isNan || y.isNan || z.isNan then propNan ff [x, y, z]
    else if bad then newNan ff
    else finish ff r (addNum r.rm (if negP then p.flip else p) (if negD then z.flip else z))

/-- Minimum or maximum of two lanes (R189, R190). -/
def minmax (f : BitVec 3) (big : Bool) (a b : Nat) : Nat × Flags :=
  if isInt f then
    let lt := decide (sintOf (eb f) a < sintOf (eb f) b)
    (if lt != big then a else b, 0)
  else
    let ff := ffmtOf f
    let x := decodeF ff a; let y := decodeF ff b
    if x.isNan || y.isNan then propNan ff [x, y]
    else (if ltNumZ x y != big then a else b, 0)

/-- Absolute value or negation of a lane (R189, R190). -/
def signOp (f : BitVec 3) (isNeg : Bool) (a : Nat) : Nat × Flags :=
  if isInt f then
    let z := sintOf (eb f) a
    (intBits (eb f) (if isNeg then -z else z.natAbs), 0)
  else
    let ff := ffmtOf f
    let x := decodeF ff a
    if x.isNan then propNan ff [x]
    else
      let s := 2 ^ (eb f - 1)
      (if isNeg then (a + s) % 2 ^ eb f else a % s, 0)

/-- The integer shifts: 0 left, 1 right with zeros, 2 right with the sign. The count is b[log2(8z) − 1:0]. -/
def vshift (f : BitVec 3) (kind : Nat) (a b : Nat) : Nat × Flags :=
  let w := eb f
  let n := b % w
  (match kind with
    | 0 => a * 2 ^ n % 2 ^ w
    | 1 => a / 2 ^ n
    | _ => intBits w (sintOf w a / 2 ^ n), 0)

/-- The compares (R191): 0 =, 1 ≠, 2 <, 3 ≤. -/
def vcmp (f : BitVec 3) (kind : Nat) (a b : Nat) : Bool :=
  if isInt f then
    let x := sintOf (eb f) a; let y := sintOf (eb f) b
    match kind with | 0 => x = y | 1 => x ≠ y | 2 => x < y | _ => x ≤ y
  else
    let x := decodeF (ffmtOf f) a; let y := decodeF (ffmtOf f) b
    if x.isNan || y.isNan then kind = 1
    else match kind with | 0 => eqNum x y | 1 => !eqNum x y | 2 => ltNum x y | _ => !ltNum y x

/-- A compare over all lanes: the mask bits written (active lanes, and bits N up, which clear). -/
def compareLanes (f : BitVec 3) (m : BitVec 512) (kind : Nat) (a b : BitVec 4096) : BitVec 512 × BitVec 512 :=
  let n := laneCount f
  let (v, w, _) := lanesNat 1 (bitOf m) (fun l => (if vcmp f kind (lane (eb f) a l) (lane (eb f) b l) then 1 else 0, 0)) n
  (BitVec.ofNat 512 v, BitVec.ofNat 512 (w + (2 ^ 512 - 2 ^ n)))

/-- VSCALEB (R95, R193): a × 2^k; below the normal range RNE into the subnormals with underflow raised. -/
def vscaleb (f : BitVec 3) (r : Rnd) (a b : Nat) : Nat × Flags :=
  let ff := ffmtOf f
  let k := sintOf (eb f) b
  match decodeF ff a with
  | .fin n m e =>
    if m = 0 then (a, 0)
    else
      let x : Mag := ⟨m, e + k, false⟩
      if (ilog2 m : Int) + e + k < 1 - ff.bias then
        let (v, g) := roundMag ff (rne r.sat) n x
        (v, g ||| fUnderflow)
      else roundMag ff r n x
  | .inf _ => (a, 0)
  | .nan s => (ff.nan, flagIf s fInvalid)

/-- VEXPO (R95, R193). -/
def vexpo (f : BitVec 3) (a : Nat) : Nat × Flags :=
  let w := eb f
  match decodeF (ffmtOf f) a with
  | .fin _ m e => if m = 0 then (2 ^ (w - 1), 0) else (intBits w (ilog2 m + e), 0)
  | .inf _ => (2 ^ (w - 1) - 1, 0)
  | .nan _ => (2 ^ (w - 1) - 1, fInvalid)

/-! ### Conversions (R194 to R196) -/

/-- conv of VCVT for one element (R195). -/
def conv (fd fs : BitVec 3) (r : Rnd) (a : Nat) : Nat × Flags :=
  match isInt fs, isInt fd with
  | false, false => roundNum (ffmtOf fd) r (decodeF (ffmtOf fs) a)
  | false, true =>
    let (z, g) := toInt (eb fd) r.rm (decodeF (ffmtOf fs) a)
    (intBits (eb fd) z, g)
  | true, false => roundNum (ffmtOf fd) r (Num.ofInt (sintOf (eb fs) a))
  | true, true =>
    let w := eb fd
    let (z, c) := satInt (-2 ^ (w - 1)) (2 ^ (w - 1) - 1) (sintOf (eb fs) a)
    (intBits w z, flagIf c fSaturation)

/-- The lane mapping of the conversions (R194): `op dl sl` converts source lane sl into destination lane dl. -/
def convLanes (fd fs : BitVec 3) (p : Nat) (m : BitVec 512) (a : BitVec 4096) (op : Nat → Nat → Nat × Flags) : VRes :=
  let zs := fmtBytes fs
  let zd := fmtBytes fd
  let n := 512 / max zs zd
  let w := 8 * zd
  if zd < zs then
    lanes w (laneCount fd) (fun l => bitOf m l && decide (p * n ≤ l) && decide (l < p * n + n))
      (fun l => op l (lane (8 * zs) a (l - p * n)))
  else lanes w n (bitOf m) (fun l => op l (lane (8 * zs) a (p * n + l)))

def vcvt (e : Env) (fd fs : BitVec 3) (p : Nat) (m : BitVec 512) (a : BitVec 4096) : VRes :=
  convLanes fd fs p m a (fun _ x => conv fd fs e.rnd x)

def vcvts (e : Env) (fd fs : BitVec 3) (p : Nat) (m : BitVec 512) (a : BitVec 4096) : VRes :=
  let c := colsOf e.rl fd
  convLanes fd fs p m a (fun l x =>
    roundSr (ffmtOf fd) e.rnd.sat
      ((srLane (srWord e.key e.tile (BitVec.ofNat 32 (l / c)) e.period) (l % c)).setWidth 16)
      (decodeF (ffmtOf fs) x))

/-! ### Reductions and scans (R197 to R199) -/

/-- The exact sum of many values: running integer at one exponent, and what else was met. -/
structure SumAcc where
  z : Int
  e : Int
  any : Bool
  allNeg : Bool
  allPos : Bool
  nan : Bool
  sig : Bool
  pinf : Bool
  ninf : Bool
  bad : Bool
deriving DecidableEq, Repr

def SumAcc.start : SumAcc := ⟨0, 0, false, true, true, false, false, false, false, false⟩

/-- One more term. -/
def SumAcc.add (s : SumAcc) : Num → SumAcc
  | .nan g => { s with any := true, nan := true, sig := s.sig || g }
  | .inf n => { s with any := true, pinf := s.pinf || !n, ninf := s.ninf || n, allNeg := false, allPos := false }
  | .fin n m e =>
    if m = 0 then { s with any := true, allNeg := s.allNeg && n, allPos := s.allPos && !n }
    else
      let q := if s.z = 0 then e else min s.e e
      { s with any := true, z := s.z * 2 ^ (s.e - q).toNat + atExp n m e q, e := q, allNeg := false, allPos := false }

/-- The sum as a value with the NaN-made mark (R198); an empty sum is +0. -/
def SumAcc.result (s : SumAcc) (rm : BitVec 2) : Num × Bool :=
  if s.nan then (.nan s.sig, s.bad || (s.pinf && s.ninf))
  else if s.bad || (s.pinf && s.ninf) then (.nan false, true)
  else if s.pinf then (.inf false, false)
  else if s.ninf then (.inf true, false)
  else if ¬ s.any then (Num.zero, false)
  else (Num.ofDyadic s.z s.e (zeroSign rm s.allNeg s.allPos), false)

/-- The sum of the listed values, rounded once. -/
def sumF (f : FFmt) (r : Rnd) (xs : List Num) : Nat × Flags :=
  finish f r ((xs.foldl SumAcc.add SumAcc.start).result r.rm)

/-- An exact integer sum, saturated to the format (R198). -/
def sumI (w : Nat) (xs : List Int) : Nat × Flags :=
  let (z, c) := satInt (-2 ^ (w - 1)) (2 ^ (w - 1) - 1) (xs.foldl (· + ·) 0)
  (intBits w z, flagIf c fSaturation)

/-- The active elements of a list of lanes. -/
def activeOf (m : BitVec 512) (ls : List Nat) : List Nat := ls.filter (bitOf m)

/-- The lanes of row r, and of column c. -/
def rowLanes (C r : Nat) : List Nat := (List.range C).map (fun c => r * C + c)
def colLanes (R C c : Nat) : List Nat := (List.range R).map (fun r => r * C + c)

/-- The largest (or smallest) of the listed lanes (R197, R198). -/
def extreme (f : BitVec 3) (big mag : Bool) (xs : List Nat) : Nat × Flags :=
  let w := eb f
  if isInt f then
    let zs := xs.map (fun x => let z := sintOf w x; if mag then (z.natAbs : Int) else z)
    match zs with
    | [] => (if mag then 0 else if big then 2 ^ (w - 1) else 2 ^ (w - 1) - 1, 0)
    | z :: t =>
      let y := t.foldl (fun a b => if big then max a b else min a b) z
      let (y', c) := satInt (-2 ^ (w - 1)) (2 ^ (w - 1) - 1) y
      (intBits w y', flagIf c fSaturation)
  else
    let ff := ffmtOf f
    let ns := xs.map (fun x => let n := decodeF ff x; if mag then n.mag else n)
    match ns with
    | [] => (if mag then 0 else infBits ff big, 0)
    | n :: t =>
      if ns.any Num.isNan then propNan ff ns
      else roundNum ff (rne true) (t.foldl (fun a b => if ltNumZ a b = big then b else a) n)

/-- Whether element x beats the best so far in VRARG: NaN counts as the largest, the first column wins ties (R198); −0 counts
as less than +0, as in VRMAX. DEDUCED, log 96. -/
def argBeats (f : BitVec 3) (x best : Nat) : Bool :=
  if isInt f then decide (sintOf (eb f) best < sintOf (eb f) x)
  else
    let a := decodeF (ffmtOf f) x; let b := decodeF (ffmtOf f) best
    if b.isNan then false else if a.isNan then true else ltNumZ b a

/-- VRARG of one row: the least active column holding the largest element, −1 with none. -/
def argOf (f : BitVec 3) (v : BitVec 4096) (C r : Nat) (m : BitVec 512) : Int :=
  let go := (activeOf m (rowLanes C r)).foldl
    (fun (acc : Option (Nat × Nat)) l =>
      let x := lane (eb f) v l
      match acc with
      | none => some (l, x)
      | some (k, b) => if argBeats f x b then some (l, x) else some (k, b)) none
  match go with
  | none => -1
  | some (l, _) => l - r * C

/-- The flags of VRARG: a signalling NaN that takes part raises invalid (R81). -/
def argFlags (f : BitVec 3) (v : BitVec 4096) (m : BitVec 512) : Flags :=
  flagIf (!isInt f && (activeOf m (List.range (laneCount f))).any
    (fun l => (decodeF (ffmtOf f) (lane (eb f) v l)).isSig)) fInvalid

/-- One result per row in lanes 0 to R − 1, zero bits above (R197). -/
def perRow (e : Env) (f : BitVec 3) (w : Nat) (g : Nat → Nat × Flags) : VRes :=
  let r := rowsOf e.rl f
  (lanes w r (fun _ => true) g).whole

/-- The sum of a list of lanes of a format. -/
def sumLanes (f : BitVec 3) (r : Rnd) (v : BitVec 4096) (ls : List Nat) : Nat × Flags :=
  if isInt f then sumI (eb f) (ls.map (fun l => sintOf (eb f) (lane (eb f) v l)))
  else sumF (ffmtOf f) r (ls.map (fun l => decodeF (ffmtOf f) (lane (eb f) v l)))

def vrext (e : Env) (f : BitVec 3) (big mag : Bool) (m : BitVec 512) (a : BitVec 4096) : VRes :=
  let C := colsOf e.rl f
  perRow e f (eb f) (fun r => extreme f big mag ((activeOf m (rowLanes C r)).map (lane (eb f) a)))

def vrsum (e : Env) (f : BitVec 3) (m : BitVec 512) (a : BitVec 4096) : VRes :=
  let C := colsOf e.rl f
  perRow e f (eb f) (fun r => sumLanes f e.rnd a (activeOf m (rowLanes C r)))

/-- The square of a value; of an infinity, +∞. -/
def sqNum : Num → Num
  | .nan s => .nan s
  | .inf _ => .inf false
  | .fin _ m e => .fin false (m * m) (e + e)

def vrssq (e : Env) (f : BitVec 3) (m : BitVec 512) (a : BitVec 4096) : VRes :=
  let C := colsOf e.rl f
  perRow e f (eb f) (fun r => sumF (ffmtOf f) e.rnd
    ((activeOf m (rowLanes C r)).map (fun l => sqNum (decodeF (ffmtOf f) (lane (eb f) a l)))))

def vrarg (e : Env) (f : BitVec 3) (m : BitVec 512) (a : BitVec 4096) : VRes :=
  let C := colsOf e.rl f
  let x := perRow e f 32 (fun r => (intBits 32 (argOf f a C r m), 0))
  { x with flags := argFlags f a m }

def vcsum (e : Env) (f : BitVec 3) (m : BitVec 512) (a : BitVec 4096) : VRes :=
  let C := colsOf e.rl f
  let R := rowsOf e.rl f
  (lanes (eb f) C (fun _ => true) (fun c => sumLanes f e.rnd a (activeOf m (colLanes R C c)))).whole

def vscan (e : Env) (f : BitVec 3) (m : BitVec 512) (a : BitVec 4096) : VRes :=
  let C := colsOf e.rl f
  each f m (fun l => sumLanes f e.rnd a (activeOf m ((List.range (l % C + 1)).map (fun c => l / C * C + c))))

/-! ### Lane moves (R200, R201) -/

def vbrow (e : Env) (f : BitVec 3) (m : BitVec 512) (a : BitVec 4096) : VRes :=
  let C := colsOf e.rl f
  each f m (fun l => (lane (eb f) a (l % C), 0))

def vbcol (e : Env) (f : BitVec 3) (m : BitVec 512) (a : BitVec 4096) : VRes :=
  let C := colsOf e.rl f
  each f m (fun l => (lane (eb f) a (l / C), 0))

def vsplat (f : BitVec 3) (m : BitVec 512) (x : Word) : VRes := each f m (fun _ => (x.toNat, 0))

def vins (f : BitVec 3) (x y : Word) : VRes :=
  lanes (eb f) (laneCount f) (fun l => l = y.toNat % laneCount f) (fun _ => (x.toNat, 0))

def vext (f : BitVec 3) (a : BitVec 4096) (y : Word) : Word :=
  let x := lane (eb f) a (y.toNat % laneCount f)
  if isInt f then BitVec.ofInt 64 (sintOf (eb f) x) else BitVec.ofNat 64 x

def vperm (f : BitVec 3) (m : BitVec 512) (a b : BitVec 4096) : VRes :=
  each f m (fun l => (lane (eb f) a (lane (eb f) b l % laneCount f), 0))

/-- VTRANS: destination lane c × R + r takes source lane r × C + c. -/
def vtrans (e : Env) (f : BitVec 3) (m : BitVec 512) (a : BitVec 4096) : VRes :=
  let R := rowsOf e.rl f
  let C := colsOf e.rl f
  each f m (fun l => (lane (eb f) a (l % R * C + l / R), 0))

def viota (e : Env) (f : BitVec 3) (m : BitVec 512) : VRes :=
  each f m (fun l => if isInt f then (l % 2 ^ eb f, 0) else roundNum (ffmtOf f) e.rnd (Num.ofInt l))

def vrand (e : Env) (f : BitVec 3) (m : BitVec 512) (x : Word) : VRes :=
  let C := colsOf e.rl f
  each f m (fun l => ((srLane (srWord e.key e.tile (x.setWidth 32 + BitVec.ofNat 32 (l / C)) e.period) (l % C)).toNat, 0))

/-! ### OX4 in registers (R202, R203) -/

def voxd (e : Env) (f : BitVec 3) (m : BitVec 512) (a : BitVec 4096) (b0 : Nat) : VRes :=
  each f m (fun l =>
    let blk := a.toNat / 2 ^ (136 * (b0 + l / 32)) % 2 ^ 136
    let c := blk / 2 ^ 128
    if c = 255 then newNan (ffmtOf f)
    else
      -- an outlier NaN code is a NaN of an 8-bit format and raises nothing (R81)
      roundNum (ffmtOf f) e.rnd (applyScale (ox4Elem blk (l % 32)) c))

/-- The magnitude of a finite value. -/
def magLe (a b : Num) : Bool := !ltNum b.mag a.mag

def maxMag (a b : Num) : Num := if ltNum a.mag b.mag then b.mag else a.mag
def minMag (a b : Num) : Num := if ltNum b.mag a.mag then b.mag else a.mag

/-- The least integer s with x ≤ c × 2^s for a positive finite x: start at the difference of the binary exponents and
move up while it does not hold. -/
def leastScale (c : Nat) (x : Num) : Int :=
  match x with
  | .fin _ m e =>
    let s0 : Int := (ilog2 m : Int) + e - ilog2 c - 1
    let ok := fun (s : Int) => magLe x (.fin false c s)
    if ok s0 then s0 else if ok (s0 + 1) then s0 + 1 else s0 + 2
  | _ => 0

/-- int(y, lo, hi) of R203, and whether the clamp changed it. -/
def oxInt (y : Num) (lo hi : Int) : Int × Bool :=
  match y with
  | .fin n m e => satInt lo hi (roundIntMag 0 n ⟨m, e, false⟩).1
  | _ => (0, false)

/-- e4(y) of R203: the E4M3 code, and whether the magnitude was clamped. -/
def oxE4 (y : Num) : Nat × Bool :=
  let (b, g) := roundNum e4m3 ⟨0, true⟩ y
  (b, g &&& fSaturation != 0)

/-- |y − v| for finite values. -/
def absDiff (y v : Num) : Num := (addNum 0 y v.flip).1.mag

/-- One candidate of a quad: its two bytes, its error, whether an element differs from its y, whether a clamp acted. -/
structure OxCand where
  b0 : Nat
  b1 : Nat
  err : Num
  inexact : Bool
  sat : Bool
deriving DecidableEq, Repr

/-- A candidate from the four decoded elements. -/
def oxCand (b0 b1 : Nat) (ys vs : List Num) (sat : Bool) : OxCand :=
  let ds := (ys.zip vs).map (fun p => absDiff p.1 p.2)
  ⟨b0, b1, ds.foldl maxMag Num.zero, ds.any (fun d => !d.isZero), sat⟩

/-- The nibble of a small integer. -/
def nib (z : Int) : Nat := intBits 4 z

/-- The bytes of one quad, with its flags (R203). -/
def oxQuad (y0 y1 y2 y3 : Num) : Nat × Flags :=
  let (i0, c0) := oxInt y0 (-8) 7
  let (i1, c1) := oxInt y1 (-7) 7
  let (i2, c2) := oxInt y2 (-8) 7
  let (i3, c3) := oxInt y3 (-7) 7
  let ys := [y0, y1, y2, y3]
  let plain := oxCand (nib i0 + 16 * nib i1) (nib i2 + 16 * nib i3) ys
    [Num.ofInt i0, Num.ofInt i1, Num.ofInt i2, Num.ofInt i3] (c0 || c1 || c2 || c3)
  let (e1, s1) := oxE4 y1
  let out1 := oxCand (nib i0 + 128) e1 ys [Num.ofInt i0, decodeF e4m3 e1, Num.zero, Num.zero] (c0 || s1)
  let (e3, s3) := oxE4 y3
  let out3 := oxCand e3 (nib i2 + 128) ys [Num.zero, Num.zero, Num.ofInt i2, decodeF e4m3 e3] (c2 || s3)
  let best := if e1 / 16 != 8 && ltNum out1.err plain.err then out1 else plain
  let best := if e3 / 16 != 8 && ltNum out3.err best.err then out3 else best
  (best.b0 + 256 * best.b1, flagIf best.inexact fInexact ||| flagIf best.sat fSaturation)

/-- The 17 bytes of one block as a number, with its flags (R203), from 32 source values of float format f. -/
def oxBlock (f : FFmt) (xs : List Num) : Nat × Flags :=
  if xs.any Num.isNan then (255 * 2 ^ 128, fInvalid)
  else
    let g0 := flagIf (xs.any Num.isInf) fSaturation
    let xs := xs.map (fun x => if x.isInf then decodeF f (maxBits f x.neg) else x)
    let at' := fun k => xs.getD k Num.zero
    let P := (List.range 8).foldl (fun p j =>
      maxMag (maxMag (maxMag p (at' (4 * j))) (at' (4 * j + 2))) (minMag (at' (4 * j + 1)) (at' (4 * j + 3)))) Num.zero
    let A := xs.foldl maxMag Num.zero
    let s0 : Int := if !P.isZero then leastScale 7 P else if !A.isZero then leastScale 448 A else 0
    let (s, cs) := satInt (-127) 127 s0
    let (v, g) := (List.range 8).foldl (fun (acc : Nat × Flags) j =>
      let (b, h) := oxQuad ((at' (4 * j)).scale (-s)) ((at' (4 * j + 1)).scale (-s))
        ((at' (4 * j + 2)).scale (-s)) ((at' (4 * j + 3)).scale (-s))
      (acc.1 + b * 2 ^ (16 * j), acc.2 ||| h)) (0, g0 ||| flagIf cs fSaturation)
    (v + (s + 127).toNat * 2 ^ 128, g)

def voxe (f : BitVec 3) (a : BitVec 4096) (b0 : Nat) : VRes :=
  let ff := ffmtOf f
  let nb := oxBlocks f
  lanes 136 30 (fun j => decide (b0 ≤ j) && decide (j < b0 + nb))
    (fun j => oxBlock ff ((List.range 32).map (fun k => decodeF ff (lane (eb f) a (32 * (j - b0) + k)))))

/-! ### Tree masks (R205) -/

/-- The parent of node j, −1 when it is out of order; and whether it was. -/
def parOf (a : BitVec 4096) (j : Nat) : Int × Bool :=
  let p := sintOf 8 (lane 8 a j)
  if p < -1 ∨ (j : Int) ≤ p then (-1, true) else (p, false)

/-- Whether c is i or one of its ancestors, in at most `fuel` steps. -/
def reaches (a : BitVec 4096) (c : Nat) : Nat → Int → Bool
  | 0, _ => false
  | k + 1, i => if i < 0 then false else i = c || reaches a c k (parOf a i.toNat).1

def vtree (e : Env) (f : BitVec 3) (m : BitVec 512) (a : BitVec 4096) (g : Word) : VRes :=
  let n := min (g.toNat % 128) 64
  let row0 := g.toNat / 256 % 64
  let C := colsOf e.rl f
  let bad := (List.range n).any (fun j => (parOf a j).2)
  each f m (fun l =>
    let i := row0 + l / C
    let c := l % C
    (if i < n ∧ c < n ∧ reaches a c 64 i then 0 else infBits (ffmtOf f) true, flagIf bad fInvalid))

end Sys2Proof.Machine
end

