-- ==== Sys2Proof/Machine/Special.lean ====
section
/-!
DEFINITION. The special functions of the F slot (R206, R207). Each result is the exact value of the function rounded
once. The reciprocal and the roots are computed exactly with a remainder; the others are enclosed between two fixed-point
numbers, at rising precision, until both ends round to the same result.
-/

namespace Sys2Proof.Machine

/-- floor(√n), one binary digit at a time. -/
def isqrtGo (n : Nat) : Nat → Nat → Nat
  | 0, r => r
  | b + 1, r => let t := r + 2 ^ b; isqrtGo n b (if t * t ≤ n then t else r)

def isqrt (n : Nat) : Nat := isqrtGo n (ilog2 n / 2 + 1) 0

/-- 1 / (m × 2^e) with at least 64 bits (FRCP). -/
def rcpMag (m : Nat) (e : Int) : Mag :=
  let k := ilog2 m + 64
  ⟨2 ^ k / m, -(k : Int) - e, decide (2 ^ k % m ≠ 0)⟩

/-- √(m × 2^e) with at least 64 bits (FSQRT). -/
def sqrtMag (m : Nat) (e : Int) : Mag :=
  let (m, e) := if e % 2 = 0 then (m, e) else (2 * m, e - 1)
  let n := m * 2 ^ 160
  let r := isqrt n
  ⟨r, e / 2 - 80, decide (r * r ≠ n)⟩

/-- 1 / √(m × 2^e) with at least 64 bits (FRSQ). -/
def rsqMag (m : Nat) (e : Int) : Mag :=
  let (m, e) := if e % 2 = 0 then (m, e) else (2 * m, e - 1)
  let k := ilog2 m / 2 + 80
  let r := isqrt (2 ^ (2 * k) / m)
  ⟨r, -(e / 2) - k, decide (r * r * m ≠ 2 ^ (2 * k))⟩

/-! ### Fixed-point series; a number t stands for t × 2^−P -/

/-- Σ z^(2j+1) / (2j+1), j < n, for fixed-point z (atanh; with `alt` the terms alternate: atan). -/
def oddSeries (P : Nat) (z : Int) (alt : Bool) : Nat → Int → Nat → Int → Int
  | 0, _, _, acc => acc
  | n + 1, pow, j, acc =>
    let t := pow / (2 * j + 1 : Nat)
    oddSeries P z alt n (pow * z / 2 ^ P * z / 2 ^ P) (j + 1) (if alt && j % 2 = 1 then acc - t else acc + t)

/-- ln 2 = 2 atanh(1/3). -/
def ln2 (P : Nat) : Int := 2 * oddSeries P (2 ^ P / 3) false (P / 3 + 4) (2 ^ P / 3) 0 0

/-- π = 16 atan(1/5) − 4 atan(1/239). -/
def piFix (P : Nat) : Int :=
  16 * oddSeries P (2 ^ P / 5) true (P / 4 + 4) (2 ^ P / 5) 0 0 -
    4 * oddSeries P (2 ^ P / 239) true (P / 15 + 4) (2 ^ P / 239) 0 0

/-- Σ t^j / j! (exponential series). -/
def expSeries (P : Nat) (t : Int) : Nat → Int → Nat → Int → Int
  | 0, _, _, acc => acc
  | n + 1, term, j, acc => expSeries P t n (term * t / 2 ^ P / (j + 1 : Nat)) (j + 1) (acc + term)

/-- e^t for fixed-point t as (y, k): the value y × 2^(k − P) with y about 2^P to 2^(P+1). -/
def expFix (P : Nat) (t : Int) : Int × Int :=
  let l := ln2 P
  let k := t / l
  (expSeries P (t - k * l) (P / 4 + 12) (2 ^ P) 0 0, k)

/-- A finite value as a fixed-point number, rounded down. -/
def toFix (P : Nat) (neg : Bool) (m : Nat) (e : Int) : Int :=
  let z : Int := if neg then -(m : Int) else m
  if 0 ≤ e + P then z * 2 ^ (e + P).toNat else z / 2 ^ (-(e + P)).toNat

/-- Σ (−1)^j t^(2j+o) / (2j+o)! with o = 0 (cos) or 1 (sin). -/
def trigSeries (P : Nat) (t2 : Int) : Nat → Int → Nat → Int → Int
  | 0, _, _, acc => acc
  | n + 1, term, j, acc =>
    trigSeries P t2 n (-(term * t2 / 2 ^ P / ((j + 1) * (j + 2) : Nat))) (j + 2) (acc + term)

/-- sin or cos of a finite value at precision P: the argument is reduced by quarter turns with π long enough. -/
def trig (P : Nat) (isCos : Bool) (neg : Bool) (m : Nat) (e : Int) : Int :=
  let Q := P + (ilog2 (max m 1) + e).toNat + 16
  let x := toFix Q neg m e
  let h := piFix Q / 2
  let k := (2 * x + h) / (2 * h)
  let r := (x - k * h) / 2 ^ (Q - P)
  let r2 := r * r / 2 ^ P
  let n := P / 6 + 12
  let s := trigSeries P r2 n r 1 0
  let c := trigSeries P r2 n (2 ^ P) 0 0
  match ((if isCos then k + 1 else k) % 4).toNat with
  | 0 => s
  | 1 => c
  | 2 => -s
  | _ => -c

/-- Σ (−1)^n x^(2n+1) / (n! (2n+1)), the series of erf. -/
def erfSeries (P : Nat) (x2 : Int) : Nat → Int → Nat → Int → Int
  | 0, _, _, acc => acc
  | n + 1, term, j, acc =>
    erfSeries P x2 n (-(term * x2 / 2 ^ P / (j + 1 : Nat))) (j + 1) (acc + term / (2 * j + 1 : Nat))

/-- A fixed-point enclosure: the value lies in [z − 2^(P/4), z + 2^(P/4)] × 2^x. -/
structure Encl where
  z : Int
  x : Int
deriving DecidableEq, Repr

/-- 2^(m × 2^e), not for an integer argument; |argument| below 2^10. -/
def exp2Encl (P : Nat) (neg : Bool) (m : Nat) (e : Int) : Encl :=
  let k : Int := toFix 0 neg m e
  let t := toFix P neg m e - k * 2 ^ P
  ⟨expSeries P (t * ln2 P / 2 ^ P) (P / 4 + 12) (2 ^ P) 0 0, k - P⟩

/-- log2 of a positive value that is no power of two. -/
def log2Encl (P : Nat) (m : Nat) (e : Int) : Encl :=
  let L := ilog2 m
  let y : Int := m * 2 ^ P / 2 ^ L
  let z := (y - 2 ^ P) * 2 ^ P / (y + 2 ^ P)
  let ln := 2 * oddSeries P z false (P / 3 + 8) z 0 0
  ⟨((L : Int) + e) * 2 ^ P + ln * 2 ^ P / ln2 P, -P⟩

def trigEncl (P : Nat) (isCos neg : Bool) (m : Nat) (e : Int) : Encl := ⟨trig P isCos neg m e, -P⟩

/-- tanh for |argument| below 64, from e^(2x). -/
def tanhEncl (P : Nat) (neg : Bool) (m : Nat) (e : Int) : Encl :=
  let Q := P + 16
  let (y, k) := expFix Q (2 * toFix Q false m e)
  let E := y * 2 ^ k.toNat
  let z := (E - 2 ^ Q) * 2 ^ P / (E + 2 ^ Q)
  ⟨if neg then -z else z, -P⟩

/-- 1 / (1 + e^−x) for |argument| below 256. -/
def sigmEncl (P : Nat) (neg : Bool) (m : Nat) (e : Int) : Encl :=
  let Q := P + 16
  let (y, k) := expFix Q (toFix Q neg m e)
  if 0 ≤ k then
    let E := y * 2 ^ k.toNat
    ⟨E * 2 ^ P / (E + 2 ^ Q), -P⟩
  else
    let D := 2 ^ Q + y / 2 ^ (-k).toNat
    ⟨y * 2 ^ P / D, k - P⟩

/-- x / (1 + e^−x). -/
def siluEncl (P : Nat) (neg : Bool) (m : Nat) (e : Int) : Encl :=
  let s := sigmEncl (P + 32) neg m e
  let L := ilog2 (max m 1)
  let z := s.z * m / 2 ^ (L + 32)
  ⟨if neg then -z else z, s.x + 32 + L + e⟩

/-- erf for |argument| below 6. -/
def erfEncl (P : Nat) (neg : Bool) (m : Nat) (e : Int) : Encl :=
  let Q := P + 96
  let x := toFix Q false m e
  let s := erfSeries Q (x * x / 2 ^ Q) (P + 220) x 0 0
  let rp : Int := isqrt ((piFix Q).toNat * 2 ^ Q)
  let z := 2 * s * 2 ^ P / rp
  ⟨if neg then -z else z, -P⟩

/-- The rounding of one end of an enclosure. -/
def roundEnd (f : FFmt) (r : Rnd) (z x : Int) : Nat × Flags :=
  if z = 0 then (0, fInexact) else roundMag f r (z < 0) ⟨z.natAbs, x, true⟩

/-- The rounding of an enclosed value: the first precision whose two ends round alike decides. -/
def roundEncl (f : FFmt) (r : Rnd) (g : Nat → Encl) : List Nat → Nat × Flags
  | [] => newNan f
  | P :: ps =>
    let t := g P
    let w : Int := 2 ^ (P / 4)
    let lo := t.z - w
    let hi := t.z + w
    if 0 < lo ∨ hi < 0 then
      let a := roundEnd f r lo t.x
      let b := roundEnd f r hi t.x
      if a = b then a else roundEncl f r g ps
    else roundEncl f r g ps

/-- The precisions tried. -/
def precisions : List Nat := [64, 128, 256, 512, 1024]

/-- A value just below 2^0 in magnitude, or just below m × 2^e. -/
def justBelow (m : Nat) (e : Int) : Mag := ⟨m * 2 ^ 60 - 1, e - 60, true⟩

/-- A positive value smaller than half of every subnormal. -/
def tinyMag : Mag := ⟨1, -400, true⟩

/-- A value larger than every finite value. -/
def hugeMag : Mag := ⟨1, 400, false⟩

/-- Whether a magnitude is at least c. -/
def atLeast (m : Nat) (e : Int) (c : Nat) : Bool := !ltNum (.fin false m e) (.fin false c 0)

/-- 2^x for a nonzero finite x (FEXP2). -/
def exp2F (f : FFmt) (r : Rnd) (neg : Bool) (m : Nat) (e : Int) : Nat × Flags :=
  if atLeast m e 400 then roundMag f r false (if neg then tinyMag else hugeMag)
  else
    let k := toFix 0 neg m e
    if 0 ≤ e ∨ m % 2 ^ (-e).toNat = 0 then roundMag f r false ⟨1, k, false⟩
    else roundEncl f r (fun P => exp2Encl P neg m e) precisions

/-- Which special function. -/
inductive Fn where
  | exp2 | log2 | rcp | rsq | sqrt | sin | cos | tanh | sigm | erf | silu
deriving DecidableEq, Repr

/-- A result with no flag. -/
def plainF (f : FFmt) (x : Num) : Nat × Flags := ((roundNum f (rne true) x).1, 0)

/-- A function of one decoded value (Table 9.7). -/
def special (f : FFmt) (r : Rnd) (fn : Fn) (x : Num) : Nat × Flags :=
  match x with
  | .nan s => (f.nan, flagIf s fInvalid)
  | .inf n =>
    match fn with
    | .exp2 => plainF f (if n then Num.zero else .inf false)
    | .log2 => if n then newNan f else plainF f (.inf false)
    | .rcp => plainF f (.fin n 0 0)
    | .rsq => if n then newNan f else plainF f Num.zero
    | .sqrt => if n then newNan f else plainF f (.inf false)
    | .sin => newNan f
    | .cos => newNan f
    | .tanh => plainF f (.fin n 1 0)
    | .sigm => plainF f (if n then Num.zero else .fin false 1 0)
    | .erf => plainF f (.fin n 1 0)
    | .silu => plainF f (if n then .fin true 0 0 else .inf false)
  | .fin n m e =>
    if m = 0 then
      match fn with
      | .exp2 => plainF f (.fin false 1 0)
      | .log2 => plainF f (.inf true)
      | .rcp => plainF f (.inf n)
      | .rsq => plainF f (.inf n)
      | .sqrt => plainF f (.fin n 0 0)
      | .sin => plainF f (.fin n 0 0)
      | .cos => plainF f (.fin false 1 0)
      | .tanh => plainF f (.fin n 0 0)
      | .sigm => plainF f (.fin false 1 (-1))
      | .erf => plainF f (.fin n 0 0)
      | .silu => plainF f (.fin n 0 0)
    else
      match fn with
      | .exp2 => exp2F f r n m e
      | .log2 =>
        if n then newNan f
        else
          let L := ilog2 m
          if m = 2 ^ L then roundNum f r (Num.ofInt (L + e))
          else roundEncl f r (fun P => log2Encl P m e) precisions
      | .rcp => roundMag f r n (rcpMag m e)
      | .rsq => if n then newNan f else roundMag f r false (rsqMag m e)
      | .sqrt => if n then newNan f else roundMag f r false (sqrtMag m e)
      | .sin => roundEncl f r (fun P => trigEncl P false n m e) precisions
      | .cos => roundEncl f r (fun P => trigEncl P true n m e) precisions
      | .tanh =>
        if atLeast m e 64 then roundMag f r n (justBelow 1 0)
        else roundEncl f r (fun P => tanhEncl P n m e) precisions
      | .sigm =>
        if atLeast m e 200 then roundMag f r false (if n then tinyMag else justBelow 1 0)
        else roundEncl f r (fun P => sigmEncl P n m e) precisions
      | .erf =>
        if atLeast m e 6 then roundMag f r n (justBelow 1 0)
        else roundEncl f r (fun P => erfEncl P n m e) precisions
      | .silu =>
        if atLeast m e 200 then roundMag f r n (if n then tinyMag else justBelow m e)
        else roundEncl f r (fun P => siluEncl P n m e) precisions

/-- A special function over the lanes of a register. -/
def vspecial (e : Env) (fn : Fn) (f : BitVec 3) (m : BitVec 512) (a : BitVec 4096) : VRes :=
  each f m (fun l => special (ffmtOf f) e.rnd fn (decodeF (ffmtOf f) (lane (eb f) a l)))

/-- FEXP2M (R207): 2^(x − m) with m the s32 lane r of vb for row r. -/
def vexp2m (e : Env) (f : BitVec 3) (m : BitVec 512) (a b : BitVec 4096) : VRes :=
  let C := colsOf e.rl f
  each f m (fun l =>
    let x := decodeF (ffmtOf f) (lane (eb f) a l)
    special (ffmtOf f) e.rnd .exp2 (addNum 0 x (Num.ofInt (-sintOf 32 (lane 32 b (l / C))))).1)

end Sys2Proof.Machine
end

