-- ==== Sys2Proof/Machine/Poly.lean ====
section
/-!
DEFINITION. The product-polynomial accumulator as functions of a polynomial alone (R265 to R274): normalisation,
multiplication and division by linear factors, scaling, reading, and the 520-byte image.
-/

namespace Sys2Proof.Machine

/-- Coefficient k as an integer. -/
def Poly.coef (p : Poly) (k : Nat) : Int := (Table.get 0 p.c k).toInt

/-- An exact number z × 2^e. -/
structure Dy where
  z : Int
  e : Int
deriving DecidableEq, Repr

def Dy.add (a b : Dy) : Dy :=
  if a.z = 0 then b else if b.z = 0 then a
  else
    let q := min a.e b.e
    ⟨a.z * 2 ^ (a.e - q).toNat + b.z * 2 ^ (b.e - q).toNat, q⟩

def Dy.mul (a b : Dy) : Dy := ⟨a.z * b.z, a.e + b.e⟩

/-- A finite decoded value as an exact number; a signed zero is 0 (R270). -/
def Dy.ofNum : Num → Dy
  | .fin n m e => ⟨if n then -(m : Int) else m, e⟩
  | _ => ⟨0, 0⟩

/-- z × 2^s rounded RNE to an integer, and whether that changed it. -/
def rneShift (z : Int) (s : Int) : Int × Bool :=
  if 0 ≤ s then (z * 2 ^ s.toNat, false) else roundIntMag 0 (z < 0) ⟨z.natAbs, s, false⟩

/-- The coefficients of the listed integers, as a table. -/
def coefTable (us : List Int) : Table (BitVec 48) :=
  (us.zipIdx.map (fun p => (p.2, BitVec.ofInt 48 p.1))).filter (fun p => p.2 != 0)

/-- pp_norm (R268) of the exact values v(0), v(1), …; the second result is the inexact flag. -/
def ppNorm (p : Poly) (v : List Dy) : Poly × Flags :=
  let d := p.d.toNat
  let t := p.t || (v.drop (d + 1)).any (fun a => a.z != 0)
  let v := v.take (min (d + 1) 64)
  let q := v.foldl (fun q a => if a.z = 0 then q else min q a.e) (v.foldl (fun q a => if a.z = 0 then q else max q a.e) (-1000000))
  let zs := v.map (fun a => if a.z = 0 then 0 else a.z * 2 ^ (a.e - q).toNat)
  let M := zs.foldl (fun m z => max m z.natAbs) 0
  if M = 0 then ({ p with c := [], t := t }, 0)
  else
    let e0 : Int := (ilog2 M : Int) + q - 45
    let top := fun (e : Int) => zs.foldl (fun m z => max m (rneShift z (q - e)).1.natAbs) 0
    let e1 := if top e0 = 2 ^ 46 then e0 + 1 else e0
    let ov := decide (32767 < e1)
    let e := if ov then 32767 else e1
    if e < -32768 then
      ({ p with c := [], e := BitVec.ofInt 16 (-32768), t := t, uf := true, x := true }, fInexact)
    else
      let us := zs.map (fun z => rneShift z (q - e))
      let rounded := us.any (fun u => u.2)
      let cs := us.map (fun u => (satInt (-(2 ^ 47 - 1)) (2 ^ 47 - 1) u.1).1)
      ({ p with c := coefTable cs, e := BitVec.ofInt 16 e, t := t, ov := p.ov || ov, x := p.x || rounded },
        flagIf rounded fInexact)

/-- The exact coefficient w(k) = c(k) × 2^(E + s). -/
def Poly.w (p : Poly) (s : Int) (k : Nat) : Dy := ⟨if k < 64 then p.coef k else 0, p.e.toInt + s⟩

/-- PPINIT (R269). -/
def ppInit (p : Poly) : Poly :=
  { p with c := [(0, 1)], e := 0, n := 0, t := false, x := false, ov := false, uf := false }

/-- PPDEG (R269). -/
def ppDeg (p : Poly) (x : Word) : Poly × Flags :=
  let q := { p with d := BitVec.ofNat 6 (min x.toNat 63) }
  ppNorm q ((List.range 64).map (p.w 0))

/-- PPSCALE (R269). -/
def ppScale (p : Poly) (x : Word) : Poly × Flags := ppNorm p ((List.range 64).map (p.w x.toInt))

/-- One factor a + b x (R270). -/
def ppFactor (p : Poly) (a b : Num) : Poly × Flags :=
  if a.isNan || a.isInf || b.isNan || b.isInf then (p, fInvalid)
  else
    let da := Dy.ofNum a
    let db := Dy.ofNum b
    let (q, g) := ppNorm p ((List.range 65).map (fun k =>
      (da.mul (p.w 0 k)).add (if k = 0 then ⟨0, 0⟩ else db.mul (p.w 0 (k - 1)))))
    ({ q with n := if p.n = 0xFFFF then p.n else p.n + 1 }, g)

/-- The active lanes of a format in ascending order. -/
def activeLanes (f : BitVec 3) (m : BitVec 512) : List Nat := activeOf m (List.range (laneCount f))

/-- PPMUL (R270) and the number F of its active lanes. -/
def ppMul (p : Poly) (f : BitVec 3) (m : BitVec 512) (a b : BitVec 4096) : Poly × Flags :=
  (activeLanes f m).foldl (fun acc l =>
    let (q, g) := ppFactor acc.1 (decodeF (ffmtOf f) (lane (eb f) a l)) (decodeF (ffmtOf f) (lane (eb f) b l))
    (q, acc.2 ||| g)) (p, 0)

/-- num / den rounded RNE to 63 significant bits (R271), and whether that changed it. -/
def round63 (num den : Dy) : Dy × Bool :=
  if num.z = 0 then (⟨0, 0⟩, false)
  else
    let n := num.z.natAbs
    let d := den.z.natAbs
    let neg := (num.z < 0) != (den.z < 0)
    -- scale so that the integer quotient has at least 64 bits
    let s := 64 + ilog2 d
    let y := n * 2 ^ s / d
    let rem := n * 2 ^ s % d
    let g : Int := (ilog2 y : Int) - 62
    let (k, half, cut) := (Mag.mk y 0 (decide (rem ≠ 0))).cut g
    let k := if roundsUp 0 neg k half cut then k + 1 else k
    (⟨if neg then -(k : Int) else k, g - s + num.e - den.e⟩, cut)

/-- Forward deflation: u(0), u(1), …, from w(k), the previous quotient and the factor. -/
def deflateUp (a b : Dy) : List Dy → Dy → List Dy × Bool
  | [], _ => ([], false)
  | w :: ws, prev =>
    let (u, c) := round63 (w.add (Dy.mul ⟨-1, 0⟩ (b.mul prev))) a
    let (us, c') := deflateUp a b ws u
    (u :: us, c || c')

/-- PPDIV (R271). -/
def ppDiv (p : Poly) (f : BitVec 3) (m : BitVec 512) (va vb : BitVec 4096) : Poly × Flags :=
  match activeLanes f m with
  | [] => (p, 0)
  | l :: _ =>
    let a := decodeF (ffmtOf f) (lane (eb f) va l)
    let b := decodeF (ffmtOf f) (lane (eb f) vb l)
    if a.isNan || a.isInf || b.isNan || b.isInf || (a.isZero && (b.isZero || p.t)) then (p, fInvalid)
    else
      let d := p.d.toNat
      let (us, cut) :=
        if ¬ a.isZero then deflateUp (Dy.ofNum a) (Dy.ofNum b) ((List.range (d + 1)).map (p.w 0)) ⟨0, 0⟩
        else
          let r := (List.range d).map (fun k => round63 (p.w 0 (k + 1)) (Dy.ofNum b))
          (r.map (fun x => x.1) ++ [⟨0, 0⟩], r.any (fun x => x.2))
      let (q, g) := ppNorm { p with x := p.x || cut } us
      ({ q with n := if p.n = 0 then 0 else p.n - 1 }, g ||| flagIf cut fInexact)

/-- PPRD (R273): lane l holds coefficient k0 + l. -/
def ppRead (e : Env) (p : Poly) (f : BitVec 3) (m : BitVec 512) (x : Word) : VRes :=
  each f m (fun l =>
    if 63 < x.toNat + l then (0, 0)
    else
      let z := p.coef (x.toNat + l)
      roundNum (ffmtOf f) (rne e.rnd.sat) (.fin (z < 0) z.natAbs p.e.toInt))

/-- A bit from a Bool. -/
def b1 (b : Bool) : BitVec 1 := if b then 1 else 0

/-- The status word (Table 12.1). -/
def Poly.status (p : Poly) : Word :=
  (0 : BitVec 12) ++ b1 p.x ++ b1 p.uf ++ b1 p.ov ++ b1 p.t ++ p.n ++ (0 : BitVec 10) ++ p.d ++ p.e

/-- Little-endian bytes of a word. -/
def wordBytes (w : Word) : List Byte := (List.range 8).map (fun i => w.extractLsb' (8 * i) 8)

/-- The number a list of bytes holds, little-endian. -/
def leNat : List Byte → Nat
  | [] => 0
  | b :: t => b.toNat + 256 * leNat t

/-- The 520-byte image (R265). -/
def Poly.image (p : Poly) : List Byte :=
  (List.range 64).flatMap (fun k => wordBytes (BitVec.ofInt 64 (p.coef k))) ++ wordBytes p.status

/-- The polynomial of an image (R274): coefficients from the low 48 bits, status as written. -/
def Poly.ofImage (bs : List Byte) : Poly :=
  let st : Word := BitVec.ofNat 64 (leNat (bs.drop 512))
  { c := coefTable ((List.range 64).map (fun k => (BitVec.ofNat 48 (leNat ((bs.drop (8 * k)).take 6))).toInt)),
    e := st.extractLsb' 0 16, d := st.extractLsb' 16 6, n := st.extractLsb' 32 16,
    t := st.getLsbD 48, ov := st.getLsbD 49, uf := st.getLsbD 50, x := st.getLsbD 51 }

end Sys2Proof.Machine
end

