-- ==== Sys2Proof/Machine/Mem.lean ====
section
/-!
DEFINITION. Memory: one canonical list of cells over one key space that holds every memory of the device, and the
address arithmetic of vaults and tiers (R97 to R100, R108, R139, R339).
-/

namespace Sys2Proof.Machine

/-- A memory: cells with rising keys, none of them zero. -/
abbrev Memory := List Host.Cell

/-- What an unlisted byte reads as: 0, the value TAGS leaves in the vaults (R406); for the other memories by choice.
DESIGN CHOICE, log 5. -/
def Memory.blank : Byte := 0

/-- The canonical form: keys strictly rising from `lo`, no cell equal to a blank byte. -/
def Memory.wfFrom : Nat → Memory → Bool
  | _, [] => true
  | lo, (k, b) :: t => decide (lo ≤ k) && decide (b ≠ Memory.blank) && Memory.wfFrom (k + 1) t

/-- The canonical form of a memory. -/
def Memory.wf (m : Memory) : Bool := Memory.wfFrom 0 m

/-- The byte at a key. -/
def Memory.read : Memory → Nat → Byte
  | [], _ => Memory.blank
  | (k, b) :: t, a => if a = k then b else if a < k then Memory.blank else Memory.read t a

/-- The cells below a key. -/
def Memory.below : Memory → Nat → Memory
  | [], _ => []
  | (k, b) :: t, a => if k < a then (k, b) :: Memory.below t a else []

/-- The cells from a key on. -/
def Memory.onward : Memory → Nat → Memory
  | [], _ => []
  | (k, b) :: t, a => if k < a then Memory.onward t a else (k, b) :: t

/-- The cells of consecutive bytes. -/
def Memory.cells : Nat → List Byte → Memory
  | _, [] => []
  | a, b :: bs => if b = Memory.blank then Memory.cells (a + 1) bs else (a, b) :: Memory.cells (a + 1) bs

/-- Consecutive bytes written from a key up, keeping the canonical form. -/
def Memory.writeList (m : Memory) (a : Nat) (bs : List Byte) : Memory :=
  m.below a ++ (Memory.cells a bs ++ m.onward (a + bs.length))

/-- The writes of a cycle, in the order in which they apply (R101). -/
def Memory.apply (m : Memory) (ws : List Write) : Memory := ws.foldl (fun m w => m.writeList w.key w.bytes) m

/-- The first bytes of a memory without cells below a key. -/
def Memory.leading : Nat → Memory → Nat → List Byte
  | 0, _, _ => []
  | n + 1, [], a => Memory.blank :: Memory.leading n [] (a + 1)
  | n + 1, (k, b) :: t, a =>
    if k = a then b :: Memory.leading n t (a + 1) else Memory.blank :: Memory.leading n ((k, b) :: t) (a + 1)

/-- `n` consecutive bytes from a key up. -/
def Memory.bytes (m : Memory) (a n : Nat) : List Byte := Memory.leading n (m.onward a) a

/-- `n` consecutive bytes as a little-endian number (R4). -/
def Memory.num (m : Memory) (a n : Nat) : Nat := leNat (m.bytes a n)

/-! ### The key space -/

/-- First key of the vault of a core: its address in the vault window (Table 5.1). -/
def vaultBase (core : Nat) : Nat := 0xFFFFFFFF00000000 + core * 4194304

/-- The key of a vault byte. -/
def vaultKey (core off : Nat) : Nat := vaultBase core + off

/-- The key of a device physical address: the address itself (Table 19.1). -/
def paKey (pa : Nat) : Nat := pa

/-- The key of a byte at a host bus address. DESIGN CHOICE, log 10. -/
def hostKey (a : Nat) : Nat := 0x10000000000000000 + a

/-- The key of a byte of the constant store (R108). -/
def constKey (off : Nat) : Nat := 0x20000000000000000 + off

/-- The key of input j in the buffer of a channel of a crossing, by which an upset names it (R283, R367). No memory is there.
DESIGN CHOICE, log 84. -/
def crossKey (u ch j : Nat) : Nat := 0x30000000000000000 + 4 * (512 * (64 * u + ch) + j % 512)

/-- Whether a key names a crossing buffer. -/
def inCross (key : Nat) : Bool := decide (crossKey 0 0 0 ≤ key) && decide (key < crossKey 64 0 0)

/-- The key of a byte of the instruction store of a core (R139). -/
def istoreKey (core off : Nat) : Nat := 0x40000000000000000 + core * 131072 + off

/-- The key of a byte of another device (R344). DESIGN CHOICE, log 10. -/
def remoteKey (dev pa : Nat) : Nat := 0x80000000000000000 + dev * 0x200000000000 + pa

/-- Whether a key lies in some vault, and which core and offset it is. -/
def vaultOf (key : Nat) : Option (Nat × Nat) :=
  if vaultBase 0 ≤ key ∧ key < vaultBase 768 then some ((key - vaultBase 0) / 4194304, (key - vaultBase 0) % 4194304)
  else none

/-- Whether a virtual address lies in the vault window (Table 5.1). -/
def inWindow (va : Word) : Bool := 0xFFFFFFFF00000000 ≤ va.toNat

/-- The core field of a vault window address (R98). -/
def coreField (va : Word) : Nat := va.toNat / 4194304 % 1024

/-- The vault offset of a vault window address. -/
def vaultOffset (va : Word) : Nat := va.toNat % 4194304

/-- The bank of a vault offset (R100). -/
def bankOf (off : Nat) : Nat := off / 262144 % 16

/-- Whether a key names HBM. -/
def inHbm (key : Nat) : Bool := decide (key < 0xC000000000)

/-- Whether a key names memory that is no part of the package and keeps its contents over a reset: CXL expanders, the
host, other devices. -/
def offPackage (key : Nat) : Bool :=
  (decide (0x100000000000 ≤ key) && decide (key < 0x200000000000)) ||
    (decide (hostKey 0 ≤ key) && decide (key < constKey 0)) || decide (remoteKey 0 0 ≤ key)

/-- The keys that keep their bytes. DESIGN CHOICE, log 63. -/
def Wipe.keeps : Wipe → Nat → Bool
  | .none, _ => true
  | .package, k => inHbm k || offPackage k
  | .supplies, k => offPackage k
  | .vaults, k => (vaultOf k).isNone

/-- The memory after a loss of contents. -/
def Memory.lose (m : Memory) (w : Wipe) : Memory :=
  match w with
  | .none => m
  | w => m.filter (fun c => w.keeps c.1)

/-- Bytes of a number, little-endian. -/
def numBytes (n v : Nat) : List Byte := (List.range n).map (fun i => BitVec.ofNat 8 (v / 256 ^ i))

/-- The number of bytes two ranges share. -/
def overlap (a n b m : Nat) : Nat := min (a + n) (b + m) - max a b

/-! ### The register files as 64-bit words (R147, R367): g0 to g63, then v0 to v31, m0 to m7, q0 to q7 and acc0 to acc7,
19,136 words of one residency -/

def fileV (n : Nat) : Nat := 64 + 64 * n
def fileM (n : Nat) : Nat := 2112 + 8 * n
def fileQ (n : Nat) : Nat := 2176 + 72 * n
def fileAcc (n : Nat) : Nat := 2752 + 2048 * n
def fileWords : Nat := 19136

/-- The key of a 64-bit word of the register files of a residency, by which an upset names it (R367). No memory is there.
DESIGN CHOICE, log 83. -/
def fileKey (core : Nat) (res : BitVec 1) (word : Nat) : Nat :=
  0x400000000000000000 + 8 * ((2 * core + res.toNat) * fileWords + word)

end Sys2Proof.Machine
end

