-- ==== Sys2Proof/Machine/Access.lean ====
section
/-!
DEFINITION. Reading and changing the parts of the state: cores, contexts, regions, registers, and where a core and a
region belong (R7, R9, R301, R349).
-/

namespace Sys2Proof.Machine

/-! ### Cores, contexts, regions -/

/-- A core of the device. -/
def State.core (s : State) (c : Nat) : Core := Table.get Core.fresh s.cores c

def State.setCore (s : State) (c : Nat) (k : Core) : State := { s with cores := Table.set s.cores c k }

def State.modCore (s : State) (c : Nat) (f : Core → Core) : State := s.setCore c (f (s.core c))

/-- A residency context: 0 is A, 1 is B. -/
def Core.ctx (k : Core) (res : BitVec 1) : Ctx := if res = 0 then k.a else k.b

def Core.setCtx (k : Core) (res : BitVec 1) (x : Ctx) : Core := if res = 0 then { k with a := x } else { k with b := x }

def State.ctx (s : State) (c : Nat) (res : BitVec 1) : Ctx := (s.core c).ctx res

def State.setCtx (s : State) (c : Nat) (res : BitVec 1) (x : Ctx) : State := s.setCore c ((s.core c).setCtx res x)

def State.modCtx (s : State) (c : Nat) (res : BitVec 1) (f : Ctx → Ctx) : State := s.setCtx c res (f (s.ctx c res))

def State.region (s : State) (r : Nat) : Region := Table.get Region.fresh s.regions r

def State.setRegion (s : State) (r : Nat) (x : Region) : State := { s with regions := Table.set s.regions r x }

def State.modRegion (s : State) (r : Nat) (f : Region → Region) : State := s.setRegion r (f (s.region r))

/-- The core whose bundle is in hand, its issuing residency (the holder, R324), and that context. -/
def State.me (s : State) : Nat := s.cur.toNat

def State.res (s : State) : BitVec 1 := (s.core s.me).holder

def State.cx (s : State) : Ctx := s.ctx s.me s.res

def State.modCx (s : State) (f : Ctx → Ctx) : State := s.modCtx s.me s.res f

def State.modMe (s : State) (f : Core → Core) : State := s.modCore s.me f

/-- The region a cluster is assigned to (Table 21.6). -/
def State.regionOfCluster (s : State) (k : Nat) : Option Nat :=
  let e := Table.get (0 : BitVec 6) s.clusters k
  if e.getLsbD 5 then some (e.toNat % 32) else none

/-- The region of a core (R7, R9). -/
def State.regionOf (s : State) (c : Nat) : Option Nat := s.regionOfCluster (c / 8)

/-- The region record of a core; of a core in no region, a fresh one. -/
def State.regOf (s : State) (c : Nat) : Region :=
  match s.regionOf c with
  | some r => s.region r
  | none => Region.fresh

/-- The current cycle of a core's region, the time base of everything timed. -/
def State.now (s : State) (c : Nat) : Nat := (s.regOf c).now

/-- The number of a partition entry that satisfies a test and is enabled. -/
def State.findPart (s : State) (f : Partition → Bool) : Option Nat :=
  (s.partitions.find? (fun p => p.2.en && f p.2)).map (fun p => p.1)

/-- The partition that owns a region (R349). -/
def State.partOfRegion (s : State) (r : Nat) : Option Nat := s.findPart (fun p => p.regions.getLsbD r)

/-- The partition of a core: that of its region (R350). -/
def State.partOf (s : State) (c : Nat) : Option Nat :=
  match s.regionOf c with
  | some r => s.partOfRegion r
  | none => none

def State.partition (s : State) (p : Nat) : Partition := Table.get Partition.fresh s.partitions p

def State.modPartition (s : State) (p : Nat) (f : Partition → Partition) : State :=
  { s with partitions := Table.set s.partitions p (f (s.partition p)) }

/-- One configuration error, counted in the status of a partition or in CFGERR (R399). -/
def State.cfgError (s : State) (p : Option Nat) : State :=
  match p with
  | some k => s.modPartition k (fun x => { x with cfgErr := x.cfgErr + 1 })
  | none => { s with cfgErr := s.cfgErr + 1 }

/-- The next number of the common sequence that orders issues and names messages and commands. -/
def State.tick1 (s : State) : State := { s with seq := s.seq + 1 }

/-! ### Registers (R147, R148) -/

/-- The words in error but for `n` words from the given one, which are written. -/
def Ctx.without (x : Ctx) (at_ n : Nat) : List (Nat × Bool) :=
  x.upsets.filter (fun e => decide (e.1 < at_) || decide (at_ + n ≤ e.1))

/-- A scalar register; g0 reads zero. -/
def Ctx.rg (x : Ctx) (n : BitVec 6) : Word := if n = 0 then 0 else Table.get 0 x.g n.toNat

/-- A scalar register written; g0 discards. -/
def Ctx.wg (x : Ctx) (n : BitVec 6) (w : Word) : Ctx :=
  if n = 0 then x else { x with g := Table.set x.g n.toNat w, upsets := x.without n.toNat 1 }

/-- A mask register; m0 reads all ones. -/
def Ctx.rm (x : Ctx) (n : BitVec 3) : BitVec 512 := if n = 0 then BitVec.allOnes 512 else Table.get 0 x.m n.toNat

/-- A mask register written; m0 discards. -/
def Ctx.wm (x : Ctx) (n : BitVec 3) (w : BitVec 512) : Ctx :=
  if n = 0 then x else { x with m := Table.set x.m n.toNat w, upsets := x.without (fileM n.toNat) 8 }

/-- The stream bound to a vector register, if any (R158). -/
def Ctx.stream (x : Ctx) (n : Nat) : Stream := Table.get Stream.none x.streams n

def Ctx.setStream (x : Ctx) (n : Nat) (t : Stream) : Ctx := { x with streams := Table.set x.streams n t }

/-- The stored value of a vector register. -/
def Ctx.rv0 (x : Ctx) (n : BitVec 5) : BitVec 4096 := Table.get 0 x.v n.toNat

/-- A vector register as an instruction reads it: of a bound register, the next register of stream data (R158). -/
def Ctx.rv (x : Ctx) (n : BitVec 5) : BitVec 4096 :=
  let t := x.stream n.toNat
  if t.bound && !t.write then t.data.headD 0 else x.rv0 n

def Ctx.wv (x : Ctx) (n : BitVec 5) (w : BitVec 4096) : Ctx :=
  { x with v := Table.set x.v n.toNat w, upsets := x.without (fileV n.toNat) 64 }

def Ctx.ring (x : Ctx) (h : Nat) : Ring := Table.get Ring.none x.rings h

def Ctx.setRing (x : Ctx) (h : Nat) (r : Ring) : Ctx := { x with rings := Table.set x.rings h r }

def Ctx.hoist (x : Ctx) (k : Nat) : Hoist := Table.get Hoist.none x.hoists k

def Ctx.setHoist (x : Ctx) (k : Nat) (h : Hoist) : Ctx := { x with hoists := Table.set x.hoists k h }

def Ctx.poly (x : Ctx) (q : Nat) : Poly := Table.get Poly.zero x.q q

def Ctx.setPoly (x : Ctx) (q : Nat) (p : Poly) : Ctx :=
  { x with q := Table.set x.q q p, upsets := x.without (fileQ q) 72 }

def Ctx.tagOf (x : Ctx) (t : Nat) : Tag := Table.get Tag.f x.tag t

def Ctx.setTag (x : Ctx) (t : Nat) (k : Tag) : Ctx := { x with tag := Table.set x.tag t k }

def Ctx.tile1 (x : Ctx) (t : Nat) : BitVec 131072 := Table.get 0 x.acc t

def Ctx.setTile (x : Ctx) (t : Nat) (w : BitVec 131072) : Ctx :=
  { x with acc := Table.set x.acc t w, upsets := x.without (fileAcc t) 2048 }

def Ctx.block (x : Ctx) (b : Nat) : Block := Table.get Block.none x.blocks b

def Core.chan (k : Core) (c : Nat) : Chan := Table.get Chan.fresh k.chans c

def Core.setChan (k : Core) (c : Nat) (x : Chan) : Core := { k with chans := Table.set k.chans c x }

def State.queue (s : State) (q : Nat) : Queue := Table.get Queue.fresh s.queues q

def State.setQueue (s : State) (q : Nat) (x : Queue) : State := { s with queues := Table.set s.queues q x }

def State.crossing (s : State) (u : Nat) : Crossing := Table.get Crossing.fresh s.crossings u

def State.setCrossing (s : State) (u : Nat) (x : Crossing) : State := { s with crossings := Table.set s.crossings u x }

def Crossing.chan (x : Crossing) (c : Nat) : XChan := Table.get XChan.fresh x.chans c

def Crossing.setChan (x : Crossing) (c : Nat) (k : XChan) : Crossing := { x with chans := Table.set x.chans c k }

/-- The step digest word j (R177). -/
def Ctx.dig (x : Ctx) (j : Nat) : BitVec 32 := match j with | 0 => x.d0 | 1 => x.d1 | 2 => x.d2 | _ => x.d3

/-! ### Launches and records -/

/-- The launch that owns a context. -/
def State.launchOf (s : State) (x : Ctx) : Option Launch := s.launches.find? (fun l => l.lid == x.lid)

/-- Whether a context belongs to a launch (R305). -/
def Ctx.owned (x : Ctx) : Bool := x.lid != BitVec.allOnes 64

/-- Whether a context is resident for energy and events (R393). -/
def Ctx.resident (x : Ctx) : Bool := x.owned && !x.saved

/-- Whether a context's state has left the core, or is leaving or entering it (R329, R331, R335). -/
def Core.away (k : Core) (res : BitVec 1) : Bool :=
  (k.ctx res).saved || (k.preRes == res && (k.preSt = .restoring || (k.preSt = .saving && decide (4 < k.prePhase.toNat))))

/-- A record of the table. -/
def Ctx.recAt (x : Ctx) (i : Nat) : Option Rec := x.recs[i]?

def Ctx.modRec (x : Ctx) (i : Nat) (f : Rec → Rec) : Ctx := { x with recs := x.recs.modify i f }

/-- Fields of a record (Table 3.1). -/
def Rec.field (r : Rec) (lo len : Nat) : Nat := (r.bits.extractLsb' lo len).toNat
def Rec.pro (r : Rec) : Nat := r.field 0 32
def Rec.ker (r : Rec) : Nat := r.field 32 32
def Rec.epiA (r : Rec) : Nat := r.field 64 32
def Rec.locked (r : Rec) : Bool := r.bits.getLsbD 227
def Rec.det (r : Rec) : Bool := r.bits.getLsbD 228
def Rec.credit (r : Rec) : Bool := r.bits.getLsbD 230
def Rec.prio (r : Rec) : Nat := r.field 224 3
def Rec.iter (r : Rec) : Nat := r.field 232 24
/-- HOIST field i, when valid: the handle. -/
def Rec.hoistOf (r : Rec) (i : Nat) : Option Nat :=
  if r.bits.getLsbD (176 + 8 * i + 7) then some (r.field (176 + 8 * i) 5) else none

/-- Whether the context runs in deterministic mode: the DET bit of the running record (R78, R310). -/
def Ctx.detMode (x : Ctx) : Bool :=
  match x.running with
  | some i => ((x.recAt i).map Rec.det).getD false
  | none => false

/-- Whether the record at an index is marked LOCKED. -/
def Ctx.lockedAt (x : Ctx) (i : Nat) : Bool := (x.recAt i).any Rec.locked

/-- Whether a record stands in the segment that runs: that of the bracket in force, behind its bracket record (R73, R327). -/
def Ctx.inSeg (x : Ctx) (i : Nat) : Bool :=
  match Table.find x.segOf i, x.seg0 with
  | some (r, b), some r' => r = r' && b = x.bracket.toNat
  | _, _ => false

/-- Whether a record takes part in choices now: in the segment that runs; outside all segments while none runs, and for a
LOCKED record also while that of a FREE bracket record does, because the period schedule comes first (R64, R66, R73). -/
def Ctx.inPlay (x : Ctx) (i : Nat) : Bool :=
  x.inSeg i || ((Table.find x.segOf i).isNone &&
    (match x.seg0 with
     | none => true
     | some b => x.lockedAt i && !x.lockedAt b))

/-- Whether a LOCKED record of the period schedule has still to end; after a STOP one that has not started counts as ended
(R64, R313). -/
def Ctx.owes (x : Ctx) (i : Nat) (r : Rec) : Bool :=
  r.locked && ((Table.find x.segOf i).isNone || x.inSeg i) &&
    (if x.stopped then r.st = .running || r.st = .suspended else r.st != .done && r.st != .skipped)

/-- The period schedule is incomplete: a boundary has started it and some LOCKED record has not ended (R64). -/
def Ctx.incomplete (x : Ctx) : Bool := x.pact && x.recs.zipIdx.any (fun p => x.owes p.2 p.1)

/-! ### Domains -/

/-- Whether a member belongs to a domain instance. -/
def Domain.has (d : Domain) (c : Nat) (res : BitVec 1) : Bool := d.members.any (fun m => m.1 = c && m.2 == res)

/-- The group of a core at a scope: its core, cluster or region number, 0 above. -/
def State.groupOf (s : State) (c : Nat) (scope : BitVec 3) : Nat :=
  match scope.toNat with
  | 0 => c
  | 1 => c / 8
  | 2 => (s.regionOf c).getD 0
  | _ => 0

/-- The system group of a launch: its partition and the GROUP of its packet (R69, Table 17.5). -/
def Launch.sysGroup (l : Launch) : Nat := l.part.toNat * 4294967296 + (l.packet.extractLsb' 448 32).toNat

/-- The system group of the launch with an identifier. -/
def State.sysGroup (s : State) (lid : Word) : Option Nat :=
  (s.launches.find? (fun l => l.lid == lid)).map Launch.sysGroup

/-- The domain instance of a launch at a scope that contains a core (R69). The core domain belongs to no launch, and that
of a system group to all launches of the group. -/
def State.domainOf (s : State) (lid : Word) (c : Nat) (scope : BitVec 3) : Option Domain :=
  if scope = 4 then s.domains.find? (fun d => d.scope == 4 && some d.group == s.sysGroup lid)
  else s.domains.find? (fun d => d.scope == scope && (scope == 0 || d.lid == lid) && d.group == s.groupOf c scope)

/-- Whether a member comes before another (R72): by core, then context A before B. -/
def memberLt (m n : Member) : Bool := m.1 < n.1 || (m.1 = n.1 && m.2.toNat < n.2.toNat)

/-- A member put in that order. -/
def insertMember (m : Member) : List Member → List Member
  | [] => [m]
  | n :: t => if memberLt m n then m :: n :: t else n :: insertMember m t

/-- Whether two entries are the same instance. -/
def Domain.same (d e : Domain) : Bool := e.lid == d.lid && e.scope == d.scope && e.group == d.group

def State.modDomain (s : State) (d : Domain) (f : Domain → Domain) : State :=
  { s with domains := s.domains.map (fun e => if d.same e then f e else e) }

/-- The widest scope set in `$dmem`, if any (R137). -/
def widest (dmem : BitVec 5) : Option (BitVec 3) :=
  if dmem.getLsbD 4 then some 4 else if dmem.getLsbD 3 then some 3 else if dmem.getLsbD 2 then some 2
  else if dmem.getLsbD 1 then some 1 else if dmem.getLsbD 0 then some 0 else none

/-- The phase count of a context's widest domain; 0 with none (R137, Table 20.5). -/
def State.phaseOf (s : State) (c : Nat) (res : BitVec 1) : BitVec 32 :=
  let x := s.ctx c res
  match widest x.dmem with
  | none => 0
  | some sc =>
    match s.domainOf x.lid c sc with
    | some d => d.count
    | none => 0

end Sys2Proof.Machine
end

