-- ==== Sys2Proof/Machine/Translate.lean ====
section
/-!
DEFINITION. Address translation (R97, R98, R339 to R347): the page table walk, leaves by tier, the checks in their order,
the TLBs, and the parts of an access.
-/

namespace Sys2Proof.Machine

/-- What an access does, for the permission check (R345). -/
inductive Acc where
  | load | store | atomic
deriving DecidableEq, Repr

/-- A refused access: the cause of Table 19.6 and the address. -/
structure XFault where
  cause : Nat
  va : Word
deriving DecidableEq, Repr

/-- Bits of a page table entry. -/
def ebits (e : Word) (lo len : Nat) : Nat := (e.extractLsb' lo len).toNat

/-- Whether a device physical address lies in an HBM group of a partition (Tables 19.1, 19.7). -/
def hbmOk (p : Partition) (pa : Nat) : Bool := decide (pa < 96 * 8589934592) && p.hbmg.getLsbD (pa / 8589934592)

/-- The two copies of the queue directory (R307). -/
def inDirectory (pa : Nat) : Bool :=
  (0x0FFFFC0000 ≤ pa && pa < 0x1000000000) || (0x6FFFFC0000 ≤ pa && pa < 0x7000000000)

/-- Whether the stored 64-bit word that holds a key has a double-bit error (R367). -/
def State.badWord (s : State) (key : Nat) : Bool := s.ecc.any (fun e => e.1 = key / 8 * 8 && e.2)

/-- Whether a device physical address has lost its memory: a failed stack or a lost expander (R318, R400). -/
def State.lostPa (s : State) (pa : Nat) : Bool :=
  (decide (pa < 0xC000000000) && s.failedStacks.getLsbD (pa / 68719476736)) ||
    s.cxlLost.any (fun r => decide (r.1 ≤ pa) && decide (pa < r.2))

/-- Entry i of the table at PA t × 4,096 (R341): cause 6 outside the partition's HBM or on an uncorrectable error. -/
def State.pte (s : State) (p : Partition) (t i : Nat) : Except Nat Word :=
  let a := t * 4096 + 8 * i
  if ¬ hbmOk p a ∨ inDirectory a ∨ s.badWord a ∨ s.lostPa a then .error 6
  else .ok (BitVec.ofNat 64 (Memory.num s.mem a 8))

/-- A leaf that the walk found: the entry, its level and the size of its page. -/
structure Leaf where
  e : Word
  level : Nat
  size : Nat
deriving DecidableEq, Repr

/-- The bytes a level-n entry maps, times a group of g (R342). -/
def pageSize (n g : Nat) : Nat := 4096 * 512 ^ n * g

/-- The walk (R341) from level n − 1 down, at the table t. -/
def State.walkFrom (s : State) (p : Partition) (va : Nat) : Nat → Nat → Except Nat Leaf
  | 0, _ => .error 1
  | n + 1, t => do
    let i := va / 2 ^ (12 + 9 * n) % 512
    let g := if n = 2 then 64 else if n = 0 then 16 else 1
    let head ← if g = 1 then pure 0 else s.pte p t (i - i % g)
    if g ≠ 1 ∧ head.getLsbD 0 ∧ ¬ head.getLsbD 1 ∧ head.getLsbD 8 then
      return ⟨head, n, pageSize n g⟩
    let e ← s.pte p t i
    if ¬ e.getLsbD 0 then throw 1
    if e.getLsbD 1 then
      if n = 0 ∨ ebits e 2 10 ≠ 0 ∨ ebits e 52 12 ≠ 0 then throw 4
      s.walkFrom p va n (ebits e 12 40)
    else
      if 3 ≤ n ∨ e.getLsbD 8 then throw 4
      return ⟨e, n, pageSize n 1⟩

/-- The walk of a context (R341): root, enable, and the 57 bits a mapping covers. -/
def State.walk (s : State) (p : Partition) (root : BitVec 40) (en : Bool) (va : Word) : Except Nat Leaf :=
  if ¬ en ∨ 2 ^ 57 ≤ va.toNat then .error 1 else s.walkFrom p va.toNat 5 root.toNat

/-- A resolved access of one page. -/
structure Xlat where
  place : Place
  kind : PKind
  det : Bool
  tlb : Option TlbEnt
deriving DecidableEq, Repr

/-- Whether an entry's permissions allow an access (R343). -/
def permits (e : Word) : Acc → Bool
  | .load => e.getLsbD 2
  | .store => e.getLsbD 3
  | .atomic => e.getLsbD 2 && e.getLsbD 3

/-- Checks of a leaf in the order of R345, and its address by tier (R344). -/
def State.leafPlace (s : State) (pn : Nat) (p : Partition) (l : Leaf) (va : Word) (acc : Acc) : Except Nat Xlat :=
  let e := l.e
  let off := va.toNat % l.size
  let base := fun (a : Nat) => a * 4096 / l.size * l.size
  let kind : Option PKind := match ebits e 5 2 with
    | 0 => some .rc
    | 1 => some .so
    | 2 => some .uo
    | _ => none
  if ¬ permits e acc then .error 2
  else
    match kind with
    | none => .error 3
    | some k =>
      let det := e.getLsbD 7
      match ebits e 9 3 with
      | 0 =>
        let b := base (ebits e 12 40)
        let groups := (List.range (l.size / 8589934592 + 1)).map (fun i => min (b + i * 8589934592) (b + l.size - 1))
        if ebits e 52 12 ≠ 0 then .error 4
        else if ¬ groups.all (hbmOk p) ∨ inDirectory (b + off) then .error 5
        else .ok ⟨.mem (paKey (b + off)), k, det, none⟩
      | 1 =>
        let a := base (ebits e 12 40) + off
        let port := a / 4398046511104 % 4
        if ebits e 52 12 ≠ 0 ∨ det then .error 4
        else if a < 0x100000000000 ∨ 0x200000000000 ≤ a ∨
            (Table.get (0 : BitVec 43) s.cxlCap port).toNat ≤ a % 4398046511104 ∨ ¬ p.cxlp.getLsbD port then .error 5
        else .ok ⟨.mem (paKey a), k, false, none⟩
      | 2 => if det then .error 4 else .ok ⟨.mem (hostKey (base (ebits e 12 52) + off)), k, false, none⟩
      | 3 =>
        if det then .error 4
        else .ok ⟨.mem (remoteKey (ebits e 45 19) (base (ebits e 12 33) + off)), k, false, none⟩
      | 4 =>
        let c := ebits e 12 10
        if ebits e 22 42 ≠ 0 ∨ k ≠ .so ∨ l.level ≠ 0 ∨ l.size ≠ 4096 ∨ det then .error 4
        else if s.partOf c ≠ some pn then .error 5
        else .ok ⟨.aperture c off, k, false, none⟩
      | _ => .error 4

/-! ### TLBs (R346) -/

def TlbEnt.hits (t : TlbEnt) (pn : Nat) (asid : BitVec 16) (va : Word) : Bool :=
  t.part.toNat = pn && t.asid == asid && decide (t.va ≤ va.toNat) && decide (va.toNat < t.va + t.size)

/-- The level of a page by its size. -/
def levelOfSize (z : Nat) : Nat := if 1073741824 ≤ z then 2 else if 2097152 ≤ z then 1 else 0

/-- The translation a core holds: its own TLB, then its cluster's. -/
def State.tlbFind (s : State) (c pn : Nat) (asid : BitVec 16) (va : Word) : Option TlbEnt :=
  ((s.core c).tlb ++ Table.get [] s.ctlbs (c / 8)).find? (fun t => t.hits pn asid va)

/-- An entry put at the recent end of a list of at most n, the least recently used leaving first. -/
def lruPut (n : Nat) (t : TlbEnt) (l : List TlbEnt) : List TlbEnt := (t :: l.filter (fun u => u != t)).take n

/-- A translation used: of the core's TLB, or else of its cluster's or of a walk, which put it into both (R346). -/
def State.tlbPut (s : State) (c : Nat) (t : Option TlbEnt) : State :=
  match t with
  | none => s
  | some e =>
    let hit := (s.core c).tlb.contains e
    let s := s.modCore c (fun k => { k with tlb := lruPut 256 e k.tlb })
    if hit then s
    else { s with ctlbs := Table.set s.ctlbs (c / 8) (lruPut 4096 e (Table.get [] s.ctlbs (c / 8))) }

/-- A translated address of a context (R345); with EN = 0 no translation is used, held or not (Table 19.2). -/
def State.xlat (s : State) (c : Nat) (x : Ctx) (va : Word) (acc : Acc) : Except Nat Xlat :=
  if !x.pten ∨ 2 ^ 57 ≤ va.toNat then .error 1
  else
  match s.partOf c with
  | none => .error 6
  | some pn =>
    let p := s.partition pn
    match s.tlbFind c pn x.asid va with
    | some t => do
      let r ← s.leafPlace pn p ⟨t.entry, levelOfSize t.size, t.size⟩ va acc
      return { r with tlb := some t }
    | none => do
      let l ← s.walk p x.ptroot x.pten va
      let r ← s.leafPlace pn p l va acc
      return { r with tlb := some ⟨BitVec.ofNat 3 pn, x.asid, va.toNat / l.size * l.size, l.size, l.e⟩ }

/-- Whether a vault window core field names a vault a core may reach (R98). -/
def State.vaultOk (s : State) (c f : Nat) : Bool :=
  f = c || (decide (f < 768) && (s.partOf f).isSome && s.partOf f = s.partOf c)

/-- One byte address resolved for a context of core c (R97, R98). -/
def State.resolve (s : State) (c : Nat) (x : Ctx) (va : Word) (acc : Acc) : Except Nat Xlat :=
  if inWindow va then
    let f := if coreField va = 1023 then c else coreField va
    if s.vaultOk c f then .ok ⟨.mem (vaultKey f (vaultOffset va)), .rc, true, none⟩ else .error 5
  else s.xlat c x va acc

/-- The page of a resolved address, as a number: its base, or one for each vault of the window. -/
def Xlat.page (t : Xlat) (va : Word) : Nat :=
  match t.tlb with
  | some e => e.va
  | none => 0x10000000000000000 + coreField va

/-- The pieces of a range of addresses, cut at 4 KiB boundaries (every page and every vault is a multiple of it). -/
def pieces (va : Word) : Nat → Nat → List (Word × Nat)
  | 0, _ => []
  | _, 0 => []
  | fuel + 1, len =>
    let n := min len (4096 - va.toNat % 4096)
    (va, n) :: pieces (va + BitVec.ofNat 64 n) fuel (len - n)

/-- The parts of an access of `len` bytes (R112), with the translations used, or the first refusal. -/
def State.parts (s : State) (c : Nat) (x : Ctx) (va : Word) (len : Nat) (acc : Acc) :
    Except XFault (List (Part × Xlat)) :=
  (pieces va (len / 4096 + 2) len).mapM (fun p =>
    match s.resolve c x p.1 acc with
    | .ok t => .ok (⟨t.place, p.2, t.kind, t.det, t.page p.1, (t.tlb.map (fun e => e.size)).getD 0⟩, t)
    | .error e => .error ⟨e, p.1⟩)

/-- Whether a place is a byte of the vault of core c. -/
def Place.near (c : Nat) : Place → Bool
  | .mem k => decide (vaultBase c ≤ k) && decide (k < vaultBase (c + 1))
  | .aperture _ _ => false

/-- Whether a virtual address names the own vault of core c (R98). -/
def isOwn (c : Nat) (va : Word) : Bool := inWindow va && (coreField va = 1023 || coreField va = c)

end Sys2Proof.Machine
end

