-- ==== Sys2Proof/Machine/Vault.lean ====
section
/-!
DEFINITION. What a write does at a vault or HBM controller besides the bytes: W tags (R104, R105) and COUNT hoists
(R117 to R119); rings (R113, R114); DET records (R137).
-/

namespace Sys2Proof.Machine

/-! ### Hoists -/

/-- A field of a hoist descriptor (Table 11.11). -/
def Hoist.field (h : Hoist) (lo len : Nat) : Nat := (h.desc.extractLsb' lo len).toNat
def Hoist.length (h : Hoist) : Nat := h.field 64 32
def Hoist.total (h : Hoist) : Nat := h.field 96 40
def Hoist.hbm (h : Hoist) : Bool := h.desc.getLsbD 136
def Hoist.contig (h : Hoist) : Bool := h.desc.getLsbD 137
def Hoist.auto (h : Hoist) : Bool := h.desc.getLsbD 138
def Hoist.action (h : Hoist) : Nat := h.field 144 3
def Hoist.aop (h : Hoist) : Nat := h.field 160 16
def Hoist.paddr (h : Hoist) : Word := h.desc.extractLsb' 192 64
def Hoist.pval (h : Hoist) : Word := h.desc.extractLsb' 256 64

/-- Whether a hoist's action is a slot action on a ring. -/
def Hoist.fills (h : Hoist) (r : Nat) : Bool := h.installed && h.action = 1 && h.aop % 16 = r

/-- Whether the hoist counts (R118). -/
def Hoist.live (h : Hoist) : Bool := h.installed && h.armed && !h.err

/-- The bytes of one write added to a COUNT hoist (R118). -/
def Hoist.add (key len : Nat) (h : Hoist) : Hoist :=
  if h.live && !h.contig then
    { h with count := h.count + BitVec.ofNat 40 (overlap key len h.home h.length) }
  else h

/-- A change of every context of the listed cores. -/
def State.mapCtx (s : State) (f : Ctx → Ctx) : State :=
  { s with cores := s.cores.map (fun p => (p.1, { p.2 with a := f p.2.a, b := f p.2.b })) }

/-- A write counted by every COUNT hoist whose range it meets (R118). -/
def State.countBytes (s : State) (key len : Nat) : State :=
  s.mapCtx (fun x => if x.saved then x else { x with hoists := x.hoists.map (fun p => (p.1, p.2.add key len)) })

/-! ### Granule tags -/

/-- The tag of a vault granule, by the key of a byte of it. -/
def State.gtag (s : State) (key : Nat) : GTag := Table.get GTag.clear s.gtags ((key - vaultBase 0) / 64)

def State.setGtag (s : State) (key : Nat) (t : GTag) : State :=
  { s with gtags := Table.set s.gtags ((key - vaultBase 0) / 64) t }

/-- The first keys of the granules that a range touches. -/
def granules (key len : Nat) : List Nat :=
  if len = 0 then [] else (List.range ((key + len - 1) / 64 - key / 64 + 1)).map (fun i => (key / 64 + i) * 64)

/-- W set on each vault granule whose byte 63 lies in the range (R105). -/
def State.markW (s : State) (key len : Nat) : State :=
  (granules key len).foldl (fun s g =>
    if (vaultOf g).isSome ∧ g + 63 < key + len then s.setGtag g { s.gtag g with w := true } else s) s

/-- W cleared over a range (R105). -/
def State.clearW (s : State) (key len : Nat) : State :=
  (granules key len).foldl (fun s g =>
    if (vaultOf g).isSome then s.setGtag g { s.gtag g with w := false } else s) s

/-- Number of leading granules with W = 1, of n from a key up. -/
def State.runW (s : State) : Nat → Nat → Nat
  | 0, _ => 0
  | n + 1, g => if (vaultOf g).isSome ∧ (s.gtag g).w then s.runW n (g + 64) + 1 else 0

/-- The value of a hoist (R118). DEDUCED, log 68. -/
def State.hoistValue (s : State) (h : Hoist) : Nat :=
  if h.contig then min (64 * s.runW ((h.length + 63) / 64) (h.home / 64 * 64)) h.length else h.count.toNat

/-! ### Bytes -/

/-- Bytes written that are not counted yet: an engine write before its chunk commits (R118). -/
def State.putRaw (s : State) (key : Nat) (bs : List Byte) : State := { s with wlog := s.wlog ++ [⟨key, bs⟩] }

/-- A commit of bytes already written: W tags and hoist counts (R105, R118). -/
def State.commitBytes (s : State) (key len : Nat) : State := (s.markW key len).countBytes key len

/-- Bytes written and counted where they perform. -/
def State.put (s : State) (key : Nat) (bs : List Byte) : State := (s.putRaw key bs).commitBytes key bs.length

/-- What a read of this cycle samples: the state before the cycle's writes (R101). -/
def State.sample (s : State) (key n : Nat) : List Byte := Memory.bytes s.mem key n

/-- What an atomic reads: the bytes that the writes before it in the cycle left (R216). -/
def State.through (s : State) (key n : Nat) : List Byte := Memory.bytes (Memory.apply s.mem s.wlog) key n

/-! ### Rings -/

/-- FULL slots (R113). -/
def Ring.full (r : Ring) : Nat := (r.p - r.q).toNat

/-- The vault offset of the slot at an index (R113). -/
def Ring.slotAt (r : Ring) (i : Nat) : Nat := r.base.toNat + i % r.slots.toNat * r.slotsize.toNat

/-- Whether the slot at P is FILLING (R113); with every slot FULL the slot at P is FULL. -/
def State.filling (s : State) (x : Ctx) (r : Nat) : Bool :=
  decide ((x.ring r).full < (x.ring r).slots.toNat) && x.hoists.any (fun p =>
    let h := p.2
    h.fills r && !h.err && 0 < s.hoistValue h && s.hoistValue h < h.total)

/-- Slots free under R223. -/
def State.freeSlots (s : State) (x : Ctx) (r : Nat) : Nat :=
  let g := x.ring r
  g.slots.toNat - g.full - (if s.filling x r then 1 else 0)

/-- P advanced by n slots marked FULL (R114). -/
def Ring.fill (r : Ring) (n : BitVec 9) : Ring := { r with p := r.p + n }

/-- Q advanced by n slots marked EMPTY, which releases up to n pending slot actions in the next cycle (R114). -/
def Ring.drain (r : Ring) (n : BitVec 9) : Ring := { r with q := r.q + n, rel := r.rel + n.toNat }

/-- Whether slot actions of a ring are pending (R114). -/
def Ctx.pending (x : Ctx) (r : Nat) : Bool := x.hoists.any (fun p => p.2.fills r && p.2.pend != [])

/-- The oldest pending slot action of a ring: its hoist (R114). -/
def Ctx.oldest (x : Ctx) (r : Nat) : Option Nat :=
  let cand := x.hoists.filterMap (fun p =>
    if p.2.fills r then p.2.pend.head?.map (fun t => (t, p.1)) else none)
  (cand.foldl (fun (b : Option (Nat × Nat)) c =>
    match b with
    | none => some c
    | some d => if c.1 < d.1 ∨ (c.1 = d.1 ∧ c.2 < d.2) then some c else some d) none).map (fun c => c.2)

/-- Something that ends an IDLE of the context (R176). -/
def Ctx.wake (x : Ctx) : Ctx := { x with idleEvent := true }

/-- Up to n pending slot actions of a ring performed, oldest first; a hoist that held 256 reaches no sooner than the cycle
after (R114). -/
def Ctx.release (x : Ctx) (r : Nat) : Nat → Ctx
  | 0 => x
  | n + 1 =>
    let g := x.ring r
    match x.oldest r with
    | none => x
    | some k =>
      if g.conf ∧ g.full < g.slots.toNat then
        let h := x.hoist k
        ((x.setRing r (g.fill 1)).setHoist k { h with pend := h.pend.tail, held := h.held || decide (256 ≤ h.pend.length) }).wake.release r n
      else x

/-- One slot action: performed, or left pending (R114). -/
def Ctx.slotAction (x : Ctx) (k r now : Nat) : Ctx :=
  let g := x.ring r
  if g.conf ∧ g.full < g.slots.toNat ∧ !x.pending r then (x.setRing r (g.fill 1)).wake
  else x.setHoist k { x.hoist k with pend := (x.hoist k).pend ++ [now] }

/-! ### DET records (R137) -/

/-- The record that an access of a launch in a phase meets. -/
def State.detRec (s : State) (lid : Word) (ph : BitVec 8) (g : Nat) : DetRec :=
  let r := Table.get DetRec.empty s.dets g
  if r.launch == lid && r.phase == ph then r else ⟨lid, ph, none, none, false⟩

/-- The controller that keeps the record of a granule, and how many records it holds (R137). DESIGN CHOICE, log 93. -/
def detHome (g : Nat) : Nat × Nat :=
  match vaultOf (g * 64) with
  | some v => (1000 + v.1, 8192)
  | none => (g * 64 / 68719476736, 65536)

/-- Why an access conflicts: cause 1 with the other agent, cause 4 with a full directory. -/
def State.detConflict (s : State) (lid : Word) (ph : BitVec 8) (me : Member) (wr : Bool) (g : Nat) :
    Option (BitVec 8 × Option Member) :=
  let r := s.detRec lid ph g
  let other := fun (o : Option Member) => o.isSome && o != some me
  if other r.writer then some (1, r.writer)
  else if wr && other r.reader then some (1, r.reader)
  else if wr && r.many then some (1, r.reader)
  else
    let home := detHome g
    let held := (s.dets.filter (fun p => decide (detHome p.1 = home))).length
    if (Table.find s.dets g).isNone ∧ home.2 ≤ held then some (4, none) else none

/-- The record after an access that does not conflict. -/
def DetRec.note (r : DetRec) (me : Member) (wr : Bool) : DetRec :=
  if wr then { r with writer := some me }
  else if r.reader.isNone then { r with reader := some me }
  else if r.reader != some me then { r with many := true }
  else r

def State.detNote (s : State) (lid : Word) (ph : BitVec 8) (me : Member) (wr : Bool) (g : Nat) : State :=
  let s := { s with dets := Table.set s.dets g ((s.detRec lid ph g).note me wr) }
  if wr ∧ (vaultOf (g * 64)).isSome then s.setGtag (g * 64) { s.gtag (g * 64) with phase := ph } else s

/-- The records of a range emptied. -/
def State.detEmpty (s : State) (key len : Nat) : State :=
  { s with dets := s.dets.filter (fun p => p.1 * 64 + 64 ≤ key || key + len ≤ p.1 * 64) }

/-- All records of a launch emptied. -/
def State.detEmptyLaunch (s : State) (lid : Word) : State :=
  { s with dets := s.dets.filter (fun p => p.2.launch != lid) }

end Sys2Proof.Machine
end

