-- ==== Sys2Proof/Machine/Engines.lean ====
section
/-!
DEFINITION. The own-vault accesses that an engine command makes, as far as fences and order ask for them (R131, R239, R250,
R278 to R281).
-/

namespace Sys2Proof.Machine

/-- The cycles in which a matrix command reads operands (R239, R247). -/
def MxCmd.rows (m : MxCmd) : Nat :=
  match m.i with
  | .mma _ _ _ _ _ _ _ _ _ _ => 64
  | .mmas _ _ _ _ _ _ _ _ _ => 64
  | .mmag _ _ _ _ _ _ _ _ _ _ => 64
  | .mload _ _ _ k => if k = 2 then 256 else 128
  | _ => 0

/-- A field of a block descriptor (Table 12.3). -/
def Block.field (b : Block) (lo len : Nat) : Nat := (b.desc.extractLsb' lo len).toNat
def Block.count (b : Block) : Nat := b.field 176 16

/-- The block that a contact command names. -/
def CtCmd.block : CtCmd → Nat := fun m =>
  match m.i with
  | .ctblk _ k => k.toNat
  | .ctsnap _ k => k.toNat
  | .ctqry _ _ k => k.toNat
  | .ctstep k => k.toNat
  | .ctclr _ k => k.toNat
  | _ => 0

/-- The steps of a contact command: its accesses, each in a cycle of its own (R278 to R281). -/
def CtCmd.steps (m : CtCmd) (x : Ctx) : Nat :=
  match m.i with
  | .ctblk _ _ => 1
  | .ctsnap _ _ => 66
  | .ctstep _ => (x.block m.block).count
  | .ctsave _ => 32
  | .ctload _ => 32
  | _ => 0

/-- The granules that a command with a fixed script reads from issue + 7 on. -/
def SmallCmd.reads (m : SmallCmd) : Nat :=
  match m.i with
  | .ecw _ _ => 1
  | .hcfg _ _ => 1
  | .gcfg _ _ => 3
  | _ => 0

/-- Whether such a command has an access still to make. -/
def SmallCmd.accessing (m : SmallCmd) : Bool :=
  match m.i with
  | .ecr _ _ => true
  | _ => decide (m.k < m.reads)

/-- The engine commands of a context that have still a memory access to make, by number (R131). A copy or KV command has
until it leaves its channel, its completion pennants among them. Aperture commands of other agents are none of the
context's (R232). -/
def Core.accessing (k : Core) (res : BitVec 1) : List Nat :=
  (k.mq.filter (fun m => m.res == res && decide (m.row < m.rows))).map (fun m => m.seq) ++
  k.chans.flatMap (fun p => ((p.2.cur.toList ++ p.2.queue).filter
    (fun m => m.res == res && !m.aperture)).map (fun m => m.seq)) ++
  (k.preCmds.filter (fun e => e.2.2.2.res == res && !e.2.2.2.aperture)).map (fun e => e.2.2.2.seq) ++
  (k.ct.filter (fun m => m.res == res && decide (m.k < m.steps (k.ctx res)))).map (fun m => m.seq) ++
  (k.small.filter (fun m => m.res == res && m.accessing)).map (fun m => m.seq)

/-! ### Copy templates and chunks (Table 11.9) -/

/-- A field of a template or of a KV descriptor. -/
def tfield (t : BitVec 512) (lo len : Nat) : Nat := (t.extractLsb' lo len).toNat

/-- Source and destination element sizes of a conversion code. -/
def convSizes (conv : Nat) : Nat × Nat :=
  match conv with
  | 1 => (4, 2)
  | 2 => (2, 4)
  | 3 => (4, 2)
  | 4 => (2, 4)
  | 5 => (4, 1)
  | 6 => (4, 1)
  | _ => (1, 1)

/-- The chunk size of a template. -/
def tmplChunk (t : BitVec 512) : Nat := 2 ^ (if tfield t 208 8 = 0 then 12 else tfield t 208 8)

/-- Destination bytes of one run, and the number of runs. -/
def tmplRun (t : BitVec 512) : Nat :=
  let z := convSizes (tfield t 216 8)
  tfield t 128 32 / z.1 * z.2
def tmplRuns (t : BitVec 512) : Nat := tfield t 160 16 * tfield t 176 16 * tfield t 192 16

/-- The latched template of the running command. -/
def Chan.tmpl (q : Chan) : BitVec 512 := (q.cur.bind (fun m => m.tmpl)).getD 0

def Chan.isCpy (q : Chan) : Bool := q.cur.any (fun m => m.kind = 0)

/-- Bytes of a chunk: of a KV command a row. -/
def Chan.chunk (q : Chan) : Nat := if q.isCpy then tmplChunk q.tmpl else max 1 ((q.pat.map (fun p => p.2.2)).headD 1)

/-- A suspended command begins again in a cycle at the first byte of the chunk at CURSOR (R255, R364). -/
def Chan.resume (q : Chan) (at_ : Nat) : Chan :=
  { q with
    st := .active, fault := none, beginAt := at_, shift := 0, wmWait := 0, out := [], ahead := []
    y := q.cursor.toNat * q.chunk, cur := q.cur.map (fun m => { m with cursor0 := q.cursor }) }

/-- The ECW commands of a residency that have still to install (R250). -/
def Core.openEcw (k : Core) (res : BitVec 1) : List Nat :=
  (k.small.filter (fun m => m.res == res &&
    (match m.i with
     | .ecw _ _ => true
     | _ => false))).map (fun m => m.seq)

end Sys2Proof.Machine
end

