-- ==== Sys2Proof/Machine/Fabric.lean ====
section
/-!
DEFINITION. Messages on the fabric and their order (R22, R103, R121 to R132): which earlier accesses of the context must
perform before an access does, and how an access performs at its target.
-/

namespace Sys2Proof.Machine

/-! ### Order (Tables 6.2 to 6.6) -/

/-- What the matrices look at in one access. -/
structure OpD where
  id : Nat
  cls : Cls
  parts : List Part
deriving DecidableEq, Repr

/-- The weakest page kind of an access (R112, R129): 0 UO, 1 RC, 2 SO. -/
def strength (ps : List Part) : Nat :=
  if ps.any (fun p => p.kind = .uo) then 0 else if ps.any (fun p => p.kind = .rc) then 1 else 2

/-- The key of a part; a copy aperture shares no byte with any memory. -/
def Part.key (p : Part) : Nat :=
  match p.place with
  | .mem k => k
  | .aperture c o => 0x100000000000000000000 + c * 4096 + o

/-- Two accesses that touch a byte in common (the A condition of R123). -/
def touch (xs ys : List Part) : Bool := xs.any (fun x => ys.any (fun y => 0 < overlap x.key x.len y.key y.len))

/-- The device that a part names, for pages of other devices. -/
def Part.device (p : Part) : Option Nat :=
  if 0x80000000000000000 ≤ p.key ∧ p.key < 0x100000000000000000000 then
    some ((p.key - 0x80000000000000000) / 0x200000000000)
  else none

/-- The CXL port that a part names. -/
def Part.cxlPort (p : Part) : Option Nat :=
  if 0x100000000000 ≤ p.key ∧ p.key < 0x200000000000 then some (p.key / 4398046511104 % 4) else none

def Cls.isAcq : Cls → Bool
  | .acq | .acqrel => true
  | _ => false

def Cls.isRel : Cls → Bool
  | .rel | .acqrel | .pen | .post => true
  | _ => false

def Cls.writes : Cls → Bool
  | .st | .at | .rel | .acqrel | .pen | .post => true
  | _ => false

/-- Whether the first of two accesses of one context must perform before the second (Tables 6.3 to 6.6 with R129). The
widest-reaching cell is taken: an access performs here at all scopes at once. DEDUCED, log 23. -/
def mustPrecede (x y : OpD) : Bool :=
  let w := min (strength x.parts) (strength y.parts)
  let sameDev := match x.parts.head?.bind Part.device, y.parts.head?.bind Part.device with
    | some a, some b => a = b
    | _, _ => false
  let samePort := match x.parts.head?.bind Part.cxlPort, y.parts.head?.bind Part.cxlPort with
    | some a, some b => a = b
    | _, _ => false
  if w = 0 then false
  else if w = 2 then true
  else if y.cls.isRel || x.cls.isAcq then true
  else if x.cls.isRel && y.cls.isAcq then true
  else if x.cls.writes && y.cls.writes && sameDev then true
  else if x.cls = .at && y.cls = .at && samePort then true
  else touch x.parts y.parts

/-- The parts of a near access in flight. -/
def Act.parts (c : Nat) : Act → List Part
  | .load _ ps _ => ps.map (fun p => ⟨.mem (vaultKey c p.1), p.2, .rc, true, 0, 0⟩)
  | .store off bs => [⟨.mem (vaultKey c off), bs.length, .rc, true, 0, 0⟩]
  | .atomic _ _ off _ _ => [⟨.mem (vaultKey c off), 8, .rc, true, 0, 0⟩]
  | .polyLoad _ off _ _ => [⟨.mem (vaultKey c off), 520, .rc, true, 0, 0⟩]
  | .deq _ _ off => [⟨.mem (vaultKey c off), 64, .rc, true, 0, 0⟩]
  | _ => []

/-- Whether a timed effect is a memory access of the matrices; an ENQ is a store from its issue on (Table 6.1). -/
def Act.isAccess : Act → Bool
  | .load _ _ _ | .store _ _ | .atomic _ _ _ _ _ | .polyLoad _ _ _ _ | .enqRead _ _ _ | .deq _ _ _ => true
  | _ => false

/-- The near accesses of a context in flight. -/
def Core.nearOps (k : Core) (c : Nat) (res : BitVec 1) : List OpD :=
  (k.timed.filter (fun t => t.res == res && t.act.isAccess)).map (fun t => ⟨t.seq, t.cls, t.act.parts c⟩)

/-- Whether a message has performed: its value is fixed, or its write has performed (R121). -/
def Msg.performed (m : Msg) : Bool := m.answer.isSome

/-- The messages of a context that have not performed. -/
def State.msgOps (s : State) (c : Nat) (res : BitVec 1) : List OpD :=
  (s.fabric.filter (fun m => m.dev.isNone && !m.host && m.core = c && m.res == res && !m.performed)).map
    (fun m => ⟨m.id, m.cls, m.parts⟩)

/-- The accesses of the context that must perform before a new one. -/
def State.before (s : State) (c : Nat) (res : BitVec 1) (cls : Cls) (parts : List Part) : List Nat :=
  (((s.core c).nearOps c res ++ s.msgOps c res).filter (fun x => mustPrecede x ⟨0, cls, parts⟩)).map (fun x => x.id)

/-- The accesses that a later one to the own vault waits for whatever its bytes: acquires that have not performed, and
accesses held back to the own vault (R124, R132). DEDUCED, log 26. -/
def State.gates (s : State) (c : Nat) (res : BitVec 1) : List Nat :=
  (s.fabric.filter (fun m => m.dev.isNone && !m.host && m.core = c && m.res == res && !m.performed &&
    (m.cls.isAcq || (m.own && m.cls != .post)))).map (fun m => m.id)

/-- The outstanding loads of a context numbered below `seq` that read a byte of some parts, which an engine write of a later
command must not overtake (R123, R125 to R128). -/
def State.loadsOn (s : State) (c : Nat) (res : BitVec 1) (seq : Nat) (ps : List Part) : Bool :=
  (s.msgOps c res).any (fun x => x.cls = .ld && decide (x.id < seq) && touch x.parts ps)

/-- All earlier accesses of the context that a mask of R218 covers: bit 0 loads, 1 stores, 2 the pennants of commands. -/
def State.accessIds (s : State) (c : Nat) (res : BitVec 1) (mask : BitVec 4) : List Nat :=
  (((s.core c).nearOps c res ++ s.msgOps c res).filter (fun x =>
    match x.cls with
    | .ld | .acq => mask.getLsbD 0
    | .acqrel => mask.getLsbD 0 || mask.getLsbD 1
    | .st | .at | .rel | .pen => mask.getLsbD 1
    | .post => mask.getLsbD 2
    | .ew | .str => false)).map (fun x => x.id)

/-- The numbers of the engine commands of a context that have not ended, those set aside by a save among them (R131, R330). Aperture commands of other agents are
none of the context's (R232). -/
def Core.commandIds (k : Core) (res : BitVec 1) : List Nat :=
  (k.mq.filter (fun m => m.res == res)).map (fun m => m.seq) ++
  k.chans.flatMap (fun p => ((p.2.cur.toList ++ p.2.queue).filter
    (fun m => m.res == res && !m.aperture)).map (fun m => m.seq)) ++
  (k.preCmds.filter (fun e => e.2.2.2.res == res && !e.2.2.2.aperture)).map (fun e => e.2.2.2.seq) ++
  (k.ct.filter (fun m => m.res == res)).map (fun m => m.seq) ++
  (k.small.filter (fun m => m.res == res)).map (fun m => m.seq)

/-- Whether an access, or an access of a command, by its number, has still to perform. -/
def State.outstanding (s : State) (c : Nat) (id : Nat) : Bool :=
  s.fabric.any (fun m => (m.id = id || m.ofCmd = some id) && !m.performed) ||
  (s.core c).timed.any (fun t => t.seq = id) ||
  ((s.core c).accessing 0).contains id || ((s.core c).accessing 1).contains id

/-- Those of a list that have still to perform. -/
def State.still (s : State) (c : Nat) (ids : List Nat) : List Nat := ids.filter (s.outstanding c)

/-! ### Sending -/

/-- Whether a part lies in host memory or in another device. -/
def Part.abroad (p : Part) : Bool :=
  (decide (0x10000000000000000 ≤ p.key) && decide (p.key < 0x20000000000000000)) || p.device.isSome

/-- The launch whose replica holds back a pennant (R370, R371): DET, with the GROUP of the enabled entry of its partition. -/
def State.replicated (s : State) (l : Launch) : Bool :=
  let e := Table.get Replica.fresh s.replicas l.part.toNat
  l.packet.getLsbD 89 && e.en && e.group == l.packet.extractLsb' 448 32

/-- The launch of a pennant that its replica holds back. -/
def State.heldBy (s : State) (m : Msg) : Option Launch :=
  if (m.cls = .pen ∨ m.cls = .post) ∧ m.parts.any Part.abroad then
    match s.launchOf (s.ctx m.core m.res) with
    | some l => if s.replicated l then some l else none
    | none => none
  else none

/-- A message put on the fabric, under the next number; a pennant of a replicated launch is held for its step, or dropped
after a DISCARD (R371, R372). -/
def State.send (s : State) (m : Msg) : State :=
  match s.heldBy m with
  | none => { s with fabric := s.fabric ++ [{ m with id := s.seq }], seq := s.seq + 1 }
  | some l =>
    if l.drop then s.tick1
    else
      let m := { m with id := s.seq, step := l.step, heldRep := some (l.part.toNat, l.lid) }
      { s with fabric := s.fabric ++ [m], seq := s.seq + 1 }

/-- A message of a context with the accesses it must wait for. -/
def State.message (s : State) (c : Nat) (res : BitVec 1) (cls : Cls) (scope : BitVec 3) (va : Word)
    (parts : List Part) (ask : Ask) (dest : Dest) : Msg :=
  { id := s.seq, dev := none, core := c, res := res, host := false, arrived := false, cls := cls, scope := scope, va := va,
    parts := parts, ask := ask, dest := dest, got := [], answer := none, after := s.before c res cls parts, due := 0, own := false,
    pc := (s.ctx c res).pc, slot := s.wordIx, det := (s.ctx c res).detMode, ofCmd := none, step := 0, heldRep := none }

/-- Whether a message may perform now: nothing it must wait for is left, and no replica holds it (R132, R371). -/
def State.deliverable (s : State) (m : Msg) : Bool :=
  !m.performed && (s.still m.core m.after).isEmpty && m.heldRep.isNone

/-! ### At the target -/

/-- The operation of an atomic (R215): the new value, and whether it is written. -/
def atomicOp (op : BitVec 5) (old y c : Word) : Word × Bool :=
  let slt := decide (y.toInt < old.toInt)
  let sgt := decide (old.toInt < y.toInt)
  let ult := decide (y.toNat < old.toNat)
  let ugt := decide (old.toNat < y.toNat)
  let bump : Word := (old.extractLsb' 48 16 + 1) ++ y.extractLsb' 0 48
  match op.toNat with
  | 0 => (old + y, true)
  | 1 => (if slt then y else old, true)
  | 2 => (if sgt then y else old, true)
  | 3 => (if ult then y else old, true)
  | 4 => (if ugt then y else old, true)
  | 5 => (old &&& y, true)
  | 6 => (old ||| y, true)
  | 7 => (old ^^^ y, true)
  | 8 => (y, true)
  | 9 => (y, old == c)
  | 10 => (y, sgt)
  | 11 => (y, ugt)
  | 12 => (bump, old.extractLsb' 48 16 == c.extractLsb' 48 16)
  | 13 => (bump, old == c)
  | _ =>
    let f := fun (w : Word) => decodeF f32 (w.toNat % 4294967296)
    (BitVec.ofNat 64 (finish f32 (rne false) (addNum 0 (f old) (f y))).1, true)

/-- The bytes an atomic acts on: 4 for AFADD, else 8 (R214). -/
def atomicSize (op : BitVec 5) : Nat := if op.toNat = 14 then 4 else 8

/-- An atomic performed at a key (R215, R216): the old value and the state. -/
def State.atomicAt (s : State) (op : BitVec 5) (key : Nat) (y c : Word) : Word × State :=
  let n := atomicSize op
  let old := BitVec.ofNat 64 (leNat (s.through key n))
  let r := atomicOp op old y c
  (old, if r.2 then s.put key (numBytes n r.1.toNat) else s)

/-- Bytes of a write spread over the parts of an access. -/
def State.putParts (s : State) : List Part → List Byte → State
  | [], _ => s
  | p :: ps, bs => (s.put p.key (bs.take p.len)).putParts ps (bs.drop p.len)

/-- The place in R101's order of an access that arrived: this device, then the issuing core, then issue. -/
def Msg.before (m n : Msg) : Bool := decide (m.core < n.core) || (m.core = n.core && decide (m.id < n.id))

/-- Insertion in that order. -/
def insertMsg (m : Msg) : List Msg → List Msg
  | [] => [m]
  | n :: t => if m.before n then m :: n :: t else n :: insertMsg m t

/-- The bytes that the parts of an access sample. -/
def State.sampleParts (s : State) (ps : List Part) : List Byte := ps.flatMap (fun p => s.sample p.key p.len)

/-- Whether the answer of a message still has to be delivered. -/
def Msg.waits (m : Msg) : Bool := m.dest != .none

/-- The message with its answer, removed when nothing waits for it. -/
def State.answered (s : State) (m : Msg) (bs : List Byte) : State :=
  let upd := s.fabric.map (fun n => if n.id = m.id then { m with answer := some bs, arrived := false } else n)
  { s with fabric := if m.waits then upd else upd.filter (fun n => n.id != m.id) }

/-- The parts of an access on the page of its first one, and those on other pages (R112). -/
def onePage : List Part → List Part × List Part
  | [] => ([], [])
  | p :: ps => (p :: ps.takeWhile (fun q => q.page = p.page), ps.dropWhile (fun q => q.page = p.page))

/-- The message after the access of one page: `rest` is left, with what it still asks; with nothing left it has its answer.
-/
def State.paged (s : State) (m : Msg) (rest : List Part) (ask : Ask) (bs : List Byte) : State :=
  if rest.isEmpty then s.answered m (m.got ++ bs)
  else
    { s with fabric := s.fabric.map (fun n =>
        if n.id = m.id then { n with parts := rest, ask := ask, got := m.got ++ bs, arrived := false } else n) }

end Sys2Proof.Machine
end

