-- ==== Sys2Proof/Machine/SysRegs.lean ====
section
/-!
DEFINITION. System registers (R149, R173, R300 to R303 and the field maps of the other chapters): which numbers are
assigned, which fields an access at a level may write, what each reads as, and how a write performs.
-/

namespace Sys2Proof.Machine

/-- The privilege range of a number (R149). -/
def sysLevel (n : BitVec 9) : Nat := if n.toNat < 0x100 then 0 else if n.toNat < 0x180 then 1 else 2

/-- The numbers that Tables 7.5 and 17.2 assign. -/
def sysAssigned (n : BitVec 9) : Bool :=
  let k := n.toNat
  k ≤ 0x0E || (0x10 ≤ k && k ≤ 0x14) || k = 0x18 || (0x20 ≤ k && k ≤ 0x3F) || (0x100 ≤ k && k ≤ 0x104) ||
    k = 0x108 || k = 0x109 || k = 0x110 || k = 0x111 || (0x180 ≤ k && k ≤ 0x182)

/-- The fields that a write at a level takes; 0 for a register that is read-only at that level. DEDUCED, log 70. -/
def sysMask (lvl : BitVec 2) (n : BitVec 9) : Word :=
  let all : Word := BitVec.allOnes 64
  let rt := fun (m : Word) => if lvl = 0 then 0 else m
  let mach := fun (m : Word) => if lvl.toNat < 2 then 0 else m
  match n.toNat with
  | 0x000 => 0x1F
  | 0x001 => 7
  | 0x002 => 7
  | 0x003 => 0xFFFFFFC3
  | 0x004 => 0xFF03
  | 0x005 => 0xDF
  | 0x006 => all
  | 0x00C => rt 0x1FFFFFFFFFFFF
  | 0x00D => rt 0xFFFFFFFFFFFFFFC1
  | 0x018 => rt all
  | 0x100 | 0x101 | 0x104 => rt all
  | 0x102 => mach 0xFFFFF
  | 0x103 => mach all
  | 0x108 => rt 0xFFFFFFFFFF001
  | 0x109 => rt 0xFFFF
  | 0x180 => mach 7
  | 0x181 => mach all
  | 0x182 => mach 0xFF
  | k =>
    if 0x20 ≤ k ∧ k ≤ 0x27 then 0x3FF
    else if 0x28 ≤ k ∧ k ≤ 0x2F then 0x1FFFFFFFFFFFF
    else if 0x30 ≤ k ∧ k ≤ 0x3F then 0xFFFFFFFF
    else 0

/-- `$faultq` as a word (Table 20.4). -/
def Ctx.faultq (x : Ctx) : Word := x.fqCount ++ x.fqBase ++ x.fqHead ++ (0 : BitVec 5) ++ b1 x.fqOvf

/-- `$mxcfg` as a word (Table 11.1). -/
def Ctx.mxcfg (x : Ctx) : Word := (0 : BitVec 48) ++ x.fxq ++ (0 : BitVec 6) ++ b1 x.satf ++ b1 x.fx

/-- `$ptroot` as a word (Table 19.2). -/
def Ctx.ptrootWord (x : Ctx) : Word := (0 : BitVec 12) ++ x.ptroot ++ (0 : BitVec 11) ++ b1 x.pten

/-- `$vpitch` as a word (Table 10.2). -/
def Ctx.vpitch (x : Ctx) : Word := (0 : BitVec 32) ++ x.pitch ++ (0 : BitVec 4) ++ x.seg

/-- `$energy` as a word (Table 22.2). -/
def Ctx.energyWord (x : Ctx) : Word := (0 : BitVec 15) ++ b1 x.esat ++ x.energy

/-- The code of a source state (Table 21.4). -/
def Src.code : Src → BitVec 3
  | .off => 0
  | .locking => 1
  | .locked => 2
  | .fast => 3
  | .holdover => 4
  | .frozen => 5
  | .relock => 6

/-- `$rstat` (Table 21.4). -/
def Region.rstat (r : Region) : Word :=
  r.ovr ++ r.missN ++ (0 : BitVec 16) ++ b1 r.move ++ b1 r.mbox.isSome ++ b1 r.stop ++ b1 r.slow ++ b1 r.boosted ++ r.rail ++
    (0 : BitVec 7) ++ r.st.code

/-- `$dlevel` (R70): bit 0 of the phase count of each instance of which the context is a member. -/
def State.dlevel (s : State) (c : Nat) (x : Ctx) : Word :=
  BitVec.ofNat 64 (((List.range 5).map (fun n =>
    if x.dmem.getLsbD n then
      match s.domainOf x.lid c (BitVec.ofNat 3 n) with
      | some d => d.count.toNat % 2 * 2 ^ n
      | none => 0
    else 0)).sum)

/-- `$ctx` (Table 17.1). -/
def State.ctxWord (s : State) (c : Nat) (res : BitVec 1) (x : Ctx) : Word :=
  (0 : BitVec 40) ++ BitVec.ofNat 5 ((s.regionOf c).getD 0) ++ (s.core c).part ++ (0 : BitVec 2) ++ x.lvl ++ (0 : BitVec 1) ++
    res ++ BitVec.ofNat 10 c

/-- What a system register reads as in this cycle. -/
def State.readSys (s : State) (c : Nat) (res : BitVec 1) (n : BitVec 9) : Word :=
  let x := s.ctx c res
  let k := s.core c
  let r := s.regOf c
  match n.toNat with
  | 0x000 => x.flags.setWidth 64
  | 0x001 => x.round.setWidth 64
  | 0x002 => x.vshape.setWidth 64
  | 0x003 => x.vpitch
  | 0x004 => x.mxcfg
  | 0x005 => x.mxstat.setWidth 64
  | 0x006 => x.key
  | 0x007 => x.tile
  | 0x008 => x.bracket
  | 0x009 => x.dmem.setWidth 64
  | 0x00A => s.dlevel c x
  | 0x00B => s.ctxWord c res x
  | 0x00C => x.energyWord
  | 0x00D => x.faultq
  | 0x00E => x.d1 ++ x.d0
  | 0x010 => r.cycle
  | 0x011 => s.wall
  | 0x012 => r.period
  | 0x013 => r.gap
  | 0x014 => r.slip
  | 0x018 => (if k.slb = 0 then 1 else k.slb) ++ (if k.sla = 0 then 1 else k.sla)
  | 0x100 => x.tvec
  | 0x101 => x.tret
  | 0x102 => x.tcause.setWidth 64
  | 0x103 => x.targ
  | 0x104 => x.tscr
  | 0x108 => x.ptrootWord
  | 0x109 => x.asid.setWidth 64
  | 0x110 => if x.owned then x.lid &&& 0xFFF else x.lid
  | 0x111 => r.rstat
  | 0x180 => k.part.setWidth 64
  | 0x181 => k.lq
  | 0x182 => k.qmir.setWidth 64
  | m =>
    if 0x20 ≤ m ∧ m ≤ 0x27 then (Table.get (0 : BitVec 10) x.evsel (m - 0x20)).setWidth 64
    else if 0x28 ≤ m ∧ m ≤ 0x2F then (Table.get (0 : BitVec 49) x.evcnt (m - 0x28)).setWidth 64
    else if 0x30 ≤ m ∧ m ≤ 0x3F then (Table.get (0 : BitVec 32) x.ctthr (m - 0x30)).setWidth 64
    else 0

/-- A whole new value of a register that belongs to a context. -/
def Ctx.setSys (x : Ctx) (n : BitVec 9) (w : Word) : Ctx :=
  match n.toNat with
  | 0x000 => { x with flags := w.setWidth 5 }
  | 0x001 => { x with round := w.setWidth 3 }
  | 0x002 => if w.extractLsb' 0 3 = 7 then x else { x with vshape := w.setWidth 3 }
  | 0x003 => { x with pitch := w.extractLsb' 6 26, seg := w.setWidth 2 }
  | 0x004 => { x with fxq := w.extractLsb' 8 8, satf := w.getLsbD 1, fx := w.getLsbD 0 }
  | 0x005 => { x with mxstat := w.setWidth 8 }
  | 0x006 => { x with key := w }
  | 0x00C => { x with energy := w.setWidth 48, esat := w.getLsbD 48 }
  | 0x00D =>
    { x with fqCount := w.extractLsb' 57 7, fqBase := w.extractLsb' 12 45, fqHead := w.extractLsb' 6 6, fqOvf := w.getLsbD 0 }
  | 0x100 => { x with tvec := w }
  | 0x101 => { x with tret := w }
  | 0x102 => { x with tcause := w.setWidth 20 }
  | 0x103 => { x with targ := w }
  | 0x104 => { x with tscr := w }
  | 0x108 => { x with ptroot := w.extractLsb' 12 40, pten := w.getLsbD 0 }
  | 0x109 => { x with asid := w.setWidth 16 }
  | m =>
    if 0x20 ≤ m ∧ m ≤ 0x27 then { x with evsel := Table.set x.evsel (m - 0x20) (w.setWidth 10) }
    else if 0x28 ≤ m ∧ m ≤ 0x2F then { x with evcnt := Table.set x.evcnt (m - 0x28) (w.setWidth 49) }
    else if 0x30 ≤ m ∧ m ≤ 0x3F then { x with ctthr := Table.set x.ctthr (m - 0x30) (w.setWidth 32) }
    else x

/-- A whole new value of any system register of a core. -/
def Core.setSys (k : Core) (res : BitVec 1) (n : BitVec 9) (w : Word) : Core :=
  match n.toNat with
  | 0x018 => { k with sla := w.setWidth 32, slb := w.extractLsb' 32 32 }
  | 0x180 => { k with part := w.setWidth 3 }
  | 0x181 => { k with lq := w }
  | 0x182 => { k with qmir := w.setWidth 8 }
  | _ => k.setCtx res ((k.ctx res).setSys n w)

/-- A slice in cycles; 0 reads as 1 (Table 17.3). -/
def Core.slice (k : Core) (res : BitVec 1) : Nat := max 1 (if res = 0 then k.sla.toNat else k.slb.toNat)

end Sys2Proof.Machine
end

