-- ==== Sys2Proof/Machine/Flags.lean ====
section
/-!
DEFINITION. Flag computations: the flags of integer division (R161, R162), and how the flags raised by the writes of a
cycle enter `$flags` and `$mxstat` (R89, R235). The flags of each floating-point operation stand with its value in
Formats, Lanes, Special, Poly and Matrix.
-/

namespace Sys2Proof.Machine

/-- A division by zero raises invalid (R161). -/
def divFlags (w : Nat) (y : Word) : Flags := flagIf (decide (y.toNat % 2 ^ w = 0)) fInvalid

/-- Flags raised with the writes of a cycle (R89, R235). They enter their register at the end of the cycle, after its
writes, so that a read in the cycle sees the flags of earlier cycles. -/
def Ctx.raise (x : Ctx) (ws : List RegWrite) : Ctx :=
  let f := ws.foldl (fun (a : Flags) w => if w.toMx then a else a ||| w.flags) 0
  let g := ws.foldl (fun (a : Flags) w => if w.toMx then a ||| w.flags else a) 0
  { x with raised := x.raised ||| f, raisedMx := x.raisedMx ||| g.setWidth 8 }

end Sys2Proof.Machine
end

