-- ==== Sys2Proof/Machine/Ops.lean ====
section
/-!
DEFINITION. The named operations of a context: register writes and the cycle in which they perform (R155, R156), events
and energy (R393 to R396), fault records (R360 to R362), taking a trap (R353 to R359) and returning from one (R358),
imprecise reports (R363), and pennants (R135, R415).
-/

namespace Sys2Proof.Machine

/-! ### Register writes -/

/-- A register write queued by the word in hand, to perform `lat` cycles after its issue (R155). -/
def State.queueWrite (s : State) (lat : Nat) (r : Reg) (v m : BitVec 4096) (fl : Flags) (mx : Bool) : State :=
  let w : RegWrite := ⟨r, v, m, fl, mx, s.now s.me + lat, s.seq, s.wordIx, s.now s.me⟩
  { s.modCx (fun x => { x with writes := x.writes ++ [w] }) with seq := s.seq + 1 }

/-- A scalar result. -/
def State.writeG (s : State) (lat : Nat) (d : BitVec 6) (w : Word) (fl : Flags := 0) : State :=
  s.queueWrite lat (.g d) (w.setWidth 4096) (BitVec.allOnes 4096) fl false

/-- A vector result. -/
def State.writeV (s : State) (lat : Nat) (d : BitVec 5) (r : VRes) (mx : Bool := false) : State :=
  s.queueWrite lat (.v d) r.val r.mask r.flags mx

/-- A mask result; the bits of `m` are those written. -/
def State.writeM (s : State) (lat : Nat) (d : BitVec 3) (w m : BitVec 512) (fl : Flags := 0) : State :=
  s.queueWrite lat (.m d) (w.setWidth 4096) (m.setWidth 4096) fl false

/-- Bits of `new` under a mask, the others of `old`. -/
def merge (n : Nat) (old new mask : BitVec n) : BitVec n := (old &&& ~~~mask) ||| (new &&& mask)

/-- A register written to a stream that is bound or drains (R158, R230): the newest one bound before the write issued that
still expects data. -/
def Ctx.streamPut (x : Ctx) (n seq : Nat) (v : BitVec 4096) : Ctx :=
  let t := x.stream n
  if t.bound && t.write && t.id < seq then x.setStream n { t with data := t.data ++ [v] }
  else
    match x.drains.find? (fun d => d.reg = n && decide (d.id < seq) && decide (d.moved + d.data.length < d.taken)) with
    | none => x
    | some d => { x with drains := x.drains.map (fun e => if e.id = d.id then { e with data := e.data ++ [v] } else e) }

/-- The words in error but for those of a vector register that a mask covers some bit of. DEDUCED, log 17. -/
def Ctx.unmasked (x : Ctx) (n : Nat) (mask : BitVec 4096) : List (Nat × Bool) :=
  x.upsets.filter (fun e => decide (e.1 < fileV n) || decide (fileV n + 64 ≤ e.1) ||
    mask.extractLsb' (64 * (e.1 - fileV n)) 64 == 0)

/-- One write performed (R148, R156, R158). A write to a register bound to a write stream also enters the stream. -/
def Core.performWrite (k : Core) (res : BitVec 1) (w : RegWrite) : Core :=
  let x := k.ctx res
  match w.reg with
  | .g n => k.setCtx res (x.wg n (merge 64 (x.rg n) (w.value.setWidth 64) (w.mask.setWidth 64)))
  | .v n =>
    let v := merge 4096 (x.rv0 n) w.value w.mask
    k.setCtx res ({ x.wv n v with upsets := x.unmasked n.toNat w.mask }.streamPut n.toNat w.seq v)
  | .m n => k.setCtx res (x.wm n (merge 512 (x.rm n) (w.value.setWidth 512) (w.mask.setWidth 512)))
  | .sys n => k.setSys res n (w.value.setWidth 64)

/-- Insertion by issue order (R156). -/
def insertWrite (w : RegWrite) : List RegWrite → List RegWrite
  | [] => [w]
  | v :: t => if w.seq < v.seq then w :: v :: t else v :: insertWrite w t

/-- Writes in issue order. -/
def sortWrites (l : List RegWrite) : List RegWrite := l.foldl (fun a w => insertWrite w a) []

/-- The writes of a context due by a cycle, performed. -/
def Core.performDue (k : Core) (res : BitVec 1) (now : Nat) : Core :=
  let x := k.ctx res
  let due := sortWrites (x.writes.filter (fun w => w.due ≤ now))
  if due.isEmpty then k
  else
    let k := k.setCtx res { x with writes := x.writes.filter (fun w => now < w.due) }
    let k := due.foldl (fun k w => k.performWrite res w) k
    k.setCtx res ((k.ctx res).raise due)

/-! ### Events and energy -/

/-- An event of a context (R395): only a resident context counts. -/
def State.event (s : State) (c : Nat) (res : BitVec 1) (code : Nat) : State :=
  s.modCtx c res (fun x => if x.resident then { x with evs := x.evs ++ [(code, x.lvl == 0)] } else x)

/-- An event of a core, counted by both contexts (R396): no condition on the level. -/
def State.coreEvent (s : State) (c : Nat) (code : Nat) : State :=
  let f := fun (x : Ctx) => if x.resident then { x with evs := x.evs ++ [(code, true)] } else x
  s.modCore c (fun k => { k with a := f k.a, b := f k.b })

/-- A charge of this cycle (R393). -/
def State.charge (s : State) (c : Nat) (res : BitVec 1) (eu : Nat) : State :=
  s.modCtx c res (fun x => { x with charge := x.charge + eu })

/-- The energy counter after the charges of a cycle (R394). -/
def Ctx.addEnergy (x : Ctx) (eu : Nat) : Ctx :=
  let n := x.energy.toNat + eu
  if 2 ^ 48 ≤ n then { x with energy := BitVec.allOnes 48, esat := true }
  else { x with energy := BitVec.ofNat 48 n }

/-- One counter after the events of a cycle (R395). -/
def countEvents (sel : BitVec 10) (cnt : BitVec 49) (evs : List (Nat × Bool)) : BitVec 49 :=
  let n := (evs.filter (fun e => e.1 = sel.toNat % 256 && (e.2 || sel.getLsbD 9))).length
  if sel.getLsbD 8 && sel.toNat % 256 != 0 && sel.toNat % 256 ≤ 0x18 then
    let t := cnt.toNat % 2 ^ 48 + n
    BitVec.ofNat 49 ((if cnt.getLsbD 48 || 2 ^ 48 ≤ t then 2 ^ 48 else 0) + t % 2 ^ 48)
  else cnt

/-- The eight counters after a cycle. -/
def Ctx.addEvents (x : Ctx) : Ctx :=
  if x.evs.isEmpty then x
  else
    let cnts := (List.range 8).foldl (fun t i =>
      Table.set t i (countEvents (Table.get (0 : BitVec 10) x.evsel i) (Table.get (0 : BitVec 49) t i) x.evs)) x.evcnt
    { x with evcnt := cnts, evs := [] }

/-! ### Fault records -/

/-- The fields of a record that differ by code (Tables 20.5 and 20.6). -/
structure FaultRec where
  code : BitVec 8
  cause : BitVec 8
  slot : Nat
  pc : Word
  obj : Nat
  addr : Word
  owner : Nat
  aux0 : Word
  aux1 : Word
  aux2 : Word
  aux3 : Word
deriving DecidableEq, Repr

/-- A record with the fields that most codes leave zero. -/
def FaultRec.plain (code cause : BitVec 8) (pc : Word) : FaultRec := ⟨code, cause, 0, pc, 0, 0, 0, 0, 0, 0, 0⟩

/-- The 64 bytes of a record (Table 20.5). DEDUCED, log 82. -/
def State.recordBits (s : State) (c : Nat) (res : BitVec 1) (f : FaultRec) : BitVec 512 :=
  let x := s.ctx c res
  let phase := s.phaseOf c res
  f.aux3 ++ f.aux2 ++ f.aux1 ++ f.aux0 ++ BitVec.ofNat 16 f.obj ++ phase ++ (1 : BitVec 16) ++ f.addr ++ x.seqNo ++
    f.pc.setWidth 32 ++ (0 : BitVec 20) ++ BitVec.ofNat 10 f.owner ++ BitVec.ofNat 10 c ++ BitVec.ofNat 3 f.slot ++ res ++
    x.lvl ++ (0 : BitVec 1) ++ b1 (f.code.toNat ≤ 12) ++ f.cause ++ f.code

/-- A counted store of a record to the fault queue of a context (R362); none when it fails translation. -/
def State.storeRecord (s : State) (c : Nat) (res : BitVec 1) (slot : Nat) (bits : BitVec 512) : Option State :=
  let x := s.ctx c res
  let va : Word := (0 : BitVec 7) ++ x.fqBase ++ (0 : BitVec 12) + BitVec.ofNat 64 (64 * (slot % 64))
  match s.parts c x va 64 .store with
  | .error _ => none
  | .ok ps =>
    let m := s.message c res .st 4 va (ps.map (fun p => p.1)) (.write (numBytes 64 bits.toNat)) .none
    some (s.send { m with det := false })

/-- A record raised COUNT and rewritten (R362). -/
def bumpRecord (b : BitVec 512) : BitVec 512 :=
  let n := b.extractLsb' 192 16
  if n = BitVec.allOnes 16 then b else b + (1 : BitVec 512) <<< 192

/-- A record written for an event (R361, R362). `key` is 0, or names a touch that coalesces with an unreported one.
DEDUCED, log 27. -/
def State.record (s : State) (c : Nat) (res : BitVec 1) (f : FaultRec) (key : Nat) : State :=
  let x := s.ctx c res
  let imprecise := decide (12 < f.code.toNat)
  match x.unrep.find? (fun r => key != 0 && r.key = key) with
  | some r =>
    let r' := { r with bits := bumpRecord r.bits }
    let upd := x.unrep.map (fun q => if q.key = key then r' else q)
    let s1 := s.modCtx c res (fun x => { x with unrep := upd })
    (s1.storeRecord c res r.slot.toNat r'.bits).getD s1
  | none =>
    let lost := s.modCtx c res (fun x =>
      let x := { x with fqOvf := true }
      if !imprecise then x
      else if x.lostN = 0 then { x with lostN := 1, lostCode := f.cause ++ f.code, lostAt := s.seq }
      else { x with lostN := x.lostN + 1 })
    if x.fqCount = 64 then lost
    else
      let slot := (x.fqHead.toNat + x.fqCount.toNat) % 64
      let bits := s.recordBits c res f
      match s.storeRecord c res slot bits with
      | none => lost
      | some t => t.modCtx c res (fun x =>
        let u : FRec := ⟨s.seq, BitVec.ofNat 6 slot, key, bits⟩
        { x with fqCount := x.fqCount + 1, seqNo := x.seqNo + 1, unrep := if imprecise then x.unrep ++ [u] else x.unrep })

/-! ### Traps -/

/-- A precise trap about to be taken. `ret` and `arg` are Table 20.3; `record` is none for an imprecise report, which
writes no record of its own. -/
structure Trap where
  code : BitVec 8
  cause : BitVec 8
  ret : Word
  arg : Word
  async : Bool
  record : Option FaultRec
deriving DecidableEq, Repr

/-- The ACT bit of `$tcause`: a handler is running. -/
def Ctx.act (x : Ctx) : Bool := x.tcause.getLsbD 18

/-- An address at which no bundle can start, with the second event it would be (R359). -/
def badTarget (a : Word) : Option (BitVec 8 × BitVec 8) :=
  if a.toNat % 4 ≠ 0 then some (4, 0) else if 0x20000 ≤ a.toNat then some (2, 1) else none

/-- The context halts, with its record and the partition's count (R359). DEDUCED, log 69. -/
def State.halt (s : State) (c : Nat) (res : BitVec 1) (pc addr : Word) (code cause : BitVec 8) : State :=
  let f := { FaultRec.plain 12 0 pc with addr := addr, aux0 := (0 : BitVec 48) ++ cause ++ code }
  let s := s.record c res f 0
  let s := match s.partOf c with
    | some p => s.modPartition p (fun q => { q with dblTrap := q.dblTrap + 1 })
    | none => s
  s.modCtx c res (fun x => { x with halted := true, stall := none })

/-- Register writes due after a cycle move into the latency shadow, those of near loads in flight with them (R159).
DEDUCED, log 28. -/
def State.shadow (s : State) (c : Nat) (res : BitVec 1) (t : Nat) : State :=
  let s := s.modCtx c res (fun x =>
    let held := (x.writes.filter (fun w => t < w.due)).map (fun w => { w with due := w.due - t, issued := t - w.issued })
    { x with writes := x.writes.filter (fun w => w.due ≤ t), shadow := x.shadow ++ held })
  s.modCore c (fun k => { k with timed := k.timed.map (fun e =>
    if e.res != res then e
    else match e.hold with
      | .no => if t < e.due then { e with hold := .dist (e.due - t) } else e
      | .dist _ => e
      | .due u => if t < u then { e with hold := .dist (u - t) } else e) })

/-- The shadow restored when the context next issues, in cycle u (R159). DEDUCED, log 28. -/
def State.unshadow (s : State) (c : Nat) (res : BitVec 1) (u : Nat) : State :=
  let s := s.modCtx c res (fun x =>
    { x with writes := x.writes ++ x.shadow.map (fun w => { w with due := u + w.due, issued := u - w.issued }), shadow := [] })
  s.modCore c (fun k => { k with timed := k.timed.map (fun e =>
    if e.res != res then e
    else match e.hold with
      | .dist d => { e with hold := .due (u + d) }
      | _ => e) })

/-- A precise trap taken at cycle t (R357, R359): the record, the saved registers, the shadow, the level, and the handler
address; while a handler runs, a synchronous trap is a double trap instead. -/
def State.takeTrap (s : State) (c : Nat) (res : BitVec 1) (t : Nat) (q : Trap) : State :=
  let x := s.ctx c res
  if x.act && !q.async then
    let pc := (q.record.map (fun f => f.pc)).getD q.ret
    s.halt c res pc pc q.code q.cause
  else
    let s := match q.record with
      | some f => s.record c res f 0
      | none => s
    let s := (s.event c res 0x16).shadow c res t
    let s := s.modCtx c res (fun x =>
      { x with
        tcause := b1 q.async ++ (1 : BitVec 1) ++ x.lvl ++ q.cause ++ q.code
        tret := q.ret
        targ := q.arg
        lvl := if x.lvl = 0 then 1 else x.lvl
        pc := x.tvec
        gate := t + 2
        stall := none
        idle := none })
    match badTarget x.tvec with
    | some e => s.halt c res x.tvec x.tvec e.1 e.2
    | none => s

/-- The level that a saved code gives; code 3 is never held (R300). DESIGN CHOICE, log 90. -/
def heldLevel (l : BitVec 2) : BitVec 2 := if l = 3 then 0 else l

/-- The return from a trap handler, issued at cycle t (R358): level, ACT, address, and the suspended copies that a report
has named resume. -/
def State.eret (s : State) (c : Nat) (res : BitVec 1) (t : Nat) : State :=
  let x := s.ctx c res
  let s := x.reported.foldl (fun s r => s.modCore r.1 (fun k =>
    let ch := k.chan r.2
    if ch.st = .suspended then k.setChan r.2 (ch.resume (t + 1)) else k)) s
  s.modCtx c res (fun x =>
    { x with
      lvl := heldLevel (x.tcause.extractLsb' 16 2)
      tcause := x.tcause &&& 0xBFFFF
      pc := x.tret
      gate := t + 2
      reported := [] })

/-- The channels of a core whose running command belongs to a residency and is suspended (R364). -/
def Core.suspended (k : Core) (c : Nat) (res : BitVec 1) : List (Nat × Nat) :=
  (k.chans.filter (fun p => p.2.st = .suspended && p.2.fault.isSome &&
    (match p.2.cur with
     | some m => m.res == res
     | none => false))).map (fun p => (c, p.1))

/-- The oldest unreported event: code and cause (R363). -/
def Ctx.oldestFault (x : Ctx) : BitVec 16 :=
  match x.unrep.head? with
  | none => x.lostCode
  | some r => if 0 < x.lostN ∧ x.lostAt < r.stamp then x.lostCode else r.bits.extractLsb' 0 16

/-- Whether a report is due at a report point (R363). -/
def Ctx.reportDue (x : Ctx) : Bool := !x.act && (x.unrep != [] || 0 < x.lostN)

/-- An imprecise report taken in place of the bundle at cycle t (R363). -/
def State.report (s : State) (c : Nat) (res : BitVec 1) (t : Nat) : State :=
  let x := s.ctx c res
  let s := x.unrep.foldl (fun s r =>
    (s.storeRecord c res r.slot.toNat (r.bits ||| (1 : BitVec 512) <<< 17)).getD s) s
  let code := x.oldestFault
  let n := x.unrep.length + x.lostN
  let s := s.modCtx c res (fun x =>
    { x with unrep := [], lostN := 0, lostCode := 0, reported := (s.core c).suspended c res })
  s.takeTrap c res t ⟨code.extractLsb' 0 8, code.extractLsb' 8 8, x.pc, BitVec.ofNat 64 n, false, none⟩

/-! ### Checks of deterministic mode (R137, R138) -/

/-- Who an access belongs to, for its records: core, residency, bundle and word index. -/
structure Agent where
  core : Nat
  res : BitVec 1
  pc : Word
  slot : Nat
deriving DecidableEq, Repr

/-- The conflict of an access: granule, cause, and the other agent of cause 1. -/
structure DetHit where
  granule : Nat
  cause : BitVec 8
  other : Option Member
deriving DecidableEq, Repr

/-- Granules of one side of an access checked one after another, each noted before the next: the first that conflicts, or
the records with all of them noted. -/
def State.detWalk (s : State) (lid : Word) (ph : BitVec 8) (me : Member) (wr : Bool) : List Nat → Except DetHit State
  | [] => .ok s
  | g :: gs =>
    match s.detConflict lid ph me wr (g / 64) with
    | some e => .error ⟨g, e.1, e.2⟩
    | none => (s.detNote lid ph me wr (g / 64)).detWalk lid ph me wr gs

/-- One side of an access of a context by key ranges, checked and noted when it is in deterministic mode. -/
def State.detScan (s : State) (c : Nat) (res : BitVec 1) (wr : Bool) (rs : List (Nat × Nat)) : Except DetHit State :=
  let x := s.ctx c res
  if x.detMode then
    s.detWalk x.lid ((s.phaseOf c res).setWidth 8) (c, res) wr (rs.flatMap (fun r => granules r.1 r.2))
  else .ok s

/-- The records after an access that has been checked. -/
def State.detTouch (s : State) (c : Nat) (res : BitVec 1) (wr : Bool) (rs : List (Nat × Nat)) : State :=
  match s.detScan c res wr rs with
  | .ok t => t
  | .error _ => s

/-- The ranges of parts that deterministic mode checks. -/
def detRanges (ps : List Part) : List (Nat × Nat) := (ps.filter (fun p => p.det)).map (fun p => (p.key, p.len))

/-- A conflict of an engine access or a pennant, kept for the bundle that would wait on its command (R138). `feeds` are the
ranges that the command writes. DESIGN CHOICE, log 55. -/
def State.detStop (s : State) (a : Agent) (cmd : Option Nat) (feeds : List (Nat × Nat)) (e : DetHit) : State :=
  s.modCtx a.core a.res (fun x =>
    if x.detWl.any (fun d => d.cmd == cmd && cmd.isSome) then x
    else { x with detWl := x.detWl ++ [⟨e.cause, e.granule, e.other, cmd, a.pc, a.slot, feeds⟩] })

/-! ### Pennants -/

/-- Who writes a pennant that is not a PENN: the owner of R415 with its record fields. -/
structure PenSrc where
  cause : BitVec 8
  obj : Nat
  pc : Word
  slot : Nat
deriving DecidableEq, Repr

/-- A pennant of a record, hoist, copy or KV command as a release of the accesses named (R135), which performs by itself
in the own vault; lost with a record when its address fails (R415), and not performed on a DET conflict (R137). `cmd` is the
engine command it belongs to. -/
def State.pennant (s : State) (c : Nat) (res : BitVec 1) (src : PenSrc) (scope : BitVec 3) (va v : Word)
    (after : List Nat) (cmd : Option Nat := none) : State :=
  let x := s.ctx c res
  match s.parts c x va 8 .store with
  | .error e =>
    let f := { FaultRec.plain 21 src.cause src.pc with
      slot := src.slot, obj := src.obj, addr := va, aux0 := v, aux1 := BitVec.ofNat 64 e.cause }
    s.record c res f 0
  | .ok ps =>
    let rs := detRanges (ps.map (fun p => p.1))
    match s.detScan c res true rs with
    | .error e => s.detStop ⟨c, res, src.pc, src.slot⟩ cmd rs e
    | .ok s =>
    let m := s.message c res .post scope va (ps.map (fun p => p.1)) (.write (wordBytes v)) .none
    s.send { m with after := after, det := false, ofCmd := cmd, own := ps.all (fun p => p.1.place.near c), due := s.now c }

end Sys2Proof.Machine
end

