-- ==== Sys2Proof/Machine/Touch.lean ====
section
/-!
DEFINITION. What an access to a vault or memory raises beside moving bytes: GUARD touches (R106, R362) and the SECDED
outcomes of reads (R107, R367).
-/

namespace Sys2Proof.Machine

/-- Guard granules touched by an access (R106); touches of one phase coalesce (R362). DEDUCED, log 27. -/
def State.touchGuard (s : State) (a : Agent) (key len : Nat) : State :=
  (granules key len).foldl (fun s g =>
    match vaultOf g with
    | none => s
    | some (owner, off) =>
      if (s.gtag g).guard then
        let f := { FaultRec.plain 16 0 a.pc with
          slot := a.slot, obj := bankOf off, addr := BitVec.ofNat 64 off, owner := owner }
        s.record a.core a.res f (16 + 32 * ((s.phaseOf a.core a.res).toNat + 4294967296 * g))
      else s) s

/-- The words of a range whose memory is lost (R318, R400): they read as double errors. -/
def State.lostIn (s : State) (key len : Nat) : List (Nat × Bool) :=
  if s.failedStacks = 0 ∧ s.cxlLost = [] then []
  else
    (((List.range ((key + len + 7) / 8 - key / 8)).map (fun i => (key / 8 + i) * 8)).filter s.lostPa).map (fun w => (w, true))

/-- The words of a range that hold an error. -/
def State.badIn (s : State) (key len : Nat) : List (Nat × Bool) :=
  if len = 0 then []
  else s.ecc.filter (fun e => decide (e.1 < key + len) && decide (key < e.1 + 8)) ++ s.lostIn key len

/-- The cause of a VAULT_ECC_UNCORRECTABLE record by the place of the word (Table 20.6). -/
def eccCause (key : Nat) : BitVec 8 :=
  if (vaultOf key).isSome then 1
  else if 0x20000000000000000 ≤ key ∧ key < 0x40000000000000000 then 3
  else if key < 0x100000000000 then 4 else 5

/-- The SECDED outcomes of a read (R367): corrected errors of SRAM counted, of a vault in its core and of any other in the
core that reads; double errors recorded.
DESIGN CHOICE, log 84. -/
def State.touchEcc (s : State) (a : Agent) (key len : Nat) : State :=
  (s.badIn key len).foldl (fun s e =>
    if e.2 && inCross e.1 then s
    else if e.2 then
      let f := { FaultRec.plain 18 (eccCause e.1) a.pc with
        slot := a.slot, addr := BitVec.ofNat 64 e.1, aux0 := BitVec.ofNat 64 (Memory.num s.mem e.1 8) }
      s.record a.core a.res f 0
    else
      match vaultOf e.1 with
      | some (owner, _) => s.coreEvent owner 0x15
      | none => if eccCause e.1 = 3 then s.coreEvent a.core 0x15 else s) s

/-! ### The register files (R367) -/

/-- The stored bits of a word of the register files. -/
def Ctx.fileWord (x : Ctx) (w : Nat) : Word :=
  if w < fileV 0 then x.rg (BitVec.ofNat 6 w)
  else if w < fileM 0 then (x.rv0 (BitVec.ofNat 5 ((w - fileV 0) / 64))).extractLsb' (64 * ((w - fileV 0) % 64)) 64
  else if w < fileQ 0 then (x.rm (BitVec.ofNat 3 ((w - fileM 0) / 8))).extractLsb' (64 * ((w - fileM 0) % 8)) 64
  else if w < fileAcc 0 then
    BitVec.ofNat 64 (leNat (((x.poly ((w - fileQ 0) / 72)).image.drop (8 * ((w - fileQ 0) % 72))).take 8))
  else (x.tile1 ((w - fileAcc 0) / 2048)).extractLsb' (64 * ((w - fileAcc 0) % 2048)) 64

/-- The outcome of one word of the register files in error that is read: a corrected error counted, or a record of the stored
bits. -/
def State.fileError (s : State) (a : Agent) (e : Nat × Bool) : State :=
  if e.2 then
    s.record a.core a.res { FaultRec.plain 18 2 a.pc with
      slot := a.slot, addr := BitVec.ofNat 64 (8 * e.1), aux0 := (s.ctx a.core a.res).fileWord e.1 } 0
  else s.coreEvent a.core 0x15

/-- The words in error in ranges of the register files, given as first word and number, read by a word or a command (R367). -/
def State.touchFiles (s : State) (a : Agent) (spans : List (Nat × Nat)) : State :=
  ((s.ctx a.core a.res).upsets.filter (fun e => spans.any (fun p => decide (p.1 ≤ e.1) && decide (e.1 < p.1 + p.2)))).foldl
    (fun s e => s.fileError a e) s

/-! ### Reads -/

/-- A read of a range: its guard touches and error outcomes. -/
def State.touchRead (s : State) (a : Agent) (key len : Nat) : State := (s.touchGuard a key len).touchEcc a key len

/-- The bytes that a slot reads: HBM and CXL data of a word with a double error may be poisoned to all ones (Table 20.7),
as a free value decides. -/
def State.slotBytes (s : State) (key len : Nat) : List Byte × State :=
  let bad := (s.badIn key len).filter (fun e => e.2 && decide (e.1 < 0x200000000000))
  if bad.isEmpty then (s.sample key len, s)
  else
    let bs := (List.range len).map (fun i =>
      if bad.any (fun e => decide (e.1 ≤ key + i) && decide (key + i < e.1 + 8) && Config.poison (s.free + e.1)) then
        BitVec.allOnes 8 else Memory.read s.mem (key + i))
    (bs, { s with free := s.free + 1 })

end Sys2Proof.Machine
end

