-- ==== Sys2Proof/Machine/Crossing.lean ====
section
/-!
DEFINITION. Rate crossings (R283 to R288, R381 to R383): forming outputs, delivery and fill, the producer's side, drift
steps, realignment and the channel status.
-/

namespace Sys2Proof.Machine

/-- A crossing address (R284): crossing and channel, when its other bits are zero. -/
def crossAddr (a : Word) : Option (Nat × Nat) :=
  if a.toNat < 2 ^ 18 ∧ a.extractLsb' 0 6 = 0 then some ((a.extractLsb' 12 6).toNat, (a.extractLsb' 6 6).toNat) else none

/-- The position of output m of a channel (R283). -/
def Crossing.pos (k : Crossing) (x : XChan) (m : Nat) : Int := (m * k.a.toNat : Nat) + x.delta.toInt

/-- The index i of output m. -/
def Crossing.idx (k : Crossing) (x : XChan) (m : Nat) : Int := k.pos x m / (max 1 k.b.toNat : Nat)

/-- The phase φ of output m. -/
def Crossing.phase (k : Crossing) (x : XChan) (m : Nat) : Nat :=
  (k.pos x m % (max 1 k.b.toNat : Nat)).toNat * (k.phm.toNat + 1) / max 1 k.b.toNat

/-- The inputs passed over once output m is the next to be formed; what a later drift step back may need again is held on
(R283, R382). -/
def Crossing.trim (k : Crossing) (m : Nat) (x : XChan) : XChan :=
  let low := max x.low (k.idx x m - 7).toNat
  let keep := low - 520 - x.first
  { x with low := low, ins := x.ins.drop keep, first := x.first + min keep x.ins.length }

/-- Input x(j); 0 before the first. -/
def XChan.input (x : XChan) (j : Int) : Int :=
  if j < x.first then 0 else ((x.ins[(j - x.first).toNat]?).getD 0).toInt

/-- Output m, and whether it was clamped (R283). -/
def State.formOut (s : State) (k : Crossing) (x : XChan) (m : Nat) : BitVec 32 × Bool :=
  let i := k.idx x m
  let row := 0x10000 + 1024 * k.table.toNat + 16 * k.phase x m
  let acc : Int := ((List.range 8).map (fun t =>
    sintOf 16 (Memory.num s.mem (constKey (row + 2 * t)) 2) * x.input (i - t))).sum
  let (z, _) := roundIntMag 0 (acc < 0) ⟨acc.natAbs, -15, false⟩
  let (y, c) := satInt (-2147483648) 2147483647 z
  (BitVec.ofInt 32 y, c)

/-- Whether output m can be formed: x(i) has been written. -/
def Crossing.formable (k : Crossing) (x : XChan) (m : Nat) : Bool := decide (k.idx x m < x.iw)

/-- Up to g outputs taken for delivery: those returned by a save first, then outputs formed from index m on. -/
def State.takeOuts (s : State) (k : Crossing) : Nat → Nat → XChan → XChan × List (BitVec 32)
  | 0, _, x => (x, [])
  | g + 1, m, x =>
    match x.pushed with
    | y :: ys =>
      let (x', l) := s.takeOuts k g (m + 1) { x with pushed := ys }
      (x', y :: l)
    | [] =>
      if k.formable x m then
        let (y, c) := s.formOut k x m
        let (x', l) := s.takeOuts k g (m + 1) (k.trim (m + 1) { x with satf := x.satf || c })
        (x', y :: l)
      else (x, [])

/-- The errors of the coefficients and of the buffered inputs that the next `n` outputs from index m on read, those returned by
a save apart (R367): they go to the context that takes the outputs. DESIGN CHOICE, log 84. -/
def State.tapErrors (s : State) (a : Agent) (u ch : Nat) (k : Crossing) (m n : Nat) : State :=
  let x := k.chan ch
  ((List.range n).drop x.pushed.length).foldl (fun s j =>
    let s := s.touchEcc a (constKey (0x10000 + 1024 * k.table.toNat + 16 * k.phase x (m + j))) 16
    let i := k.idx x (m + j)
    (List.range 8).foldl (fun s (t : Nat) => if i < t then s else s.touchEcc a (crossKey u ch (i - t).toNat) 4) s) s

/-- Samples in the lanes of a register, zero above them (R229, R285). -/
def packSamples (l : List (BitVec 32)) : BitVec 4096 :=
  BitVec.ofNat 4096 (l.foldr (fun y a => y.toNat + 4294967296 * a) 0)

/-- Lanes 0 to g − 1 of a register. -/
def unpackSamples (g : Nat) (v : BitVec 4096) : List (BitVec 32) := (List.range g).map (fun i => v.extractLsb' (32 * i) 32)

/-- G of the consumer end. -/
def XChan.gC (x : XChan) : Nat := (x.boundC.map (fun b => b.2.2)).getD 1

/-- G of the producer end. -/
def XChan.gP (x : XChan) : Nat := (x.boundP.map (fun b => b.2.2)).getD 1

/-- The index of the first output after `held` registers. -/
def XChan.ahead (x : XChan) (held : Nat) : Nat := x.n + held * x.gC

/-- Whether `more` registers after the `held` already fetched can be delivered. -/
def Crossing.ready (k : Crossing) (x : XChan) (held more : Nat) : Bool :=
  more * x.gC ≤ x.pushed.length || k.formable x (x.ahead (held + more) - 1)

/-- Whether a region is frozen (R18, R286). -/
def Region.isFrozen (r : Region) : Bool := r.st = .frozen

/-- The register that a read takes while the producer is frozen (R286): formed outputs, then fills. -/
def State.fillOuts (s : State) (k : Crossing) (x : XChan) : XChan × BitVec 4096 :=
  let g := x.gC
  let (x, l) := s.takeOuts k g x.n x
  let last := (l.getLast?).getD x.last
  let v : BitVec 32 := if k.policy = 1 then 0 else last
  let f := g - l.length
  let x := { x with
    gap := x.gap + BitVec.ofNat 32 f
    stale := if f = 0 then false else (k.policy = 2 || x.stale) }
  (x, packSamples (l ++ List.replicate f v))

/-- A register of outputs delivered to the consumer (R285, R382): T0 at the first read with both ends bound. `formed`:
every output of it was formed. -/
def Crossing.deliver (k : Crossing) (x : XChan) (v : BitVec 4096) (formed : Bool) : XChan :=
  let t0 := match x.t0 with
    | some t => some t
    | none => if x.boundP.isSome && x.boundC.isSome then some (x.iw - k.idx x x.n) else none
  { x with
    t0 := t0
    n := x.n + x.gC
    last := v.extractLsb' (32 * (x.gC - 1)) 32
    stale := if formed then false else x.stale }

/-- Room for m producer writes (R283): 512 inputs at most. -/
def XChan.room (x : XChan) (m : Nat) : Bool := decide (x.iw - x.low + m * x.gP ≤ 512)

/-- A producer write (R285). -/
def XChan.append (x : XChan) (v : BitVec 4096) : XChan :=
  { x with ins := x.ins ++ unpackSamples x.gP v, iw := x.iw + x.gP }

/-- The test of a consumer period boundary (R382). -/
def Crossing.drift (k : Crossing) (x : XChan) : XChan :=
  let step : BitVec 64 := BitVec.ofNat 64 (max 1 (k.b.toNat / (k.phm.toNat + 1)))
  match x.t0 with
  | none => x
  | some t =>
    let d := (x.iw : Int) - k.idx x x.n - t
    if 2 ≤ d then { x with delta := x.delta + step, steps := x.steps + 1 }
    else if d ≤ -2 then { x with delta := x.delta - step, steps := x.steps + 1 }
    else x

/-- Realignment at a resumption (R383). -/
def Crossing.realign (k : Crossing) (x : XChan) (consumer : Bool) : XChan :=
  let base : Int := (x.iw : Int) - (if consumer then x.t0.getD 0 else 0)
  let d : Int := k.b.toNat * max 0 base - (k.a.toNat * x.n : Nat)
  k.trim x.n { x with delta := BitVec.ofInt 64 d, t0 := none }

/-- A change of all channels of a crossing. -/
def Crossing.mapChans (k : Crossing) (f : XChan → XChan) : Crossing := { k with chans := k.chans.map (fun p => (p.1, f p.2)) }

/-- A region whose clocks run or stand without a freeze: not FROZEN, not RELOCK (R382). -/
def Region.steady (r : Region) : Bool := r.st != .frozen && r.st != .relock

/-- Drift steps of the crossings that a region consumes, at its period boundary (R382). -/
def State.driftAll (s : State) (r : Nat) : State :=
  { s with crossings := s.crossings.map (fun p =>
      if p.2.en && p.2.cons.toNat = r && (s.region p.2.prod.toNat).steady then (p.1, p.2.mapChans p.2.drift) else p) }

/-- Realignment of the crossings of a region that resumes (R383). -/
def State.realignAll (s : State) (r : Nat) : State :=
  { s with crossings := s.crossings.map (fun p =>
      if p.2.en && p.2.cons.toNat = r then (p.1, p.2.mapChans (fun x => p.2.realign x true))
      else if p.2.en && p.2.prod.toNat = r then (p.1, p.2.mapChans (fun x => p.2.realign x false))
      else p) }

/-- The channel status word (Table 12.8). -/
def State.xstatWord (s : State) (u ch : Nat) : Word :=
  let k := s.crossing u
  let x := k.chan ch
  (0 : BitVec 8) ++ b1 x.boundP.isSome ++ b1 x.boundC.isSome ++ b1 (s.region k.prod.toNat).isFrozen ++ b1 x.satf ++
    b1 x.stale ++ k.policy ++ (0 : BitVec 1) ++ x.steps ++ x.gap

/-- Whether any end of a crossing is bound. -/
def Crossing.anyBound (k : Crossing) : Bool := k.chans.any (fun p => p.2.boundP.isSome || p.2.boundC.isSome)

def State.modXChan (s : State) (u ch : Nat) (f : XChan → XChan) : State :=
  let k := s.crossing u
  s.setCrossing u (k.setChan ch (f (k.chan ch)))

/-- A producer write into the buffer of a channel (R285); the words written hold no error any more. -/
def State.crossPut (s : State) (u ch : Nat) (v : BitVec 4096) : State :=
  let x := (s.crossing u).chan ch
  { s.modXChan u ch (fun x => x.append v) with
    ecc := s.ecc.filter (fun e => (List.range x.gP).all (fun i => decide (crossKey u ch (x.iw + i) / 8 * 8 ≠ e.1))) }

/-! ### Streams of a context (Table 10.5) -/

/-- The kind of a stream (Table 10.5). -/
def Stream.kind (t : Stream) : Nat := (t.desc.extractLsb' 64 2).toNat
def Stream.base (t : Stream) : Word := t.desc.extractLsb' 0 64

/-- The registers of a stream (R228). -/
def Stream.total (t : Stream) : Nat :=
  ((List.range 4).map (fun d => (t.desc.extractLsb' (128 + 32 * d) 32).toNat)).foldl (· * ·) 1

/-- The crossing channel of a stream. -/
def State.xchan (s : State) (t : Stream) : Option (Crossing × XChan) :=
  match crossAddr t.base with
  | some (u, ch) => some (s.crossing u, (s.crossing u).chan ch)
  | none => none

/-- Whether one of the next n registers that a bundle reads of a crossing stream is filled instead of waiting (R286). -/
def State.fills (s : State) (t : Stream) (n : Nat) : Bool :=
  let d := t.data.length
  t.read && !t.write && t.kind = 2 && decide (d < n) && decide (t.taken + d < t.total) &&
    (match s.xchan t with
     | some (k, x) => (s.region k.prod.toNat).isFrozen && !k.ready x d (n - d)
     | none => false)

/-- The address of transfer i of a stream (R228). -/
def Stream.at (t : Stream) (i : Nat) : Word :=
  let c := fun (d : Nat) => (t.desc.extractLsb' (128 + 32 * d) 32).toNat
  let st := fun (d : Nat) => t.desc.extractLsb' (256 + 64 * d) 64
  let ix := fun (n : Nat) => BitVec.ofNat 64 n
  t.base + ix (i % c 0) * st 0 + ix (i / c 0 % c 1) * st 1 + ix (i / (c 0 * c 1) % c 2) * st 2 +
    ix (i / (c 0 * c 1 * c 2)) * st 3

/-! ### Source ports (R15, R229) -/

/-- G of a port stream. -/
def Stream.portG (t : Stream) : Nat := (t.base.extractLsb' 8 7).toNat + 1

/-- The number of the period that a region's port fills now, on a count of its own that no gap interrupts (R20). -/
def Region.portNow (r : Region) : Nat := (r.ins.getLast?.map (fun p => p.1)).getD 2

/-- The samples that may be read now, those of two periods ago, with their number. -/
def Region.readable (r : Region) : Nat × List (BitVec 32) :=
  let o := r.portNow - 2
  (o, (Table.find r.ins o).getD [])

/-- The index among the readable samples of a stream's next sample; a position is 65,536 times a period plus an index. -/
def Region.portAt (r : Region) (pos : Nat) : Nat := if pos / 65536 = r.readable.1 then pos % 65536 else 0

/-- Whether n more registers of a port stream are readable. -/
def Region.portReady (r : Region) (t : Stream) (n : Nat) : Bool :=
  let l := r.readable
  t.pos / 65536 ≤ l.1 && r.portAt t.pos + n * t.portG ≤ l.2.length

/-- The next register of a port read stream, and the stream after it. -/
def Region.portTake (r : Region) (t : Stream) : BitVec 4096 × Stream :=
  let l := r.readable
  let i := r.portAt t.pos
  let j := i + t.portG
  let pos := if j < l.2.length then l.1 * 65536 + j else (l.1 + 1) * 65536
  (packSamples ((l.2.drop i).take t.portG), { t with pos := pos, moved := t.moved + 1 })

/-! ### What a bundle finds -/

/-- Whether a read stream has n registers for a bundle: fetched ahead, or of a crossing or a port there to be taken. -/
def State.onTap (s : State) (c : Nat) (t : Stream) (n : Nat) : Bool :=
  let d := t.data.length
  n ≤ d || (t.taken + n ≤ t.total &&
    (if t.kind = 2 then
      match s.xchan t with
      | some (k, x) => (s.region k.prod.toNat).isFrozen || k.ready x d (n - d)
      | none => false
     else t.kind = 3 && d = 0 && (s.regOf c).portReady t n))

/-- Whether a write stream has room for n more registers beside those held or in flight (R157, R229, R283). -/
def State.hasRoom (s : State) (c : Nat) (t : Stream) (flying n : Nat) : Bool :=
  let m := t.data.length + flying + n
  t.taken + n ≤ t.total && m ≤ 4 &&
    (if t.kind = 2 then
      match s.xchan t with
      | some (_, x) => x.room m
      | none => false
     else t.kind ≠ 3 || (s.regOf c).outs.length + m * t.portG ≤ 2 * (s.regOf c).s.toNat)

end Sys2Proof.Machine
end

