-- ==== Sys2Proof/Machine/Matrix.lean ====
section
/-!
DEFINITION. What the matrix engine computes, as functions of its operands (R90 to R92, R237 to R248): operand layouts,
the three multiply commands, the Hadamard pass and the drain.
-/

namespace Sys2Proof.Machine

/-! ### Formats and layouts (Tables 7.3 and 11.4) -/

/-- Element width in bits of an fa or fb code. -/
def mxWidth (f : BitVec 3) : Nat := if f.toNat < 2 then 16 else if f.toNat < 5 then 8 else 4

/-- e4m3 or e5m2. -/
def mxE (f : BitVec 3) : Bool := f = 2 || f = 3

/-- A matrix multiply as its word gives it. `kind`: 0 MMA, 1 MMAS, 2 MMAG. -/
structure MxOp where
  kind : Nat
  fa : BitVec 3
  fb : BitVec 3
  bl : Bool
  z : Bool
  sa : Bool
  sb : Bool
deriving DecidableEq, Repr

/-- The reduction length K (Table 11.4). -/
def MxOp.k (o : MxOp) : Nat := (512 / mxWidth o.fa) * (if o.kind = 1 then 2 else 1)

/-- Whether B is in a block format. -/
def MxOp.bBlock (o : MxOp) : Bool := mxWidth o.fb = 4 || o.sb

/-- Row pitch of the A slot (Table 11.4). -/
def MxOp.pitchA (o : MxOp) : Nat := if o.kind = 1 || o.sa || mxWidth o.fa = 4 then 128 else 64

/-- Bytes of an A row that are read. -/
def MxOp.lenA (o : MxOp) : Nat :=
  if o.kind = 1 then (if mxWidth o.fa = 16 then 72 else 80)
  else if mxWidth o.fa = 4 then 68 else if o.sa then 66 else 64

/-- Rows of the B operand. -/
def MxOp.rowsB (o : MxOp) : Nat := if o.bl then o.k else 64

/-- Row pitch of the B slot (R238). -/
def MxOp.pitchB (o : MxOp) : Nat :=
  if o.bl then (64 * mxWidth o.fb / 8 + 63) / 64 * 64 else if o.kind = 1 || o.bBlock then 128 else 64

/-- Bytes of a B row that are read; of a gathered row the used length of a dense row (R243). -/
def MxOp.lenB (o : MxOp) : Nat :=
  if o.bl then 64 * mxWidth o.fb / 8
  else if o.kind = 1 then o.k * mxWidth o.fb / 8
  else if mxWidth o.fb = 4 then 68 else if o.sb then 66 else o.k * mxWidth o.fb / 8

/-- Slot bytes that the A and B rings need (R245). -/
def MxOp.slotA (o : MxOp) : Nat := 64 * o.pitchA
/-- DESIGN CHOICE, log 61. -/
def MxOp.slotB (o : MxOp) : Nat := o.rowsB * o.pitchB

/-- The bits of element k of a row, before decoding. -/
def elemBits (w : Nat) (row k : Nat) : Nat := row / 2 ^ (w * k) % 2 ^ w

/-- decode_elem (R90): element k of a row, without its scale. -/
def decodeElem (f : BitVec 3) (scaled : Bool) (row k : Nat) : Num :=
  let blk := row / 256 ^ (17 * (k / 32)) % 256 ^ 17
  let byte := if scaled then row / 256 ^ (33 * (k / 32) + k % 32) % 256 else elemBits 8 row k
  match f.toNat with
  | 0 => decodeF bf16 (elemBits 16 row k)
  | 1 => decodeF f16 (elemBits 16 row k)
  | 2 => decodeF e4m3 byte
  | 3 => decodeF e5m2 byte
  | 4 => Num.ofInt (sintOf 8 byte)
  | 5 => ox4Elem blk (k % 32)
  | 6 => decodeF e2m1 (elemBits 4 blk (k % 32))
  | _ => Num.ofInt (sint4 (elemBits 4 blk (k % 32)))

/-- The scale code of the block of element k; 127 for an operand without scales. -/
def scaleCode (f : BitVec 3) (scaled : Bool) (row k : Nat) : Nat :=
  if mxWidth f = 4 then row / 256 ^ (17 * (k / 32) + 16) % 256
  else if scaled then row / 256 ^ (33 * (k / 32) + 32) % 256 else 127

/-! ### Group sums (R90) -/

/-- A group: exact sum at one exponent, and the marks of R90. -/
structure Group where
  z : Int
  e : Int
  bad : Bool
  pinf : Bool
  ninf : Bool
  inv : Bool
deriving DecidableEq, Repr

def Group.start : Group := ⟨0, 0, false, false, false, false⟩

/-- One product added; a signalling NaN raises invalid (R81). -/
def Group.add (g : Group) (a b : Num) : Group :=
  match a, b with
  | .nan s, b => { g with bad := true, inv := g.inv || s || b.isSig }
  | _, .nan s => { g with bad := true, inv := g.inv || s }
  | .inf x, .inf y => if x = y then { g with pinf := true } else { g with ninf := true }
  | .inf x, .fin n m _ =>
    if m = 0 then { g with bad := true, inv := true }
    else if x = n then { g with pinf := true } else { g with ninf := true }
  | .fin n m _, .inf y =>
    if m = 0 then { g with bad := true, inv := true }
    else if y = n then { g with pinf := true } else { g with ninf := true }
  | .fin n m e, .fin n' m' e' =>
    if m = 0 ∨ m' = 0 then g
    else
      let x := e + e'
      let q := if g.z = 0 then x else min g.e x
      { g with z := g.z * 2 ^ (g.e - q).toNat + atExp (n != n') (m * m') x q, e := q }

/-- The group's t (R90) with its invalid flag. -/
def Group.term (g : Group) (sa sb : Nat) : Num × Bool :=
  let nanScale := sa = 255 || sb = 255
  let inv := g.inv || nanScale
  if g.bad || nanScale then (.nan false, inv)
  else if g.pinf && g.ninf then (.nan false, true)
  else if g.pinf then (.inf false, inv)
  else if g.ninf then (.inf true, inv)
  else (Num.ofDyadic g.z (g.e + sa - 127 + sb - 127) false, inv)

/-- fp32_add_rne (R90). -/
def addRne (acc : Nat) (t : Num) : Nat × Flags := finish f32 (rne false) (addNum 0 (decodeF f32 acc) t)

/-- One row or column of an operand: its elements and the scale code of each group. -/
structure MxVec where
  xs : List Num
  sc : List Nat
deriving DecidableEq, Repr

/-- The sum of a group of G products from the fronts of two lists, and what is left of them. -/
def groupSum : Nat → List Num → List Num → Group → Group × List Num × List Num
  | n + 1, a :: as, b :: bs, g => groupSum n as bs (g.add a b)
  | _, as, bs, g => (g, as, bs)

/-- One accumulator element: FP32 bits, s32 bits or the 64 bits of a pair, with the flags raised so far. -/
abbrev Elem := Nat × BitVec 8

/-- mma_acc (R90) over the groups. -/
def accF (G : Nat) : List (Nat × Nat) → List Num → List Num → Elem → Elem
  | [], _, _, r => r
  | (sa, sb) :: ss, as, bs, (acc, fl) =>
    let (g, as', bs') := groupSum G as bs Group.start
    let (t, inv) := g.term sa sb
    let (v, f) := addRne acc t
    accF G ss as' bs' (v, fl ||| f.setWidth 8 ||| (flagIf inv fInvalid).setWidth 8)

/-- The integer accumulation of R91. No rule gives the sum of a group with a NaN element of a sparse row (R242): a free value,
named by `f`. DESIGN CHOICE, log 94. -/
def accI (f G : Nat) : Nat → List Num → List Num → Elem → Elem
  | 0, _, _, r => r
  | n + 1, as, bs, (acc, fl) =>
    let (g, as', bs') := groupSum G as bs Group.start
    let sum := if g.bad then (Config.nanSum (f + n)).toInt else g.z * 2 ^ g.e.toNat
    let (v, c) := satInt (-2 ^ 31) (2 ^ 31 - 1) (sintOf 32 acc + sum)
    accI f G n as' bs' (intBits 32 v, fl ||| (flagIf c fSaturation).setWidth 8)

/-- The fixed-point accumulation of R92, on the 64 bits of a pair. -/
def accX (q : Int) (G : Nat) : List (Nat × Nat) → List Num → List Num → Elem → Elem
  | [], _, _, r => r
  | (sa, sb) :: ss, as, bs, (acc, fl) =>
    let (g, as', bs') := groupSum G as bs Group.start
    let (t, inv) := g.term sa sb
    let hi : Int := 2 ^ 63 - 1
    let N := sintOf 64 acc
    let (v, f) : Int × Flags := match t with
      | .fin n m e =>
        let (d, cut) := roundIntMag 0 n ⟨m, e - q, false⟩
        let (y, c) := satInt (-2 ^ 63) hi (N + d)
        (y, flagIf cut fInexact ||| flagIf c fSaturation)
      | .inf n => (if n then -2 ^ 63 else hi, fInvalid ||| fSaturation)
      | .nan _ => (hi, fInvalid ||| fSaturation)
    accX q G ss as' bs' (intBits 64 v, fl ||| f.setWidth 8 ||| (flagIf inv fInvalid).setWidth 8)

/-! ### Operands -/

/-- The 2:4 expansion of a row (R242): the K elements, and whether a nibble was invalid. -/
def sparseRow (f : BitVec 3) (row K : Nat) : List Num × Bool :=
  let meta0 := row / 256 ^ 64
  let gs := (List.range (K / 4)).map (fun g =>
    let nb := meta0 / 16 ^ g % 16
    let p0 := nb % 4
    let p1 := nb / 4
    if p0 < p1 then
      ((List.range 4).map (fun p =>
        if p = p0 then decodeElem f false row (2 * g)
        else if p = p1 then decodeElem f false row (2 * g + 1) else Num.zero), false)
    else (List.replicate 4 (Num.nan false), true))
  (gs.flatMap (fun g => g.1), gs.any (fun g => g.2))

/-- The group size (R90). -/
def MxOp.group (o : MxOp) : Nat := if mxWidth o.fa = 16 || mxWidth o.fb = 16 then 16 else 32

/-- Row i of A. -/
def MxOp.vecA (o : MxOp) (rows : Table Nat) (i : Nat) : MxVec × Bool :=
  let row := Table.get 0 rows i
  let gs := (List.range (o.k / o.group)).map (fun g => g * o.group)
  if o.kind = 1 then
    let (xs, bad) := sparseRow o.fa row o.k
    (⟨xs, gs.map (fun _ => 127)⟩, bad)
  else (⟨(List.range o.k).map (decodeElem o.fa o.sa row), gs.map (scaleCode o.fa o.sa row)⟩, false)

/-- Column j of B. The blocks of a scaled row of MMAS end 4 bytes beyond its 128 bytes, which are not read: free values,
named by `f` (R238). DESIGN CHOICE, log 95. -/
def MxOp.vecB (o : MxOp) (f : Nat) (rows : Table Nat) (j : Nat) : MxVec :=
  let gs := (List.range (o.k / o.group)).map (fun g => g * o.group)
  if o.bl then
    ⟨(List.range o.k).map (fun k => decodeElem o.fb false (Table.get 0 rows k) j), gs.map (fun _ => 127)⟩
  else
    let row := Table.get 0 rows j + (if o.kind = 1 && o.sb then 256 ^ 128 * (Config.unread (f + j) % 256 ^ 4) else 0)
    ⟨(List.range o.k).map (decodeElem o.fb o.sb row), gs.map (scaleCode o.fb o.sb row)⟩

/-! ### Tiles -/

/-- Element n = 64 i + j of a tile. -/
def tileElem (t : BitVec 131072) (n : Nat) : Nat := t.toNat / 2 ^ (32 * n) % 2 ^ 32

/-- A tile from its 4,096 elements. -/
def tileOf (xs : List Nat) : BitVec 131072 := BitVec.ofNat 131072 (xs.foldr (fun x a => x % 2 ^ 32 + 2 ^ 32 * a) 0)

/-- Flags of a list of elements. -/
def elemFlags (xs : List Elem) : BitVec 8 := xs.foldl (fun a e => a ||| e.2) 0

/-- The meta flag of `$mxstat` (Table 11.2). -/
def fMeta : BitVec 8 := 64

/-- The grange flag of `$mxstat` (Table 11.2). -/
def fGrange : BitVec 8 := 128

/-- A multiply (R241): the low tile, the high tile of a pair, and the flags. `free` names its free values. -/
def mma (free : Nat) (o : MxOp) (fx : Bool) (q : Int) (lo hi : BitVec 131072) (aRows bRows : Table Nat) :
    BitVec 131072 × BitVec 131072 × BitVec 8 :=
  let avs := (List.range 64).map (o.vecA aRows)
  let bvs := (List.range 64).map (o.vecB (64 * free) bRows)
  let bad := avs.any (fun a => a.2)
  let G := o.group
  let s8 := o.fa = 4
  let es : List Elem := (avs.zipIdx).flatMap (fun a => (bvs.zipIdx).map (fun b =>
    let n := 64 * a.2 + b.2
    let old := if o.z then 0 else if fx && !s8 then tileElem lo n + 2 ^ 32 * tileElem hi n else tileElem lo n
    let sc := a.1.1.sc.zip b.1.sc
    if s8 then accI (65536 * free + 16 * n) G (o.k / G) a.1.1.xs b.1.xs (old, 0)
    else if fx then accX q G sc a.1.1.xs b.1.xs (old, 0)
    else accF G sc a.1.1.xs b.1.xs (old, 0)))
  let extra : BitVec 8 := if bad then fMeta ||| fInvalid.setWidth 8 else 0
  (tileOf (es.map (fun e => e.1 % 2 ^ 32)),
   if fx && !s8 then tileOf (es.map (fun e => e.1 / 2 ^ 32)) else hi, elemFlags es ||| extra)

/-! ### Hadamard pass (R246) -/

/-- The parity of popcount(k & j). -/
def parity (k j : Nat) : Bool := (List.range 6).foldl (fun a i => a != ((k / 2 ^ i % 2 = 1) && (j / 2 ^ i % 2 = 1))) false

/-- Where the constant store holds the signs of H_n (Table 5.4). DESIGN CHOICE, log 53. -/
def hadOff (n : Nat) : Nat := if n = 16 then 0 else if n = 32 then 32 else 160

/-- The signs of H_n as firmware writes them: bit n·k + j is set where H_n(k, j) is −1 (R246). -/
def hadSigns (n : Nat) : Nat := (List.range (n * n)).foldr (fun i a => 2 * a + (if parity (i / n) (i % n) then 1 else 0)) 0

/-- The sign of H_n(k, j) in its stored signs. -/
def hadNeg (signs n k j : Nat) : Bool := decide (signs / 2 ^ (n * k + j) % 2 = 1)

/-- The pass over one element: groups of 16. -/
def hadElem (signs : Nat) (src : List Num) (n j : Nat) : Elem :=
  let b := j / n
  (List.range (n / 16)).foldl (fun (r : Elem) g =>
    let ks := (List.range 16).map (fun i => b * n + 16 * g + i)
    let gr := ks.foldl (fun (s : Group) k =>
      s.add (src.getD k Num.zero) (Num.ofInt (if hadNeg signs n (k % n) (j % n) then -1 else 1))) Group.start
    let (t, inv) := gr.term 127 127
    let (v, f) := addRne r.1 t
    (v, r.2 ||| f.setWidth 8 ||| (flagIf inv fInvalid).setWidth 8)) (0, 0)

/-- The pass over a tile by the stored signs of H_n. -/
def hadamard (signs : Nat) (t : BitVec 131072) (n : Nat) : BitVec 131072 × BitVec 8 :=
  let es := (List.range 64).flatMap (fun i =>
    let row := (List.range 64).map (fun k => decodeF f32 (tileElem t (64 * i + k)))
    (List.range 64).map (hadElem signs row n))
  (tileOf (es.map (fun e => e.1)), elemFlags es)

/-! ### Drain (R248) -/

/-- How MDRAIN rounds: mode, saturation, and the key, tile coordinate and period of stochastic rounding. -/
structure DrainEnv where
  rnd : Rnd
  sr : Bool
  key : Word
  tile : Word
  period : Word
deriving DecidableEq, Repr

/-- One drained element: the value of kind F or X, or I, converted to the destination format. -/
def drainElem (e : DrainEnv) (fd : BitVec 3) (isI : Bool) (v : Num) (inv : Bool) (i j : Nat) : Nat × Flags :=
  let (b, f) : Nat × Flags :=
    if isInt fd then
      let (z, f) := toInt (eb fd) e.rnd.rm v
      (intBits (eb fd) z, if isI && !v.isNan && !v.isInf then f &&& ~~~fInvalid else f)
    else if e.sr then
      let w := srWord e.key e.tile (BitVec.ofNat 32 i) e.period
      roundSr (ffmtOf fd) e.rnd.sat ((srLane w j).setWidth 16) v
    else roundNum (ffmtOf fd) e.rnd v
  (b, f ||| flagIf inv fInvalid)

/-- A tile value times a scale, under R90's rules for NaN and infinities: the value and whether invalid is raised, as it is for
a signalling NaN (R81). -/
def scaleBy (v s : Num) : Num × Bool :=
  if v.isNan || s.isNan then (.nan false, v.isSig || s.isSig) else mulNum v s

/-- MDRAIN: block `blk` of a tile of the given kind, scaled per row when `sc` holds a register (R248). `kind`: 0 F, 1 I,
2 X with exponent q. -/
def drain (e : DrainEnv) (rl : Nat) (fd : BitVec 3) (kind : Nat) (q : Int) (lo hi : BitVec 131072) (blk : Nat)
    (sc : Option (BitVec 4096)) : VRes :=
  let R := rowsOf rl fd
  let C := colsOf rl fd
  let rb := blk / (64 / C)
  let cb := blk % (64 / C)
  (lanes (eb fd) (laneCount fd) (fun _ => true) (fun l =>
    let i := rb * R + l / C
    let j := cb * C + l % C
    let n := 64 * i + j
    let v : Num := match kind with
      | 0 => decodeF f32 (tileElem lo n)
      | 1 => Num.ofInt (sintOf 32 (tileElem lo n))
      | _ => (Num.ofInt (sintOf 64 (tileElem lo n + 2 ^ 32 * tileElem hi n))).scale q
    let (v, inv) := match sc with
      | some r => scaleBy v (decodeF f32 (lane 32 r i))
      | none => (v, false)
    drainElem e fd (kind = 1) v inv i j)).whole

end Sys2Proof.Machine
end

