-- ==== Sys2Proof/Machine/Operands.lean ====
section
/-!
DEFINITION. The operands of each instruction (Table 7.2 and the instruction entries): its slot class, the registers that
its word reads and writes, and the effective addresses of slot accesses (R208, R210, R211).
-/

namespace Sys2Proof.Machine

/-- The slot class of a word (R140, Table 2.2); none for a step of the device. -/
inductive Slot where
  | s | v | f | m | none
deriving DecidableEq, Repr

def slotClass : Instr → Slot
  | .nop => .s
  | .add _ _ _ => .s
  | .sub _ _ _ => .s
  | .and _ _ _ => .s
  | .or _ _ _ => .s
  | .xor _ _ _ => .s
  | .andn _ _ _ => .s
  | .shl _ _ _ => .s
  | .shr _ _ _ => .s
  | .sra _ _ _ => .s
  | .rol _ _ _ => .s
  | .ror _ _ _ => .s
  | .mul _ _ _ => .s
  | .mulh _ _ _ => .s
  | .mulhn _ _ _ => .s
  | .div _ _ _ => .s
  | .divn _ _ _ => .s
  | .rem _ _ _ => .s
  | .remn _ _ _ => .s
  | .min _ _ _ => .s
  | .max _ _ _ => .s
  | .minn _ _ _ => .s
  | .maxn _ _ _ => .s
  | .ceq _ _ _ => .s
  | .cne _ _ _ => .s
  | .clt _ _ _ => .s
  | .cle _ _ _ => .s
  | .cltn _ _ _ => .s
  | .clen _ _ _ => .s
  | .sel _ _ _ => .s
  | .clz _ _ => .s
  | .ctz _ _ => .s
  | .popc _ _ => .s
  | .brev _ _ => .s
  | .bswap _ _ => .s
  | .exts _ _ _ => .s
  | .extz _ _ _ => .s
  | .addW _ _ _ => .s
  | .subW _ _ _ => .s
  | .shlW _ _ _ => .s
  | .shrW _ _ _ => .s
  | .sraW _ _ _ => .s
  | .mulW _ _ _ => .s
  | .divW _ _ _ => .s
  | .divnW _ _ _ => .s
  | .remW _ _ _ => .s
  | .remnW _ _ _ => .s
  | .addi _ _ _ => .s
  | .andi _ _ _ => .s
  | .ori _ _ _ => .s
  | .xori _ _ _ => .s
  | .shli _ _ _ => .s
  | .shri _ _ _ => .s
  | .srai _ _ _ => .s
  | .muli _ _ _ => .s
  | .ceqi _ _ _ => .s
  | .clti _ _ _ => .s
  | .cltni _ _ _ => .s
  | .movhi _ _ _ => .s
  | .adpc _ _ => .s
  | .addwi _ _ _ => .s
  | .beq _ _ _ => .s
  | .bne _ _ _ => .s
  | .blt _ _ _ => .s
  | .bge _ _ _ => .s
  | .bltn _ _ _ => .s
  | .bgen _ _ _ => .s
  | .jmp _ => .s
  | .jal _ _ => .s
  | .jr _ _ => .s
  | .jalr _ _ _ => .s
  | .loop _ _ => .s
  | .knext => .s
  | .endTask => .s
  | .trap _ _ => .s
  | .srr _ _ => .s
  | .srw _ _ _ => .s
  | .srs _ _ _ => .s
  | .src _ _ _ => .s
  | .idle _ _ => .s
  | .digest _ _ _ => .s
  | .brk => .s
  | .eret => .s
  | .tlbi _ _ => .s
  | .swctx => .s
  | .flushi => .s
  | .retime _ _ _ => .s
  | .mma _ _ _ _ _ _ _ _ _ _ => .s
  | .mmas _ _ _ _ _ _ _ _ _ => .s
  | .mmag _ _ _ _ _ _ _ _ _ _ => .s
  | .mhad _ _ _ => .s
  | .mzero _ _ => .s
  | .mdrain _ _ _ _ _ _ _ _ _ => .s
  | .mload _ _ _ _ => .s
  | .ecw _ _ => .s
  | .ecr _ _ => .s
  | .cpy _ _ _ _ => .s
  | .cpyx _ _ => .s
  | .gcfg _ _ => .s
  | .ctblk _ _ => .s
  | .ctsnap _ _ => .s
  | .ctqry _ _ _ => .s
  | .ctstep _ => .s
  | .ctclr _ _ => .s
  | .ctsave _ => .s
  | .ctload _ => .s
  | .kvcommit _ _ _ => .s
  | .kvreset _ _ _ => .s
  | .xbind _ _ => .s
  | .xstat _ _ => .s
  | .rcfg _ _ _ => .s
  | .rrst _ => .s
  | .hcfg _ _ => .s
  | .harm _ _ => .s
  | .hread _ _ _ => .s
  | .vadd _ _ _ _ _ => .v
  | .vsub _ _ _ _ _ => .v
  | .vmul _ _ _ _ _ => .v
  | .vfma _ _ _ _ _ => .v
  | .vfms _ _ _ _ _ => .v
  | .vfnma _ _ _ _ _ => .v
  | .vmin _ _ _ _ _ => .v
  | .vmax _ _ _ _ _ => .v
  | .vabs _ _ _ _ => .v
  | .vneg _ _ _ _ => .v
  | .vand _ _ _ _ _ => .v
  | .vor _ _ _ _ _ => .v
  | .vxor _ _ _ _ _ => .v
  | .vnot _ _ _ _ => .v
  | .vshl _ _ _ _ _ => .v
  | .vshr _ _ _ _ _ => .v
  | .vsra _ _ _ _ _ => .v
  | .vmov _ _ _ _ => .v
  | .vsel _ _ _ _ _ => .v
  | .vceq _ _ _ _ _ => .v
  | .vcne _ _ _ _ _ => .v
  | .vclt _ _ _ _ _ => .v
  | .vcle _ _ _ _ _ => .v
  | .vscaleb _ _ _ _ _ => .v
  | .vexpo _ _ _ _ => .v
  | .vcvt _ _ _ _ _ _ => .v
  | .vcvts _ _ _ _ _ _ => .v
  | .vrmax _ _ _ _ => .v
  | .vrmin _ _ _ _ => .v
  | .vrsum _ _ _ _ => .v
  | .vrssq _ _ _ _ => .v
  | .vramax _ _ _ _ => .v
  | .vrarg _ _ _ _ => .v
  | .vcsum _ _ _ _ => .v
  | .vscan _ _ _ _ => .v
  | .vbrow _ _ _ _ => .v
  | .vbcol _ _ _ _ => .v
  | .vsplat _ _ _ _ => .v
  | .vins _ _ _ _ => .v
  | .vext _ _ _ _ => .v
  | .vperm _ _ _ _ _ => .v
  | .vtrans _ _ _ _ => .v
  | .viota _ _ _ => .v
  | .vrand _ _ _ _ => .v
  | .voxd _ _ _ _ _ => .v
  | .voxe _ _ _ _ => .v
  | .mand _ _ _ => .v
  | .mor _ _ _ => .v
  | .mxor _ _ _ => .v
  | .mnot _ _ => .v
  | .mpopc _ _ _ => .v
  | .vtree _ _ _ _ _ => .v
  | .ppinit _ => .v
  | .ppdeg _ _ => .v
  | .ppmul _ _ _ _ _ => .v
  | .ppdiv _ _ _ _ _ => .v
  | .pprd _ _ _ _ _ => .v
  | .ppscale _ _ => .v
  | .ppstat _ _ => .v
  | .fexp2 _ _ _ _ => .f
  | .fexp2m _ _ _ _ _ => .f
  | .flog2 _ _ _ _ => .f
  | .frcp _ _ _ _ => .f
  | .frsq _ _ _ _ => .f
  | .fsqrt _ _ _ _ => .f
  | .fsin _ _ _ _ => .f
  | .fcos _ _ _ _ => .f
  | .ftanh _ _ _ _ => .f
  | .fsigm _ _ _ _ => .f
  | .ferf _ _ _ _ => .f
  | .fsilu _ _ _ _ => .f
  | .ldb _ _ _ => .m
  | .ldh _ _ _ => .m
  | .ldw _ _ _ => .m
  | .ldd _ _ _ => .m
  | .ldbn _ _ _ => .m
  | .ldhn _ _ _ => .m
  | .ldwn _ _ _ => .m
  | .stb _ _ _ => .m
  | .sth _ _ _ => .m
  | .stw _ _ _ => .m
  | .std _ _ _ => .m
  | .vld _ _ _ => .m
  | .vst _ _ _ => .m
  | .vldx _ _ _ => .m
  | .ldf _ _ _ => .m
  | .ppsave _ _ _ => .m
  | .ppload _ _ _ => .m
  | .aadd _ _ _ _ _ => .m
  | .amin _ _ _ _ _ => .m
  | .amax _ _ _ _ _ => .m
  | .aminn _ _ _ _ _ => .m
  | .amaxn _ _ _ _ _ => .m
  | .aand _ _ _ _ _ => .m
  | .aor _ _ _ _ _ => .m
  | .axor _ _ _ _ _ => .m
  | .aswap _ _ _ _ _ => .m
  | .acas _ _ _ _ _ => .m
  | .agts _ _ _ _ _ => .m
  | .agtsn _ _ _ _ _ => .m
  | .avswap _ _ _ _ _ => .m
  | .atagswap _ _ _ _ _ => .m
  | .afadd _ _ _ _ _ => .m
  | .ldacq _ _ _ => .m
  | .strel _ _ _ => .m
  | .fence _ _ _ => .m
  | .fwait _ _ => .m
  | .bar _ _ _ => .m
  | .bara _ _ => .m
  | .barw _ _ _ => .m
  | .barq _ _ => .m
  | .sbar _ => .m
  | .hwait _ _ _ => .m
  | .rwait _ _ _ _ => .m
  | .radvp _ _ => .m
  | .radvc _ _ => .m
  | .enq _ _ => .m
  | .deq _ _ => .m
  | .qwait _ _ => .m
  | .stbind _ _ _ => .m
  | .stunb _ => .m
  | .penn _ _ _ => .m
  | .residencySwitch _ => .none
  | .idleCoreDispatch _ => .none
  | .idleTimeout _ => .none
  | .periodBoundary _ => .none
  | .sampleArrival _ _ _ _ => .none
  | .missedSampleTime _ => .none
  | .regionResumption _ => .none
  | .outputSampleTime _ => .none
  | .railSwitchEnd _ => .none
  | .energyBucketUpdate _ => .none
  | .ballastPass _ => .none
  | .hoistReach _ _ _ => .none
  | .pendingSlotActionRelease _ _ _ => .none
  | .barrierCompletion _ _ _ => .none
  | .registerDataArrival _ => .none
  | .waitLimitExpiry _ => .none
  | .matrixCommandStart _ => .none
  | .matrixCommandEnd _ => .none
  | .matrixWaitLimitExpiry _ => .none
  | .copyBegin _ _ => .none
  | .chunkCommit _ _ => .none
  | .copyChunkFault _ _ => .none
  | .copyCompletionAction _ _ => .none
  | .watermarkWaitLimitExpiry _ _ => .none
  | .copyCancelComplete _ _ => .none
  | .apertureCommandArrival _ _ _ => .none
  | .contactCommandStart _ => .none
  | .streamTransfer _ _ _ => .none
  | .fabricWrite _ => .none
  | .fabricAtomic _ => .none
  | .fabricRead _ => .none
  | .enqueueRequest _ => .none
  | .launchPacketTake _ => .none
  | .launchCompletion _ => .none
  | .hostWindowSubmit _ _ => .none
  | .queueEnable _ _ => .none
  | .queueDisable _ _ => .none
  | .queueSwapOut _ _ => .none
  | .queueSwapIn _ _ => .none
  | .queueGenerationChange _ _ => .none
  | .hbmStackFailure _ => .none
  | .preemptSave _ _ => .none
  | .saveComplete _ => .none
  | .preemptRestore _ _ => .none
  | .restoreComplete _ => .none
  | .partitionEntryCommit _ _ => .none
  | .clusterEntryCommit _ _ => .none
  | .sourceEnable _ _ => .none
  | .sourceDisable _ _ => .none
  | .rateEntryCommit _ _ => .none
  | .crossingEnable _ _ => .none
  | .crossingDisable _ _ => .none
  | .regionStatusClear _ _ => .none
  | .powerEntryCommit _ => .none
  | .replicaRelease _ => .none
  | .replicaDiscard _ => .none
  | .replicaDigestArrival _ _ _ => .none
  | .replicaDigestTimeout _ => .none
  | .loaderLoad _ _ => .none
  | .loaderUnload _ _ => .none
  | .loadDone _ => .none
  | .constantStoreWrite _ _ => .none
  | .bar4Access _ _ => .none
  | .registerWrite _ _ => .none
  | .firmwareStart _ => .none
  | .perst _ => .none
  | .trainingDone _ _ => .none
  | .tagsDone => .none
  | .selftestDone _ => .none
  | .lockingDone _ => .none
  | .cxlExpanderLoss _ _ _ => .none
  | .gxlPortFailure _ => .none
  | .scrubRead _ _ => .none
  | .powerLoss => .none
  | .mirrorCopyComplete _ _ => .none
  | .swapInCopyComplete _ => .none
  | .packetStagingWrite _ _ _ => .none

/-- The registers that a word names, for busy bits, streams and polynomials (R103, R157, R158). -/
structure Uses where
  gr : List (BitVec 6) := []
  gw : List (BitVec 6) := []
  vr : List (BitVec 5) := []
  vw : List (BitVec 5) := []
  q : List (BitVec 3) := []
deriving DecidableEq, Repr

def uses : Instr → Uses
  | .nop => {}
  | .add d a b => { gr := [a, b], gw := [d] }
  | .sub d a b => { gr := [a, b], gw := [d] }
  | .and d a b => { gr := [a, b], gw := [d] }
  | .or d a b => { gr := [a, b], gw := [d] }
  | .xor d a b => { gr := [a, b], gw := [d] }
  | .andn d a b => { gr := [a, b], gw := [d] }
  | .shl d a b => { gr := [a, b], gw := [d] }
  | .shr d a b => { gr := [a, b], gw := [d] }
  | .sra d a b => { gr := [a, b], gw := [d] }
  | .rol d a b => { gr := [a, b], gw := [d] }
  | .ror d a b => { gr := [a, b], gw := [d] }
  | .mul d a b => { gr := [a, b], gw := [d] }
  | .mulh d a b => { gr := [a, b], gw := [d] }
  | .mulhn d a b => { gr := [a, b], gw := [d] }
  | .div d a b => { gr := [a, b], gw := [d] }
  | .divn d a b => { gr := [a, b], gw := [d] }
  | .rem d a b => { gr := [a, b], gw := [d] }
  | .remn d a b => { gr := [a, b], gw := [d] }
  | .min d a b => { gr := [a, b], gw := [d] }
  | .max d a b => { gr := [a, b], gw := [d] }
  | .minn d a b => { gr := [a, b], gw := [d] }
  | .maxn d a b => { gr := [a, b], gw := [d] }
  | .ceq d a b => { gr := [a, b], gw := [d] }
  | .cne d a b => { gr := [a, b], gw := [d] }
  | .clt d a b => { gr := [a, b], gw := [d] }
  | .cle d a b => { gr := [a, b], gw := [d] }
  | .cltn d a b => { gr := [a, b], gw := [d] }
  | .clen d a b => { gr := [a, b], gw := [d] }
  | .sel d a b => { gr := [a, b, d], gw := [d] }
  | .clz d a => { gr := [a], gw := [d] }
  | .ctz d a => { gr := [a], gw := [d] }
  | .popc d a => { gr := [a], gw := [d] }
  | .brev d a => { gr := [a], gw := [d] }
  | .bswap d a => { gr := [a], gw := [d] }
  | .exts d a _ => { gr := [a], gw := [d] }
  | .extz d a _ => { gr := [a], gw := [d] }
  | .addW d a b => { gr := [a, b], gw := [d] }
  | .subW d a b => { gr := [a, b], gw := [d] }
  | .shlW d a b => { gr := [a, b], gw := [d] }
  | .shrW d a b => { gr := [a, b], gw := [d] }
  | .sraW d a b => { gr := [a, b], gw := [d] }
  | .mulW d a b => { gr := [a, b], gw := [d] }
  | .divW d a b => { gr := [a, b], gw := [d] }
  | .divnW d a b => { gr := [a, b], gw := [d] }
  | .remW d a b => { gr := [a, b], gw := [d] }
  | .remnW d a b => { gr := [a, b], gw := [d] }
  | .addi d a _ => { gr := [a], gw := [d] }
  | .andi d a _ => { gr := [a], gw := [d] }
  | .ori d a _ => { gr := [a], gw := [d] }
  | .xori d a _ => { gr := [a], gw := [d] }
  | .shli d a _ => { gr := [a], gw := [d] }
  | .shri d a _ => { gr := [a], gw := [d] }
  | .srai d a _ => { gr := [a], gw := [d] }
  | .muli d a _ => { gr := [a], gw := [d] }
  | .ceqi d a _ => { gr := [a], gw := [d] }
  | .clti d a _ => { gr := [a], gw := [d] }
  | .cltni d a _ => { gr := [a], gw := [d] }
  | .movhi d a _ => { gr := [a], gw := [d] }
  | .adpc d _ => { gw := [d] }
  | .addwi d a _ => { gr := [a], gw := [d] }
  | .beq a b _ => { gr := [a, b] }
  | .bne a b _ => { gr := [a, b] }
  | .blt a b _ => { gr := [a, b] }
  | .bge a b _ => { gr := [a, b] }
  | .bltn a b _ => { gr := [a, b] }
  | .bgen a b _ => { gr := [a, b] }
  | .jmp _ => {}
  | .jal d _ => { gw := [d] }
  | .jr a _ => { gr := [a] }
  | .jalr a b _ => { gr := [a], gw := [b] }
  | .loop a _ => { gr := [a] }
  | .knext => {}
  | .endTask => {}
  | .trap d _ => { gr := [d] }
  | .srr d _ => { gw := [d] }
  | .srw d a _ => { gr := [a], gw := [d] }
  | .srs d a _ => { gr := [a], gw := [d] }
  | .src d a _ => { gr := [a], gw := [d] }
  | .idle d a => { gr := [a], gw := [d] }
  | .digest d a _ => { gr := [d, a] }
  | .brk => {}
  | .eret => {}
  | .tlbi a _ => { gr := [a] }
  | .swctx => {}
  | .flushi => {}
  | .retime d a _ => { gr := [a], gw := [d] }
  | .mma _ _ _ _ _ _ _ _ _ _ => {}
  | .mmas _ _ _ _ _ _ _ _ _ => {}
  | .mmag _ _ _ _ _ _ _ _ _ _ => {}
  | .mhad _ _ _ => {}
  | .mzero _ _ => {}
  | .mdrain _ _ j _ _ _ w _ d => { vr := if w = 1 then [16 + j.setWidth 5] else [], vw := [d] }
  | .mload _ _ _ _ => {}
  | .ecw a b => { gr := [a, b] }
  | .ecr a b => { gr := [a, b] }
  | .cpy a b _ _ => { gr := [a, b] }
  | .cpyx a _ => { gw := [a] }
  | .gcfg a _ => { gr := [a] }
  | .ctblk a _ => { gr := [a] }
  | .ctsnap a _ => { gr := [a] }
  | .ctqry a b _ => { gr := [b], gw := [a] }
  | .ctstep _ => {}
  | .ctclr a _ => { gr := [a] }
  | .ctsave a => { gr := [a] }
  | .ctload a => { gr := [a] }
  | .kvcommit a b _ => { gr := [a, b] }
  | .kvreset a b _ => { gr := [a, b] }
  | .xbind a b => { gr := [a, b] }
  | .xstat a b => { gr := [b], gw := [a] }
  | .rcfg a b _ => { gr := [a, b] }
  | .rrst _ => {}
  | .hcfg a _ => { gr := [a] }
  | .harm a _ => { gr := [a] }
  | .hread a b _ => { gw := [a, b] }
  | .vadd _ _ d a b => { vr := [a, b], vw := [d] }
  | .vsub _ _ d a b => { vr := [a, b], vw := [d] }
  | .vmul _ _ d a b => { vr := [a, b], vw := [d] }
  | .vfma _ _ d a b => { vr := [a, b, d], vw := [d] }
  | .vfms _ _ d a b => { vr := [a, b, d], vw := [d] }
  | .vfnma _ _ d a b => { vr := [a, b, d], vw := [d] }
  | .vmin _ _ d a b => { vr := [a, b], vw := [d] }
  | .vmax _ _ d a b => { vr := [a, b], vw := [d] }
  | .vabs _ _ d a => { vr := [a], vw := [d] }
  | .vneg _ _ d a => { vr := [a], vw := [d] }
  | .vand _ _ d a b => { vr := [a, b], vw := [d] }
  | .vor _ _ d a b => { vr := [a, b], vw := [d] }
  | .vxor _ _ d a b => { vr := [a, b], vw := [d] }
  | .vnot _ _ d a => { vr := [a], vw := [d] }
  | .vshl _ _ d a b => { vr := [a, b], vw := [d] }
  | .vshr _ _ d a b => { vr := [a, b], vw := [d] }
  | .vsra _ _ d a b => { vr := [a, b], vw := [d] }
  | .vmov _ _ d a => { vr := [a], vw := [d] }
  | .vsel _ _ d a b => { vr := [a, b], vw := [d] }
  | .vceq _ _ _ a b => { vr := [a, b] }
  | .vcne _ _ _ a b => { vr := [a, b] }
  | .vclt _ _ _ a b => { vr := [a, b] }
  | .vcle _ _ _ a b => { vr := [a, b] }
  | .vscaleb _ _ d a b => { vr := [a, b], vw := [d] }
  | .vexpo _ _ d a => { vr := [a], vw := [d] }
  | .vcvt _ _ d a _ _ => { vr := [a], vw := [d] }
  | .vcvts _ _ d a _ _ => { vr := [a], vw := [d] }
  | .vrmax _ _ d a => { vr := [a], vw := [d] }
  | .vrmin _ _ d a => { vr := [a], vw := [d] }
  | .vrsum _ _ d a => { vr := [a], vw := [d] }
  | .vrssq _ _ d a => { vr := [a], vw := [d] }
  | .vramax _ _ d a => { vr := [a], vw := [d] }
  | .vrarg _ _ d a => { vr := [a], vw := [d] }
  | .vcsum _ _ d a => { vr := [a], vw := [d] }
  | .vscan _ _ d a => { vr := [a], vw := [d] }
  | .vbrow _ _ d a => { vr := [a], vw := [d] }
  | .vbcol _ _ d a => { vr := [a], vw := [d] }
  | .vsplat _ _ d a => { gr := [a.setWidth 6], vw := [d] }
  | .vins _ d a b => { gr := [a.setWidth 6, b.setWidth 6], vw := [d] }
  | .vext _ d a b => { gr := [b.setWidth 6], gw := [d.setWidth 6], vr := [a] }
  | .vperm _ _ d a b => { vr := [a, b], vw := [d] }
  | .vtrans _ _ d a => { vr := [a], vw := [d] }
  | .viota _ _ d => { vw := [d] }
  | .vrand _ _ d a => { gr := [a.setWidth 6], vw := [d] }
  | .voxd _ _ d a _ => { vr := [a], vw := [d] }
  | .voxe _ d a _ => { vr := [a], vw := [d] }
  | .mand _ _ _ => {}
  | .mor _ _ _ => {}
  | .mxor _ _ _ => {}
  | .mnot _ _ => {}
  | .mpopc _ d _ => { gw := [d.setWidth 6] }
  | .vtree _ _ d a b => { gr := [b.setWidth 6], vr := [a], vw := [d] }
  | .ppinit d => { q := [d.setWidth 3] }
  | .ppdeg d a => { gr := [a.setWidth 6], q := [d.setWidth 3] }
  | .ppmul _ _ d a b => { vr := [a, b], q := [d.setWidth 3] }
  | .ppdiv _ _ d a b => { vr := [a, b], q := [d.setWidth 3] }
  | .pprd _ _ d a b => { gr := [b.setWidth 6], vw := [d], q := [a.setWidth 3] }
  | .ppscale d a => { gr := [a.setWidth 6], q := [d.setWidth 3] }
  | .ppstat d a => { gw := [d.setWidth 6], q := [a.setWidth 3] }
  | .fexp2 _ _ d a => { vr := [a], vw := [d] }
  | .fexp2m _ _ d a b => { vr := [a, b], vw := [d] }
  | .flog2 _ _ d a => { vr := [a], vw := [d] }
  | .frcp _ _ d a => { vr := [a], vw := [d] }
  | .frsq _ _ d a => { vr := [a], vw := [d] }
  | .fsqrt _ _ d a => { vr := [a], vw := [d] }
  | .fsin _ _ d a => { vr := [a], vw := [d] }
  | .fcos _ _ d a => { vr := [a], vw := [d] }
  | .ftanh _ _ d a => { vr := [a], vw := [d] }
  | .fsigm _ _ d a => { vr := [a], vw := [d] }
  | .ferf _ _ d a => { vr := [a], vw := [d] }
  | .fsilu _ _ d a => { vr := [a], vw := [d] }
  | .ldb d a _ => { gr := [a], gw := [d] }
  | .ldh d a _ => { gr := [a], gw := [d] }
  | .ldw d a _ => { gr := [a], gw := [d] }
  | .ldd d a _ => { gr := [a], gw := [d] }
  | .ldbn d a _ => { gr := [a], gw := [d] }
  | .ldhn d a _ => { gr := [a], gw := [d] }
  | .ldwn d a _ => { gr := [a], gw := [d] }
  | .stb d a _ => { gr := [a, d] }
  | .sth d a _ => { gr := [a, d] }
  | .stw d a _ => { gr := [a, d] }
  | .std d a _ => { gr := [a, d] }
  | .vld d a _ => { gr := [a], vw := [d] }
  | .vst d a _ => { gr := [a], vr := [d] }
  | .vldx d a _ => { gr := [a], vr := [d], vw := [d] }
  | .ldf d a _ => { gr := [a], gw := [d] }
  | .ppsave d a _ => { gr := [a], q := [d] }
  | .ppload d a _ => { gr := [a], q := [d] }
  | .aadd d a b _ _ => { gr := [a, b], gw := [d] }
  | .amin d a b _ _ => { gr := [a, b], gw := [d] }
  | .amax d a b _ _ => { gr := [a, b], gw := [d] }
  | .aminn d a b _ _ => { gr := [a, b], gw := [d] }
  | .amaxn d a b _ _ => { gr := [a, b], gw := [d] }
  | .aand d a b _ _ => { gr := [a, b], gw := [d] }
  | .aor d a b _ _ => { gr := [a, b], gw := [d] }
  | .axor d a b _ _ => { gr := [a, b], gw := [d] }
  | .aswap d a b _ _ => { gr := [a, b], gw := [d] }
  | .acas d a b _ _ => { gr := [a, b, d], gw := [d] }
  | .agts d a b _ _ => { gr := [a, b], gw := [d] }
  | .agtsn d a b _ _ => { gr := [a, b], gw := [d] }
  | .avswap d a b _ _ => { gr := [a, b, d], gw := [d] }
  | .atagswap d a b _ _ => { gr := [a, b, d], gw := [d] }
  | .afadd d a b _ _ => { gr := [a, b], gw := [d] }
  | .ldacq d a _ => { gr := [a], gw := [d] }
  | .strel a b _ => { gr := [a, b] }
  | .fence a _ _ => { gw := [a] }
  | .fwait a _ => { gr := [a] }
  | .bar a _ _ => { gw := [a] }
  | .bara a _ => { gw := [a] }
  | .barw a _ _ => { gr := [a], gw := [a] }
  | .barq a _ => { gw := [a] }
  | .sbar _ => {}
  | .hwait a _ _ => { gr := [a] }
  | .rwait a _ _ _ => { gr := [a] }
  | .radvp _ _ => {}
  | .radvc _ _ => {}
  | .enq a b => { gr := [a, b], gw := [a] }
  | .deq a b => { gr := [a, b], gw := [a] }
  | .qwait a _ => { gr := [a] }
  | .stbind a _ _ => { gr := [a] }
  | .stunb _ => {}
  | .penn a b _ => { gr := [a, b] }
  | .residencySwitch _ => {}
  | .idleCoreDispatch _ => {}
  | .idleTimeout _ => {}
  | .periodBoundary _ => {}
  | .sampleArrival _ _ _ _ => {}
  | .missedSampleTime _ => {}
  | .regionResumption _ => {}
  | .outputSampleTime _ => {}
  | .railSwitchEnd _ => {}
  | .energyBucketUpdate _ => {}
  | .ballastPass _ => {}
  | .hoistReach _ _ _ => {}
  | .pendingSlotActionRelease _ _ _ => {}
  | .barrierCompletion _ _ _ => {}
  | .registerDataArrival _ => {}
  | .waitLimitExpiry _ => {}
  | .matrixCommandStart _ => {}
  | .matrixCommandEnd _ => {}
  | .matrixWaitLimitExpiry _ => {}
  | .copyBegin _ _ => {}
  | .chunkCommit _ _ => {}
  | .copyChunkFault _ _ => {}
  | .copyCompletionAction _ _ => {}
  | .watermarkWaitLimitExpiry _ _ => {}
  | .copyCancelComplete _ _ => {}
  | .apertureCommandArrival _ _ _ => {}
  | .contactCommandStart _ => {}
  | .streamTransfer _ _ _ => {}
  | .fabricWrite _ => {}
  | .fabricAtomic _ => {}
  | .fabricRead _ => {}
  | .enqueueRequest _ => {}
  | .launchPacketTake _ => {}
  | .launchCompletion _ => {}
  | .hostWindowSubmit _ _ => {}
  | .queueEnable _ _ => {}
  | .queueDisable _ _ => {}
  | .queueSwapOut _ _ => {}
  | .queueSwapIn _ _ => {}
  | .queueGenerationChange _ _ => {}
  | .hbmStackFailure _ => {}
  | .preemptSave _ _ => {}
  | .saveComplete _ => {}
  | .preemptRestore _ _ => {}
  | .restoreComplete _ => {}
  | .partitionEntryCommit _ _ => {}
  | .clusterEntryCommit _ _ => {}
  | .sourceEnable _ _ => {}
  | .sourceDisable _ _ => {}
  | .rateEntryCommit _ _ => {}
  | .crossingEnable _ _ => {}
  | .crossingDisable _ _ => {}
  | .regionStatusClear _ _ => {}
  | .powerEntryCommit _ => {}
  | .replicaRelease _ => {}
  | .replicaDiscard _ => {}
  | .replicaDigestArrival _ _ _ => {}
  | .replicaDigestTimeout _ => {}
  | .loaderLoad _ _ => {}
  | .loaderUnload _ _ => {}
  | .loadDone _ => {}
  | .constantStoreWrite _ _ => {}
  | .bar4Access _ _ => {}
  | .registerWrite _ _ => {}
  | .firmwareStart _ => {}
  | .perst _ => {}
  | .trainingDone _ _ => {}
  | .tagsDone => {}
  | .selftestDone _ => {}
  | .lockingDone _ => {}
  | .cxlExpanderLoss _ _ _ => {}
  | .gxlPortFailure _ => {}
  | .scrubRead _ _ => {}
  | .powerLoss => {}
  | .mirrorCopyComplete _ _ => {}
  | .swapInCopyComplete _ => {}
  | .packetStagingWrite _ _ _ => {}

/-! ### Effective addresses -/

/-- ea of an ML word (R208): ga + off10 × z. -/
def Ctx.ea (x : Ctx) (a : BitVec 6) (off : BitVec 10) (z : Nat) : Word :=
  x.rg a + off.signExtend 64 * BitVec.ofNat 64 z

/-- The segments of VLD and VST (R210). -/
def Ctx.segments (x : Ctx) (ea : Word) : List (Word × Nat) :=
  let n := 2 ^ x.seg.toNat
  (List.range n).map (fun i => (ea + BitVec.ofNat 64 (i * x.pitch.toNat * 64), 512 / n))

/-- The granules of VLDX (R211). -/
def gather (ea : Word) (v : BitVec 4096) : List (Word × Nat) :=
  (List.range 8).map (fun i => (ea + v.extractLsb' (64 * i) 64, 64))

/-- What a slot access is, for the checks of step 8 and for its performance (R99, R209, R214): the address ranges, the
alignment it needs and the address that the alignment is tested on, what it does, and its class. -/
structure SlotAcc where
  segs : List (Word × Nat)
  align : Nat
  acc : Acc
  cls : Cls
deriving DecidableEq, Repr

/-- Whether every byte of an access is near (R208, R210, R211). -/
def SlotAcc.near (t : SlotAcc) (c : Nat) : Bool :=
  t.segs.all (fun g => isOwn c g.1 && isOwn c (g.1 + BitVec.ofNat 64 (g.2 - 1)))

/-- One access of n bytes. -/
def SlotAcc.one (va : Word) (n align : Nat) (acc : Acc) (cls : Cls) : SlotAcc := ⟨[(va, n)], align, acc, cls⟩

/-- The class of an atomic by its ar bit (R122). -/
def atCls (r : BitVec 1) : Cls := if r = 1 then .acqrel else .at

/-- The memory access of a word of the ML and MA groups and of PENN; none for a word that makes none. DEDUCED, log 78. -/
def slotAcc (x : Ctx) : Instr → Option SlotAcc
  | .ldb _ a o => some (.one (x.ea a o 1) 1 1 .load .ld)
  | .ldh _ a o => some (.one (x.ea a o 2) 2 2 .load .ld)
  | .ldw _ a o => some (.one (x.ea a o 4) 4 4 .load .ld)
  | .ldd _ a o => some (.one (x.ea a o 8) 8 8 .load .ld)
  | .ldbn _ a o => some (.one (x.ea a o 1) 1 1 .load .ld)
  | .ldhn _ a o => some (.one (x.ea a o 2) 2 2 .load .ld)
  | .ldwn _ a o => some (.one (x.ea a o 4) 4 4 .load .ld)
  | .stb _ a o => some (.one (x.ea a o 1) 1 1 .store .st)
  | .sth _ a o => some (.one (x.ea a o 2) 2 2 .store .st)
  | .stw _ a o => some (.one (x.ea a o 4) 4 4 .store .st)
  | .std _ a o => some (.one (x.ea a o 8) 8 8 .store .st)
  | .vld _ a o => some ⟨x.segments (x.ea a o 512), 64, .load, .ld⟩
  | .vst _ a o => some ⟨x.segments (x.ea a o 512), 64, .store, .st⟩
  | .vldx d a o => some ⟨gather (x.ea a o 512) (x.rv d), 64, .load, .ld⟩
  | .ldf _ a o => some (.one (x.ea a o 8) 8 8 .load .ld)
  | .ppsave _ a o => some (.one (x.ea a o 8) 520 8 .store .st)
  | .ppload _ a o => some (.one (x.ea a o 8) 520 8 .load .ld)
  | .aadd _ a _ _ r => some (.one (x.rg a) 8 8 .atomic (atCls r))
  | .amin _ a _ _ r => some (.one (x.rg a) 8 8 .atomic (atCls r))
  | .amax _ a _ _ r => some (.one (x.rg a) 8 8 .atomic (atCls r))
  | .aminn _ a _ _ r => some (.one (x.rg a) 8 8 .atomic (atCls r))
  | .amaxn _ a _ _ r => some (.one (x.rg a) 8 8 .atomic (atCls r))
  | .aand _ a _ _ r => some (.one (x.rg a) 8 8 .atomic (atCls r))
  | .aor _ a _ _ r => some (.one (x.rg a) 8 8 .atomic (atCls r))
  | .axor _ a _ _ r => some (.one (x.rg a) 8 8 .atomic (atCls r))
  | .aswap _ a _ _ r => some (.one (x.rg a) 8 8 .atomic (atCls r))
  | .acas _ a _ _ r => some (.one (x.rg a) 8 8 .atomic (atCls r))
  | .agts _ a _ _ r => some (.one (x.rg a) 8 8 .atomic (atCls r))
  | .agtsn _ a _ _ r => some (.one (x.rg a) 8 8 .atomic (atCls r))
  | .avswap _ a _ _ r => some (.one (x.rg a) 8 8 .atomic (atCls r))
  | .atagswap _ a _ _ r => some (.one (x.rg a) 8 8 .atomic (atCls r))
  | .afadd _ a _ _ r => some (.one (x.rg a) 4 4 .atomic (atCls r))
  | .ldacq _ a _ => some (.one (x.rg a) 8 8 .load .acq)
  | .strel a _ _ => some (.one (x.rg a) 8 8 .store .rel)
  | .penn a _ _ => some (.one (x.rg a) 8 8 .store .pen)
  | _ => none

/-- Whether a host target accepts an atomic (R110): AADD, ASWAP and ACAS. -/
def hostAtomic : Instr → Bool
  | .aadd _ _ _ _ _ => true
  | .aswap _ _ _ _ _ => true
  | .acas _ _ _ _ _ => true
  | _ => false

/-- The mask registers that a word reads (R185, R192, R204). -/
def masksRead : Instr → List (BitVec 3)
  | .vadd _ m _ _ _ | .vsub _ m _ _ _ | .vmul _ m _ _ _ | .vfma _ m _ _ _ | .vfms _ m _ _ _ | .vfnma _ m _ _ _
  | .vmin _ m _ _ _ | .vmax _ m _ _ _ | .vabs _ m _ _ | .vneg _ m _ _ | .vand _ m _ _ _ | .vor _ m _ _ _
  | .vxor _ m _ _ _ | .vnot _ m _ _ | .vshl _ m _ _ _ | .vshr _ m _ _ _ | .vsra _ m _ _ _ | .vmov _ m _ _
  | .vsel _ m _ _ _ | .vceq _ m _ _ _ | .vcne _ m _ _ _ | .vclt _ m _ _ _ | .vcle _ m _ _ _ | .vscaleb _ m _ _ _
  | .vexpo _ m _ _ | .vcvt _ m _ _ _ _ | .vcvts _ m _ _ _ _ | .vrmax _ m _ _ | .vrmin _ m _ _ | .vrsum _ m _ _
  | .vrssq _ m _ _ | .vramax _ m _ _ | .vrarg _ m _ _ | .vcsum _ m _ _ | .vscan _ m _ _ | .vbrow _ m _ _
  | .vbcol _ m _ _ | .vsplat _ m _ _ | .vperm _ m _ _ _ | .vtrans _ m _ _ | .viota _ m _ | .vrand _ m _ _
  | .voxd _ m _ _ _ | .vtree _ m _ _ _ | .ppmul _ m _ _ _ | .ppdiv _ m _ _ _ | .pprd _ m _ _ _ | .fexp2 _ m _ _
  | .fexp2m _ m _ _ _ | .flog2 _ m _ _ | .frcp _ m _ _ | .frsq _ m _ _ | .fsqrt _ m _ _ | .fsin _ m _ _
  | .fcos _ m _ _ | .ftanh _ m _ _ | .fsigm _ m _ _ | .ferf _ m _ _ | .fsilu _ m _ _ => [m]
  | .mand _ a b | .mor _ a b | .mxor _ a b => [a.setWidth 3, b.setWidth 3]
  | .mnot _ a | .mpopc _ _ a => [a.setWidth 3]
  | _ => []

/-- The accumulator tiles that a word reads at its slot (R248). -/
def Ctx.tilesRead (x : Ctx) : Instr → List Nat
  | .mdrain c _ _ _ _ _ _ _ _ => if x.tagOf c.toNat = .x then [c.toNat, c.toNat + 1] else [c.toNat]
  | _ => []

/-- The bytes that an access of several ranges resolves to, with the translations used, or the first refusal. -/
def State.resolveSegs (s : State) (c : Nat) (x : Ctx) (acc : Acc) :
    List (Word × Nat) → Except XFault (List (Part × Xlat))
  | [] => .ok []
  | g :: gs =>
    match s.parts c x g.1 g.2 acc with
    | .error e => .error e
    | .ok ps =>
      match s.resolveSegs c x acc gs with
      | .error e => .error e
      | .ok qs => .ok (ps ++ qs)

end Sys2Proof.Machine
end

