-- ==== Sys2Proof/Machine/Sequencer.lean ====
section
/-!
DEFINITION. The sequencer of a core (R60 to R68, R73, R75, R320 to R326, R336 to R338): which record runs next, starting
and ending tasks, handing the core from one residency to the other, and the dispatch trace.
-/

namespace Sys2Proof.Machine

/-! ### Start conditions -/

/-- Whether the hoists and the credit of a record allow a start (R67). -/
def Ctx.condOk (x : Ctx) (r : Rec) : Bool :=
  (List.range 4).all (fun j =>
    match r.hoistOf j with
    | none => true
    | some k =>
      let d := (x.hoist k).reach - Table.get (0 : BitVec 32) r.used j
      d != 0 && decide (d.toNat < 2147483648)) &&
    (!r.credit || r.credits != 0)

/-- The sheet bit of tile t of a block; 0 for an undeclared block or a tile at or beyond its count (R68, R275). -/
def Ctx.sheetBit (x : Ctx) (b t : Nat) : Bool :=
  let k := x.block b
  k.declared && decide (t < (k.desc.extractLsb' 176 16).toNat) && x.sheet.getLsbD ((k.desc.extractLsb' 192 16).toNat + t)

/-- Whether the guard of a record skips it (R68). -/
def Ctx.guardSkips (x : Ctx) (r : Rec) : Bool :=
  r.bits.getLsbD 215 && x.sheetBit (r.field 208 4) (r.field 128 16) == r.bits.getLsbD 212

/-- Conditions and guards of all records as the choices of this cycle see them (R277, R320). -/
def Ctx.mark (x : Ctx) : Ctx := { x with recs := x.recs.map (fun r => { r with ok := x.condOk r, skip := x.guardSkips r }) }

/-- Whether a WAITING record meets all start conditions (R64, R67): it becomes READY, or its guard skips it (R68). -/
def Ctx.eligible (x : Ctx) (i : Nat) (r : Rec) : Bool :=
  r.st = .waiting && r.ok && x.inPlay i && (!r.locked || (x.incomplete && !x.stopped && decide (x.cursor.toNat = i)))

/-- READY or SUSPENDED, in play. -/
def Ctx.runnable (x : Ctx) (i : Nat) (r : Rec) : Bool := x.inPlay i && (r.st = .suspended || r.st = .ready)

/-- The code of a record's state (R333). -/
def RecSt.code : RecSt → Nat
  | .waiting => 0
  | .ready => 1
  | .running => 2
  | .suspended => 3
  | .skipped => 4
  | .done => 5

/-- The bracket record whose segment runs, when it is LOCKED (R73). -/
def Ctx.openLocked (x : Ctx) : Option Nat := x.seg0.filter x.lockedAt

/-- The cursor moved to the first record of the period schedule that has still to end (R63); while the segment of a LOCKED
bracket record runs, the first such record of the segment, and behind them the bracket record (R73). DEDUCED, log 32. -/
def Ctx.recur (x : Ctx) : Ctx :=
  let first := x.recs.zipIdx.find? (fun p => x.owes p.2 p.1 && (x.openLocked.isNone || x.inSeg p.2))
  match first.map (fun p => p.2), x.openLocked with
  | some i, _ => { x with cursor := BitVec.ofNat 12 i }
  | none, some b => { x with cursor := BitVec.ofNat 12 b }
  | none, none => x

/-- Consumed counts and the credit of a start or a skip (R67, R68). -/
def Rec.consume (r : Rec) : Rec :=
  let used := (List.range 4).foldl (fun t j =>
    if (r.hoistOf j).isSome then Table.set t j (Table.get (0 : BitVec 32) t j + 1) else t) r.used
  { r with used := used, credits := if r.credit then r.credits - 1 else r.credits, ok := false }

/-- One more start credit (R67). -/
def Rec.addCredit (r : Rec) : Rec :=
  if r.credits = BitVec.allOnes 16 then { r with covf := true } else { r with credits := r.credits + 1 }

/-! ### The dispatch trace -/

def Launch.trace (l : Launch) : Bool := l.packet.getLsbD 90
def Launch.bind (l : Launch) : Bool := l.packet.getLsbD 91
def Launch.first (l : Launch) : Nat := (l.packet.extractLsb' 128 16).toNat
def Launch.ncore (l : Launch) : Nat := (l.packet.extractLsb' 144 16).toNat
def Launch.taddr (l : Launch) : Word := l.packet.extractLsb' 384 64

/-- A counted store of a unit of the core under the translation of a context; dropped when it does not translate. -/
def State.unitStore (s : State) (c : Nat) (res : BitVec 1) (va : Word) (bs : List Byte) : State :=
  match s.parts c (s.ctx c res) va bs.length .store with
  | .error _ => s
  | .ok ps =>
    let m := s.message c res .st 4 va (ps.map (fun p => p.1)) (.write bs) .none
    s.send { m with host := true, after := [], det := false }

/-- The address of an entry of a core's segment (R336). -/
def Launch.entryAt (l : Launch) (c pos : Nat) : Word :=
  l.taddr + BitVec.ofNat 64 (64 + 524288 * (c - l.first) + 8 * pos)

/-- A dispatch trace entry (Table 18.6). -/
def traceEntry (kind : Nat) (ovf : Bool) (bset brk : Nat) (res : BitVec 1) (c i : Nat) : Word :=
  BitVec.ofNat 2 kind ++ (0 : BitVec 27) ++ b1 ovf ++ BitVec.ofNat 4 bset ++ BitVec.ofNat 4 brk ++ (0 : BitVec 3) ++ res ++
    BitVec.ofNat 10 c ++ BitVec.ofNat 12 i

/-- The header of the trace after a segment closed (R336). -/
def State.traceHeader (s : State) (c : Nat) (res : BitVec 1) (l : Launch) : State :=
  let n := (l.members.filter (fun m => (s.ctx m.1 m.2).traceEnd)).length
  let ovf := l.members.any (fun m => 65535 ≤ (s.ctx m.1 m.2).tracePos)
  let w : Word := (0 : BitVec 30) ++ b1 ovf ++ b1 (decide (n = l.members.length)) ++ (0 : BitVec 16) ++ BitVec.ofNat 16 n
  s.unitStore c res l.taddr (numBytes 64 w.toNat)

/-- The segment of a core closed with a KIND 3 entry. -/
def State.traceClose (s : State) (c : Nat) (res : BitVec 1) (l : Launch) (ovf : Bool) : State :=
  let x := s.ctx c res
  let s := s.unitStore c res (l.entryAt c x.tracePos) (wordBytes (traceEntry 3 ovf 0 0 res c 0))
  let s := s.modCtx c res (fun x => { x with traceEnd := true })
  s.traceHeader c res l

/-- An entry added to the trace of a context (R337). -/
def State.traceAdd (s : State) (c : Nat) (res : BitVec 1) (kind bset brk i : Nat) : State :=
  let x := s.ctx c res
  match s.launchOf x with
  | none => s
  | some l =>
    if !l.trace || x.traceEnd then s
    else
      let s := s.unitStore c res (l.entryAt c x.tracePos) (wordBytes (traceEntry kind false bset brk res c i))
      let s := s.modCtx c res (fun x => { x with tracePos := x.tracePos + 1 })
      if x.tracePos + 1 = 65535 then s.traceClose c res l true else s

/-- The entry of a launch's trace at a position (R338); a position that does not translate reads as the end. -/
def State.traceRead (s : State) (c : Nat) (res : BitVec 1) (l : Launch) (pos : Nat) : Word :=
  match s.parts c (s.ctx c res) (l.entryAt c pos) 8 .load with
  | .ok (p :: _) => BitVec.ofNat 64 (Memory.num s.mem p.1.key 8)
  | _ => 0xC000000000000000

def entryKind (e : Word) : Nat := (e.extractLsb' 62 2).toNat
def entryRec (e : Word) : Nat := (e.extractLsb' 0 12).toNat

/-- The first entry at or after a position that is no bracket selection, and its position. -/
def State.traceNext (s : State) (c : Nat) (res : BitVec 1) (l : Launch) : Nat → Nat → Nat × Word
  | 0, pos => (pos, 0xC000000000000000)
  | n + 1, pos =>
    let e := s.traceRead c res l pos
    if entryKind e = 2 then s.traceNext c res l n (pos + 1) else (pos, e)

/-- The launch whose trace binds the choices of a context. -/
def State.bound (s : State) (x : Ctx) : Option Launch :=
  match s.launchOf x with
  | some l => if l.bind then some l else none
  | none => none

/-- Whether a start of a record stands at or after a position of the trace. -/
def State.traceNames (s : State) (c : Nat) (res : BitVec 1) (l : Launch) (i : Nat) : Nat → Nat → Bool
  | 0, _ => false
  | n + 1, pos =>
    let e := s.traceRead c res l pos
    if entryKind e = 3 then false
    else (entryKind e = 0 && entryRec e = i) || s.traceNames c res l i n (pos + 1)

/-- Whether a bound trace lets a record go on where it stands: no later entry starts it again, so it was not left there
for another record (R337 writes nothing for a continuation). DEDUCED, log 86. -/
def State.traceKeeps (s : State) (c : Nat) (res : BitVec 1) (l : Launch) (i : Nat) : Bool :=
  !s.traceNames c res l i 65536 (s.ctx c res).tracePos

/-- Whether a bound trace lets the running record go on at a KNEXT (R337, R338): the next entry is its own, for a later
resumption, or no later entry starts it again. DEDUCED, log 86. -/
def State.traceStays (s : State) (c : Nat) (res : BitVec 1) (i : Nat) : Bool :=
  match s.bound (s.ctx c res) with
  | none => false
  | some l =>
    let e := (s.traceNext c res l 65536 (s.ctx c res).tracePos).2
    (entryKind e = 0 && entryRec e = i) || s.traceKeeps c res l i

/-- Whether a KNEXT or an END would end the running task (R61). -/
def Ctx.wouldEnd (x : Ctx) (isEnd : Bool) : Bool :=
  match x.running.bind x.recAt with
  | some r => isEnd || (r.n == 1 && (decide (r.epiA = 0xFFFFFFFF) || r.epi)) || (r.n == 0 && r.epi)
  | none => isEnd

/-- Whether the choice that a KNEXT or END would make names a record that it cannot take (R338). `ends`: the task ends; a
KNEXT at which the record goes on makes no choice. -/
def State.traceBad (s : State) (c : Nat) (res : BitVec 1) (ends : Bool) : Bool :=
  let x := s.ctx c res
  match s.bound x with
  | none => false
  | some l =>
    if !ends && x.running.any (s.traceStays c res) then false else
    let (_, e) := s.traceNext c res l 65536 x.tracePos
    let left := x.recs.zipIdx.any (fun p =>
      p.1.st != .done && p.1.st != .skipped && !(ends && decide (some p.2 = x.running)))
    if entryKind e = 3 then left
    else
      match x.recAt (entryRec e) with
      | none => true
      | some r =>
        r.st = .done || (ends && decide (some (entryRec e) = x.running)) || (e.extractLsb' 22 1) != res

/-! ### Choice -/

/-- What a context runs next. -/
inductive Pick where
  | none
  /-- A READY or SUSPENDED record. -/
  | start (i : Nat)
  /-- The own task of a bracket record whose segment is done (R73). -/
  | own (i : Nat)
  /-- The record of a restored context that was halted (R333). -/
  | resume
deriving DecidableEq, Repr

/-- A context that may take the core: it belongs to a launch and is neither halted nor saved, saving or restoring. -/
def State.avail (s : State) (c : Nat) (res : BitVec 1) : Bool :=
  let k := s.core c
  let x := k.ctx res
  x.owned && !x.halted && !x.saved && !((k.preSt = .saving || k.preSt = .restoring) && k.preRes == res)

/-- Whether candidate p = (record, index) comes before q in a free choice (R65). -/
def Ctx.prefer (x : Ctx) (p q : Rec × Nat) : Bool :=
  let n := x.recs.length
  let rank := fun (i : Nat) => (i + 2 * n - x.current - 1) % n
  q.1.prio < p.1.prio || (p.1.prio = q.1.prio && rank p.2 < rank q.2)

/-- Whether the LOCKED records of the segment of a LOCKED bracket record are over: the cursor stands on the bracket record,
and the segment's FREE records run before its own task (R73). DEDUCED, log 32. -/
def Ctx.segFree (x : Ctx) : Bool := x.openLocked == some x.cursor.toNat

/-- The choice of R64 and R65. FREE records of a segment are chosen by R65 too, by priority before table order.
DESIGN CHOICE, log 87. -/
def Ctx.choose (x : Ctx) : Pick :=
  if x.running.isSome || x.act then .resume
  else if x.incomplete && !x.segFree then
    match x.recAt x.cursor.toNat with
    | some r => if r.locked && x.runnable x.cursor.toNat r then .start x.cursor.toNat else .none
    | none => .none
  else
    let cand := x.recs.zipIdx.filter (fun p => !p.1.locked && x.runnable p.2 p.1)
    match cand.foldl (fun (b : Option (Rec × Nat)) p =>
      match b with
      | none => some p
      | some q => if x.prefer p q then some p else some q) none with
    | some p => .start p.2
    | none => .none

/-- Whether the segment that runs has ended. DEDUCED, log 32. -/
def Ctx.segDone (x : Ctx) : Bool :=
  x.recs.zipIdx.all (fun p => !x.inSeg p.2 || p.1.st = .done || p.1.st = .skipped || (p.1.locked && !x.owes p.2 p.1))

/-- Whether the own task of a bracket record is next: its segment has ended, and a FREE one waits for the period schedule
(R66, R73). -/
def Ctx.ownNext (x : Ctx) : Option Nat :=
  x.seg0.filter (fun r => x.running.isNone && !x.act && x.segDone && (x.lockedAt r || !x.incomplete))

/-- What a context runs next; one that a RESTORE brought back goes on first with the record that it names (R335). -/
def Ctx.pick (x : Ctx) : Pick :=
  match x.ownNext with
  | some r => .own r
  | none =>
    match x.resume.filter (fun p => (x.recAt p.1).any (fun r => r.st = .suspended)) with
    | some (i, _) => if x.running.isSome || x.act then .resume else .start i
    | none => x.choose

/-- A record skipped (R68, Table 18.1). -/
def State.skipRec (s : State) (c : Nat) (res : BitVec 1) (i : Nat) : State :=
  let x := s.ctx c res
  let s := s.modCtx c res (fun x => (x.modRec i (fun r => { r.consume with st := .skipped })).recur)
  let s := s.event c res 0x10
  s.traceAdd c res 1 0 x.bracket.toNat i

/-- Every WAITING record whose conditions hold tested once: its guard skips it, or it is READY from now on; until none is
left. `guards`: the guards decide. -/
def State.scanFrom (s : State) (c : Nat) (res : BitVec 1) (guards : Bool) : Nat → State
  | 0 => s
  | n + 1 =>
    let x := s.ctx c res
    match x.recs.zipIdx.find? (fun p => x.eligible p.2 p.1) with
    | some p =>
      (if guards && p.1.skip then s.skipRec c res p.2
       else s.modCtx c res (fun x => x.modRec p.2 (fun r => { r with st := .ready }))).scanFrom c res guards n
    | none => s

/-- The start conditions and guard tests of a context (R67, R68, Table 18.1); under a bound trace the trace takes the
place of the guards (R338). -/
def State.scan (s : State) (c : Nat) (res : BitVec 1) : State :=
  let x := s.ctx c res
  s.scanFrom c res (s.bound x).isNone (x.recs.length + 1)

/-- The rows of Table 18.1 for start conditions, in the cycle in which these came to hold: the choices of this cycle see
them (R320). -/
def State.scanTurn (s : State) (c : Nat) (res : BitVec 1) : State :=
  if (s.core c).away res then s else (s.modCtx c res Ctx.mark).scan c res

/-- Whether a context has work (R75): a handler to finish, an incomplete period schedule, or a record to run. -/
def State.hasWork (s : State) (c : Nat) (res : BitVec 1) : Bool :=
  let x := s.ctx c res
  s.avail c res && (x.incomplete || x.running.isSome || x.act || x.ownNext.isSome || x.resume.isSome ||
    x.recs.zipIdx.any (fun p => x.runnable p.2 p.1))

/-- Whether the period schedule is incomplete with its cursor record READY (R323). -/
def State.cursorReady (s : State) (c : Nat) (res : BitVec 1) : Bool :=
  let x := s.ctx c res
  s.avail c res && x.incomplete &&
    (match x.recAt x.cursor.toNat with
     | some r => x.runnable x.cursor.toNat r || (x.segFree && x.pick != .none)
     | none => false)

/-- The write streams of a context by number, with the registers whose writes have issued (R62, R218, R230). -/
def Ctx.streamMarks (x : Ctx) : List (Nat × Nat) :=
  (x.streams.filterMap (fun p => if p.2.bound && p.2.write then some (p.2.id, p.2.taken) else none)) ++
    x.drains.map (fun t => (t.id, t.taken))

/-! ### Starting -/

/-- Whether a register write is to g1, g2 or g3. -/
def Reg.tileReg : Reg → Bool
  | .g n => n = 1 || n = 2 || n = 3
  | _ => false

/-- The write of a near access in flight turned away from g1 to g3 (R61). -/
def Act.dropTile : Act → Act
  | .load r ps e => .load (if r.tileReg then .g 0 else r) ps e
  | .atomic op g o y c => .atomic op (if (Reg.g g).tileReg then 0 else g) o y c
  | .deq g h o => .deq (if (Reg.g g).tileReg then 0 else g) h o
  | a => a

def BusyReg.tileReg : BusyReg → Bool
  | .g n => n = 1 || n = 2 || n = 3
  | _ => false

/-- g1, g2, g3 and `$tile` of a record; writes of earlier tasks to the three registers are discarded (R61).
DEDUCED, log 81. -/
def State.tileRegs (s : State) (c : Nat) (res : BitVec 1) (r : Rec) : State :=
  let tx := BitVec.ofNat 16 (r.field 128 16)
  let ty := BitVec.ofNat 16 (r.field 144 16)
  let tz := BitVec.ofNat 16 (r.field 160 16)
  let s := s.modCtx c res (fun x =>
    let y := ((x.wg 1 (tx.setWidth 64)).wg 2 (ty.setWidth 64)).wg 3 (tz.setWidth 64)
    { y with
      tile := (0 : BitVec 16) ++ tz ++ ty ++ tx
      writes := y.writes.filter (fun w => !w.reg.tileReg)
      shadow := y.shadow.filter (fun w => !w.reg.tileReg)
      busy := y.busy.filter (fun b => !b.1.tileReg)
      abandoned := y.abandoned.filter (fun b => !b.tileReg) })
  s.modCore c (fun k => { k with timed := k.timed.map (fun t =>
    if t.res == res then { t with act := t.act.dropTile } else t) })

/-- The address at which a record starts or resumes (R60, R65). -/
def Rec.entry (r : Rec) (fresh : Bool) : Nat :=
  if fresh then (if r.pro = 0xFFFFFFFF then r.ker else r.pro) else if r.n = 0 then r.epiA else r.ker

/-- A task begun at a record's address, its first bundle not before a cycle (R61). -/
def State.begin (s : State) (c : Nat) (res : BitVec 1) (i gate : Nat) (fresh : Bool) : State :=
  let x := s.ctx c res
  match x.recAt i with
  | none => s
  | some r =>
    let s := s.tileRegs c res r
    let s := s.event c res 0x11
    s.modCtx c res (fun x =>
      let x := x.modRec i (fun r =>
        if fresh then
          { r with
            st := .running, n := BitVec.ofNat 32 (r.field 96 32), epi := false, since := s.seq, base := x.streamMarks
            runs := [], marks := [] }
        else { r with st := .running, epi := r.epi || decide (r.n = 0), since := s.seq, base := x.streamMarks })
      let at_ := match x.resume with
        | some (j, a) => if j = i && !fresh then a else BitVec.ofNat 64 (r.entry fresh)
        | none => BitVec.ofNat 64 (r.entry fresh)
      { x with running := some i, current := i, pc := at_, gate := gate, span := none, traceWait := 0
               resume := x.resume.filter (fun p => p.1 != i) })

/-- A READY or SUSPENDED record started; of a bracket record its segment first (R73). DEDUCED, log 32. -/
def State.startRec (s : State) (c : Nat) (res : BitVec 1) (i gate : Nat) : State :=
  let x := s.ctx c res
  match x.recAt i with
  | none => s
  | some r =>
    let s := s.traceAdd c res 0 0 x.bracket.toNat i
    if r.st = .suspended then s.begin c res i gate false
    else
      let s := s.modCtx c res (fun x => x.modRec i Rec.consume)
      if x.segOf.any (fun e => e.2.1 = i && e.2.2 = x.bracket.toNat) then
        s.modCtx c res (fun x =>
          ({ x.modRec i (fun r => { r with st := .running }) with seg0 := some i, current := i }).recur)
      else s.begin c res i gate true

/-- The choice that a bound trace makes (R338): skips performed, and the pick. A record that is not READY yet is waited
for, to be started or to be skipped. -/
def State.tracePick (s : State) (c : Nat) (res : BitVec 1) (l : Launch) : Nat → State × Pick
  | 0 => (s, .none)
  | n + 1 =>
    let x := s.ctx c res
    let (pos, e) := s.traceNext c res l 65536 x.tracePos
    let i := entryRec e
    match entryKind e, x.recAt i with
    | 1, some r =>
      if r.st = .ready then
        let s := s.skipRec c res i
        (s.modCtx c res (fun x => { x with tracePos := pos + 1 })).tracePick c res l n
      else (s, .none)
    | 0, some r =>
      if x.runnable i r then
        (s.modCtx c res (fun x => { x with tracePos := pos + 1 }), .start i)
      else (s, .none)
    | _, _ => (s, .none)

/-- The pick of a context, by its own choice or by the trace. -/
def State.decidePick (s : State) (c : Nat) (res : BitVec 1) : State × Pick :=
  let s := s.scan c res
  let x := s.ctx c res
  if !s.avail c res then (s, .none)
  else
    match s.bound x with
    | none => (s, x.pick)
    | some l =>
      match x.pick with
      | .resume => (s, .resume)
      | .own r => (s, .own r)
      | _ =>
        if (x.recAt x.current).any (fun r => x.runnable x.current r && r.st = .suspended) && s.traceKeeps c res l x.current then
          (s, .start x.current)
        else s.tracePick c res l (x.recs.length + 1)

/-- A pick carried out; a bracket record goes on into its segment. -/
def State.carry (s : State) (c : Nat) (res : BitVec 1) (gate : Nat) : Nat → Pick → State × Bool
  | _, .none => (s, false)
  | _, .resume => (s.modCtx c res (fun x => { x with gate := gate }), true)
  | _, .own r => ((s.modCtx c res (fun x => { x with seg0 := none })).begin c res r gate true, true)
  | 0, .start i => (s.startRec c res i gate, true)
  | n + 1, .start i =>
    let s := s.startRec c res i gate
    if (s.ctx c res).running.isSome then (s, true)
    else
      let (s, p) := s.decidePick c res
      s.carry c res gate n p

/-- The choice of a context made and carried out: whether something runs. -/
def State.dispatch (s : State) (c : Nat) (res : BitVec 1) (gate : Nat) : State × Bool :=
  let (s, p) := s.decidePick c res
  s.carry c res gate 2 p

/-- Whether every record of the table of a context is over. Those in a bracket's segment are over with their bracket
record. -/
def Ctx.tableDone (x : Ctx) : Bool :=
  x.running.isNone && x.seg0.isNone && !x.halted &&
    x.recs.zipIdx.all (fun p => (Table.find x.segOf p.2).isSome || p.1.st = .skipped || p.1.st = .done ||
      (x.stopped && p.1.locked && (p.1.st = .waiting || p.1.st = .ready))) &&
    (x.stopped || !x.recs.any (fun r => r.locked))

/-- Whether an END of the running task would complete the last record of the launch in this context (R363). -/
def Ctx.lastEnd (x : Ctx) : Bool :=
  match x.running with
  | none => false
  | some r => { x.modRec r (fun q => { q with st := .done }) with running := none }.tableDone

/-! ### Ending a task (R61, R320, R321) -/

/-- Whether the registers of a mark have all moved (R131, R230). -/
def Ctx.marked (x : Ctx) (m : Nat × Nat) : Bool :=
  (x.streams.all (fun p => p.2.id != m.1 || !p.2.bound || decide (m.2 ≤ p.2.moved))) &&
    x.drains.all (fun t => t.id != m.1 || decide (m.2 ≤ t.moved))

/-- Whether a polynomial waits for a lateral or far load (R274). -/
def Ctx.polyLoads (x : Ctx) : Bool :=
  x.busy.any (fun b => match b.1 with
    | .q _ => true
    | _ => false)

/-- The overrun bit and event of a record whose span was longer than its ITER (R321). -/
def State.spanOver (s : State) (c : Nat) (res : BitVec 1) (i len : Nat) : State :=
  if (s.ctx c res).recs[i]?.any (fun r => decide (r.iter < len)) then
    (s.event c res 0x14).modCtx c res (fun x => x.modRec i (fun r => { r with iovf := true }))
  else s

/-- The span of a record ended by a KNEXT or END at cycle t (R321): measured at once, or when the loads of its polynomials
are over. -/
def State.spanEnd (s : State) (c : Nat) (res : BitVec 1) (i t : Nat) : State :=
  let x := s.ctx c res
  match x.span with
  | none => s
  | some b =>
    let fin := x.qbusy.foldl (fun a p => max a p.2) t
    let s := s.modCtx c res (fun x => { x with span := none })
    if x.polyLoads then s.modCtx c res (fun x => { x with spans := x.spans ++ [(i, b, fin)] })
    else s.spanOver c res i (fin - b + 1)

/-- The spans left open by polynomial loads, measured once these are over (R321). -/
def State.spanTurn (s : State) (c : Nat) (res : BitVec 1) : State :=
  let x := s.ctx c res
  if x.spans.isEmpty || x.polyLoads then s
  else
    x.spans.foldl (fun s p => s.spanOver c res p.1 (max p.2.2 (s.now c) - p.2.1 + 1))
      (s.modCtx c res (fun x => { x with spans := [] }))

/-- What a record's task has issued up to now closed off as it stops running: its numbers and the stream registers that it
wrote (R62). -/
def Ctx.pause (x : Ctx) (i seq : Nat) : Ctx :=
  let now := x.streamMarks
  x.modRec i (fun r =>
    { r with
      runs := r.runs ++ [(r.since, seq)]
      marks := r.marks ++ now.filter (fun m => !r.base.contains m && m.2 != 0) })

/-- Whether an effect was issued by the task of a record (R62). -/
def Rec.issued (r : Rec) (id : Nat) : Bool := r.runs.any (fun p => decide (p.1 ≤ id) && decide (id < p.2))

/-- The record of a task that has ended: DONE, with its completion pennant to come (R62). -/
def State.finishRec (s : State) (c : Nat) (res : BitVec 1) (i : Nat) : State :=
  let s := s.modCtx c res (fun x => x.pause i s.seq)
  let x := s.ctx c res
  match x.recAt i with
  | none => s
  | some r =>
    let pa := r.bits.extractLsb' 256 64
    let after := ((s.accessIds c res 7) ++ (s.core c).commandIds res).filter r.issued
    s.modCtx c res (fun x =>
      let x := x.modRec i (fun r => { r with st := .done })
      let x := { x with running := none }
      let x := if pa = 0 then x
        else { x with recPens := x.recPens ++ [⟨i, pa, r.bits.extractLsb' 320 64, after, r.marks⟩] }
      x.recur)

/-- The core handed to the other residency: from the choice at cycle t, the bundle at t' replaced (R325). -/
def State.switchTo (s : State) (c : Nat) (out : BitVec 1) (t t' : Nat) : State :=
  let inc := out ^^^ 1
  let s := (s.event c out 0x12).modCore c (fun k =>
    { k with switchWait := true, switchFrom := t, switchAt := t', idle := false })
  let s := s.modCtx c out (fun x => { x with heldRun := false })
  (s.dispatch c inc t').1

/-- The core idle (R324). -/
def State.coreIdle (s : State) (c : Nat) : State :=
  s.modCore c (fun k => { k with idle := true, a := { k.a with heldRun := false }, b := { k.b with heldRun := false } })

/-- Whether the context has issued for its slice, at a KNEXT or END (R322). -/
def State.sliceOver (s : State) (c : Nat) (res : BitVec 1) : Bool :=
  let x := s.ctx c res
  (s.core c).slice res ≤ x.held + 1

/-- KNEXT and END at cycle t (R61, R65, R75, R320 to R323, R329). DEDUCED, log 31. -/
def State.taskEnd (s : State) (c : Nat) (res : BitVec 1) (t : Nat) (isEnd : Bool) : State :=
  let x := s.ctx c res
  match x.running with
  | none => s
  | some i =>
    let r := (x.recs[i]?).getD Rec.blank
    let s := (s.spanEnd c res i t).modCtx c res (fun x => { x with lact := false })
    let n := if r.n = 0 then 0 else r.n - 1
    let cont := !isEnd && (n != 0 || (decide (r.epiA ≠ 0xFFFFFFFF) && !r.epi))
    let s :=
      if cont then
        s.modCtx c res (fun x =>
          { (x.pause i s.seq).modRec i (fun r => { r with st := .suspended, n := n }) with running := none })
      else s.finishRec c res i
    let oth := res ^^^ 1
    let k := s.core c
    if k.preSt = .pending ∧ k.preRes = res then
      let s := s.modCore c (fun k => { k with preSt := .saving, prePhase := 0, preCount := t + 2 })
      if s.hasWork c oth then s.switchTo c res t (t + 2) else s.coreIdle c
    else if !(s.ctx c res).incomplete && s.cursorReady c oth then s.switchTo c res t (t + 2)
    else if s.sliceOver c res && s.hasWork c oth then s.switchTo c res t (t + 2)
    else
      let (s, p) := if cont && s.traceStays c res i then (s, Pick.start i) else s.decidePick c res
      if cont && p = .start i then
        -- the same record goes on; nothing is written to the trace
        s.modCtx c res (fun x =>
          { x.modRec i (fun r => { r with st := .running, epi := r.epi || decide (n = 0), since := s.seq, base := x.streamMarks }) with
            running := some i, pc := BitVec.ofNat 64 (if n = 0 then r.epiA else r.ker), gate := t + 2 })
      else
        let (s, started) := s.carry c res (t + 2) 2 p
        if started || (s.ctx c res).incomplete then s
        else if s.hasWork c oth then s.switchTo c res t (t + 2)
        else s.coreIdle c

/-! ### Between tasks -/

/-- Whether a polynomial of a context is busy (R267, R274). -/
def Ctx.polyBusy (x : Ctx) (now : Nat) : Bool :=
  x.qbusy.any (fun p => now < p.2) || x.polyLoads

/-- Whether the clocks of a region run (R19, R377): not before boundary 0, and while it freezes until its own effects
are complete. -/
def Region.runs (r : Region) : Bool := ((r.st = .locked || r.st = .fast || r.st = .holdover) && !r.start) || r.drain

/-- The ceiling of a region's clock in Hz: rail, boost and power cap (R11, R392). -/
def Region.ceilHz (r : Region) : Nat :=
  let rail := if r.rail = 1 then 1500000000 else if r.boosted then 3000000000 else 2500000000
  if r.ceil = 0 then rail else min rail (r.ceil.toNat * 1000000)

/-- Whether a region follows the reference source, which never misses (R377). -/
def Region.isRef (g : Region) : Bool := g.sel = 0x104

/-- The frequency of the source in mHz: as measured, and of the reference source the nominal 100 MHz (R377). -/
def Region.rate (g : Region) : Nat := if g.isRef then 100000000000 else g.freq

/-- The region clock in Hz: the source followed between the floor and the ceiling (R11, R17). -/
def Region.hz (r : Region) : Nat :=
  min r.ceilHz (max 200000000 (r.c.toNat * r.rate / (1000 * max 1 r.s.toNat)))

/-- Whether the sequencer of a core runs: its region's clocks do, and not only to complete a freeze (R18, R19). -/
def State.sequences (s : State) (c : Nat) : Bool := (s.regOf c).runs && !(s.regOf c).drain

/-- RESIDENCY_SWITCH: the hand-over, once the outgoing context has no busy polynomial (R325, R326). -/
def State.handOver (s : State) (c : Nat) : State :=
  let k := s.core c
  let now := s.now c
  let out := k.holder
  if !s.sequences c || !k.switchWait || now < k.switchAt || (k.ctx out).polyBusy now then s
  else
    let slow := decide ((s.regOf c).hz < (now + 96 - k.switchFrom) * 1000000)
    let s := if slow then s.coreEvent c 0x13 else s
    s.modCore c (fun k =>
      ({ k with holder := out ^^^ 1, switchWait := false, switch := some (now + 96) }).setCtx (out ^^^ 1)
        { k.ctx (out ^^^ 1) with gate := now + 96, heldRun := false })

/-- IDLE_CORE_DISPATCH: an idle core takes up work, the holder's first (R324). -/
def State.idleDispatch (s : State) (c : Nat) : State :=
  let k := s.core c
  let now := s.now c
  if !s.sequences c || !k.idle then s
  else
    let (s, on) := s.dispatch c k.holder (now + 2)
    if on then s.modCore c (fun k => { k with idle := false })
    else
      let oth := k.holder ^^^ 1
      let (s', p) := s.decidePick c oth
      match p with
      | .none => s'
      | _ => s'.switchTo c k.holder now now

/-- A holder that runs no task and waits for its cursor (R64). One that is left without work gives the core up: to the
other context, or the core is idle (R75, R324). -/
def State.waitDispatch (s : State) (c : Nat) : State :=
  let k := s.core c
  let now := s.now c
  let x := k.ctx k.holder
  if k.idle || k.switchWait || x.running.isSome || x.act then s
  else
    let first := match k.switch with
      | some u => max u (now + 2)
      | none => now + 2
    let (s, on) := s.dispatch c k.holder first
    if on || s.hasWork c k.holder || k.switch.isSome then s
    else if s.hasWork c (k.holder ^^^ 1) then s.switchTo c k.holder now now
    else s.coreIdle c

/-- Whether a bound context waits for the record that its trace names (R338). -/
def State.traceWaits (s : State) (c : Nat) (res : BitVec 1) : Bool :=
  let x := s.ctx c res
  match s.bound x with
  | none => false
  | some l =>
    let e := (s.traceNext c res l 65536 x.tracePos).2
    x.running.isNone && !x.act && x.owned && entryKind e != 3 && (x.recAt (entryRec e)).any (fun r => r.st = .waiting)

/-- A traced choice that has waited 2^24 cycles (R338), whether or not its context holds the core. -/
def State.traceLimit (s : State) (c : Nat) (res : BitVec 1) : State :=
  let x := s.ctx c res
  if !s.traceWaits c res then s
  else if x.traceWait < 16777216 then s.modCtx c res (fun x => { x with traceWait := x.traceWait + 1 })
  else
    let f := { FaultRec.plain 7 11 x.pc with obj := 0 }
    (s.modCtx c res (fun x => { x with traceWait := 0 })).takeTrap c res (s.now c) ⟨7, 11, x.pc, 0, false, some f⟩

/-- The sequencer's part of a cycle before issue: hand-over, dispatch. DEDUCED, log 31. -/
def State.sequence (s : State) (c : Nat) : State :=
  let k := s.core c
  let now := s.now c
  let s := if k.switchWait && now = k.switchAt then s.shadow c k.holder now else s
  let s := s.handOver c
  let s := s.idleDispatch c
  let s := s.waitDispatch c
  let s := ([0, 1] : List (BitVec 1)).foldl (fun s res => (s.spanTurn c res).traceLimit c res) s
  let k := s.core c
  let s := if k.switchWait && now = k.switchAt then s.shadow c k.holder now else s
  (s.handOver c).modCore c (fun k =>
    match k.switch with
    | some u => if u ≤ now then { k with switch := none } else k
    | none => k)

end Sys2Proof.Machine
end

