-- ==== Sys2Proof/Machine/Checks.lean ====
section
/-!
DEFINITION. The checks of a bundle whose words decode (R142, Table 7.1, R354): steps 4 to 8 with the cases of the
instruction entries, and the trap that the first failure raises.
-/

namespace Sys2Proof.Machine

/-- A word of the bundle in hand: its instruction, its index counting LX words, and its encoding. -/
structure BWord where
  i : Instr
  ix : Nat
  raw : IWord
deriving DecidableEq, Repr

/-- Words that an instruction takes in a bundle: 2 with an LX word. -/
def wordCount (i : Instr) : Nat := (encodeWords i false).length

/-- The words of a bundle, numbered. DEDUCED, log 13. -/
def mkBundle : Nat → List Instr → List BWord
  | _, [] => []
  | n, i :: is => ⟨i, n, (encodeWords i (is.isEmpty && wordCount i = 1)).headD 0⟩ :: mkBundle (n + wordCount i) is

/-- The address behind a bundle. -/
def nextPc (pc : Word) (is : List Instr) : Word :=
  pc + BitVec.ofNat 64 (4 * (is.map wordCount).sum)

/-! ### What a failure raises -/

/-- ILLEGAL_INSTRUCTION, ILLEGAL_MX_CONFIG or PRIVILEGE at a word (Tables 20.3 and 20.6). -/
def wordTrap (code : BitVec 8) (pc : Word) (w : BWord) (obj : Nat) (aux1 : Word) : Trap :=
  let f := { FaultRec.plain code 0 pc with
    slot := w.ix, obj := obj, addr := pc, aux0 := w.raw.setWidth 64, aux1 := aux1 }
  ⟨code, 0, pc, w.raw.setWidth 64, false, some f⟩

def illegal (pc : Word) (w : BWord) : Trap := wordTrap 1 pc w w.ix 0

/-- MISALIGNED or TRANSLATION at an address. -/
def addrTrap (code cause : BitVec 8) (pc : Word) (ix : Nat) (va : Word) (acc : Acc) : Trap :=
  let rw : Word := match acc with
    | .load => 2
    | .store => 1
    | .atomic => 3
  let f := { FaultRec.plain code cause pc with slot := ix, addr := va, aux0 := rw }
  ⟨code, cause, pc, va, false, some f⟩

/-- DET_CONFLICT at a bundle `pc` of an access of word `ix` of the bundle `at_` (Tables 20.3 and 20.6): the record carries
the granule and, for cause 1, the other agent; `$targ` takes the granule of cause 1 alone. -/
def detTrap (cause : BitVec 8) (pc at_ : Word) (ix : Nat) (granule : Nat) (other : Option Member) : Trap :=
  let o : Word := match other with
    | some m => if cause = 1 then (0 : BitVec 53) ++ BitVec.ofNat 10 m.1 ++ m.2 else 0
    | none => 0
  let va := BitVec.ofNat 64 granule
  let f := { FaultRec.plain 9 cause at_ with slot := ix, addr := va, aux0 := o }
  ⟨9, cause, pc, if cause = 1 then va else 0, false, some f⟩

/-! ### Step 4 -/

/-- The rank of a slot class in the bundle order (R140). -/
def Slot.rank : Slot → Nat
  | .s => 0
  | .v => 1
  | .f => 2
  | .m => 3
  | .none => 4

/-- The supply of each slot class (R140). -/
def Slot.supply : Slot → Nat
  | .s => 2
  | .v => 3
  | .f => 1
  | .m => 2
  | .none => 0

/-- Slot order and count of the classes in order. -/
def slotsOk (l : List Slot) : Bool :=
  (l.zip (l.drop 1)).all (fun p => p.1.rank ≤ p.2.rank) &&
    [Slot.s, .v, .f, .m, .none].all (fun k => l.countP (fun x => x = k) ≤ k.supply)

/-- A word of the control group (R166). -/
def isControl (w : IWord) : Bool := group w = 2

/-! ### Steps 5 to 7 -/

/-- Table 20.6 object of PRIVILEGE: the system register. -/
def sysOf : Instr → Option (BitVec 9)
  | .srr _ s => some s
  | .srw _ _ s => some s
  | .srs _ _ s => some s
  | .src _ _ s => some s
  | _ => none

/-- The instructions above task level (R181). -/
def privileged : Instr → Bool
  | .eret => true
  | .tlbi _ _ => true
  | .swctx => true
  | .flushi => true
  | .retime _ _ _ => true
  | _ => false

/-- A handle word (R116): generation and queue, when well formed. -/
def handleOf (h : Word) : Option (BitVec 12 × Nat) :=
  if h.toNat < 2 ^ 32 ∧ h.extractLsb' 13 7 = 0 ∧ (h.extractLsb' 0 13).toNat ≤ 6143 then
    some (h.extractLsb' 20 12, (h.extractLsb' 0 13).toNat)
  else none

/-- Whether a crossing channel exists for a core: configured, in its partition, within NCH (R284, R287). -/
def State.crossOk (s : State) (c : Nat) (a : Word) : Bool :=
  match crossAddr a with
  | none => false
  | some (u, ch) =>
    let k := s.crossing u
    k.en && ch ≤ k.nch.toNat &&
      (match s.partOf c with
       | some p => (s.partition p).cross.getLsbD u
       | none => false)

/-- Conditions of XBIND at issue (R284). -/
def State.xbindOk (s : State) (c : Nat) (res : BitVec 1) (a b : Word) : Bool :=
  s.crossOk c a && b.toNat < 512 &&
    (match crossAddr a with
     | none => false
     | some (u, ch) =>
       let k := s.crossing u
       let x := k.chan ch
       let prod := b.getLsbD 7
       let region := if prod then k.prod.toNat else k.cons.toNat
       let bound := if prod then x.boundP else x.boundC
       let used := (s.ctx c res).streams.any (fun t =>
         t.2.bound && t.2.write == prod && (t.2.desc.extractLsb' 64 2) == (2 : BitVec 2) &&
           t.2.desc.extractLsb' 0 64 == a)
       s.regionOf c = some region &&
         (if b.getLsbD 8 then !used else bound.isNone))

/-- Whether a queue in a handle is of the core and has no SEQ attribute, for deterministic mode (R233). -/
def State.noSeq (s : State) (h : Word) : Bool :=
  match handleOf h with
  | some (_, q) => !(s.queue q).seq
  | none => false

/-- Whether a context is a member at a scope (R69). -/
def Ctx.member (x : Ctx) (scope : BitVec 3) : Bool := x.dmem.getLsbD scope.toNat

/-- Whether an aperture offset starts a copy of a residency of the own core (R232). -/
def apertureCopy (c : Nat) (res : BitVec 1) (k off : Nat) : Bool :=
  k = c && off / 0x800 = res.toNat && off % 0x800 % 64 = 0 && off % 0x800 / 64 < 4

/-- The state-dependent half of step 5: what an instruction's entry calls ILLEGAL_INSTRUCTION at its bundle.
DEDUCED, log 34. -/
def State.badNow (s : State) (c : Nat) (res : BitVec 1) (i : Instr) : Bool :=
  let x := s.ctx c res
  let ring := fun (h : BitVec 4) => x.ring h.toNat
  match i with
  | .srr _ n => sysLevel n ≤ x.lvl.toNat && !sysAssigned n
  | .srw _ _ n => sysLevel n ≤ x.lvl.toNat && (!sysAssigned n || sysMask x.lvl n == 0)
  | .srs _ _ n => sysLevel n ≤ x.lvl.toNat && (!sysAssigned n || sysMask x.lvl n == 0)
  | .src _ _ n => sysLevel n ≤ x.lvl.toNat && (!sysAssigned n || sysMask x.lvl n == 0)
  | .loop _ _ => x.lact || x.act
  | .knext => x.running.isNone || x.act
  | .endTask => x.running.isNone || x.act
  | .eret => x.lvl != 0 && !x.act
  | .cpy a _ _ _ => 64 ≤ (x.rg a).toNat
  | .ecw _ b =>
    let y := x.rg b
    !(y.toNat < 2 ^ 11 && y.extractLsb' 6 2 == 0 && y.extractLsb' 8 3 == 0)
  | .ecr _ b =>
    let y := x.rg b
    let n := (y.extractLsb' 0 6).toNat
    !(y.toNat < 2 ^ 11 && y.extractLsb' 6 2 == 0 &&
      (match (y.extractLsb' 8 3).toNat with
       | 0 => true
       | 1 => n < 4
       | 2 => n < 4
       | 3 => n < 16
       | 4 => n < 32
       | _ => false))
  | .kvreset _ b _ => 64 < ((x.rg b).extractLsb' 32 8).toNat || (x.rg b).extractLsb' 40 24 != 0
  | .ctsnap a _ => 4096 ≤ (x.rg a).toNat
  | .ctqry _ b _ => (x.rg b).extractLsb' 6 57 != 0
  | .ctclr a _ => 2 ≤ (x.rg a).toNat
  | .harm a _ => 2 ≤ (x.rg a).toNat
  | .xbind a b => !s.xbindOk c res (x.rg a) (x.rg b)
  | .xstat _ b => !s.crossOk c (x.rg b)
  | .rcfg a b _ =>
    let y := x.rg b
    let slots := (y.extractLsb' 0 9).toNat
    let z := (y.extractLsb' 16 16).toNat * 64
    !(y.extractLsb' 9 7 == 0 && y.extractLsb' 32 32 == 0 && 2 ≤ slots && slots ≤ 256 && 64 ≤ z && z ≤ 1048576 &&
      (x.rg a).toNat % 64 = 0 && (x.rg a).toNat + slots * z ≤ 4194304)
  | .rrst r => !(ring r).conf
  | .fwait a _ => !((x.rg a).toNat < 2 ^ 23 && ((x.rg a).extractLsb' 20 3).toNat ≤ 4)
  | .bar _ sc _ => !x.member sc
  | .bara _ sc => !x.member sc
  | .barw _ sc _ => !x.member sc
  | .rwait a h _ _ => !(ring h).conf || (ring h).slots.toNat < (x.rg a).toNat
  | .radvp h _ => !(ring h).conf
  | .radvc h _ => !(ring h).conf
  | .stbind _ _ n => (x.stream (24 + n.toNat)).bound
  | .std d a o =>
    -- a copy aperture store of the owning core (R232)
    (match s.resolve c x (x.ea a o 8) .store with
     | .ok t =>
       (match t.place with
        | .aperture k off => apertureCopy c res k off && 64 ≤ (x.rg d).toNat
        | .mem _ => false)
     | .error _ => false)
  | _ => false

/-- The registers that a word names as streams: those it reads or writes, and that of STBIND and STUNB. -/
def streamNames (i : Instr) : List Nat :=
  let u := uses i
  let own := match i with
    | .stbind _ _ n => [24 + n.toNat]
    | .stunb n => [24 + n.toNat]
    | _ => []
  (u.vr ++ u.vw).map (fun v => v.toNat) ++ own

/-- The failed descriptor check of a stream register that a word names (R228). -/
def Ctx.streamFail (x : Ctx) (i : Instr) : Option StreamFail := (streamNames i).findSome? (fun n => (x.stream n).fail)

/-- A register bound to a stream named in the wrong direction (R158), or whose descriptor failed a check with
ILLEGAL_INSTRUCTION (R228). -/
def Ctx.badStream (x : Ctx) (i : Instr) : Bool :=
  let u := uses i
  u.vr.any (fun v => (x.stream v.toNat).bound && (x.stream v.toNat).write) ||
    u.vw.any (fun v => (x.stream v.toNat).bound && !(x.stream v.toNat).write) ||
    (x.streamFail i).any (fun e => e.code == 1)

/-- VM words that name a polynomial, for the pair rule of R266. -/
def vmPoly (w : BWord) : List (BitVec 3) := if slotClass w.i = .v then (uses w.i).q else []

/-- Two VM words of a bundle that name one q register (R266): the second of them. -/
def samePoly : List (BitVec 3) → List BWord → Option BWord
  | _, [] => none
  | seen, w :: ws => if (vmPoly w).any (fun q => seen.contains q) then some w else samePoly (vmPoly w ++ seen) ws

/-- Step 5: the first word that fails it. -/
def State.step5 (s : State) (c : Nat) (res : BitVec 1) (ws : List BWord) : Option BWord :=
  let pair := samePoly [] ws
  ws.find? (fun w => !w.i.wf || (s.ctx c res).badStream w.i || s.badNow c res w.i || pair = some w)

/-- Step 6: the first word above the context's level. -/
def State.step6 (s : State) (c : Nat) (res : BitVec 1) (ws : List BWord) : Option BWord :=
  let x := s.ctx c res
  ws.find? (fun w => (privileged w.i && x.lvl == 0) ||
    (match sysOf w.i with
     | some n => x.lvl.toNat < sysLevel n
     | none => false))

/-- The operation of a matrix multiply word. -/
def mxOpOf : Instr → Option MxOp
  | .mma _ _ _ f g _ l z p q => some ⟨0, f, g, l = 1, z = 1, p = 1, q = 1⟩
  | .mmas _ _ _ f g _ l z q => some ⟨1, f, g, l = 1, z = 1, false, q = 1⟩
  | .mmag _ _ _ f g _ l z p q => some ⟨2, f, g, l = 1, z = 1, p = 1, q = 1⟩
  | _ => none

/-- Whether the format codes of a multiply are a reserved combination (R245). -/
def MxOp.reserved (o : MxOp) (fx odd : Bool) : Bool :=
  ((o.fa = 4) != (o.fb = 4)) || mxWidth o.fa != mxWidth o.fb || (o.sa && !mxE o.fa) || (o.sb && !mxE o.fb) ||
    (o.bl && o.bBlock) || (o.kind = 1 && (mxWidth o.fa = 4 || mxWidth o.fb = 4)) ||
    (fx && (!mxE o.fa || !mxE o.fb || odd))

/-- The kind tag that a multiply leaves (R241). -/
def MxOp.tag (o : MxOp) (fx : Bool) : Tag := if o.fa = 4 then .i else if fx then .x else .f

/-- A ring that a command cannot use: unconfigured, or with slots too small (R245). -/
def Ctx.ringBad (x : Ctx) (h : Nat) (need : Nat) : Bool := !(x.ring h).conf || (x.ring h).slotsize.toNat < need

/-- A kind code of MZERO and MLOAD. -/
def kindTag (k : BitVec 2) : Tag := if k = 0 then .f else if k = 1 then .i else .x

/-- Whether a matrix word is a reserved combination, with the tags that the words before it leave (R236, R245). -/
def Ctx.mxBad (x : Ctx) (i : Instr) : Bool :=
  let odd := fun (c : BitVec 3) => c.toNat % 2 = 1
  let tag := fun (c : BitVec 3) => x.tagOf c.toNat
  let mul := fun (o : MxOp) (c : BitVec 3) (ha : Nat) (hb : Option Nat) =>
    o.reserved x.fx (odd c) || (!o.z && tag c != o.tag x.fx) || (odd c && tag c == .x) || x.ringBad ha o.slotA ||
      (match hb with
       | some h => x.ringBad h o.slotB
       | none => false)
  match i with
  | .mma c h j f g _ l z p q => mul ⟨0, f, g, l = 1, z = 1, p = 1, q = 1⟩ c h.toNat (some j.toNat)
  | .mmas c h j f g _ l z q => mul ⟨1, f, g, l = 1, z = 1, false, q = 1⟩ c h.toNat (some j.toNat)
  | .mmag c h _ f g _ l z p q => mul ⟨2, f, g, l = 1, z = 1, p = 1, q = 1⟩ c h.toNat none
  | .mhad _ h _ => tag h != .f
  | .mzero c k => k = 2 && odd c
  | .mload c h _ k => (k = 2 && odd c) || x.ringBad h.toNat (if k = 2 then 32768 else 16384)
  | .mdrain c h _ f k u _ _ _ =>
    let R := rowsOf x.vshape.toNat f
    let C := colsOf x.vshape.toNat f
    64 < C || 4096 / (R * C) ≤ (k ++ h).toNat || (u = 1 && !(f = 1 || f = 2 || f = 3 || f = 4)) ||
      (odd c && tag c == .x)
  | _ => false

/-- The kind tags after a matrix word has issued (R236). -/
def Ctx.mxTags (x : Ctx) (i : Instr) : Ctx :=
  let set := fun (x : Ctx) (c : BitVec 3) (t : Tag) =>
    let x := x.setTag c.toNat t
    if t = .x then x.setTag (c.toNat + 1) .x else x
  match i with
  | .mma c _ _ f _ _ _ _ _ _ => set x c (if f = 4 then .i else if x.fx then .x else .f)
  | .mmas c _ _ f _ _ _ _ _ => set x c (if f = 4 then .i else if x.fx then .x else .f)
  | .mmag c _ _ f _ _ _ _ _ _ => set x c (if f = 4 then .i else if x.fx then .x else .f)
  | .mhad c _ _ => x.setTag c.toNat .f
  | .mzero c k => set x c (kindTag k)
  | .mload c _ _ k => set x c (kindTag k)
  | _ => x

/-- The tile that a matrix word names, for its record. -/
def mxTile : Instr → Nat
  | .mma c _ _ _ _ _ _ _ _ _ => c.toNat
  | .mmas c _ _ _ _ _ _ _ _ => c.toNat
  | .mmag c _ _ _ _ _ _ _ _ _ => c.toNat
  | .mhad c _ _ => c.toNat
  | .mzero c _ => c.toNat
  | .mload c _ _ _ => c.toNat
  | .mdrain c _ _ _ _ _ _ _ _ => c.toNat
  | _ => 0

/-- Step 7: the first matrix word that is a reserved combination. -/
def step7 (x : Ctx) : List BWord → Option BWord
  | [] => none
  | w :: ws => if x.mxBad w.i then some w else step7 (x.mxTags w.i) ws

/-! ### Step 8 -/

/-- The own-vault addresses that a command checks at its bundle, the bytes used there, and how (R226, R228, R249, R276). -/
def vaultArg (x : Ctx) : Instr → List (Word × Nat × Acc)
  | .ecw a _ => [(x.rg a, 64, .load)]
  | .ecr a _ => [(x.rg a, 64, .store)]
  | .gcfg a _ => [(x.rg a, 192, .load)]
  | .ctblk a _ => [(x.rg a, 64, .load)]
  | .ctsave a => [(x.rg a, 2048, .store)]
  | .ctload a => [(x.rg a, 2048, .load)]
  | .kvcommit a b _ => [(x.rg a, 64, .load), (x.rg b, 128, .load)]
  | .kvreset a _ _ => [(x.rg a, 64, .store)]
  | .hcfg a _ => [(x.rg a, 64, .load)]
  | .enq _ b => [(x.rg b, 64, .load)]
  | .deq _ b => [(x.rg b, 64, .store)]
  | .stbind a _ _ => [(x.rg a, 64, .load)]
  | _ => []

/-- MISALIGNED or TRANSLATION of one own-vault argument, of which every byte must lie in the own vault; STBIND tests the vault
first (R228). DEDUCED, log 99. -/
def vaultArgTrap (c : Nat) (pc : Word) (w : BWord) (a : Word × Nat × Acc) : Option Trap :=
  let mis : Bool := decide (a.1.toNat % 64 ≠ 0)
  let own := isOwn c a.1 && decide (vaultOffset a.1 + a.2.1 ≤ 4194304)
  let stb := match w.i with
    | .stbind _ _ _ => true
    | _ => false
  if stb && !own then some (addrTrap 6 5 pc w.ix a.1 a.2.2)
  else if mis then some (addrTrap 4 0 pc w.ix a.1 a.2.2)
  else if !own then some (addrTrap 6 5 pc w.ix a.1 a.2.2)
  else none

/-- The instructions that deterministic mode refuses, with their cause (R180, R216, R233, R264, R288). DEDUCED, log 80. -/
def State.detBan (s : State) (x : Ctx) (i : Instr) : Option (BitVec 8) :=
  match i with
  | .idle _ _ => some 3
  | .srr _ n =>
    let k := n.toNat
    if k = 0x10 ∨ k = 0x11 ∨ k = 0x0C ∨ (0x28 ≤ k ∧ k ≤ 0x2F) ∨ k = 0x14 ∨ k = 0x13 ∨ k = 0x0D then some 3 else none
  | .aswap _ _ _ _ _ => some 2
  | .acas _ _ _ _ _ => some 2
  | .agts _ _ _ _ _ => some 2
  | .agtsn _ _ _ _ _ => some 2
  | .avswap _ _ _ _ _ => some 2
  | .atagswap _ _ _ _ _ => some 2
  | .afadd _ _ _ _ _ => some 2
  | .enq a _ => if s.noSeq (x.rg a) then some 2 else none
  | .deq a _ => if s.noSeq (x.rg a) then some 2 else none
  | .qwait a _ => if s.noSeq (x.rg a) then some 2 else none
  | .hwait _ h _ => if (x.hoist h.toNat).changed || !(x.hoist h.toNat).fixed then some 2 else none
  | .cpyx _ _ => some 3
  | .hread _ _ _ => some 3
  | .ecr _ b => if (x.rg b).extractLsb' 8 3 == (1 : BitVec 3) then some 3 else none
  | .xstat _ _ => some 3
  | _ => none

/-- A copy aperture access that R232 does not allow: anything but STD at the right offsets, or the other residency of the
own core. -/
def apertureBad (c : Nat) (res : BitVec 1) (i : Instr) (ps : List Part) : Bool :=
  ps.any (fun p =>
    match p.place with
    | .mem _ => false
    | .aperture k off =>
      let std := match i with
        | .std _ _ _ => true
        | _ => false
      !(std && p.len = 8 && (off % 0x800) % 64 = 0 && (off % 0x800) / 64 < 4) || (k = c && off / 0x800 != res.toNat))

/-- A host access of an atomic that the host does not take (R110). -/
def hostBad (i : Instr) (acc : Acc) (ps : List Part) : Bool :=
  acc = .atomic && !hostAtomic i &&
    ps.any (fun p => 0x10000000000000000 ≤ p.key && decide (p.key < 0x20000000000000000))

/-- The accesses that a word itself makes at an address, as write or read: its slot access, the packet of ENQ and DEQ, the
descriptor of STBIND, the range of DIGEST. -/
def slotRanges (x : Ctx) (i : Instr) : Acc × List (Word × Nat) :=
  match i with
  | .enq _ b => (.load, [(x.rg b, 64)])
  | .deq _ b => (.store, [(x.rg b, 64)])
  | .stbind a _ _ => (.load, [(x.rg a, 64)])
  | .digest d a _ => (.load, [(x.rg a, (x.rg d).toNat)])
  | _ =>
    match slotAcc x i with
    | some t => (t.acc, t.segs)
    | none => (.load, [])

/-- The accesses of a word checked and noted in deterministic mode (R137, R138). DESIGN CHOICE, log 54. -/
def State.detWord (s : State) (c : Nat) (res : BitVec 1) (i : Instr) : Except DetHit State :=
  let x := s.ctx c res
  let r := slotRanges x i
  match s.resolveSegs c x r.1 r.2 with
  | .error _ => .ok s
  | .ok ps => s.detScan c res (r.1 != .load) (detRanges (ps.map (fun p => p.1)))

/-- The stream register that a word would consume or produce and whose memory does not translate (R228); `before` are
the words of the bundle ahead of it. -/
def State.streamXlat (s : State) (c : Nat) (res : BitVec 1) (pc : Word) (before : List BWord) (w : BWord) : Option Trap :=
  let x := s.ctx c res
  let test := fun (wr : Bool) (v : BitVec 5) =>
    let t := x.stream v.toNat
    let n := before.countP (fun b => ((if wr then (uses b.i).vw else (uses b.i).vr)).contains v)
    let i := t.taken + n
    if !t.bound || !t.read || t.write != wr || decide (2 ≤ t.kind) || decide (t.total ≤ i) || (!wr && decide (i < t.moved)) then
      none
    else
      match s.parts c x (t.at i) 512 (if wr then .store else .load) with
      | .error e => some (addrTrap 6 (BitVec.ofNat 8 e.cause) pc w.ix e.va (if wr then .store else .load))
      | .ok _ => none
  ((uses w.i).vr.findSome? (test false)).or ((uses w.i).vw.findSome? (test true))

/-- Whether a word takes a filled register of a crossing stream (R288), the registers of the words before it counted. -/
def State.takesFill (s : State) (x : Ctx) (before : List BWord) (w : BWord) : Bool :=
  (uses w.i).vr.any (fun v => (x.stream v.toNat).bound &&
    s.fills (x.stream v.toNat) (before.countP (fun b => (uses b.i).vr.contains v) + 1))

/-- The alignment and translation of a DIGEST (R177, R178); it reads no copy aperture (R232). -/
def State.digestTrap (s : State) (c : Nat) (res : BitVec 1) (w : BWord) (va : Word) (len : Nat) : Option Trap :=
  let x := s.ctx c res
  if len % 4 ≠ 0 ∨ 2 ^ 24 < len ∨ va.toNat % 4 ≠ 0 then some (addrTrap 4 0 x.pc w.ix va .load)
  else
    match s.parts c x va len .load with
    | .error e => some (addrTrap 6 (BitVec.ofNat 8 e.cause) x.pc w.ix e.va .load)
    | .ok ps => if apertureBad c res w.i (ps.map (fun p => p.1)) then some (addrTrap 6 5 x.pc w.ix va .load) else none

/-- Step 8 of one word without its DET check: alignment and translation, with what deterministic mode bans. -/
def State.step8a (s : State) (c : Nat) (res : BitVec 1) (ws : List BWord) (w : BWord) : Option Trap :=
  let x := s.ctx c res
  let pc := x.pc
  let before := ws.filter (fun b => b.ix < w.ix)
  let ldf := match w.i with
    | .ldf _ _ _ => true
    | _ => false
  let acc := slotAcc x w.i
  match x.streamFail w.i with
  | some e => some (addrTrap e.code e.cause pc w.ix e.arg .load)
  | none =>
  match s.streamXlat c res pc before w with
  | some t => some t
  | none =>
  match (vaultArg x w.i).findSome? (vaultArgTrap c pc w) with
  | some t => some t
  | none =>
  match (if x.detMode then (s.detBan x w.i).or (if s.takesFill x before w then some 3 else none) else none) with
  | some cause => some (detTrap cause pc pc w.ix 0 none)
  | none =>
  match w.i with
  | .knext => if s.traceBad c res (x.wouldEnd false) then some (detTrap 5 pc pc w.ix 0 none) else none
  | .endTask => if s.traceBad c res true then some (detTrap 5 pc pc w.ix 0 none) else none
  | .digest d a _ => s.digestTrap c res w (x.rg a) (x.rg d).toNat
  | _ =>
  match acc with
  | none => none
  | some t =>
    let base := match w.i with
      | .vldx _ a o => x.ea a o 512
      | _ => (t.segs.headD (0, 0)).1
    let mis := if base.toNat % t.align ≠ 0 then some base
      else (t.segs.find? (fun g => g.1.toNat % t.align ≠ 0)).map (fun g => g.1)
    match mis with
    | some va => some (addrTrap 4 0 pc w.ix va t.acc)
    | none =>
    match s.resolveSegs c x t.acc t.segs with
    | .error e => if ldf then none else some (addrTrap 6 (BitVec.ofNat 8 e.cause) pc w.ix e.va t.acc)
    | .ok ps =>
      let qs := ps.map (fun p => p.1)
      let va0 := (t.segs.headD (0, 0)).1
      if apertureBad c res w.i qs then
        if ldf then none else some (addrTrap 6 5 pc w.ix va0 t.acc)
      else if hostBad w.i t.acc qs then some (addrTrap 6 7 pc w.ix va0 t.acc)
      else none

/-- Step 8 of a word in a state that holds the DET notes of the words before it: its trap, or those notes with its own
(R137, R142). DEDUCED, log 80. -/
def State.step8 (s : State) (c : Nat) (res : BitVec 1) (ws : List BWord) (w : BWord) : Except Trap State :=
  match s.step8a c res ws w with
  | some t => .error t
  | none =>
    match s.detWord c res w.i with
    | .error e => .error (detTrap e.cause (s.ctx c res).pc (s.ctx c res).pc w.ix e.granule e.other)
    | .ok t => .ok t

/-- Step 8 of the words of a bundle, one after another: the first trap. -/
def State.steps8 (c : Nat) (res : BitVec 1) (ws : List BWord) : List BWord → State → Option Trap
  | [], _ => none
  | w :: l, s =>
    match s.step8 c res ws w with
    | .error t => some t
    | .ok s => State.steps8 c res ws l s

/-! ### All of them -/

/-- Whether a bundle is a report point (R363): a barrier, or the END that completes the last record. -/
def State.reportPoint (s : State) (c : Nat) (res : BitVec 1) (ws : List BWord) : Bool :=
  let last := (s.ctx c res).lastEnd
  ws.any (fun w =>
    match w.i with
    | .bar _ _ _ => true
    | .bara _ _ => true
    | .barw _ _ _ => true
    | .endTask => last
    | _ => false)

/-- The argument register and system register index of a PRIVILEGE record. -/
def privTrap (pc : Word) (w : BWord) : Trap := wordTrap 5 pc w (((sysOf w.i).map (fun n => n.toNat)).getD 0) 0

/-- Steps 4 to 7 of R142 on a decoded bundle. -/
def State.steps57 (s : State) (c : Nat) (res : BitVec 1) (ws : List BWord) : Option Trap :=
  let x := s.ctx c res
  let pc := x.pc
  match s.step5 c res ws with
  | some w => some (illegal pc w)
  | none =>
  match s.step6 c res ws with
  | some w => some (privTrap pc w)
  | none =>
  match step7 x ws with
  | some w => some (wordTrap 3 pc w (mxTile w.i) x.mxcfg)
  | none => none

/-- Whether the range of a hoist holds bytes that a stopped command writes. -/
def DetStop.fed (d : DetStop) (h : Hoist) : Bool :=
  h.installed && d.feeds.any (fun r => 0 < overlap r.1 r.2 h.home h.length)

/-- Whether a word would wait on a stopped command (R138): an FWAIT whose fence covers it, a barrier arrival, a wait on a
hoist or a slot that it feeds, and for a stream the word that names its register.
DESIGN CHOICE, log 55. -/
def DetStop.met (d : DetStop) (x : Ctx) (i : Instr) : Bool :=
  match i with
  | .fwait a _ =>
    (x.rg a).getLsbD 18 &&
      (match x.fences.find? (fun f => f.num == (x.rg a).extractLsb' 0 16) with
       | some f => d.cmd.all (fun n => f.covers.contains n)
       | none => true)
  | .bar _ _ _ => true
  | .bara _ _ => true
  | .hwait _ h _ => d.fed (x.hoist h.toNat)
  | .rwait _ h _ _ => x.hoists.any (fun p => p.2.fills h.toNat && d.fed p.2)
  | _ => (streamNames i).any (fun n => (x.stream n).bound && d.cmd == some (x.stream n).id)

/-- A command of the context stopped on a DET conflict that a bundle would wait on, with its trap (R138): the record names
the bundle and word of the command (Table 20.5). -/
def Ctx.detWait (x : Ctx) (ws : List BWord) : Option (Trap × DetStop) :=
  (x.detWl.find? (fun d => ws.any (fun w => d.met x w.i))).map (fun d =>
    (detTrap d.cause x.pc d.pc d.slot d.granule d.other, d))

/-- The trap or report that replaces a bundle, tested in the order of R354 up to its step 5. -/
inductive Check where
  | ok
  | trap (t : Trap)
  | report
  /-- The trap of an engine command that met a DET conflict (R138). -/
  | engine (t : Trap) (d : DetStop)
deriving DecidableEq, Repr

def State.check (s : State) (c : Nat) (res : BitVec 1) (ws : List BWord) : Check :=
  let x := s.ctx c res
  match s.steps57 c res ws with
  | some t => .trap t
  | none =>
    if x.reportDue ∧ s.reportPoint c res ws then .report
    else
      match State.steps8 c res ws ws s with
      | some t => .trap t
      | none =>
        match x.detWait ws with
        | some (t, d) => .engine t d
        | none => .ok

end Sys2Proof.Machine
end

