-- ==== Sys2Proof/Machine/Stalls.lean ====
section
/-!
DEFINITION. What holds a bundle at issue (R103, R157, R158, R217 to R227, R254, R262, R277): the condition, its limit, and
the WAIT_LIMIT trap when the limit expires. Barrier arrivals stand here too, because a BAR arrives and then stalls.
-/

namespace Sys2Proof.Machine

/-- Why a bundle stalls: WAIT_LIMIT cause and object (Table 20.6), the limit in cycles if there is one, the event that its
cycles count (Table 22.4), the word index, and the register a limit gives up. -/
structure Why where
  cause : BitVec 8
  obj : Nat
  limit : Option Nat
  ev : Nat
  slot : Nat := 0
  aux0 : Word := 0
  aux1 : Word := 0
  reg : Option BusyReg := none
deriving DecidableEq, Repr

/-- 2^24 cycles. -/
def longLimit : Option Nat := some 16777216

/-- The limit of a code k (R217). -/
def codeLimit (k : BitVec 5) : Option Nat := some (2 ^ (k.toNat + 6))

/-! ### Registers and polynomials -/

/-- The number of a busy register. -/
def BusyReg.num : BusyReg → Nat
  | .g n => n.toNat
  | .v n => n.toNat
  | .q n => n.toNat

/-- The registers and polynomials that a word names. -/
def named (i : Instr) : List BusyReg :=
  let u := uses i
  ((u.gr ++ u.gw).filter (fun n => n != 0)).map BusyReg.g ++ (u.vr ++ u.vw).map BusyReg.v ++ u.q.map BusyReg.q

/-- The busy registers and polynomials that a word names (R103, R267, R274). -/
def Ctx.busyWhy (x : Ctx) (now : Nat) (i : Instr) : List Why :=
  (((named i).filter (fun r => x.busy.any (fun b => b.1 = r))).map (fun r =>
    { cause := 6, obj := r.num, limit := longLimit, ev := 5, reg := some r : Why })) ++
  (((uses i).q.filter (fun q => decide (now < Table.get 0 x.qbusy q.toNat))).map (fun q =>
    { cause := 6, obj := q.toNat, limit := none, ev := 7 : Why }))

/-! ### Streams -/

/-- The class of a stream as a bit of SBAR (R221, R228). -/
def Stream.classBit (t : Stream) : Nat := if t.kind = 1 then 2 else if t.write then 1 else 0

/-- Writes of a bound register that are still in flight. -/
def Ctx.inFlight (x : Ctx) (n : Nat) : Nat := (x.writes ++ x.shadow).countP (fun w => w.reg = .v (BitVec.ofNat 5 n))

/-- Whether an SBAR still orders the accesses of a class (R221). -/
def Ctx.sbarHolds (x : Ctx) (bit : Nat) : Bool :=
  x.sbars.any (fun b => b.1.getLsbD bit && b.2.any (fun m => !x.marked m))

/-- The streams without the data or the space that the words of a bundle need (R157, R158, R221); the word is the first
that names the register. -/
def State.streamWhy (s : State) (c : Nat) (res : BitVec 1) (ws : List BWord) : List Why :=
  let x := s.ctx c res
  (List.range 8).filterMap (fun j =>
    let n := 24 + j
    let t := x.stream n
    let reads := ws.countP (fun w => (uses w.i).vr.contains (BitVec.ofNat 5 n))
    let writes := ws.countP (fun w => (uses w.i).vw.contains (BitVec.ofNat 5 n))
    let ix := ((ws.find? (fun w => (streamNames w.i).contains n)).map (fun w => w.ix)).getD 0
    let ok := t.read && !x.sbarHolds t.classBit &&
      (if t.write then s.hasRoom c t (x.inFlight n) writes else s.onTap c t reads)
    if !t.bound || (reads = 0 && writes = 0) || ok then none
    else some { cause := 7, obj := n, limit := longLimit, ev := 6, slot := ix : Why })

/-! ### Fences and barriers -/

/-- Whether everything that a fence covers has performed (R131, R218). -/
def State.fenceDone (s : State) (c : Nat) (x : Ctx) (f : Fence) : Bool :=
  (s.still c f.covers).isEmpty && f.streams.all x.marked

/-- The fences not yet known complete, completed ones dropped. -/
def State.openFences (s : State) (c : Nat) (x : Ctx) : List Fence := x.fences.filter (fun f => !s.fenceDone c x f)

/-- Whether the fence of a token may hold an FWAIT (R219): it is among the 16 most recent. -/
def Ctx.recent (x : Ctx) (num : BitVec 16) : Bool := decide ((x.fenceNo - num).toNat < 16)

/-- The phase count that a context sees at a scope; none without an instance. -/
def State.countAt (s : State) (c : Nat) (x : Ctx) (scope : BitVec 3) : Option (BitVec 32) :=
  (s.domainOf x.lid c scope).map (fun d => d.count)

/-- The time base of a domain's measurement (R74): region cycles, as `$cycle` counts them, or `$wall` nanoseconds. -/
def State.domainTime (s : State) (c : Nat) (scope : BitVec 3) : Nat :=
  if scope.toNat < 3 then (s.regOf c).cycle.toNat else s.wall.toNat

/-- A barrier arrival (R133, R220), with everything it releases. DESIGN CHOICE, log 37. -/
def State.arrive (s : State) (c : Nat) (res : BitVec 1) (scope : BitVec 3) : State :=
  let x := s.ctx c res
  if x.arrived.contains scope then s
  else
    let covers := s.accessIds c res 7 ++ (s.core c).commandIds res
    let s := s.modCtx c res (fun x => { x with arrived := x.arrived ++ [scope] })
    match s.domainOf x.lid c scope with
    | none => s
    | some d => s.modDomain d (fun e => { e with arrivals := e.arrivals ++ [((c, res), covers, s.domainTime c scope)] })

/-- The wait of a BAR already begun by this bundle. -/
def Ctx.waitOf (x : Ctx) (scope : BitVec 3) : Option (BitVec 32) :=
  (x.barWait.find? (fun w => w.1 = scope && w.2.2 == x.pc)).map (fun w => w.2.1)

/-- The arrivals of the BAR words of a bundle that nothing else stops (R220). DEDUCED, log 91. -/
def State.arriveAll (s : State) (c : Nat) (res : BitVec 1) : List Instr → State
  | [] => s
  | .bar _ sc _ :: is =>
    let x := s.ctx c res
    let s := match x.waitOf sc with
      | some _ => s
      | none =>
        let n := (s.countAt c x sc).getD 0
        (s.arrive c res sc).modCtx c res (fun x => { x with barWait := x.barWait ++ [(sc, n, x.pc)] })
    s.arriveAll c res is
  | _ :: is => s.arriveAll c res is

/-- A BAR or BARW whose instance has not completed. -/
def State.barrierWhy (s : State) (c : Nat) (res : BitVec 1) (w : BWord) : Option Why :=
  let x := s.ctx c res
  let why := fun (sc : BitVec 3) (k : BitVec 5) =>
    some { cause := 5, obj := sc.toNat, limit := codeLimit k, ev := 8, slot := w.ix,
           aux0 := ((s.countAt c x sc).getD 0).setWidth 64 : Why }
  match w.i with
  | .bar _ sc k =>
    (match x.waitOf sc, s.countAt c x sc with
     | some n, some m => if n = m then why sc k else none
     | _, _ => none)
  | .barw a sc k =>
    (match s.countAt c x sc with
     | some m => if m = (x.rg a).setWidth 32 then why sc k else none
     | none => none)
  | _ => none

/-! ### Queues -/

/-! ### TLBI (R181, R182, R347) -/

/-- Whether a TLBI of a kind removes a translation (Table 8.6). -/
def TlbEnt.dropped (t : TlbEnt) (kind : BitVec 3) (pn : Nat) (asid : BitVec 16) (va : Word) : Bool :=
  if kind.toNat % 2 = 0 then t.hits pn asid va else t.part.toNat = pn && t.asid == asid

/-- The TLBs of one core and its cluster, or of all, without the translations that `keep` leaves out. -/
def State.tlbKeep (s : State) (c : Option Nat) (keep : TlbEnt → Bool) : State :=
  { s with
    cores := s.cores.map (fun p => (p.1, if c.all (fun n => n = p.1) then { p.2 with tlb := p.2.tlb.filter keep } else p.2))
    ctlbs := s.ctlbs.map (fun p => (p.1, if c.all (fun n => n / 8 = p.1) then p.2.filter keep else p.2)) }

/-- The TLBs after a TLBI of a context (R182): kinds 0 and 1 act on the core's and its cluster's, 2 and 3 on all of the
partition. -/
def State.tlbi (s : State) (c : Nat) (res : BitVec 1) (kind : BitVec 3) (va : Word) : State :=
  match s.partOf c with
  | none => s
  | some pn => s.tlbKeep (if kind.toNat < 2 then some c else none) (fun t => !t.dropped kind pn (s.ctx c res).asid va)

/-- The accesses and chunks in flight that used a translation which a TLBI removes (R347). DEDUCED, log 75. -/
def State.tlbiUsers (s : State) (c : Nat) (res : BitVec 1) (kind : BitVec 3) (va : Word) : TlbiWait :=
  let x := s.ctx c res
  let near := fun (n : Nat) => if kind.toNat < 2 then n / 8 = c / 8 else (s.partOf n).isSome && s.partOf n == s.partOf c
  let page := fun (lo n : Nat) => kind.toNat % 2 = 1 || (decide (lo ≤ va.toNat) && decide (va.toNat < lo + n))
  let ents := ((s.cores.flatMap (fun p => p.2.tlb)) ++ s.ctlbs.flatMap (fun p => p.2)).filter (fun t =>
    t.asid == x.asid && page t.va t.size)
  let msgs := s.fabric.filter (fun m => m.dev.isNone && !m.host && !m.performed && near m.core &&
    (s.ctx m.core m.res).asid == x.asid && m.parts.any (fun p => decide (0 < p.span) && page p.page p.span))
  let chunks := s.cores.flatMap (fun p =>
    if !near p.1 then []
    else p.2.chans.flatMap (fun q =>
      match q.2.cur with
      | none => []
      | some m =>
        if (p.2.ctx m.res).asid != x.asid then []
        else ((q.2.out.filter (fun w => ents.any (fun t => 0 < overlap w.2.va w.2.bytes.length t.va t.size))).map
          (fun w => (p.1, q.1, m.seq, w.1))).eraseDups))
  ⟨x.pc, msgs.map (fun m => m.id), chunks⟩

/-- Whether everything that a TLBI waits for has performed, or its copy has suspended (R347). -/
def State.tlbiDone (s : State) (t : TlbiWait) : Bool :=
  t.msgs.all (fun id => !s.fabric.any (fun m => m.id = id && !m.performed)) &&
    t.chunks.all (fun e =>
      let q := (s.core e.1).chan e.2.1
      !(q.cur.any (fun m => m.seq = e.2.2.1) && q.out.any (fun w => w.1 = e.2.2.2)))

/-- The TLBI words of a bundle that nothing else stops: they drop their entries and begin to wait. -/
def State.tlbiAll (s : State) (c : Nat) (res : BitVec 1) : List Instr → State
  | [] => s
  | .tlbi a k :: is =>
    let x := s.ctx c res
    let s := if x.tlbiWait.isSome then s
      else
        let t := s.tlbiUsers c res k (x.rg a)
        (s.tlbi c res k (x.rg a)).modCtx c res (fun x => { x with tlbiWait := some t })
    s.tlbiAll c res is
  | _ :: is => s.tlbiAll c res is

/-- A TLBI that is not done. -/
def State.tlbiWhy (s : State) (c : Nat) (res : BitVec 1) (w : BWord) : Option Why :=
  match w.i, (s.ctx c res).tlbiWait with
  | .tlbi _ _, some t => if s.tlbiDone t then none else some { cause := 12, obj := 0, limit := longLimit, ev := 0, slot := w.ix }
  | _, _ => none

/-- Whether a queue is the launch queue of a region (R306). -/
def State.isLaunchQueue (s : State) (q : Nat) : Bool :=
  s.cores.any (fun p => p.2.lq != 0 && (handleOf p.2.lq).any (fun h => h.2 = q))

/-- The status with which DEQ does not even look for a packet (R227, R306, R307): 5, 4, or 7 also while a swap-in copies the
packets back. DEDUCED, log 58. -/
def State.deqFault (s : State) (c : Nat) (h : Word) : Option Nat :=
  match handleOf h with
  | none => some 5
  | some (gen, q) =>
    let e := s.queue q
    if q / 8 ≠ c ∨ !e.en ∨ s.isLaunchQueue q then some 5
    else if gen ≠ e.gen then some 4
    else if e.swap || e.copying then some 7 else none

/-- Whether QWAIT has still to wait (R227). -/
def State.queueEmpty (s : State) (c : Nat) (h : Word) : Bool :=
  match s.deqFault c h, handleOf h with
  | none, some (_, q) => (s.queue q).head == (s.queue q).tail
  | _, _ => false

/-! ### Engines -/

/-- Whether a word is a command of the matrix queue (R239). -/
def toMatrix : Instr → Bool
  | .mma _ _ _ _ _ _ _ _ _ _ => true
  | .mmas _ _ _ _ _ _ _ _ _ => true
  | .mmag _ _ _ _ _ _ _ _ _ _ => true
  | .mhad _ _ _ => true
  | .mzero _ _ => true
  | .mload _ _ _ _ => true
  | _ => false

/-- The tiles that a queued command writes. -/
def MxCmd.tiles (m : MxCmd) : List Nat :=
  let pair := fun (c : BitVec 3) (x : Bool) => if x then [c.toNat, c.toNat + 1] else [c.toNat]
  match m.i with
  | .mma c _ _ f _ _ _ _ _ _ => pair c (m.fx && f != 4)
  | .mmas c _ _ f _ _ _ _ _ => pair c (m.fx && f != 4)
  | .mmag c _ _ f _ _ _ _ _ _ => pair c (m.fx && f != 4)
  | .mhad c _ _ => [c.toNat]
  | .mzero c k => pair c (k = 2)
  | .mload c _ _ k => pair c (k = 2)
  | _ => []

/-- The rings that a queued command reads. -/
def mxRings : Instr → List Nat
  | .mma _ h j _ _ _ _ _ _ _ => [h.toNat, j.toNat]
  | .mmas _ h j _ _ _ _ _ _ => [h.toNat, j.toNat]
  | .mmag _ h _ _ _ _ _ _ _ _ => [h.toNat]
  | .mload _ h _ _ => [h.toNat]
  | _ => []

/-- The channel of a copy or KV command, and for a copy aperture store of the owning core (R232). -/
def State.channelOf (s : State) (c : Nat) (x : Ctx) : Instr → Option Nat
  | .cpy _ _ _ ch => some ch.toNat
  | .kvcommit _ _ ch => some ch.toNat
  | .kvreset _ _ ch => some ch.toNat
  | .std _ a o =>
    (match s.resolve c x (x.ea a o 8) .store with
     | .ok t =>
       (match t.place with
        | .aperture k off => if k = c then some (off % 2048 / 64) else none
        | .mem _ => none)
     | .error _ => none)
  | _ => none

/-- Whether a word is a contact command (R276). -/
def toContact : Instr → Bool
  | .ctblk _ _ => true
  | .ctsnap _ _ => true
  | .ctqry _ _ _ => true
  | .ctstep _ => true
  | .ctclr _ _ => true
  | .ctsave _ => true
  | .ctload _ => true
  | _ => false

/-- Whether a word is an ECW, behind which the copies of its context begin (R250). -/
def isEcw : Instr → Bool
  | .ecw _ _ => true
  | _ => false

/-- Whether four commands wait on a channel, with those of the bundle before (R254): the first command given to a channel
that is free and has nothing to wait for begins at once. -/
def State.copyQueueFull (s : State) (c : Nat) (res : BitVec 1) (before : List Instr) (ch : Nat) : Bool :=
  let k := s.core c
  let q := k.chan ch
  let more := before.countP (fun j => s.channelOf c (k.ctx res) j = some ch)
  let free := q.cur.isNone && q.st = .idle && q.queue.isEmpty && (k.openEcw res).isEmpty && (s.gates c res).isEmpty &&
    !before.any isEcw
  decide (4 ≤ (if free then more - 1 else q.queue.length + more))

/-- What holds one word for want of room in the queue of an engine, with the words of the bundle before it (R157, R239,
R254, R277). DEDUCED, log 11. -/
def State.engineWhy (s : State) (c : Nat) (res : BitVec 1) (before : List Instr) (i : Instr) : List Why :=
  let k := s.core c
  let waiting := (k.ct.filter (fun m => m.start.isNone)).length
  (if toMatrix i && decide (4 ≤ k.mq.length + before.countP toMatrix) then
    [{ cause := 12, obj := 0, limit := none, ev := 7 : Why }] else []) ++
  (if toContact i && decide (4 ≤ waiting + before.countP toContact) then
    [{ cause := 10, obj := 0, limit := longLimit, ev := 0 : Why }] else []) ++
  (match s.channelOf c (k.ctx res) i with
   | some ch => if s.copyQueueFull c res before ch then [{ cause := 9, obj := ch, limit := longLimit, ev := 0 : Why }] else []
   | none => [])

/-- What an instruction itself waits for (R157, R217 to R227, R262). A hoist that was armed and is no more has the reach count
that it kept (R222, R263). DEDUCED, log 97. -/
def State.waitWhy (s : State) (c : Nat) (res : BitVec 1) (i : Instr) : Option Why :=
  let k := s.core c
  let x := k.ctx res
  let ring := fun (h : BitVec 4) (lim : Option Nat) =>
    let r := x.ring h.toNat
    some { cause := 2, obj := h.toNat, limit := lim, ev := 8, aux0 := r.p.setWidth 64, aux1 := r.q.setWidth 64 : Why }
  match i with
  | .mdrain t _ _ _ _ _ _ _ _ =>
    let names := if x.tagOf t.toNat = .x then [t.toNat, t.toNat + 1] else [t.toNat]
    if k.mq.any (fun m => m.res == res && m.tiles.any names.contains) then
      some { cause := 12, obj := t.toNat, limit := none, ev := 7 } else none
  | .rcfg _ _ r =>
    if k.mq.any (fun m => m.res == res && (mxRings m.i).contains r.toNat) then
      some { cause := 12, obj := r.toNat, limit := none, ev := 7 } else none
  | .rrst r =>
    if k.mq.any (fun m => m.res == res && (mxRings m.i).contains r.toNat) then
      some { cause := 12, obj := r.toNat, limit := none, ev := 7 } else none
  | .fence _ _ _ =>
    if 16 ≤ (s.openFences c x).length then
      some { cause := 4, obj := 0, limit := longLimit, ev := 0, aux0 := x.fenceNo.setWidth 64 } else none
  | .fwait a l =>
    let num := (x.rg a).extractLsb' 0 16
    if x.recent num && x.fences.any (fun f => f.num == num && !s.fenceDone c x f) then
      some { cause := 4, obj := 0, limit := codeLimit l, ev := 8, aux0 := x.rg a } else none
  | .hwait a h l =>
    let r := (x.hoist h.toNat).reach
    let t := (x.rg a).setWidth 32
    if (r - t).toNat < 2147483648 then none
    else some { cause := 1, obj := h.toNat, limit := codeLimit l, ev := 8, aux0 := r.setWidth 64, aux1 := t.setWidth 64 }
  | .rwait a h f l =>
    let n := (x.rg a).toNat
    let have_ := if f = 0 then (x.ring h.toNat).full else s.freeSlots x h.toNat
    if have_ < n then ring h (codeLimit l) else none
  | .radvp h n => if s.freeSlots x h.toNat < n.toNat then ring h longLimit else none
  | .radvc h n => if (x.ring h.toNat).full < n.toNat then ring h longLimit else none
  | .qwait a l =>
    if s.queueEmpty c (x.rg a) then
      let q := (x.rg a).toNat % 8192
      some { cause := 3, obj := q, limit := codeLimit l, ev := 8, aux0 := (s.queue q).head.setWidth 64,
             aux1 := (s.queue q).tail.setWidth 64 }
    else none
  | _ => none

/-- What holds one word, with the words of the bundle before it. -/
def State.wordWhy (s : State) (c : Nat) (res : BitVec 1) (before : List Instr) (w : BWord) : List Why :=
  ((s.ctx c res).busyWhy (s.now c) w.i ++ s.engineWhy c res before w.i ++ (s.waitWhy c res w.i).toList).map (fun y =>
    { y with slot := w.ix })

/-- What holds the words of a bundle, each after those before it. -/
def State.wordsWhy (s : State) (c : Nat) (res : BitVec 1) : List Instr → List BWord → List Why
  | _, [] => []
  | before, w :: ws => s.wordWhy c res before w ++ s.wordsWhy c res (before ++ [w.i]) ws

/-- A far access of a context in deterministic mode whose target has still to answer its check (R138). -/
def State.unanswered (s : State) (c : Nat) (res : BitVec 1) : Bool :=
  s.fabric.any (fun m => m.dev.isNone && !m.host && m.core = c && m.res == res && m.det && !m.own && !m.performed &&
    m.parts.any (fun p => p.det))

/-- Everything that holds a bundle, barriers and TLBI apart (R138, R157). -/
def State.holds (s : State) (c : Nat) (res : BitVec 1) (ws : List BWord) : List Why :=
  s.wordsWhy c res [] ws ++ s.streamWhy c res ws ++
    (if s.unanswered c res then [{ cause := 12, obj := 0, limit := none, ev := 0 : Why }] else [])

/-- The waits of a bundle that begin once nothing else holds it: of barriers and of TLBI (R181, R220). -/
def State.lateWhy (s : State) (c : Nat) (res : BitVec 1) (ws : List BWord) : List Why :=
  ws.filterMap (s.barrierWhy c res) ++ ws.filterMap (s.tlbiWhy c res)

/-! ### The stall and its limit -/

/-- The first register that a bundle names whose load a restored context had abandoned (R332, R335), with the word. -/
def Ctx.abandonedIn (x : Ctx) (ws : List BWord) : Option (BusyReg × Nat) :=
  (ws.flatMap (fun w => (named w.i).map (fun r => (r, w.ix)))).find? (fun r => x.abandoned.contains r.1)

/-- The WAIT_LIMIT trap of a stall (Table 20.6). -/
def waitTrap (pc : Word) (w : Why) : Trap :=
  let f := { FaultRec.plain 7 w.cause pc with slot := w.slot, obj := w.obj, aux0 := w.aux0, aux1 := w.aux1 }
  ⟨7, w.cause, pc, BitVec.ofNat 64 w.obj, false, some f⟩

/-- The trap of a limit, with the register given up (R103). -/
def State.waitLimit (s : State) (c : Nat) (res : BitVec 1) (w : Why) : State :=
  let x := s.ctx c res
  let s := match w.reg with
    | some r => s.modCtx c res (fun x =>
        { x with busy := x.busy.filter (fun b => b.1 != r), abandoned := x.abandoned.filter (fun b => b != r) })
    | none => s
  s.takeTrap c res (s.now c) (waitTrap x.pc w)

/-- The cycles that the bundle at hand has stalled. -/
def Ctx.stalled (x : Ctx) : Nat :=
  match x.stall with
  | some t => if t.pc == x.pc then t.cycles else 0
  | none => 0

/-- Whether a limit has expired (R217). -/
def Ctx.expired (x : Ctx) (w : Why) : Bool :=
  match w.limit with
  | some n => decide (n ≤ x.stalled)
  | none => false

/-- One stalled cycle under all conditions that hold the bundle, or the trap of the first whose limit has expired (R157,
R217). -/
def State.stallFor (s : State) (c : Nat) (res : BitVec 1) (ws : List Why) : State :=
  let x := s.ctx c res
  match ws.find? x.expired with
  | some w => s.waitLimit c res w
  | none =>
    let evs := ((ws.map (fun w => w.ev)).filter (fun e => decide (e ≠ 0))).eraseDups
    let s := evs.foldl (fun s e => s.event c res e) (s.event c res 4)
    let t : Stall := match ws with
      | w :: _ => ⟨w.cause, BitVec.ofNat 16 w.obj, x.pc, x.stalled + 1⟩
      | [] => ⟨0, 0, x.pc, x.stalled + 1⟩
    s.modCtx c res (fun y => { y with stall := some t })

/-- A context without the waits that an earlier bundle left open at another address; a handler keeps them for the bundle it
returns to (R220). -/
def Ctx.freshWaits (x : Ctx) : Ctx :=
  if x.act then x
  else
    { x with
      barWait := x.barWait.filter (fun w => w.2.2 == x.pc)
      tlbiWait := if x.tlbiWait.any (fun t => t.pc == x.pc) then x.tlbiWait else none }

end Sys2Proof.Machine
end

