-- ==== Sys2Proof/Machine/Issue.lean ====
section
/-!
DEFINITION. Issuing a bundle (R140, R142, R144, R154, R157, R158, R169 to R172, R354): what comes before its words, around
each word, and after the last one; and `issue`, through which every instruction word runs.
-/

namespace Sys2Proof.Machine

/-! ### Around one word -/

/-- The first issue slot of a class: S 0 and 1, V 2 to 4, F 5, M 6 and 7 (R140). -/
def Slot.base : Slot → Nat
  | .s => 0
  | .v => 2
  | .f => 5
  | .m => 6
  | .none => 0

/-- The slot of the next word of the bundle. -/
def State.place (s : State) (i : Instr) : State :=
  { s with slotNo := max (slotClass i).base (if s.wordIx = 0 then 0 else s.slotNo + 1) }

/-- The registers of a list bound to a stream of the direction. -/
def Ctx.boundIn (x : Ctx) (write : Bool) (vs : List (BitVec 5)) : List Nat :=
  ((vs.map (fun v => v.toNat)).filter (fun n => (x.stream n).bound && (x.stream n).write == write)).eraseDups

/-- The register of data that a read of a bound register takes: fetched ahead, or taken here from a crossing, with fills
while its producer is frozen, or from the port (R229, R285, R286). -/
def State.feed (s : State) (n : Nat) : State :=
  let t := s.cx.stream n
  match t.kind with
  | 2 =>
    (match crossAddr t.base with
     | none => s
     | some (u, ch) =>
       let k := s.crossing u
       if t.data.isEmpty then
         let (x, v) := s.fillOuts k (k.chan ch)
         let s := s.tapErrors ⟨s.me, s.res, s.cx.pc, s.wordIx⟩ u ch k (k.chan ch).n (s.takeOuts k x.gC x.n (k.chan ch)).2.length
         let s := s.setCrossing u (k.setChan ch (k.deliver x v false))
         s.modCx (fun x => x.setStream n { t with data := [v], moved := t.moved + 1 })
       else s.setCrossing u (k.setChan ch (k.deliver (k.chan ch) (t.data.headD 0) true)))
  | 3 =>
    if t.data.isEmpty then
      let (v, t') := (s.regOf s.me).portTake t
      s.modCx (fun x => x.setStream n { t' with data := [v] })
    else s
  | _ => s

/-- One register of a bound stream consumed or reserved (R158). -/
def Ctx.taken1 (x : Ctx) (n : Nat) : Ctx :=
  let t := x.stream n
  x.setStream n { t with taken := t.taken + 1, data := if t.write then t.data else t.data.tail }

/-- Whether a word is in the CX or MX group (Table 22.3). -/
def commandWord (i : Instr) : Bool :=
  let g := group ((encodeWords i true).headD 0)
  g = 4 || g = 5

/-- Whether a word is a matrix pass (Table 22.3). -/
def matrixPass : Instr → Bool
  | .mma _ _ _ _ _ _ _ _ _ _ => true
  | .mmas _ _ _ _ _ _ _ _ _ => true
  | .mmag _ _ _ _ _ _ _ _ _ _ => true
  | .mhad _ _ _ => true
  | _ => false

/-- Whether an M word leaves the core (Table 22.3). DEDUCED, log 73. -/
def State.leaves (s : State) (i : Instr) : Bool :=
  let x := s.cx
  let other := fun (h : Word) =>
    match handleOf h with
    | some (_, q) => decide (q / 8 ≠ s.me)
    | none => false
  match i with
  | .enq a _ => other (x.rg a)
  | .deq a _ => other (x.rg a)
  | _ =>
    match slotAcc x i with
    | some t => !t.near s.me
    | none => false

/-- The charge of a word (Table 22.3). -/
def State.wordCharge (s : State) (i : Instr) : Nat :=
  match slotClass i with
  | .s => 3 * wordCount i + (if commandWord i then 8 else 0) + (if matrixPass i then 2048 else 0)
  | .v => 16
  | .f => 24
  | .m => if s.leaves i then 40 else 10
  | .none => 0

/-- The event of a slot access (Table 22.4), if the word makes one. DEDUCED, log 73. -/
def State.accessEvent (s : State) (i : Instr) : Option Nat :=
  (slotAcc s.cx i).map (fun t => if t.near s.me then 0x0B else 0x0C)

/-- The accesses of a word that issues: their translations installed (R346), and their DET notes when the context is checked
(R137). -/
def State.useWord (s : State) (i : Instr) : State :=
  let r := slotRanges s.cx i
  match s.resolveSegs s.me s.cx r.1 r.2 with
  | .error _ => s
  | .ok ps => (ps.foldl (fun s p => s.tlbPut s.me p.2.tlb) s).detTouch s.me s.res (r.1 != .load) (detRanges (ps.map (fun p => p.1)))

/-- Before a word: its slot, its stream data, its charge and events (R158, R393, R395). -/
def State.beforeWord (s : State) (i : Instr) : State :=
  let s := s.place i
  let s := (s.cx.boundIn false (uses i).vr).foldl State.feed s
  let s := s.charge s.me s.res (s.wordCharge i)
  match s.accessEvent i with
  | some e => s.event s.me s.res e
  | none => s

/-- After a word: translations and DET notes, stream registers taken, the next word index. -/
def State.afterWord (s : State) (i : Instr) : State :=
  let s := s.useWord i
  let x := s.cx
  let s := s.modCx (fun y => (x.boundIn false (uses i).vr ++ x.boundIn true (uses i).vw).foldl Ctx.taken1 y)
  { s with wordIx := s.wordIx + wordCount i }

/-- One word of a bundle that issues. -/
def State.word (s : State) (i : Instr) (k : State → State) : State := (k (s.beforeWord i)).afterWord i

/-! ### Errors in the register files (R367) -/

/-- The words of the register files that a word of a bundle reads, as first word and number. DESIGN CHOICE, log 83. -/
def Ctx.fileReads (x : Ctx) (i : Instr) : List (Nat × Nat) :=
  let u := uses i
  ((u.gr.filter (fun n => n != 0)).map (fun n => (n.toNat, 1))) ++
    ((u.vr.filter (fun n => !(x.stream n.toNat).bound)).map (fun n => (fileV n.toNat, 64))) ++
    (((masksRead i).filter (fun n => n != 0)).map (fun n => (fileM n.toNat, 8))) ++
    (u.q.map (fun n => (fileQ n.toNat, 72))) ++ ((x.tilesRead i).map (fun t => (fileAcc t, 2048)))

/-- The words in error that the words of a bundle read. DESIGN CHOICE, log 83. -/
def State.readFiles (s : State) (c : Nat) (res : BitVec 1) (is : List Instr) : State :=
  let x := s.ctx c res
  if x.upsets = [] then s
  else
    (mkBundle 0 is).foldl (fun s w => s.touchFiles ⟨c, res, x.pc, w.ix⟩ (x.fileReads w.i)) s

/-! ### Around a bundle -/

/-- A bundle of these words issues (R159, R321, R322, R367): the shadow comes back, the counts of the context begin. -/
def State.begins (s : State) (is : List Instr) : State :=
  let now := s.now s.me
  let s := if s.cx.act then s else s.unshadow s.me s.res now
  let s := s.modCx (fun x =>
    { x with
      stall := none
      held := if x.heldRun then x.held else 0
      heldRun := true
      span := if x.span.isNone then some now else x.span
      evs := if x.resident then
          x.evs ++ (2, x.lvl == 0) :: List.replicate (is.map wordCount).sum (3, x.lvl == 0)
        else x.evs })
  { s.readFiles s.me s.res is with bundle := some (nextPc s.cx.pc is), slotNo := 0, wordIx := 0, ctl := .plain }

/-- The address behind the bundle in hand. -/
def State.nextAddr (s : State) : Word := s.bundle.getD 0

/-- The loop test of a bundle that issued without a taken transfer (R169). -/
def Ctx.loopTest (x : Ctx) (next : Word) : Ctx :=
  if x.lact && x.pc == x.lend then
    if 1 < x.lcnt.toNat then { x with lcnt := x.lcnt - 1, pc := x.lbeg }
    else { x with lact := false, pc := next }
  else { x with pc := next }

/-- The BAR and TLBI waits of a bundle ended, with the bundle (R220, R347). -/
def Ctx.waitsDone (x : Ctx) : Ctx :=
  { x with
    barWait := x.barWait.filter (fun w => w.2.2 != x.pc)
    tlbiWait := if x.tlbiWait.any (fun t => t.pc == x.pc) then none else x.tlbiWait }

/-- The bundle is over: no BAR waits with it, and nothing is in hand. -/
def State.idleHand (s : State) : State :=
  { s.modCx Ctx.waitsDone with bundle := none, ctl := .plain, slotNo := 0, wordIx := 0 }

/-- A taken transfer: out of the body it ends the loop; the loop state under a handler is that of the code it interrupted,
and stays (R170). DEDUCED, log 89. -/
def Ctx.jumpTo (x : Ctx) (t : Word) (now : Nat) : Ctx :=
  { x with
    lact := x.lact && (x.act || (decide (x.lbeg.toNat ≤ t.toNat) && decide (t.toNat ≤ x.lend.toNat)))
    pc := t, gate := now + 2 }

/-- What the control word of a bundle does that issued in cycle `now`; the bundle behind issues `wait` cycles later (R61,
R144, R169 to R171). -/
def State.transfer (s : State) (next : Word) (now wait : Nat) : Go → State
  | .next => s.modCx (fun x => { x.loopTest next with gate := now + wait })
  | .jump t => (s.event s.me s.res 9).modCx (fun x => x.jumpTo t now)
  | .knext => s.taskEnd s.me s.res now false
  | .endTask => s.taskEnd s.me s.res now true

/-- The trap of a TRAP or BREAK in a bundle at `pc`, one cycle after its issue (R172). -/
def Trap.soft (pc next : Word) (t : BitVec 17 × Word × Nat) : Trap :=
  ⟨10, 0, next, t.2.1, false, some { FaultRec.plain 10 0 pc with slot := t.2.2, aux0 := t.2.1, aux1 := t.1.setWidth 64 }⟩

/-- Where a context goes on behind a bundle that issued in cycle `now` and ends as given: the return or the transfer, then
the trap (R61, R169 to R172, R179, R181, R358). DEDUCED, log 56. -/
def State.goOn (s : State) (next : Word) (now : Nat) (k : Ctl) : State :=
  let t := if k.eret then s.eret s.me s.res now else s.transfer next now (if k.refetch then 2 else 1) k.go
  match k.trap with
  | none => t
  | some q => t.takeTrap s.me s.res (now + 1) (Trap.soft s.cx.pc next q)

/-- The trap that a TRAP or BREAK asks for; the first word of a bundle that does is the one taken (R172, R179). -/
def State.softTrap (s : State) (code : BitVec 17) (arg : Word) : State :=
  { s with ctl := { s.ctl with trap := s.ctl.trap.or (some (code, arg, s.wordIx)) } }

/-- The end of a bundle (R144). -/
def State.finish (s : State) : State := s.idleHand.goOn s.nextAddr (s.now s.me) s.ctl

/-- An asynchronous trap that is pending, and the state without it (R354). -/
def State.asyncTrap (s : State) (c : Nat) (res : BitVec 1) : Option State :=
  let x := s.ctx c res
  let now := s.now c
  if x.act then none
  else if 0 < x.overrun then
    let p := (s.regOf c).period
    let f := { FaultRec.plain 8 0 x.pc with aux0 := p, aux1 := x.cursor.setWidth 64 }
    some ((s.modCtx c res (fun x => { x with overrun := x.overrun - 1 })).takeTrap c res now ⟨8, 0, x.pc, p, true, some f⟩)
  else
    match x.mismatch with
    | none => none
    | some (step, own, peer, cause) =>
      let f := { FaultRec.plain 11 cause x.pc with
        addr := step.setWidth 64, aux0 := own.setWidth 64, aux1 := own.extractLsb' 64 64, aux2 := peer.setWidth 64,
        aux3 := peer.extractLsb' 64 64 }
      some ((s.modCtx c res (fun x => { x with mismatch := none })).takeTrap c res now
        ⟨11, cause, x.pc, step.setWidth 64, true, some f⟩)

/-- The WAIT_LIMIT that the matrix engine left for the next bundle (R240). -/
def State.matrixLimit (s : State) (c : Nat) (res : BitVec 1) : Option State :=
  let x := s.ctx c res
  match x.asyncWl with
  | none => none
  | some (h, p, q, n) =>
    let f := { FaultRec.plain 7 8 x.pc with obj := h, aux0 := p, aux1 := q, aux2 := BitVec.ofNat 64 n }
    some ((s.modCtx c res (fun x => { x with asyncWl := none })).takeTrap c res (s.now c)
      ⟨7, 8, x.pc, BitVec.ofNat 64 h, false, some f⟩)

/-- A bundle that names a register whose load a restore abandoned (R332, R335): a WAIT_LIMIT at once. -/
def State.abandonedTrap (s : State) (c : Nat) (res : BitVec 1) (ws : List BWord) : Option State :=
  ((s.ctx c res).abandonedIn ws).map (fun r =>
    s.waitLimit c res { cause := 6, obj := r.1.num, limit := longLimit, ev := 5, slot := r.2, reg := some r.1 })

/-- After the trap for a command with a DET conflict: its channel resumes at the ERET (R138, R364). -/
def State.engineTrapped (s : State) (c : Nat) (res : BitVec 1) (d : DetStop) : State :=
  let chs := (s.core c).chans.filter (fun p => p.2.cur.any (fun m => d.cmd == some m.seq))
  s.modCtx c res (fun x => { x with detWl := x.detWl.erase d, reported := x.reported ++ chs.map (fun p => (c, p.1)) })

/-- The stream registers whose failed check this trap of a bundle reports: they are left unbound (R228). -/
def State.failMet (s : State) (c : Nat) (res : BitVec 1) (is : List Instr) (q : Trap) : State :=
  let ix := (q.record.map (fun f => f.slot)).getD 0
  let met := ((mkBundle 0 is).filter (fun w => w.ix = ix)).flatMap (fun w => streamNames w.i)
  s.modCtx c res (fun x => met.foldl (fun x n =>
    match (x.stream n).fail with
    | some e => if e.code == q.code then x.setStream n Stream.none else x
    | none => x) x)

/-- A bundle whose words decode, before its first word: the state, and whether it issues (R142, R157, R354).
DEDUCED, log 81. -/
def State.clears (s : State) (c : Nat) (res : BitVec 1) (is : List Instr) : State × Bool :=
  let s := s.modCtx c res Ctx.freshWaits
  let ws := mkBundle 0 is
  match s.check c res ws with
  | .trap t => ((s.failMet c res is t).takeTrap c res (s.now c) t, false)
  | .report => (s.report c res (s.now c), false)
  | .engine t d => ((s.takeTrap c res (s.now c) t).engineTrapped c res d, false)
  | .ok =>
    match (s.matrixLimit c res).or (s.abandonedTrap c res ws) with
    | some t => (t, false)
    | none =>
      let first := s.holds c res ws
      let s := if first.isEmpty then (s.arriveAll c res is).tlbiAll c res is else s
      let all := first ++ s.lateWhy c res ws
      if all.isEmpty then (s, true) else (s.stallFor c res all, false)

/-- A bundle of one word. -/
def State.single (s : State) (i : Instr) (k : State → State) : State :=
  match s.asyncTrap s.me s.res with
  | some t => t
  | none =>
    let (t, ok) := s.clears s.me s.res [i]
    if ok then ((t.begins [i]).word i k).finish else t

/-- An instruction word with its effect: as a word of the bundle in hand, or as a bundle of its own. -/
def issue (i : Instr) (s : State) (k : State → State) : Host.Outcome State Fault Refusal :=
  .next (if s.bundle.isSome then s.word i k else s.single i k)

end Sys2Proof.Machine
end

