-- ==== Sys2Proof/Machine/Timed.lean ====
section
/-!
DEFINITION. Shared operations of the words that act on memory, engines and fences: timed effects put in flight, loads,
stores, atomics and releases by target (R22, R101, R103, R132, R208 to R216), and engine commands put in their queues.
-/

namespace Sys2Proof.Machine

/-- The port rank of the M word in hand: 2 for slot port 0, 3 for slot port 1 (R100, R101). -/
def State.rank (s : State) : Nat := s.slotNo - 4

/-- A timed effect of the word in hand, `lat` cycles after its issue. -/
def State.later (s : State) (lat : Nat) (cls : Cls) (a : Act) : State :=
  let t : Timed := ⟨s.now s.me + lat, s.rank, s.seq, s.wordIx, s.res, s.cx.pc, cls, .no, a⟩
  (s.modMe (fun k => { k with timed := k.timed ++ [t] })).tick1

/-- A register or polynomial made busy under a message number (R103, R274). -/
def State.setBusy (s : State) (r : BusyReg) (id : Nat) : State := s.modCx (fun x => { x with busy := x.busy ++ [(r, id)] })

/-- Whether a register is g0, which is never busy. -/
def BusyReg.isZero : BusyReg → Bool
  | .g n => n = 0
  | _ => false

/-- A message that answers into a register, which it keeps busy; into g0 nothing is written (R103, R216). -/
def State.sendInto (s : State) (m : Msg) (r : BusyReg) (sext : Nat) : State :=
  if r.isZero then s.send { m with dest := .none }
  else (s.setBusy r s.seq).send { m with dest := .reg r sext }

/-- The parts of an access; none when it does not resolve. -/
def State.accParts (s : State) (t : SlotAcc) : List Part :=
  match s.resolveSegs s.me s.cx t.acc t.segs with
  | .ok ps => ps.map (fun p => p.1)
  | .error _ => []

/-- The number of an access's first address. -/
def SlotAcc.va (t : SlotAcc) : Word := (t.segs.headD (0, 0)).1

/-- A message of the word in hand for an access. -/
def State.accMsg (s : State) (t : SlotAcc) (scope : BitVec 3) (ask : Ask) : Msg :=
  { s.message s.me s.res t.cls scope t.va (s.accParts t) ask .none with slot := s.wordIx }

/-- A near access of the word in hand as a message that performs `lat` cycles after issue or, if that is later, a cycle after
the last access that it waits for (R132). -/
def State.heldMsg (s : State) (lat : Nat) (m : Msg) : Msg :=
  { m with own := true, due := s.now s.me + lat, after := (m.after ++ s.gates s.me s.res).eraseDups }

/-- Whether nothing outstanding holds back a near access of the word in hand (R124, R132). DEDUCED, log 26. -/
def State.ungated (s : State) : Bool := (s.gates s.me s.res).isEmpty

/-- A load (R209 to R211, R213): near at issue + 6; held back, or elsewhere, under a busy bit. -/
def State.load (s : State) (t : SlotAcc) (r : Reg) (b : BusyReg) (sext : Nat) (scope : BitVec 3 := 0) : State :=
  if !t.near s.me then s.sendInto (s.accMsg t scope .read) b sext
  else if s.ungated then s.later 6 t.cls (.load r (t.segs.map (fun g => (vaultOffset g.1, g.2))) sext)
  else s.sendInto (s.heldMsg 6 (s.accMsg t scope .read)) b sext

/-- A scalar load. -/
def State.loadG (s : State) (t : SlotAcc) (d : BitVec 6) (sext : Nat) (scope : BitVec 3 := 0) : State :=
  s.load t (.g d) (.g d) sext scope

/-- A vector load. -/
def State.loadV (s : State) (t : SlotAcc) (d : BitVec 5) : State := s.load t (.v d) (.v d) 0

/-- Near stores of consecutive bytes to the ranges of an access. -/
def State.storeNear (s : State) (cls : Cls) : List (Word × Nat) → List Byte → State
  | [], _ => s
  | g :: gs, bs => (s.later 6 cls (.store (vaultOffset g.1) (bs.take g.2))).storeNear cls gs (bs.drop g.2)

/-- A store (R209, R210): near at issue + 6, else counted. -/
def State.store (s : State) (t : SlotAcc) (bs : List Byte) : State :=
  if !t.near s.me then s.send (s.accMsg t 0 (.write bs))
  else if s.ungated then s.storeNear t.cls t.segs bs
  else s.send (s.heldMsg 6 (s.accMsg t 0 (.write bs)))

/-- The cycle in which the access of a timed effect has performed; none for an ENQ, which its queue has still to take
(R226). -/
def Timed.last (t : Timed) : Option Nat :=
  match t.act with
  | .polyLoad _ _ k _ => some (t.due + (8 - k))
  | .enqRead _ _ _ => none
  | _ => some t.due

/-- Whether accesses are near ones in flight that all perform by a cycle. -/
def State.nearBy (s : State) (c : Nat) (ids : List Nat) (cycle : Nat) : Bool :=
  ids.all (fun id => (s.core c).timed.any (fun t => t.seq = id && t.last.any (fun n => decide (n ≤ cycle))))

/-- A release of 8 bytes (R132, R213, R231): timed in the own vault when nothing it orders is later than that, else held
until a cycle after the last access it orders has performed. DEDUCED, log 25. -/
def State.release8 (s : State) (t : SlotAcc) (scope : BitVec 3) (v : Word) : State :=
  let m := s.accMsg t scope (.write (wordBytes v))
  let at6 := s.now s.me + 6
  if !t.near s.me then s.send m
  else if s.nearBy s.me m.after (at6 - 1) then s.storeNear t.cls t.segs (wordBytes v)
  else s.send (s.heldMsg 6 m)

/-- Whether a near atomic of the word in hand may perform at issue + 8: nothing holds it back or, if its ar bit makes it a
release, what it orders has performed by then (R132, R216). -/
def State.atomicFree (s : State) (t : SlotAcc) (m : Msg) : Bool :=
  if t.cls = .at then s.ungated else s.nearBy s.me m.after (s.now s.me + 7)

/-- An atomic (R214 to R216): in the own vault at issue + 8, held as a release if its ar bit asks for more; elsewhere a
message, whose old value comes back under a busy bit. DEDUCED, log 25. -/
def State.atomic (s : State) (t : SlotAcc) (op : BitVec 5) (d : BitVec 6) (scope : BitVec 3) (y c : Word) : State :=
  let m := s.accMsg t scope (.atomic op y c)
  if !t.near s.me then s.sendInto m (.g d) 0
  else if s.atomicFree t m then s.later 8 t.cls (.atomic op d (vaultOffset t.va) y c)
  else s.sendInto (s.heldMsg 8 m) (.g d) 0

/-! ### Engine commands -/

/-- A command with a fixed script (R250, R263), issued by the word in hand. -/
def State.pushSmall (s : State) (i : Instr) (a b : Word) : State :=
  let m : SmallCmd := ⟨i, s.res, s.now s.me, s.seq, s.cx.pc, s.wordIx, a, b, s.gates s.me s.res, 0, 0, []⟩
  (s.modMe (fun k => { k with small := k.small ++ [m] })).tick1

/-- A contact command (R277), with the threshold of its block as read at issue. -/
def State.pushContact (s : State) (i : Instr) (a b : Word) (th : BitVec 32) : State :=
  let m : CtCmd := ⟨i, s.res, s.now s.me, s.seq, s.cx.pc, s.wordIx, a, b, s.gates s.me s.res, th, none, 0, 0, []⟩
  (s.modMe (fun k => { k with ct := k.ct ++ [m] })).tick1

/-- A copy or KV command put behind its channel (R254). -/
def State.pushCopy (s : State) (ch : Nat) (kind : BitVec 2) (tidx : BitVec 6) (mode : BitVec 2) (disp kd kp : Word) :
    State :=
  let k := s.core s.me
  let m : CopyCmd :=
    { kind := kind, res := s.res, seq := s.seq, pc := s.cx.pc, slot := s.wordIx, issue := s.now s.me, tidx := tidx, mode := mode,
      disp := disp, aperture := false, sat := some (s.cx.round.getLsbD 2), tmpl := none, kvDesc := kd, kvPath := kp,
      after := k.openEcw s.res, gates := s.gates s.me s.res, cursor0 := 0, kvBuf := [], kvShift := 0 }
  (s.modMe (fun k => k.setChan ch { k.chan ch with queue := (k.chan ch).queue ++ [m] })).tick1

/-- The gather configuration that an MMAG names, as it stands. -/
def Ctx.gather (x : Ctx) : Instr → BitVec 1536
  | .mmag _ _ j _ _ _ _ _ _ _ => Table.get 0 x.gcfg j.toNat
  | _ => 0

/-- A matrix command (R236, R239) with the kind tags it changes at its issue. -/
def State.pushMatrix (s : State) (i : Instr) : State :=
  let x := s.cx
  let k := s.core s.me
  let y := x.mxTags i
  let cfgs := match i with
    | .mmag _ _ j _ _ _ _ _ _ _ => (k.small.filter (fun m => m.res == s.res &&
        (match m.i with
         | .gcfg _ n => n == j
         | _ => false))).map (fun m => m.seq)
    | _ => []
  let m0 : MxCmd :=
    { i := i, res := s.res, issue := s.now s.me, seq := s.seq, pc := x.pc, slot := s.wordIx, fxq := x.fxq, satf := x.satf, fx := x.fx,
      tags := [], gates := s.gates s.me s.res, gcfgAfter := cfgs, cfg := x.gather i, head := if k.mq.isEmpty then some (s.now s.me) else none, start := none, shift := 0, row := 0, aPend := false, bPend := false,
      aRows := [], bRows := [], endAt := none }
  let m := { m0 with tags := m0.tiles.map (fun t => (t, x.tagOf t)) }
  ((s.modCx (fun _ => y)).modMe (fun k => { k with mq := k.mq ++ [m] })).tick1

end Sys2Proof.Machine
end

