-- ==== Sys2Proof/Machine/Loads.lean ====
section
/-!
DEFINITION. The ML group: loads and stores (R208 to R212, R232, R274).
-/

namespace Sys2Proof.Machine

/-- The access of the word in hand given to its effect. -/
def State.withAcc (s : State) (i : Instr) (f : SlotAcc → State) : State :=
  match slotAcc s.cx i with
  | some t => f t
  | none => s

/-- The low bytes of a scalar register. -/
def lowBytes (n : Nat) (w : Word) : List Byte := numBytes n w.toNat

/-- A store of n bytes of a scalar register. -/
def State.storeG (s : State) (t : SlotAcc) (n : Nat) (d : BitVec 6) : State := s.store t (lowBytes n (s.cx.rg d))

/-- LDB (Table 10.1): sign-extended byte. -/
def execLdb (d a : BitVec 6) (o : BitVec 10) (s : State) : Host.Outcome State Fault Refusal :=
  issue (.ldb d a o) s (fun s => s.withAcc (.ldb d a o) (fun t => s.loadG t d 8))

/-- LDH (Table 10.1): sign-extended 2 bytes. -/
def execLdh (d a : BitVec 6) (o : BitVec 10) (s : State) : Host.Outcome State Fault Refusal :=
  issue (.ldh d a o) s (fun s => s.withAcc (.ldh d a o) (fun t => s.loadG t d 16))

/-- LDW (Table 10.1): sign-extended 4 bytes. -/
def execLdw (d a : BitVec 6) (o : BitVec 10) (s : State) : Host.Outcome State Fault Refusal :=
  issue (.ldw d a o) s (fun s => s.withAcc (.ldw d a o) (fun t => s.loadG t d 32))

/-- LDD (Table 10.1): 8 bytes. -/
def execLdd (d a : BitVec 6) (o : BitVec 10) (s : State) : Host.Outcome State Fault Refusal :=
  issue (.ldd d a o) s (fun s => s.withAcc (.ldd d a o) (fun t => s.loadG t d 0))

/-- LDBN (Table 10.1): zero-extended byte. -/
def execLdbn (d a : BitVec 6) (o : BitVec 10) (s : State) : Host.Outcome State Fault Refusal :=
  issue (.ldbn d a o) s (fun s => s.withAcc (.ldbn d a o) (fun t => s.loadG t d 0))

/-- LDHN (Table 10.1): zero-extended 2 bytes. -/
def execLdhn (d a : BitVec 6) (o : BitVec 10) (s : State) : Host.Outcome State Fault Refusal :=
  issue (.ldhn d a o) s (fun s => s.withAcc (.ldhn d a o) (fun t => s.loadG t d 0))

/-- LDWN (Table 10.1): zero-extended 4 bytes. -/
def execLdwn (d a : BitVec 6) (o : BitVec 10) (s : State) : Host.Outcome State Fault Refusal :=
  issue (.ldwn d a o) s (fun s => s.withAcc (.ldwn d a o) (fun t => s.loadG t d 0))

/-- STB (Table 10.1): the low 1 bytes. -/
def execStb (d a : BitVec 6) (o : BitVec 10) (s : State) : Host.Outcome State Fault Refusal :=
  issue (.stb d a o) s (fun s => s.withAcc (.stb d a o) (fun t => s.storeG t 1 d))

/-- STH (Table 10.1): the low 2 bytes. -/
def execSth (d a : BitVec 6) (o : BitVec 10) (s : State) : Host.Outcome State Fault Refusal :=
  issue (.sth d a o) s (fun s => s.withAcc (.sth d a o) (fun t => s.storeG t 2 d))

/-- STW (Table 10.1): the low 4 bytes. -/
def execStw (d a : BitVec 6) (o : BitVec 10) (s : State) : Host.Outcome State Fault Refusal :=
  issue (.stw d a o) s (fun s => s.withAcc (.stw d a o) (fun t => s.storeG t 4 d))

/-- STD (Table 10.1): 8 bytes; to the own copy aperture it acts as a CPY (R232). -/
def execStd (d a : BitVec 6) (o : BitVec 10) (s : State) : Host.Outcome State Fault Refusal :=
  issue (.std d a o) s (fun s => s.withAcc (.std d a o) (fun t =>
    match s.channelOf s.me s.cx (.std d a o) with
    | some ch => s.pushCopy ch 0 ((s.cx.rg d).setWidth 6) 0 0 0 0
    | none => s.storeG t 8 d))

/-- VLD (R210). -/
def execVld (d : BitVec 5) (a : BitVec 6) (o : BitVec 10) (s : State) : Host.Outcome State Fault Refusal :=
  issue (.vld d a o) s (fun s => s.withAcc (.vld d a o) (fun t => s.loadV t d))

/-- VST (R210). -/
def execVst (d : BitVec 5) (a : BitVec 6) (o : BitVec 10) (s : State) : Host.Outcome State Fault Refusal :=
  issue (.vst d a o) s (fun s => s.withAcc (.vst d a o) (fun t => s.store t (numBytes 512 (s.cx.rv d).toNat)))

/-- VLDX (R211). -/
def execVldx (d : BitVec 5) (a : BitVec 6) (o : BitVec 10) (s : State) : Host.Outcome State Fault Refusal :=
  issue (.vldx d a o) s (fun s => s.withAcc (.vldx d a o) (fun t => s.loadV t d))

/-- LDF (R212): LDD when its access would raise no TRANSLATION, else 0 and invalid at issue + 6. -/
def execLdf (d a : BitVec 6) (o : BitVec 10) (s : State) : Host.Outcome State Fault Refusal :=
  issue (.ldf d a o) s (fun s => s.withAcc (.ldf d a o) (fun t =>
    match s.resolveSegs s.me s.cx t.acc t.segs with
    | .error _ => s.writeG 6 d 0 fInvalid
    | .ok ps =>
      if apertureBad s.me s.res (.ldf d a o) (ps.map (fun p => p.1)) then s.writeG 6 d 0 fInvalid
      else s.loadG t d 0))

/-- The image of a polynomial written near, 64 bytes a cycle from issue + 6 (R274). -/
def State.saveNear (s : State) (off : Nat) : Nat → List Byte → State
  | 0, _ => s
  | n + 1, bs =>
    let k := 8 - n
    (s.later (6 + k) .st (.store (off + 64 * k) (bs.take 64))).saveNear off n (bs.drop 64)

/-- PPSAVE (R274). -/
def execPpsave (d : BitVec 3) (a : BitVec 6) (o : BitVec 10) (s : State) : Host.Outcome State Fault Refusal :=
  issue (.ppsave d a o) s (fun s => s.withAcc (.ppsave d a o) (fun t =>
    let bs := (s.cx.poly d.toNat).image
    if !t.near s.me then s.send (s.accMsg t 0 (.write bs))
    else if s.ungated then s.saveNear (vaultOffset t.va) 9 bs
    else s.send (s.heldMsg 6 (s.accMsg t 0 (.write bs)))))

/-- PPLOAD (R274): near, sampled from issue + 6 on and performed at issue + 15, with the polynomial busy until then; held
back, or elsewhere, under a busy bit. -/
def execPpload (d : BitVec 3) (a : BitVec 6) (o : BitVec 10) (s : State) : Host.Outcome State Fault Refusal :=
  issue (.ppload d a o) s (fun s => s.withAcc (.ppload d a o) (fun t =>
    if !t.near s.me then s.sendInto (s.accMsg t 0 .read) (.q d) 0
    else if s.ungated then
      let s := s.later 6 .ld (.polyLoad d (vaultOffset t.va) 0 [])
      s.modCx (fun x => { x with qbusy := Table.set x.qbusy d.toNat (s.now s.me + 15) })
    else s.sendInto (s.heldMsg 6 (s.accMsg t 0 .read)) (.q d) 0))

end Sys2Proof.Machine
end

