-- ==== Sys2Proof/Machine/Atomics.lean ====
section
/-!
DEFINITION. The MA group: atomics, LDACQ and STREL (R213 to R216).
-/

namespace Sys2Proof.Machine

/-- AADD (R214 to R216). -/
def execAadd (d a b : BitVec 6) (sc : BitVec 3) (r : BitVec 1) (s : State) : Host.Outcome State Fault Refusal :=
  issue (.aadd d a b sc r) s (fun s => s.withAcc (.aadd d a b sc r) (fun t => s.atomic t 0 d sc (s.cx.rg b) 0))

/-- AMIN (R214 to R216). -/
def execAmin (d a b : BitVec 6) (sc : BitVec 3) (r : BitVec 1) (s : State) : Host.Outcome State Fault Refusal :=
  issue (.amin d a b sc r) s (fun s => s.withAcc (.amin d a b sc r) (fun t => s.atomic t 1 d sc (s.cx.rg b) 0))

/-- AMAX (R214 to R216). -/
def execAmax (d a b : BitVec 6) (sc : BitVec 3) (r : BitVec 1) (s : State) : Host.Outcome State Fault Refusal :=
  issue (.amax d a b sc r) s (fun s => s.withAcc (.amax d a b sc r) (fun t => s.atomic t 2 d sc (s.cx.rg b) 0))

/-- AMINN (R214 to R216). -/
def execAminn (d a b : BitVec 6) (sc : BitVec 3) (r : BitVec 1) (s : State) : Host.Outcome State Fault Refusal :=
  issue (.aminn d a b sc r) s (fun s => s.withAcc (.aminn d a b sc r) (fun t => s.atomic t 3 d sc (s.cx.rg b) 0))

/-- AMAXN (R214 to R216). -/
def execAmaxn (d a b : BitVec 6) (sc : BitVec 3) (r : BitVec 1) (s : State) : Host.Outcome State Fault Refusal :=
  issue (.amaxn d a b sc r) s (fun s => s.withAcc (.amaxn d a b sc r) (fun t => s.atomic t 4 d sc (s.cx.rg b) 0))

/-- AAND (R214 to R216). -/
def execAand (d a b : BitVec 6) (sc : BitVec 3) (r : BitVec 1) (s : State) : Host.Outcome State Fault Refusal :=
  issue (.aand d a b sc r) s (fun s => s.withAcc (.aand d a b sc r) (fun t => s.atomic t 5 d sc (s.cx.rg b) 0))

/-- AOR (R214 to R216). -/
def execAor (d a b : BitVec 6) (sc : BitVec 3) (r : BitVec 1) (s : State) : Host.Outcome State Fault Refusal :=
  issue (.aor d a b sc r) s (fun s => s.withAcc (.aor d a b sc r) (fun t => s.atomic t 6 d sc (s.cx.rg b) 0))

/-- AXOR (R214 to R216). -/
def execAxor (d a b : BitVec 6) (sc : BitVec 3) (r : BitVec 1) (s : State) : Host.Outcome State Fault Refusal :=
  issue (.axor d a b sc r) s (fun s => s.withAcc (.axor d a b sc r) (fun t => s.atomic t 7 d sc (s.cx.rg b) 0))

/-- ASWAP (R214 to R216). -/
def execAswap (d a b : BitVec 6) (sc : BitVec 3) (r : BitVec 1) (s : State) : Host.Outcome State Fault Refusal :=
  issue (.aswap d a b sc r) s (fun s => s.withAcc (.aswap d a b sc r) (fun t => s.atomic t 8 d sc (s.cx.rg b) 0))

/-- ACAS (R214 to R216). -/
def execAcas (d a b : BitVec 6) (sc : BitVec 3) (r : BitVec 1) (s : State) : Host.Outcome State Fault Refusal :=
  issue (.acas d a b sc r) s (fun s => s.withAcc (.acas d a b sc r) (fun t => s.atomic t 9 d sc (s.cx.rg b) (s.cx.rg d)))

/-- AGTS (R214 to R216). -/
def execAgts (d a b : BitVec 6) (sc : BitVec 3) (r : BitVec 1) (s : State) : Host.Outcome State Fault Refusal :=
  issue (.agts d a b sc r) s (fun s => s.withAcc (.agts d a b sc r) (fun t => s.atomic t 10 d sc (s.cx.rg b) 0))

/-- AGTSN (R214 to R216). -/
def execAgtsn (d a b : BitVec 6) (sc : BitVec 3) (r : BitVec 1) (s : State) : Host.Outcome State Fault Refusal :=
  issue (.agtsn d a b sc r) s (fun s => s.withAcc (.agtsn d a b sc r) (fun t => s.atomic t 11 d sc (s.cx.rg b) 0))

/-- AVSWAP (R214 to R216). -/
def execAvswap (d a b : BitVec 6) (sc : BitVec 3) (r : BitVec 1) (s : State) : Host.Outcome State Fault Refusal :=
  issue (.avswap d a b sc r) s (fun s => s.withAcc (.avswap d a b sc r) (fun t => s.atomic t 12 d sc (s.cx.rg b) (s.cx.rg d)))

/-- ATAGSWAP (R214 to R216). -/
def execAtagswap (d a b : BitVec 6) (sc : BitVec 3) (r : BitVec 1) (s : State) : Host.Outcome State Fault Refusal :=
  issue (.atagswap d a b sc r) s (fun s => s.withAcc (.atagswap d a b sc r) (fun t => s.atomic t 13 d sc (s.cx.rg b) (s.cx.rg d)))

/-- AFADD (R214 to R216). -/
def execAfadd (d a b : BitVec 6) (sc : BitVec 3) (r : BitVec 1) (s : State) : Host.Outcome State Fault Refusal :=
  issue (.afadd d a b sc r) s (fun s => s.withAcc (.afadd d a b sc r) (fun t => s.atomic t 14 d sc (s.cx.rg b) 0))

/-- LDACQ (R213). -/
def execLdacq (d a : BitVec 6) (sc : BitVec 3) (s : State) : Host.Outcome State Fault Refusal :=
  issue (.ldacq d a sc) s (fun s => s.withAcc (.ldacq d a sc) (fun t => s.loadG t d 0 sc))

/-- STREL (R213). -/
def execStrel (a b : BitVec 6) (sc : BitVec 3) (s : State) : Host.Outcome State Fault Refusal :=
  issue (.strel a b sc) s (fun s => s.withAcc (.strel a b sc) (fun t => s.release8 t sc (s.cx.rg b)))

end Sys2Proof.Machine
end

