-- ==== Sys2Proof/Machine/Ports.lean ====
section
/-!
DEFINITION. Engine accesses to the own vault: the ports of a cycle (R100, R102), reads and writes with their records and
DET checks (R106, R107, R137, R138), and the advance of a ring's Q (R114, R137).
-/

namespace Sys2Proof.Machine

/-- The engine-port accesses taken in a cycle: bank, and whether a write (R102). -/
abbrev Ports := List (Nat × Bool)

/-- The ports that accesses of a range need. -/
def portsOf (wr : Bool) (off len : Nat) : Ports := [(bankOf off, wr), (bankOf (off + len - 1), wr)].eraseDups

/-- Ports taken, when all of them are free. -/
def claimPorts (p need : Ports) : Option Ports := if need.any (fun n => p.contains n) then none else some (p ++ need)

/-- An engine read of the own vault. DESIGN CHOICE, log 55. -/
def State.engRead (s : State) (a : Agent) (cmd off len : Nat) : Nat × State :=
  let key := vaultKey a.core off
  match s.detScan a.core a.res false [(key, len)] with
  | .error e => (Config.unread s.free % 256 ^ len, { s.detStop a (some cmd) [] e with free := s.free + 1 })
  | .ok s => (Memory.num s.mem key len, s.touchRead a key len)

/-- An engine write to the own vault, counted where it performs. DESIGN CHOICE, log 55. -/
def State.engWrite (s : State) (a : Agent) (cmd off : Nat) (bs : List Byte) : State :=
  let key := vaultKey a.core off
  match s.detScan a.core a.res true [(key, bs.length)] with
  | .error e => s.detStop a (some cmd) [(key, bs.length)] e
  | .ok s => (s.touchGuard a key bs.length).put key bs

/-- A deferred cycle of an engine access (R102). -/
def State.deferred (s : State) (c : Nat) : State := s.coreEvent c 0x0D

/-- Q of a ring advanced by n slots; the DET records of freed slots go (R114, R137). -/
def State.drainRing (s : State) (c : Nat) (res : BitVec 1) (h : Nat) (n : BitVec 9) : State :=
  let r := (s.ctx c res).ring h
  let s := (List.range n.toNat).foldl (fun s i =>
    s.detEmpty (vaultKey c (r.slotAt (r.q.toNat + i))) r.slotsize.toNat) s
  s.modCtx c res (fun x => x.setRing h ((x.ring h).drain n))

end Sys2Proof.Machine
end

