-- ==== Sys2Proof/Machine/Hoists.lean ====
section
/-!
DEFINITION. Hoists: descriptors, arming, reaches with their actions, and the release of pending slot actions
(R114, R117 to R119, R134, R263).
-/

namespace Sys2Proof.Machine

/-- The AOP bits that an action uses (Table 11.11). -/
def aopWidth (act : Nat) : Nat := match act with | 1 => 4 | 2 => 3 | 3 => 12 | _ => 0

/-- Where the range of a descriptor lies: its key, when it lies in one vault or in one page (R117, R263). -/
def State.hoistHome (s : State) (c : Nat) (x : Ctx) (d : BitVec 320) : Option Nat :=
  let base := d.extractLsb' 0 64
  let len := (d.extractLsb' 64 32).toNat
  if d.getLsbD 136 then
    match s.resolve c x base .load with
    | .ok ⟨.mem key, _, _, some t⟩ =>
      if key < 824633720832 ∧ base.toNat % t.size + len ≤ t.size then some key else none
    | _ => none
  else
    match s.resolve c x base .load with
    | .ok ⟨.mem key, _, _, _⟩ =>
      if inWindow base ∧ vaultOffset base + len ≤ 4194304 then some key else none
    | _ => none

/-- Whether a descriptor is valid apart from its range (R263); a nonzero field that must be zero counts as reserved.
DEDUCED, log 66. -/
def hoistValid (d : BitVec 320) : Bool :=
  let f := fun (lo len : Nat) => (d.extractLsb' lo len).toNat
  let act := f 144 3
  decide (act ≤ 4) && decide (f 160 16 < 2 ^ aopWidth act) && !(act = 2 && decide (4 < f 160 16)) &&
    decide (0 < f 64 32) && decide (0 < f 96 40) && !(d.getLsbD 137 && decide (f 64 32 < f 96 40)) &&
    f 139 5 = 0 && f 147 13 = 0 && f 176 16 = 0

/-- A descriptor installed: disarmed, count 0, the reach count kept (R263). DEDUCED, log 66. -/
def State.installHoist (s : State) (c : Nat) (res : BitVec 1) (k : Nat) (d : BitVec 320) (fixed : Bool) : State :=
  let x := s.ctx c res
  let h := x.hoist k
  let home := s.hoistHome c x d
  let total := (d.extractLsb' 96 40).toNat
  let h' : Hoist :=
    { h with
      installed := true, desc := d, home := home.getD 0, err := !hoistValid d || home.isNone, armed := false, count := 0
      fixed := h.fixed || fixed, changed := h.changed || (h.fixed && decide (h.total ≠ total)) }
  s.setCtx c res (x.setHoist k h')

/-- HARM (R263): arming clears the count, and for CONTIG the W tags of the range; an unusable hoist stays disarmed with
ERR set, and HARM of any kind sets ERR where no descriptor was installed. -/
def State.armHoist (s : State) (c : Nat) (res : BitVec 1) (k : Nat) (on : Bool) : State :=
  let h := (s.ctx c res).hoist k
  if !h.installed || (on && h.err) then s.modCtx c res (fun x => x.setHoist k { h with armed := false, err := true })
  else if !on then s.modCtx c res (fun x => x.setHoist k { h with armed := false })
  else
    let s := if h.contig then s.clearW h.home h.length else s
    s.modCtx c res (fun x => x.setHoist k { h with armed := true, count := 0 })

/-- The record of a hoist that ECR writes (Table 11.11). -/
def State.hoistRecord (s : State) (h : Hoist) : BitVec 512 :=
  (0 : BitVec 118) ++ b1 h.armed ++ b1 h.err ++ h.reach ++ BitVec.ofNat 40 (s.hoistValue h) ++ h.desc

/-- Whether a hoist reaches its total in this cycle (R114, R119). -/
def State.reaching (s : State) (h : Hoist) : Bool :=
  h.live && decide (h.total ≤ s.hoistValue h) && decide (h.pend.length < 256) && !h.held

/-- One more start credit for a record (R67). DEDUCED, log 38. -/
def Ctx.credit (x : Ctx) (i : Nat) : Ctx := x.modRec i Rec.addCredit

/-- HOIST_REACH (R119, R134): the reach count, the rearm policy, the action, and the DET records of the range (R137).
DEDUCED, log 66. -/
def State.reachHoist (s : State) (c : Nat) (res : BitVec 1) (k : Nat) : State :=
  let h := (s.ctx c res).hoist k
  if !s.reaching h || (s.ctx c res).saved then s
  else
    let h' : Hoist :=
      { h with
        reach := h.reach + 1
        armed := h.auto
        count := if h.auto && !h.contig then h.count - BitVec.ofNat 40 h.total else h.count }
    let s := if h.auto && h.contig then s.clearW h.home h.length else s
    let s := (s.modCtx c res (fun x => (x.setHoist k h').wake)).event c res 0x0F
    let s := s.detEmpty h.home h.length
    match h.action with
    | 1 => s.modCtx c res (fun x => x.slotAction k (h.aop % 16) (s.now c))
    | 2 =>
      let sc := BitVec.ofNat 3 h.aop
      if (s.ctx c res).dmem.getLsbD h.aop then s.arrive c res sc else s
    | 3 => s.modCtx c res (fun x => x.credit h.aop)
    | 4 => s.pennant c res ⟨2, k, 0, 0⟩ 4 h.paddr h.pval []
    | _ => s

/-- The reaches of one context in one cycle, by ascending handle. -/
def State.reaches1 (s : State) (c : Nat) (res : BitVec 1) : State :=
  ((s.ctx c res).hoists.map (fun p => p.1)).foldl (fun s k => s.reachHoist c res k) s

/-- PENDING_SLOT_ACTION_RELEASE (R114): the pending slot actions that an advance of Q or a ring reset lets go. -/
def State.releaseSlots (s : State) (c : Nat) (res : BitVec 1) (r : Nat) : State :=
  let x := s.ctx c res
  let g := x.ring r
  if g.relNow = 0 then s
  else s.setCtx c res (({ x with rings := Table.set x.rings r { g with relNow := 0 } }).release r g.relNow)

/-- The releases of all rings of a context. -/
def State.releaseAll (s : State) (c : Nat) (res : BitVec 1) : State :=
  ((s.ctx c res).rings.map (fun p => p.1)).foldl (fun s r => s.releaseSlots c res r) s

/-- The slot actions that the next cycle releases, those let go in this one; in it a hoist that held 256 may reach again. -/
def Ctx.turnRings (x : Ctx) : Ctx :=
  { x with
    rings := x.rings.map (fun p => (p.1, { p.2 with relNow := p.2.rel, rel := 0 }))
    hoists := x.hoists.map (fun p => (p.1, { p.2 with held := false })) }

end Sys2Proof.Machine
end

