-- ==== Sys2Proof/Machine/MatrixEngine.lean ====
section
/-!
DEFINITION. The matrix engine (R238 to R247): when a queued command starts, its reads, its end, its wait limit, and the
ballast passes beside it (R391).
-/

namespace Sys2Proof.Machine

/-- Who the accesses of a matrix command belong to. -/
def MxCmd.agent (m : MxCmd) (c : Nat) : Agent := ⟨c, m.res, m.pc, m.slot⟩

/-- The engine time E (R239). -/
def MxCmd.time (m : MxCmd) : Nat :=
  match m.i with
  | .mzero _ _ => 1
  | .mload _ _ _ k => if k = 2 then 256 else 128
  | _ => 64

/-- The rings whose Q the command advances (R239). DESIGN CHOICE, log 61. -/
def MxCmd.advances (m : MxCmd) : List Nat :=
  let two := fun (v : BitVec 2) (h j : Nat) =>
    ((if v.getLsbD 0 then [h] else []) ++ (if v.getLsbD 1 then [j] else [])).eraseDups
  match m.i with
  | .mma _ h j _ _ v _ _ _ _ => two v h.toNat j.toNat
  | .mmas _ h j _ _ v _ _ _ => two v h.toNat j.toNat
  | .mmag _ h _ _ _ v _ _ _ _ => if v.getLsbD 0 then [h.toNat] else []
  | .mload _ h v _ => if v = 1 then [h.toNat] else []
  | _ => []

/-- The first ring of a command without a FULL slot at Q (R239). -/
def State.mxWaits (s : State) (c : Nat) (m : MxCmd) : Option Nat :=
  (mxRings m.i).find? (fun h => ((s.ctx c m.res).ring h).full = 0)

/-- Whether a command at the head of the queue starts in this cycle (R239); its reads do not pass an earlier acquire (R132). -/
def State.mxCanStart (s : State) (c : Nat) (m : MxCmd) : Bool :=
  m.start.isNone && decide (m.issue + 7 ≤ s.now c) && (s.mxWaits c m).isNone &&
    m.gcfgAfter.all (fun g => !(s.core c).small.any (fun n => n.seq = g)) &&
    (m.rows = 0 || (s.still c m.gates).isEmpty)

/-- A change of the command at the head of the queue. -/
def State.modHead (s : State) (c : Nat) (f : MxCmd → MxCmd) : State :=
  s.modCore c (fun k => { k with mq := match k.mq with
    | [] => []
    | m :: t => f m :: t })

/-- MATRIX_COMMAND_START (R239). -/
def State.mxStart (s : State) (c : Nat) : State :=
  match (s.core c).mq with
  | [] => s
  | m :: _ =>
    if s.mxCanStart c m then
      let now := s.now c
      let s := s.modHead c (fun m =>
        { m with start := some now, aPend := true, bPend := true, endAt := if m.rows = 0 then some (now + m.time) else none })
      match m.i with
      | .mzero _ _ => s
      | .mload _ _ _ _ => s
      | _ => s.event c m.res 0x0A
    else s

/-! ### Reads -/

/-- A field of a gather configuration (Table 11.5). -/
def gfield (g : BitVec 1536) (lo len : Nat) : Nat := (g.extractLsb' lo len).toNat

/-- The vault offset of gathered row m, and whether it is read: a row beyond the vault reads as zero (R243). -/
def gatherRow (g : BitVec 1536) (len m : Nat) : Option Nat × Bool :=
  let idx := gfield g (512 + 16 * m) 16
  let off := gfield g 0 64 % 4194304 + idx * gfield g 64 32
  if idx = 0xFFFF then (none, false) else if 4194304 < off + len then (none, true) else (some off, false)

/-- Rows that a gather places (R243). -/
def gatherCount (g : BitVec 1536) (o : MxOp) : Nat := min (gfield g 96 8) (if o.bl then min 64 o.k else 64)

/-- The A access of row r: offset and length. -/
def State.mxA (s : State) (c : Nat) (m : MxCmd) (r : Nat) : Option (Nat × Nat) :=
  let x := s.ctx c m.res
  let slot := fun (h : BitVec 4) => let g := x.ring h.toNat; g.slotAt g.q.toNat
  match m.i, mxOpOf m.i with
  | .mload _ h _ _, _ => some (slot h + 128 * r, 128)
  | .mma _ h _ _ _ _ _ _ _ _, some o => some (slot h + r * o.pitchA, o.lenA)
  | .mmas _ h _ _ _ _ _ _ _, some o => some (slot h + r * o.pitchA, o.lenA)
  | .mmag _ h _ _ _ _ _ _ _ _, some o => some (slot h + r * o.pitchA, o.lenA)
  | _, _ => none

/-- The B access of row r. A B operand of 128 rows is read two rows to a cycle. -/
def State.mxB (s : State) (c : Nat) (m : MxCmd) (r : Nat) : Option (Nat × Nat) :=
  let x := s.ctx c m.res
  let ringB := fun (h : BitVec 4) (o : MxOp) =>
    let g := x.ring h.toNat
    let base := g.slotAt g.q.toNat
    if o.bl && decide (64 < o.k) then some (base + 2 * r * o.pitchB, 2 * o.pitchB)
    else if r < o.rowsB then some (base + r * o.pitchB, o.lenB) else none
  match m.i, mxOpOf m.i with
  | .mma _ _ j _ _ _ _ _ _ _, some o => ringB j o
  | .mmas _ _ j _ _ _ _ _ _, some o => ringB j o
  | .mmag _ _ _ _ _ _ _ _ _ _, some o =>
    if r < gatherCount m.cfg o then (gatherRow m.cfg o.lenB r).1.map (fun off => (off, o.lenB)) else none
  | _, _ => none

/-- A row of B kept; two rows of one access are taken apart. -/
def MxCmd.keepB (m : MxCmd) (v : Nat) : MxCmd :=
  match mxOpOf m.i with
  | some o =>
    if o.bl && decide (64 < o.k) && o.kind != 2 then
      let w := 256 ^ o.pitchB
      { m with bRows := Table.set (Table.set m.bRows (2 * m.row) (v % w)) (2 * m.row + 1) (v / w), bPend := false }
    else { m with bRows := Table.set m.bRows m.row v, bPend := false }
  | none => { m with bPend := false }

def MxCmd.keepA (m : MxCmd) (v : Nat) : MxCmd := { m with aRows := Table.set m.aRows m.row v, aPend := false }

/-- The A read of a row, then whether it took place. -/
def State.mxReadA (s : State) (c : Nat) (m : MxCmd) (a : Nat × Nat) : State × MxCmd :=
  let (v, s) := s.engRead (m.agent c) m.seq a.1 a.2
  (s, m.keepA v)

def State.mxReadB (s : State) (c : Nat) (m : MxCmd) (b : Nat × Nat) : State × MxCmd :=
  let (v, s) := s.engRead (m.agent c) m.seq b.1 b.2
  (s, m.keepB v)

/-- The reads of one row as far as the ports allow (R239): A and B together when one access carries both. -/
def State.mxReads (s : State) (c : Nat) (m : MxCmd) (p : Ports) : State × MxCmd × Ports :=
  let a := if m.aPend then s.mxA c m m.row else none
  let b := if m.bPend then s.mxB c m m.row else none
  let together := match a, b with
    | some a, some b => decide (bankOf a.1 = bankOf b.1) && decide (a.2 + b.2 ≤ 128)
    | _, _ => false
  let pa := match a with
    | some a => claimPorts p (portsOf false a.1 a.2)
    | none => some p
  match pa with
  | none => (s, m, p)
  | some p1 =>
    let (s, m) := match a with
      | some a => s.mxReadA c m a
      | none => (s, { m with aPend := false })
    match b with
    | none => (s, { m with bPend := false }, p1)
    | some b =>
      if together then
        let (s, m) := s.mxReadB c m b
        (s, m, p1)
      else
        match claimPorts p1 (portsOf false b.1 b.2) with
        | none => (s, m, p1)
        | some p2 =>
          let (s, m) := s.mxReadB c m b
          (s, m, p2)

/-- Whether a command reads the Hadamard matrices of the constant store (Table 5.4), whose errors it meets (R367). -/
def MxCmd.isHadamard (m : MxCmd) : Bool :=
  match m.i with
  | .mhad _ _ _ => true
  | _ => false

/-- The size of the Hadamard matrix of a command. -/
def MxCmd.hadN (m : MxCmd) : Nat :=
  match m.i with
  | .mhad _ _ n => 16 * 2 ^ n.toNat
  | _ => 16

/-- The running command in one cycle (R102, R239): its row, and after the last one its ring advances and its end. Rows are
read from the slots at the present Q. DEDUCED, log 98. -/
def State.mxCycle (s : State) (c : Nat) (p : Ports) : State × Ports :=
  match (s.core c).mq with
  | [] => (s, p)
  | m :: _ =>
    match m.start with
    | none => (s, p)
    | some st =>
      let s := if m.isHadamard && decide (s.now c = st) then s.touchEcc (m.agent c) (constKey (hadOff m.hadN)) (m.hadN * m.hadN / 8) else s
      if m.rows ≤ m.row || decide (s.now c < st + m.row + m.shift) then (s, p)
      else
        let (s, m, p) := s.mxReads c m p
        if m.aPend || m.bPend then ((s.deferred c).modHead c (fun _ => { m with shift := m.shift + 1 }), p)
        else
          let m := { m with row := m.row + 1, aPend := true, bPend := true }
          if m.row < m.rows then (s.modHead c (fun _ => m), p)
          else
            let s := m.advances.foldl (fun s h => s.drainRing c m.res h 1) s
            (s.modHead c (fun _ => { m with endAt := some (st + m.time + m.shift) }), p)

/-! ### End -/

/-- Bytes of a tile from its 128-byte accesses, from access `lo` up. -/
def tileFrom (rows : Table Nat) (lo : Nat) : BitVec 131072 :=
  BitVec.ofNat 131072 ((List.range 128).foldr (fun i a => Table.get 0 rows (lo + i) + 2 ^ 1024 * a) 0)

/-- The tiles and flags that a command leaves (R241 to R247), with the signs of its Hadamard matrix and the name of its free
values. -/
def MxCmd.result (m : MxCmd) (x : Ctx) (signs free : Nat) : List (Nat × BitVec 131072) × BitVec 8 :=
  match m.i, mxOpOf m.i with
  | .mhad c h _, _ =>
    let r := hadamard signs (x.tile1 h.toNat) m.hadN
    ([(c.toNat, r.1)], r.2)
  | .mzero _ _, _ => (m.tiles.map (fun t => (t, 0)), 0)
  | .mload _ _ _ _, _ => (m.tiles.zipIdx.map (fun t => (t.1, tileFrom m.aRows (128 * t.2))), 0)
  | _, some o =>
    let t := m.tiles.headD 0
    let fx := m.fx && o.fa != 4
    let r := mma free o fx m.fxq.toInt (x.tile1 t) (x.tile1 (t + 1)) m.aRows m.bRows
    let g := o.kind = 2 && (List.range (gatherCount m.cfg o)).any (fun i => (gatherRow m.cfg o.lenB i).2)
    (if fx then [(t, r.1), (t + 1, r.2.1)] else [(t, r.1)], r.2.2 ||| (if g then fGrange else 0))
  | _, none => ([], 0)

/-- The tiles that a command reads as it runs: the sums it goes on from, the source of a Hadamard pass. -/
def MxCmd.tilesRead (m : MxCmd) : List Nat :=
  match m.i, mxOpOf m.i with
  | .mhad _ h _, _ => [h.toNat]
  | _, some o => if o.z then [] else m.tiles
  | _, none => []

/-- The head of the queue counts its wait from now. -/
def Core.newHead (k : Core) (now : Nat) : Core :=
  { k with mq := match k.mq with
      | [] => []
      | m :: t => { m with head := if m.head.isSome then m.head else some now } :: t }

/-- MATRIX_COMMAND_END (R239, R241): tiles, flags, and the MX_SAT record of a first saturation (R92, R366). -/
def State.mxEnd (s : State) (c : Nat) : State :=
  let now := s.now c
  match (s.core c).mq with
  | [] => s
  | m :: rest =>
    match m.endAt with
    | none => s
    | some e =>
      if now < e then s
      else
        let s := s.touchFiles (m.agent c) (m.tilesRead.map (fun t => (fileAcc t, 2048)))
        let r := m.result (s.ctx c m.res) (Memory.num s.mem (constKey (hadOff m.hadN)) (m.hadN * m.hadN / 8)) s.free
        let s := s.modCore c (fun k => { k with mq := rest, mqEnd := now }.newHead now)
        let s := s.modCtx c m.res (fun x =>
          { r.1.foldl (fun x t => x.setTile t.1 t.2) x with raisedMx := x.raisedMx ||| r.2 })
        let sat := m.fx && m.satf && r.2.getLsbD 4 && m.tiles.length = 2 && (mxOpOf m.i).isSome
        if sat then
          let x := s.ctx c m.res
          let t := m.tiles.headD 0
          let f := { FaultRec.plain 17 0 m.pc with
            slot := m.slot, obj := t, aux0 := (x.mxstat ||| x.raisedMx).setWidth 64 }
          s.record c m.res f (17 + 32 * ((s.phaseOf c m.res).toNat + 4294967296 * t))
        else s

/-- MATRIX_WAIT_LIMIT_EXPIRY (R240): the waiting command and the later ones of its context are discarded, their tags put
back, and the next bundle of the context meets the limit. -/
def State.mxExpire (s : State) (c : Nat) : State :=
  let now := s.now c
  match (s.core c).mq with
  | [] => s
  | m :: _ =>
    match m.head, s.mxWaits c m with
    | some t, some h =>
      if m.start.isSome || decide (now < m.issue + 7) || decide (now < t + 16777216) then s
      else
        let gone := (s.core c).mq.filter (fun n => n.res == m.res)
        let r := (s.ctx c m.res).ring h
        let s := s.modCore c (fun k => { k with mq := k.mq.filter (fun n => n.res != m.res) }.newHead now)
        s.modCtx c m.res (fun x =>
          let x := gone.reverse.foldl (fun x n => n.tags.foldl (fun x t => x.setTag t.1 t.2) x) x
          { x with asyncWl := some (h, r.p.setWidth 64, r.q.setWidth 64, gone.length) })
    | _, _ => s

/-- BALLAST_PASS (R391): a pass on an idle matrix engine changes nothing but the event count of the core; in a cycle in which a
command could start it is dropped. -/
def State.ballast (s : State) (c : Nat) : State :=
  match (s.core c).mq with
  | [] => s.coreEvent c 0x17
  | m :: _ => if m.start.isSome || s.mxCanStart c m then s else s.coreEvent c 0x17

end Sys2Proof.Machine
end

