-- ==== Sys2Proof/Machine/SmallEngine.lean ====
section
/-!
DEFINITION. Engine commands with a fixed script of own-vault accesses: ECW, ECR, GCFG, HCFG, HARM and HREAD (R244, R250,
R251, R263).
-/

namespace Sys2Proof.Machine

def SmallCmd.agent (m : SmallCmd) (c : Nat) : Agent := ⟨c, m.res, m.pc, m.slot⟩

/-- Whether a command is an HCFG, which a later HARM waits for (R263). -/
def SmallCmd.isHcfg (m : SmallCmd) : Bool :=
  match m.i with
  | .hcfg _ _ => true
  | _ => false

/-- The status of a copy channel (Table 11.8). -/
def Chan.status (q : Chan) : BitVec 512 :=
  let st : BitVec 8 := match q.st with
    | .idle => 0
    | .active => 1
    | .suspended => 2
    | .cancelling => 3
  (0 : BitVec 320) ++ q.terr ++ q.aerr ++ q.cursor ++ ((0 : BitVec 3) ++ q.flags) ++ q.tlast ++
    BitVec.ofNat 8 q.queue.length ++ st ++ q.seq

/-- The record of a ring (Table 11.14). -/
def State.ringRecord (s : State) (x : Ctx) (h : Nat) : BitVec 512 :=
  let r := x.ring h
  (0 : BitVec 382) ++ b1 r.conf ++ b1 (s.filling x h) ++ (0 : BitVec 6) ++ r.q ++ r.p ++ r.slotsize ++ r.slots ++ r.base

/-- The record of an engine space that ECR writes (R250). -/
def State.engineRecord (s : State) (c : Nat) (x : Ctx) (space ix : Nat) : BitVec 512 :=
  match space with
  | 0 => Table.get 0 x.tmpl ix
  | 1 => ((s.core c).chan ix).status
  | 2 => (Table.get (0 : BitVec 1536) x.gcfg ix).setWidth 512
  | 3 => s.ringRecord x ix
  | _ => s.hoistRecord (x.hoist ix)

/-- A gather descriptor as it installs, and whether it is invalid (R244). -/
def gatherInstall (c : Nat) (d : BitVec 1536) : BitVec 1536 × Bool :=
  let base : Word := d.extractLsb' 0 64
  let pitch := gfield d 64 32
  let bad := !(isOwn c base && decide (base.toNat % 64 = 0) && decide (pitch % 64 = 0) && decide (64 ≤ pitch) &&
    decide (pitch ≤ 4194304) && decide (gfield d 96 8 ≤ 64))
  (d.extractLsb' 512 1024 ++ (0 : BitVec 408) ++ (if bad then (0 : BitVec 8) else d.extractLsb' 96 8) ++ d.extractLsb' 0 96, bad)

/-- A command removed. -/
def State.dropSmall (s : State) (c seq : Nat) : State :=
  s.modCore c (fun k => { k with small := k.small.filter (fun n => n.seq != seq) })

/-- The bytes a command has read, as one number. -/
def SmallCmd.data (m : SmallCmd) : Nat :=
  Table.get 0 m.buf 0 + 256 ^ 64 * (Table.get 0 m.buf 1 + 256 ^ 64 * Table.get 0 m.buf 2)

/-- What a command leaves behind, at the start of its last cycle. -/
def State.smallEffect (s : State) (c : Nat) (m : SmallCmd) : State :=
  match m.i with
  | .ecw _ _ =>
    s.modCtx c m.res (fun x => { x with tmpl := Table.set x.tmpl (m.b.toNat % 64) (BitVec.ofNat 512 m.data) })
  | .gcfg _ n =>
    let g := gatherInstall c (BitVec.ofNat 1536 m.data)
    let s := s.modCtx c m.res (fun x =>
      { x with gcfg := Table.set x.gcfg n.toNat g.1, raisedMx := x.raisedMx ||| (if g.2 then 1 else 0) })
    s.modCore c (fun k => { k with mq := k.mq.map (fun q =>
      if q.gcfgAfter.getLast? = some m.seq then { q with cfg := g.1 } else q) })
  | .hcfg _ k => s.installHoist c m.res k.toNat (BitVec.ofNat 320 m.data) false
  | .harm _ k => s.armHoist c m.res k.toNat (m.a.getLsbD 0)
  | _ => s

/-- Whether a command takes effect in this cycle. -/
def State.smallReady (s : State) (c : Nat) (m : SmallCmd) : Bool :=
  let now := s.now c
  match m.i with
  | .harm _ _ =>
    decide (m.issue + 8 ≤ now) &&
      !(s.core c).small.any (fun n => n.res == m.res && n.isHcfg && decide (n.seq < m.seq))
  | .ecr _ _ => false
  | .hread _ _ _ => false
  | _ => decide (m.k = m.reads) && decide (m.issue + 7 + m.reads + m.shift ≤ now)

/-- The effects of this cycle, in issue order. -/
def State.smallInstall (s : State) (c : Nat) : State :=
  (s.core c).small.foldl (fun s m => if s.smallReady c m then (s.smallEffect c m).dropSmall c m.seq else s) s

/-- A command changed in place. -/
def State.modSmall (s : State) (c seq : Nat) (f : SmallCmd → SmallCmd) : State :=
  s.modCore c (fun k => { k with small := k.small.map (fun n => if n.seq = seq then f n else n) })

/-- The access of a command in one cycle, if one is due (R102); it does not pass an earlier acquire (R132). -/
def State.smallCycle (s : State) (c : Nat) (m : SmallCmd) (p : Ports) : State × Ports :=
  let now := s.now c
  let held := !(s.still c m.gates).isEmpty
  let later := fun (s : State) => s.modSmall c m.seq (fun n => { n with shift := n.shift + 1 })
  match m.i with
  | .ecr _ _ =>
    if now < m.issue + 8 + m.shift then (s, p)
    else if held then (later s, p)
    else
      let off := vaultOffset m.a
      match claimPorts p (portsOf true off 64) with
      | none => (later (s.deferred c), p)
      | some p =>
        let r := s.engineRecord c (s.ctx c m.res) (m.b.toNat / 256 % 8) (m.b.toNat % 64)
        ((s.engWrite (m.agent c) m.seq off (numBytes 64 r.toNat)).dropSmall c m.seq, p)
  | _ =>
    if m.reads ≤ m.k || decide (now < m.issue + 7 + m.k + m.shift) then (s, p)
    else if held then (later s, p)
    else
      let off := vaultOffset m.a + 64 * m.k
      match claimPorts p (portsOf false off 64) with
      | none => (later (s.deferred c), p)
      | some p =>
        let (v, s) := s.engRead (m.agent c) m.seq off 64
        (s.modSmall c m.seq (fun n => { n with k := n.k + 1, buf := Table.set n.buf n.k v }), p)

/-- A general register written by the answer of an access, if that access still keeps it busy (R103). -/
def State.answerG (s : State) (c : Nat) (res : BitVec 1) (r : BitVec 6) (id : Nat) (w : Word) : State :=
  s.modCtx c res (fun x =>
    if x.busy.contains (.g r, id) then { x.wg r w with busy := x.busy.filter (fun b => b != (.g r, id)) } else x)

/-- The core whose vault controller keeps a hoist; none for one in an HBM stack. -/
def Hoist.keeper (h : Hoist) : Option Nat := if h.hbm then Option.none else (vaultOf h.home).map (fun v => v.1)

/-- An HREAD at issue + 8, after the writes of the cycle (R263): an own-vault hoist answers; to any other the question
goes out on the fabric. -/
def State.hreadAnswer (s : State) (c : Nat) (m : SmallCmd) : State :=
  match m.i with
  | .hread a b k =>
    if s.now c < m.issue + 8 then s
    else
      let h := (s.ctx c m.res).hoist k.toNat
      if !h.installed || h.keeper = some c then
        let s := s.answerG c m.res a m.seq (BitVec.ofNat 64 (s.hoistValue h))
        (s.answerG c m.res b m.seq (h.reach.setWidth 64)).dropSmall c m.seq
      else
        let id := s.seq
        let q := s.message c m.res .ld 0 (k.setWidth 64) [] .read (.hread a b)
        let s := s.send { q with host := true, after := [], pc := m.pc, slot := m.slot }
        (s.modCtx c m.res (fun x =>
          { x with busy := x.busy.map (fun e => if e.2 = m.seq then (e.1, id) else e) })).dropSmall c m.seq
  | _ => s

/-- The HREAD commands of a core. DEDUCED, log 66. -/
def State.hreads (s : State) (c : Nat) : State := (s.core c).small.foldl (fun s m => s.hreadAnswer c m) s

end Sys2Proof.Machine
end

