-- ==== Sys2Proof/Machine/CopyEngine.lean ====
section
/-!
DEFINITION. The copy engine and the KV engine (R251 to R261, R364): templates, the pattern of a copy, chunks, suspension,
cancellation, completion actions, KV commits.
-/

namespace Sys2Proof.Machine

/-! ### Templates (Table 11.9) -/

/-- Source and destination formats of a conversion code. -/
def convFormats (conv : Nat) : FFmt × FFmt :=
  match conv with
  | 1 => (f32, bf16)
  | 2 => (bf16, f32)
  | 3 => (f32, f16)
  | 4 => (f16, f32)
  | 5 => (f32, e4m3)
  | _ => (f32, e5m2)

/-- Whether an action word is valid (R252). -/
def actionOk (a : Nat) : Bool :=
  match a / 2 ^ 30 with
  | 0 => true
  | 1 => decide (a % 8 = 0) && decide (a / 2 ^ 22 % 256 = 0)
  | 2 => decide (a / 2 ^ 12 % 2 ^ 18 = 0)
  | _ => false

/-- Whether a template is valid (R253). DEDUCED, log 64. -/
def tmplOk (t : BitVec 512) : Bool :=
  let f := tfield t
  let (zs, zd) := convSizes (f 216 8)
  let z := max zs zd
  let chunk := f 208 8
  let strides := [f 224 32, f 256 32, f 288 32, f 320 32, f 352 32, f 384 32]
  decide (f 496 16 = 0) && decide (f 216 8 ≤ 6) && (decide (chunk = 0) || (decide (6 ≤ chunk) && decide (chunk ≤ 22))) &&
    decide (f 493 2 = 0) && decide (f 483 5 = 0) && decide (f 480 3 ≤ 4) && actionOk (f 416 32) && actionOk (f 448 32) &&
    [f 160 16, f 176 16, f 192 16].all (fun n => decide (0 < n)) && decide (0 < f 128 32) && decide (f 128 32 % zs = 0) &&
    (f 0 64 :: f 64 64 :: strides).all (fun a => decide (a % z = 0))

/-- Source and destination address of run r (R254). -/
def runAt (t : BitVec 512) (mode : BitVec 2) (disp : Word) (r : Nat) : Word × Word :=
  let n1 := tfield t 160 16
  let n2 := tfield t 176 16
  let i := fun (k : Nat) => BitVec.ofNat 64 (match k with | 0 => r % n1 | 1 => r / n1 % n2 | _ => r / (n1 * n2))
  let stride := fun (lo k : Nat) => (t.extractLsb' (lo + 32 * k) 32).signExtend 64
  let walk := fun (base : Word) (lo : Nat) => base + i 0 * stride lo 0 + i 1 * stride lo 1 + i 2 * stride lo 2
  (walk (t.extractLsb' 0 64) 224 + (if mode.getLsbD 0 then disp else 0),
   walk (t.extractLsb' 64 64) 320 + (if mode.getLsbD 1 then disp else 0))

/-- A piece of a copy: source and destination address, and destination bytes. -/
abbrev Piece := Word × Word × Nat

/-- The pieces of the destination stream bytes from y on, n of them, cut at runs. -/
def tmplPieces (t : BitVec 512) (mode : BitVec 2) (disp : Word) : Nat → Nat → Nat → List Piece
  | 0, _, _ => []
  | _, _, 0 => []
  | fuel + 1, y, n =>
    let run := tmplRun t
    let off := y % run
    let k := min n (run - off)
    let z := convSizes (tfield t 216 8)
    let (a, b) := runAt t mode disp (y / run)
    (a + BitVec.ofNat 64 (off / z.2 * z.1), b + BitVec.ofNat 64 off, k) :: tmplPieces t mode disp fuel (y + k) (n - k)

/-! ### The running command -/

/-- Destination bytes of the whole command. -/
def Chan.total (q : Chan) : Nat :=
  if q.isCpy then tmplRun q.tmpl * tmplRuns q.tmpl else (q.pat.map (fun p => p.2.2)).sum

/-- Number of chunks. -/
def Chan.chunks (q : Chan) : Nat := (q.total + q.chunk - 1) / q.chunk

/-- The pieces of a KV pattern. -/
def rowPieces (pat : List (Nat × Nat × Nat)) : Nat → Nat → Nat → List Piece
  | 0, _, _ => []
  | _, _, 0 => []
  | fuel + 1, y, n =>
    let len := max 1 ((pat.map (fun p => p.2.2)).headD 1)
    match pat[y / len]? with
    | none => []
    | some (a, b, _) =>
      let off := y % len
      let k := min n (len - off)
      (BitVec.ofNat 64 (a + off), BitVec.ofNat 64 (b + off), k) :: rowPieces pat fuel (y + k) (n - k)

/-- The pieces of destination stream bytes y to y + n − 1. -/
def Chan.pieces (q : Chan) (y n : Nat) : List Piece :=
  match q.cur with
  | some m => if m.kind = 0 then tmplPieces q.tmpl m.mode m.disp (n + 1) y n else rowPieces q.pat (n + 1) y n
  | none => []

/-- The pieces of chunk n. -/
def Chan.chunkPieces (q : Chan) (n : Nat) : List Piece := q.pieces (n * q.chunk) (min q.chunk (q.total - n * q.chunk))

/-- Source bytes of a piece. -/
def Chan.srcLen (q : Chan) (n : Nat) : Nat :=
  if q.isCpy then (let z := convSizes (tfield q.tmpl 216 8); n / z.2 * z.1) else n

/-- The CONTIG hoist that watches the source, if any (R257). -/
def Chan.watermark (q : Chan) : Option Nat :=
  if q.isCpy && q.tmpl.getLsbD 495 then some (tfield q.tmpl 488 5) else none

/-- Whether a whole range lies in the own vault. -/
def ownRange (c : Nat) (va : Word) (n : Nat) : Bool :=
  isOwn c va && decide (vaultOffset va + n ≤ 4194304)

/-- Whether all reads of the command are timed (R255): every source byte in the own vault, and no watermark. -/
def Chan.timed (q : Chan) (c : Nat) : Bool :=
  match q.cur with
  | none => false
  | some m =>
    if m.kind = 0 then
      q.watermark.isNone && (List.range (tmplRuns q.tmpl)).all (fun r =>
        ownRange c (runAt q.tmpl m.mode m.disp r).1 (tfield q.tmpl 128 32))
    else q.pat.all (fun p => ownRange c (BitVec.ofNat 64 p.1) p.2.2)

def CopyCmd.agent (m : CopyCmd) (c : Nat) : Agent := ⟨c, m.res, m.pc, m.slot⟩

/-- Bytes converted (R253), with the flags raised. -/
def convert (conv : Nat) (sat : Bool) (bs : List Byte) : List Byte × Flags :=
  if conv = 0 then (bs, 0)
  else
    let (zs, zd) := convSizes conv
    let (fs, fd) := convFormats conv
    let es := (List.range (bs.length / zs)).map (fun i =>
      roundNum fd (rne sat) (decodeF fs (leNat ((bs.drop (zs * i)).take zs))))
    (es.flatMap (fun e => numBytes zd e.1), es.foldl (fun a e => a ||| e.2) 0)

/-! ### Faults of a chunk -/

/-- Why a chunk cannot run: TRANSLATION or ECC with sub-cause and address, or a DET conflict (R138, R256). -/
inductive Snag where
  | fault (cause : BitVec 8) (sub : BitVec 8) (va : Word)
  | det (hit : DetHit)
deriving DecidableEq, Repr

/-- The parts of pieces on one side; an engine has no access to a copy aperture (R232). -/
def State.pieceParts (s : State) (c : Nat) (x : Ctx) (acc : Acc) (ps : List (Word × Nat)) :
    Except XFault (List (Part × Xlat)) :=
  match ps.mapM (fun p => s.parts c x p.1 p.2 acc) with
  | .error e => .error e
  | .ok ls =>
    let l := ls.flatten
    match (ps.zip ls).find? (fun p => p.2.any (fun t => match t.1.place with
      | .aperture _ _ => true
      | .mem _ => false)) with
    | some p => .error ⟨5, p.1.1⟩
    | none => .ok l

/-- The sides of pieces: sources and destinations with their lengths. -/
def Chan.sources (q : Chan) (ps : List Piece) : List (Word × Nat) := ps.map (fun p => (p.1, q.srcLen p.2.2))
def Chan.dests (ps : List Piece) : List (Word × Nat) := ps.map (fun p => (p.2.1, p.2.2))

/-- The parts of a list of pieces: destinations first, then sources (R254). -/
def State.pieceSides (s : State) (c : Nat) (q : Chan) (m : CopyCmd) (ps : List Piece) :
    Except XFault (List (Part × Xlat) × List (Part × Xlat)) :=
  let x := s.ctx c m.res
  match s.pieceParts c x .store (Chan.dests ps) with
  | .error e => .error e
  | .ok ds =>
    match s.pieceParts c x .load (q.sources ps) with
    | .error e => .error e
    | .ok ss => .ok (ss, ds)

/-- What stops pieces from running, if anything. -/
def State.snag (s : State) (c : Nat) (q : Chan) (m : CopyCmd) (ps : List Piece) : Option Snag :=
  match s.pieceSides c q m ps with
  | .error e => some (.fault 1 (BitVec.ofNat 8 e.cause) e.va)
  | .ok (ss, ds) =>
    match ss.findSome? (fun p => (s.badIn p.1.key p.1.len).find? (fun e => e.2)) with
    | some e => some (.fault 2 0 (BitVec.ofNat 64 e.1))
    | none =>
      let rs := fun (l : List (Part × Xlat)) => detRanges (l.map (fun p => p.1))
      match s.detScan c m.res false (rs ss) with
      | .error e => some (.det e)
      | .ok t =>
        match t.detScan c m.res true (rs ds) with
        | .error e => some (.det e)
        | .ok _ => none

/-- A change of a channel. -/
def State.modChan (s : State) (c ch : Nat) (f : Chan → Chan) : State := s.modCore c (fun k => k.setChan ch (f (k.chan ch)))

/-! ### Begin -/

/-- The COPY_SUSPENDED record of a command (Table 20.6). -/
def State.copyRecord (s : State) (c ch : Nat) (m : CopyCmd) (cause sub : BitVec 8) (va : Word) (cursor : BitVec 32) : State :=
  let f := { FaultRec.plain 20 cause m.pc with
    slot := m.slot, obj := ch, addr := va, aux0 := cursor.setWidth 64
    aux1 := ((0 : BitVec 54) ++ m.mode ++ (0 : BitVec 8)) ||| m.tidx.setWidth 64
    aux2 := sub.setWidth 64, aux3 := m.disp }
  s.record c m.res f 0

/-- Whether the first waiting command of a channel begins in this cycle (R132, R250, R254). DEDUCED, log 59. -/
def State.copyCanBegin (s : State) (c ch : Nat) : Option CopyCmd :=
  let k := s.core c
  let q := k.chan ch
  match q.queue with
  | [] => none
  | m :: _ =>
    if q.cur.isNone && q.st = .idle && decide (m.issue ≤ s.now c) && m.after.all (fun i => !k.small.any (fun n => n.seq = i)) &&
        (s.still c m.gates).isEmpty
    then some m else none

/-! ### KV commands (R259 to R261) -/

/-- The status that a KVCOMMIT finds (R260). DEDUCED, log 62. -/
def kvStatus (d : BitVec 512) (path : List Nat) : Nat :=
  let cap := tfield d 160 32
  let dn := tfield d 224 8
  let m := path.headD 0
  let p := (path.drop 1).take m
  if cap = 0 ∨ tfield d 128 16 = 0 ∨ 64 < dn ∨ cap < dn then 4
  else if dn < m then 1
  else if (p.zip (p.drop 1)).any (fun e => decide (e.2 ≤ e.1)) || decide (dn ≤ (p.getLast?).getD 0 ∧ p ≠ []) then 2
  else if 4294967295 < tfield d 192 32 + m then 3
  else 0

/-- The rows that a KVCOMMIT moves: key row, then value row, of each path entry out of place. -/
def kvRows (d : BitVec 512) (path : List Nat) : List (Nat × Nat × Nat) :=
  let cap := tfield d 160 32
  let row := 64 * tfield d 128 16
  let len := tfield d 192 32
  let p := (path.drop 1).take (path.headD 0)
  let at_ := fun (base i : Nat) => (base + (len + i) % cap * row) % 2 ^ 64
  (p.zipIdx).flatMap (fun e =>
    if e.1 = e.2 then []
    else [(at_ (tfield d 0 64) e.1, at_ (tfield d 0 64) e.2, row), (at_ (tfield d 64 64) e.1, at_ (tfield d 64 64) e.2, row)])

/-- The granules that a running KVCOMMIT has read. -/
def Chan.kvBuf (q : Chan) : Table Nat := (q.cur.map (fun m => m.kvBuf)).getD []

/-- The descriptor and the path that a running KVCOMMIT has read. -/
def Chan.kvDesc (q : Chan) : BitVec 512 := BitVec.ofNat 512 (Table.get 0 q.kvBuf 0)
def Chan.kvPath (q : Chan) : List Nat :=
  (numBytes 64 (Table.get 0 q.kvBuf 1) ++ numBytes 64 (Table.get 0 q.kvBuf 2)).map (fun b => b.toNat)

/-- A KVCOMMIT that has still to read its descriptor and path: its next access (R260). -/
def CopyCmd.kvRead (m : CopyCmd) : Option (Nat × Nat) :=
  let n := m.kvBuf.length
  if m.kind = 1 ∧ n < 3 then some (n, if n = 0 then vaultOffset m.kvDesc else vaultOffset m.kvPath + 64 * (n - 1))
  else none

/-- That of the running command. -/
def Chan.kvRead (q : Chan) : Option (Nat × Nat) := q.cur.bind CopyCmd.kvRead

/-- The plan of a KVCOMMIT whose path has been read, with the cycle a of its rows (R260). DEDUCED, log 62. -/
def Chan.kvPlan (q : Chan) (a : Nat) : Chan :=
  let st := kvStatus q.kvDesc q.kvPath
  { q with
    beginAt := a, shift := 0
    pat := if st = 0 then kvRows q.kvDesc q.kvPath else []
    terr := if st = 0 then q.terr else q.terr + 1 }

/-- COPY_BEGIN (R253, R254): the template is read and checked; an invalid one discards the command. A KVCOMMIT that has read
its path is planned at once. DEDUCED, log 60. -/
def State.copyBegin (s : State) (c ch : Nat) : State :=
  match s.copyCanBegin c ch with
  | none => s
  | some m =>
    let x := s.ctx c m.res
    let now := s.now c
    let s := s.modChan c ch (fun q => { q with queue := q.queue.tail })
    if m.kind = 0 then
      let t := m.tmpl.getD (Table.get 0 x.tmpl m.tidx.toNat)
      if tmplOk t then
        let m := { m with tmpl := some t, sat := some (m.sat.getD (x.round.getLsbD 2)) }
        s.modChan c ch (fun q =>
          let q := { q with
            cur := some m, st := .active, tlast := m.tidx.setWidth 8, cursor := m.cursor0, beginAt := now, shift := 0
            rdDone := false, wmWait := 0, ahead := [], out := [], fault := none, pat := [] }
          { q with y := m.cursor0.toNat * q.chunk, doneBytes := min q.total (m.cursor0.toNat * q.chunk) })
      else
        (s.modChan c ch (fun q => { q with terr := q.terr + 1, tlast := m.tidx.setWidth 8, cursor := m.cursor0 })).copyRecord c ch m 3 0 0
          m.cursor0
    else
      s.modChan c ch (fun q =>
        let q := { q with
          cur := some m, st := .active, cursor := 0, beginAt := now, shift := 0, y := 0, rdDone := false, wmWait := 0
          ahead := [], out := [], fault := none, pat := [], doneBytes := 0 }
        if m.kind = 1 && m.kvRead.isNone then q.kvPlan now else q)

/-! ### Timed accesses (R255) -/

/-- Whether the chunks in flight allow byte y: two at most, and in a cancelled command only a chunk begun (R254, R258). -/
def Chan.mayMove (q : Chan) : Bool :=
  decide (q.y < q.total) && decide (q.y / q.chunk ≤ q.cursor.toNat + 1) &&
    (q.st = .active || (q.st = .cancelling && decide (q.y % q.chunk ≠ 0)))

/-- The end of the chunk that byte y lies in. -/
def Chan.chunkEnd (q : Chan) : Nat := min q.total ((q.y / q.chunk + 1) * q.chunk)

/-- The end of the bytes of one cycle: the next 128-byte step of the stream, within the chunks in flight; of a cancelled
command no chunk begins (R255, R258). -/
def Chan.stepEnd (q : Chan) (y0 : Nat) : Nat :=
  let stop := min (y0 + ((q.y - y0) / 128 + 1) * 128) (min q.total ((q.cursor.toNat + 2) * q.chunk))
  if q.st = .cancelling then min stop q.chunkEnd else stop

/-- One piece moved: read, converted, and written to the own vault or kept for its way out, its translations installed
(R346). -/
def State.movePiece (s : State) (c ch : Nat) (m : CopyCmd) (n : Nat) (p : Piece) : State :=
  let q := (s.core c).chan ch
  let src := q.srcLen p.2.2
  let key := vaultKey c (vaultOffset p.1)
  let a := m.agent c
  let s := (s.touchRead a key src).detTouch c m.res false [(key, src)]
  let r := convert (if q.isCpy then tfield q.tmpl 216 8 else 0) (m.sat.getD false) (s.sample key src)
  let s := s.modChan c ch (fun q => { q with flags := q.flags ||| r.2 })
  if ownRange c p.2.1 p.2.2 then
    let k := vaultKey c (vaultOffset p.2.1)
    ((s.touchGuard a k p.2.2).detTouch c m.res true [(k, p.2.2)]).putRaw k r.1
  else
    match s.pieceParts c (s.ctx c m.res) .store [(p.2.1, p.2.2)] with
    | .error _ => s
    | .ok ps =>
      let s := (ps.foldl (fun s t => s.tlbPut c t.2.tlb) s).detTouch c m.res true (detRanges (ps.map (fun t => t.1)))
      let go := ps.foldl (fun (acc : List (Nat × OutWrite) × Nat × List Byte) t =>
        (acc.1 ++ [(n, ⟨acc.2.1, t.1.key, acc.2.2.take t.1.len⟩)], acc.2.1 + t.1.len, acc.2.2.drop t.1.len))
        ([], p.2.1.toNat, r.1)
      s.modChan c ch (fun q => { q with out := q.out ++ go.1 })

/-- Ports of the pieces of one cycle. -/
def stepPorts (c : Nat) (q : Chan) (ps : List Piece) : Ports :=
  (ps.flatMap (fun p =>
    portsOf false (vaultOffset p.1) (q.srcLen p.2.2) ++
      (if ownRange c p.2.1 p.2.2 then portsOf true (vaultOffset p.2.1) p.2.2 else []))).eraseDups

/-- The pieces of a range of bytes moved; none crosses a chunk boundary. -/
def State.moveAll (s : State) (c ch : Nat) (m : CopyCmd) : Nat → List Piece → State
  | _, [] => s
  | y, p :: ps =>
    let q := (s.core c).chan ch
    (s.movePiece c ch m (y / q.chunk) p).moveAll c ch m (y + p.2.2) ps

/-- The final write of a KV command: its offset and bytes (R260, R261). -/
def Chan.kvFinal (q : Chan) (m : CopyCmd) : Nat × List Byte :=
  let off := vaultOffset m.kvDesc
  if m.kind = 2 then (off + 24, numBytes 4 (m.disp.toNat % 2 ^ 32) ++ [m.disp.extractLsb' 32 8, 0])
  else
    let st := kvStatus q.kvDesc q.kvPath
    if st = 0 then (off + 24, numBytes 4 (tfield q.kvDesc 192 32 + q.kvPath.headD 0) ++ [0, 0])
    else (off + 29, [BitVec.ofNat 8 st])

/-- The cycle in which a KV command may write its descriptor: one after the last commit (R260), or begin + 8 (R261). -/
def Chan.kvEndAt (q : Chan) (m : CopyCmd) : Nat := q.beginAt + (if m.kind = 2 then 8 else 0) + q.shift

/-- Whether nothing of a command is left to move. -/
def Chan.moved (q : Chan) : Bool := decide (q.chunks ≤ q.cursor.toNat)

/-- The end of a command: SEQ rises unless it is a KVRESET, and the channel is idle (R256). DEDUCED, log 62. -/
def State.copyEnd (s : State) (c ch : Nat) (counts : Bool) : State :=
  s.modChan c ch (fun q =>
    { q with cur := none, st := .idle, seq := if counts then q.seq + 1 else q.seq, ahead := [], out := [], pat := [] })

/-- A command of a channel changed in place, by its number. -/
def State.modCmd (s : State) (c ch seq : Nat) (f : CopyCmd → CopyCmd) : State :=
  let g := fun (m : CopyCmd) => if m.seq = seq then f m else m
  s.modChan c ch (fun q => { q with cur := q.cur.map g, queue := q.queue.map g })

/-- The read of a KVCOMMIT in one cycle, running or waiting: descriptor at issue + 7, path at issue + 8 and + 9 (R102, R260);
it does not pass an earlier acquire (R132). The last read of the running command gives its rows the next cycle as a. -/
def State.kvCycle (s : State) (c ch : Nat) (m : CopyCmd) (p : Ports) : State × Ports :=
  let now := s.now c
  let later := fun (s : State) => s.modCmd c ch m.seq (fun m => { m with kvShift := m.kvShift + 1 })
  match m.kvRead with
  | none => (s, p)
  | some (i, off) =>
    if now < m.issue + 7 + i + m.kvShift then (s, p)
    else if !(s.still c m.gates).isEmpty then (later s, p)
    else
      match claimPorts p (portsOf false off 64) with
      | none => (later (s.deferred c), p)
      | some p =>
        let (v, s) := s.engRead (m.agent c) m.seq off 64
        let s := s.modCmd c ch m.seq (fun m => { m with kvBuf := Table.set m.kvBuf i v })
        (s.modChan c ch (fun q => if i = 2 && q.cur.any (fun n => n.seq = m.seq) then q.kvPlan (now + 1) else q), p)

/-- The channel's access in one cycle (R102, R255, R260, R261). A chunk that cannot run leaves the one before it in the same
cycle alone (R256). DEDUCED, log 59. -/
def State.copyCycle (s : State) (c ch : Nat) (p : Ports) : State × Ports :=
  let q := (s.core c).chan ch
  let now := s.now c
  let defer := fun (s : State) => (s.deferred c).modChan c ch (fun q => { q with shift := q.shift + 1 })
  match q.cur with
  | none => (s, p)
  | some m =>
    if q.st != .active && q.st != .cancelling then (s, p)
    else
      match q.kvRead with
      | some _ => (s, p)
      | none =>
        if m.kind != 0 && q.moved && q.st = .active then
          if now < q.kvEndAt m then (s, p)
          else
            let f := q.kvFinal m
            match claimPorts p (portsOf true f.1 f.2.length) with
            | none => (defer s, p)
            | some p =>
              let s := s.engWrite (m.agent c) m.seq f.1 f.2
              let va := q.kvDesc.extractLsb' 256 64
              let st := kvStatus q.kvDesc q.kvPath
              let v := if st = 0 then BitVec.ofNat 64 (tfield q.kvDesc 192 32 + q.kvPath.headD 0) else BitVec.allOnes 64
              let s := if m.kind = 1 ∧ va ≠ 0 then
                  let n := s.fabric.length
                  let s := s.pennant c m.res ⟨4, ch, m.pc, m.slot⟩ (q.kvDesc.extractLsb' 240 3) va v [] m.seq
                  -- it follows the descriptor write by a cycle
                  { s with fabric := s.fabric.take n ++ (s.fabric.drop n).map (fun e => { e with due := now + 1 }) }
                else s
              (s.copyEnd c ch (m.kind = 1), p)
        else if !q.timed c || !q.mayMove then (s, p)
        else
          let y0 := m.cursor0.toNat * q.chunk
          let at_ := q.beginAt + 16 + (q.y - y0) / 128 + q.shift
          if now < at_ then (s, p)
          else
            let whole := fun (y : Nat) => if y % q.chunk = 0 then q.chunkPieces (y / q.chunk) else []
            let e := q.stepEnd y0
            let e1 := min e q.chunkEnd
            let first := q.pieces q.y (e1 - q.y)
            let rest := if e1 < e && (s.snag c q m (whole e1 ++ q.pieces e1 (e - e1))).isNone then q.pieces e1 (e - e1) else []
            let ps := first ++ rest
            if (s.snag c q m (whole q.y ++ first)).isSome then (s, p)
            else
              match claimPorts p (stepPorts c q ps) with
              | none => (defer s, p)
              | some p =>
                let s := s.moveAll c ch m q.y ps
                (s.modChan c ch (fun q =>
                  { q with y := q.y + (ps.map (fun e => e.2.2)).sum, shift := q.shift + (now - at_) }), p)

/-! ### Commit, fault, completion -/

/-- Bytes of a source part that the watermark lets through (R257). DEDUCED, log 64. -/
def State.watered (s : State) (x : Ctx) (k : Nat) (p : Part) : Bool :=
  let h := x.hoist k
  !h.installed || decide (overlap p.key p.len h.home h.length = 0) ||
    decide (min (p.key + p.len) (h.home + h.length) - h.home ≤ s.hoistValue h)

/-- Whether the watermark lets a chunk's source through. -/
def State.chunkWatered (s : State) (c : Nat) (q : Chan) (m : CopyCmd) (ps : List Piece) : Bool :=
  match q.watermark with
  | none => true
  | some k =>
    match s.pieceParts c (s.ctx c m.res) .load (q.sources ps) with
    | .error _ => true
    | .ok l => l.all (fun p => s.watered (s.ctx c m.res) k p.1)

/-- A counted piece moved at one go. DEDUCED, log 64. -/
def State.moveCounted (s : State) (c ch : Nat) (m : CopyCmd) (p : Piece) : State :=
  let q := (s.core c).chan ch
  match s.pieceSides c q m [p] with
  | .error _ => s
  | .ok (ss, ds) =>
    let a := m.agent c
    let s := (ss ++ ds).foldl (fun s t => s.tlbPut c t.2.tlb) s
    let rs := fun (l : List (Part × Xlat)) => detRanges (l.map (fun t => t.1))
    let s := ss.foldl (fun s t => s.touchRead a t.1.key t.1.len) s
    let s := (s.detTouch c m.res false (rs ss)).detTouch c m.res true (rs ds)
    let r := convert (if q.isCpy then tfield q.tmpl 216 8 else 0) (m.sat.getD false) (s.sampleParts (ss.map (fun t => t.1)))
    let s := s.modChan c ch (fun q => { q with flags := q.flags ||| r.2 })
    (ds.foldl (fun (acc : State × List Byte) t =>
      let s := acc.1.touchGuard a t.1.key t.1.len
      (s.putRaw t.1.key (acc.2.take t.1.len), acc.2.drop t.1.len)) (s, r.1)).1

/-- The writes of a chunk that leave the core, performed at their targets. -/
def State.outWrites (s : State) (c ch : Nat) (m : CopyCmd) (n : Nat) : State :=
  let q := (s.core c).chan ch
  let s := (q.out.filter (fun w => w.1 = n)).foldl (fun s w =>
    (s.touchGuard (m.agent c) w.2.key w.2.bytes.length).putRaw w.2.key w.2.bytes) s
  s.modChan c ch (fun q => { q with out := q.out.filter (fun w => w.1 != n) })

/-- The chunk at CURSOR committed (R118, R254): its bytes counted, CURSOR on. -/
def State.commitChunk (s : State) (c ch : Nat) (m : CopyCmd) : State :=
  let q := (s.core c).chan ch
  let n := q.cursor.toNat
  let s := s.outWrites c ch m n
  let ds := match s.pieceParts c (s.ctx c m.res) .store (Chan.dests (q.chunkPieces n)) with
    | .ok l => l
    | .error _ => []
  let s := ds.foldl (fun s p => s.commitBytes p.1.key p.1.len) s
  let s := s.event c m.res 0x0E
  s.modChan c ch (fun q =>
    { q with
      cursor := q.cursor + 1, ahead := q.ahead.filter (fun k => decide (k ≠ n)), wmWait := 0
      doneBytes := min q.total ((n + 1) * q.chunk)
      beginAt := if q.isCpy then q.beginAt else if q.cursor.toNat + 1 = q.chunks then s.now c + 1 else q.beginAt
      shift := if !q.isCpy && q.cursor.toNat + 1 = q.chunks then 0 else q.shift })

/-- A running command with a chunk to commit. -/
def Chan.open (q : Chan) : Option CopyCmd :=
  match q.cur with
  | some m =>
    if (q.st = .active || q.st = .cancelling) && q.kvRead.isNone && m.kind != 2 && !q.moved then some m else none
  | none => none

/-- Whether the accesses of the chunk at CURSOR are all done and stayed in the own vault. -/
def Chan.chunkDone (q : Chan) : Bool := decide (min q.total ((q.cursor.toNat + 1) * q.chunk) ≤ q.y)
def Chan.chunkOwn (q : Chan) : Bool := !q.out.any (fun w => w.1 = q.cursor.toNat)

/-- Whether the writes of a chunk wait for an earlier load of the context that reads one of their bytes (R123, R125 to
R128). -/
def State.chunkHeld (s : State) (c : Nat) (q : Chan) (m : CopyCmd) (n : Nat) : Bool :=
  match s.pieceParts c (s.ctx c m.res) .store (Chan.dests (q.chunkPieces n)) with
  | .ok l => s.loadsOn c m.res m.seq (l.map (fun p => p.1))
  | .error _ => false

/-- Whether counted chunk n may read and write now: it is in flight, it has not moved, it has begun if the command is
cancelled, its watermark lets it through and nothing stops it (R254, R257, R258). -/
def State.chunkMoves (s : State) (c : Nat) (q : Chan) (m : CopyCmd) (n : Nat) : Bool :=
  let ps := q.chunkPieces n
  decide (n < q.chunks) && !q.ahead.contains n && (q.st = .active || q.ahead.any (fun k => decide (n < k))) &&
    (s.snag c q m ps).isNone && s.chunkWatered c q m ps && !s.chunkHeld c q m n

/-- A chunk in flight moved and not committed (R254): 0 the chunk at CURSOR, 1 the one behind it. Of timed reads its writes
that leave the core perform. DEDUCED, log 64. -/
def State.chunkMove (s : State) (c ch k : Nat) : State :=
  let q := (s.core c).chan ch
  let n := q.cursor.toNat + k
  match q.open with
  | none => s
  | some m =>
    if q.timed c then (if decide (min q.total ((n + 1) * q.chunk) ≤ q.y) && !s.chunkHeld c q m n then s.outWrites c ch m n else s)
    else if s.chunkMoves c q m n then
      ((q.chunkPieces n).foldl (fun s p => s.moveCounted c ch m p) s).modChan c ch (fun q => { q with ahead := q.ahead ++ [n] })
    else s

/-- The commit of the chunk at CURSOR (R254, R255): of timed reads once all its accesses are done; a counted chunk once it
has moved, which it does now if it has not. DEDUCED, log 21. -/
def State.chunkCommit (s : State) (c ch : Nat) : State :=
  let q := (s.core c).chan ch
  let n := q.cursor.toNat
  match q.open with
  | none => s
  | some m =>
    if q.timed c then (if q.chunkDone && (q.chunkOwn || !s.chunkHeld c q m n) then s.commitChunk c ch m else s)
    else if q.ahead.contains n then s.commitChunk c ch m
    else if s.chunkMoves c q m n then ((q.chunkPieces n).foldl (fun s p => s.moveCounted c ch m p) s).commitChunk c ch m
    else s

/-- CHUNK_COMMIT: the chunk at CURSOR commits, or a chunk in flight moves ahead of its commit. -/
def State.chunkEvent (s : State) (c : Nat) : ChunkStep → State
  | .commit ch => s.chunkCommit c ch.toNat
  | .move ch => s.chunkMove c ch.toNat 0
  | .ahead ch => s.chunkMove c ch.toNat 1

/-- The chunk at CURSOR of a command in the core's own cycle: it commits by itself after timed accesses alone (R255). -/
def State.chunkTick1 (s : State) (c ch : Nat) : State :=
  let q := (s.core c).chan ch
  match q.open with
  | none => s
  | some _ => if q.timed c && q.chunkDone && q.chunkOwn then s.chunkCommit c ch else s

/-- Those of both chunks in flight: two chunks of 64 bytes end in one cycle. -/
def State.chunkTick (s : State) (c ch : Nat) : State := (s.chunkTick1 c ch).chunkTick1 c ch

/-- The channel suspended at CURSOR (R256). -/
def State.suspend (s : State) (c ch : Nat) (f : Option (BitVec 8 × BitVec 8 × Word)) : State :=
  s.modChan c ch (fun q => { q with st := if q.st = .cancelling then q.st else .suspended, fault := f, ahead := [], out := [], wmWait := 0 })

/-- The first address of a chunk in another device, whose refusal suspends the copy (R352). -/
def State.abroadIn (s : State) (c : Nat) (q : Chan) (m : CopyCmd) (ps : List Piece) : Option Word :=
  match s.pieceSides c q m ps with
  | .error _ => none
  | .ok (ss, ds) =>
    if ds.any (fun t => t.1.device.isSome) then (ps.head?).map (fun p => p.2.1)
    else if ss.any (fun t => t.1.device.isSome) then (ps.head?).map (fun p => p.1)
    else none

/-- The ranges that a command writes, run by run (R138). -/
def State.chanFeeds (s : State) (c : Nat) (q : Chan) (m : CopyCmd) : List (Nat × Nat) :=
  let dests := if q.isCpy then
      (List.range (tmplRuns q.tmpl)).map (fun r => ((runAt q.tmpl m.mode m.disp r).2, tmplRun q.tmpl))
    else q.pat.map (fun p => (BitVec.ofNat 64 p.2.1, p.2.2))
  dests.flatMap (fun d =>
    match s.pieceParts c (s.ctx c m.res) .store [d] with
    | .ok l => l.map (fun t => (t.1.key, t.1.len))
    | .error _ => [])

/-- COPY_CHUNK_FAULT (R138, R256, R352): the chunk at CURSOR cannot run, or another device refuses it, and the channel
suspends. -/
def State.chunkFault (s : State) (c ch : Nat) (refused : Bool) : State :=
  let q := (s.core c).chan ch
  match q.open with
  | none => s
  | some m =>
    let n := q.cursor.toNat
    if q.st != .active || (q.timed c && q.chunkDone) || q.ahead.contains n then s
    else
      let todo := if q.timed c && decide (n * q.chunk < q.y) then q.pieces q.y (min q.total ((n + 1) * q.chunk) - q.y)
        else q.chunkPieces n
      match s.snag c q m todo with
      | none =>
        if !refused then s
        else
          match s.abroadIn c q m todo with
          | none => s
          | some va => (s.copyRecord c ch m 1 5 va q.cursor).suspend c ch (some (1, 5, va))
      | some (.fault cause sub va) => (s.copyRecord c ch m cause sub va q.cursor).suspend c ch (some (cause, sub, va))
      | some (.det e) => (s.detStop (m.agent c) (some m.seq) (s.chanFeeds c q m) e).suspend c ch none

/-- WATERMARK_WAIT_LIMIT_EXPIRY (R257). -/
def State.watermarkExpiry (s : State) (c ch : Nat) : State :=
  let q := (s.core c).chan ch
  match q.open with
  | none => s
  | some m =>
    if q.st = .active ∧ 16777216 ≤ q.wmWait then
      (s.copyRecord c ch m 4 0 0 q.cursor).suspend c ch (some (4, 0, 0))
    else s

/-- A cycle of a watermark wait. -/
def State.watermarkWait (s : State) (c ch : Nat) : State :=
  let q := (s.core c).chan ch
  match q.open with
  | none => s
  | some m =>
    if q.st = .active && q.watermark.isSome && !s.chunkWatered c q m (q.chunkPieces q.cursor.toNat) then
      s.modChan c ch (fun q => { q with wmWait := q.wmWait + 1 })
    else s

/-- One completion action (R135, R252, R415). DEDUCED, log 64. -/
def State.copyAction (s : State) (c ch : Nat) (m : CopyCmd) (a : Nat) : State :=
  let q := (s.core c).chan ch
  match a / 2 ^ 30 with
  | 1 =>
    let va : Word := BitVec.ofNat 64 (vaultBase 1023 + a % 2 ^ 22)
    s.pennant c m.res ⟨3, ch, m.pc, m.slot⟩ (q.tmpl.extractLsb' 480 3) va (q.seq + 1) [] m.seq
  | 2 => s.modCtx c m.res (fun x => x.credit (a % 4096))
  | _ => s

/-- COPY_COMPLETION_ACTION (R256): source released after the last read, visible after the last commit. -/
def State.copyCompletion (s : State) (c ch : Nat) : State :=
  let q := (s.core c).chan ch
  match q.cur with
  | none => s
  | some m =>
    if m.kind != 0 || q.st != .active then s
    else
      let read := q.moved || (q.timed c && decide (q.total ≤ q.y))
      let s := if read && !q.rdDone then
          (s.copyAction c ch m (tfield q.tmpl 416 32)).modChan c ch (fun q => { q with rdDone := true })
        else s
      if q.moved then (s.copyAction c ch m (tfield q.tmpl 448 32)).copyEnd c ch true else s

/-! ### Cancelling (R258) -/

/-- Whether a command that is cancelled has stopped at a chunk boundary. -/
def Chan.stoppedAt (q : Chan) (c : Nat) : Bool :=
  q.st = .cancelling && (q.kvRead.isSome ||
    (if q.timed c then decide (min q.total q.y ≤ q.cursor.toNat * q.chunk) else q.ahead.isEmpty))

/-- Answers to the CPYX commands that wait for the channel. -/
def State.answerCancels (s : State) (c ch : Nat) : State :=
  let q := (s.core c).chan ch
  let s := s.modChan c ch (fun q => { q with cancel := [] })
  q.cancel.foldl (fun s e =>
    s.answerG c e.2.2.1 e.2.1 e.1 (if e.2.2.2 then BitVec.allOnes 64 else BitVec.ofNat 64 q.doneBytes)) s

/-- COPY_CANCEL_COMPLETE (R258): the channel returns to IDLE and answers. A command stopped for a save waits for it.
DEDUCED, log 19. -/
def State.cancelComplete (s : State) (c ch : Nat) : State :=
  let q := (s.core c).chan ch
  if q.cancel.isEmpty then s
  else if q.st = .idle then s.answerCancels c ch
  else if q.stoppedAt c then
    (s.modChan c ch (fun q => { q with st := .idle, cur := none, ahead := [], out := [], pat := [], fault := none })).answerCancels c ch
  else s

/-! ### The aperture (R232) -/

/-- APERTURE_COMMAND_ARRIVAL: a store of another agent to a copy aperture. DEDUCED, log 60. -/
def State.apertureArrival (s : State) (c : Nat) (off : Nat) (v : Word) : State :=
  let res : BitVec 1 := BitVec.ofNat 1 (off / 2048)
  let ch := off % 2048 / 64
  if off % 64 ≠ 0 ∨ 4 ≤ ch then s
  else
    let k := s.core c
    let x := k.ctx res
    let away := (k.preSt = .saving || k.preSt = .restoring) && k.preRes == res
    if 64 ≤ v.toNat || !x.owned || x.saved || away then s.modChan c ch (fun q => { q with aerr := q.aerr + 1 })
    else
      let m : CopyCmd :=
        { kind := 0, res := res, seq := s.seq, pc := BitVec.allOnes 64, slot := 0, issue := s.now c
          tidx := v.setWidth 6, mode := 0, disp := 0, aperture := true, sat := none, tmpl := none, kvDesc := 0, kvPath := 0
          after := [], gates := [], cursor0 := 0, kvBuf := [], kvShift := 0 }
      (s.modChan c ch (fun q => { q with queue := q.queue ++ [m] })).tick1

end Sys2Proof.Machine
end

