-- ==== Sys2Proof/Machine/Queues.lean ====
section
/-!
DEFINITION. Hardware queues (R116, R225 to R227, R307, R314 to R318): acceptance, dequeue, mirrors, the queue directory,
queue entries, and the host's producer windows.
-/

namespace Sys2Proof.Machine

/-! ### CRC-32 (IEEE 802.3) -/

def crcBit (c : Nat) : Nat := if c % 2 = 1 then (c / 2) ^^^ 0xEDB88320 else c / 2

def crcByte (c : Nat) (b : Byte) : Nat := (List.range 8).foldl (fun c _ => crcBit c) (c ^^^ b.toNat)

/-- The CRC-32 of a list of bytes. -/
def crc32 (bs : List Byte) : Nat := bs.foldl crcByte 0xFFFFFFFF ^^^ 0xFFFFFFFF

/-! ### Places -/

def Queue.cap (e : Queue) : Nat := 2 ^ e.log2n.toNat

/-- The two stacks of the mirrors of a queue: the halves of `$qmir` of its core (R307). -/
def State.stacksOf (s : State) (q : Nat) : List Nat :=
  let m := (s.core (q / 8)).qmir.toNat
  [m % 16, m / 16]

/-- The device physical address of the mirror of a queue in a stack. -/
def Queue.mirrorAt (e : Queue) (stack : Nat) : Nat := stack * 68719476736 + e.moff.toNat

/-- The vault key of the packet slot of an index. -/
def Queue.slotKey (e : Queue) (q i : Nat) : Nat := vaultKey (q / 8) (e.img.toNat + 64 * (i % e.cap))

/-- A write to both mirrors of a queue. -/
def State.mirrorPut (s : State) (q off : Nat) (bs : List Byte) : State :=
  let e := s.queue q
  (s.stacksOf q).foldl (fun s k => s.put (e.mirrorAt k + off) bs) s

/-- The first 64 bytes of a mirror: head, tail, generation, LOG2N and SEQ, as 32-bit words. DESIGN CHOICE, log 52. -/
def Queue.header (e : Queue) : List Byte :=
  numBytes 64 ((b1 e.seq ++ e.log2n.setWidth 32 ++ e.gen.setWidth 32 ++ e.tail ++ e.head).toNat)

/-- The header of a queue brought to its mirrors. -/
def State.mirrorHead (s : State) (q : Nat) : State := s.mirrorPut q 0 (s.queue q).header

/-- Byte k of the retired bits of a queue. -/
def Queue.retiredByte (e : Queue) (k : Nat) : Byte :=
  BitVec.ofNat 8 ((List.range 8).map (fun j =>
    if e.retired.any (fun r => decide (r % e.cap = 8 * k + j)) then 2 ^ j else 0)).sum

/-- The retired bits of a queue brought to its mirrors: the byte of one slot. -/
def State.mirrorRetired (s : State) (q i : Nat) : State :=
  let e := s.queue q
  let k := i % e.cap / 8
  s.mirrorPut q (320 + k) [e.retiredByte k]

/-- Everything that the mirrors of a queue hold ahead of its packets, brought to them when it is enabled: the header, the last
SEQ of each producer, the retired bits. -/
def State.mirrorAll (s : State) (q : Nat) : State :=
  let e := s.queue q
  s.mirrorPut q 0 (e.header ++ (List.range 64).flatMap (fun j => numBytes 4 (Table.get (0 : BitVec 32) e.last j).toNat) ++
    (List.range 512).map e.retiredByte)

/-- Whether acceptance waits: a swap-in copies packets back, or a mirror is being rebuilt (R307, R318). -/
def State.queueWaits (s : State) (q : Nat) : Bool :=
  (s.queue q).copying || (s.stacksOf q).any (fun k => s.failedStacks.getLsbD k)

/-! ### Acceptance (R226) -/

/-- PROD and SEQ of a packet (Table 10.4). -/
def packetProd (p : List Byte) : Nat := leNat (p.take 8) / 2 ^ 32 % 64
def packetSeq (p : List Byte) : BitVec 32 := BitVec.ofNat 32 (leNat (p.take 8))

/-- The last accepted SEQ of a producer; 0 for a queue without SEQ. -/
def Queue.lastOf (e : Queue) (prod : Nat) : BitVec 32 := if e.seq then Table.get 0 e.last prod else 0

def Queue.full (e : Queue) : Bool := e.cap ≤ (e.tail - e.head).toNat

/-- Contexts of a core whose queue takes a packet wake from IDLE (R176). -/
def State.wakeCore (s : State) (c : Nat) : State := s.modCore c (fun k => { k with a := k.a.wake, b := k.b.wake })

/-- A packet of a sender, if a context is, accepted: image and mirrors take it, with the sequence state; swapped out, the
mirrors alone. The write of the image touches guard granules as any other does (R106). -/
def State.acceptPacket (s : State) (from_ : Option Agent) (q : Nat) (p : List Byte) : State :=
  let e := s.queue q
  let i := e.tail.toNat
  let prod := packetProd p
  let last := if e.seq then Table.set e.last prod (packetSeq p) else e.last
  let s := if e.swap then s
    else
      match from_ with
      | some a => (s.touchGuard a (e.slotKey q i) 64).put (e.slotKey q i) p
      | none => s.put (e.slotKey q i) p
  let s := s.mirrorPut q (4096 + 64 * (i % e.cap)) p
  let s := s.setQueue q { e with tail := e.tail + 1, last := last }
  let s := if e.seq then s.mirrorPut q (64 + 4 * prod) (numBytes 4 (packetSeq p).toNat) else s
  ((s.mirrorRetired q i).mirrorHead q).wakeCore (q / 8)

/-- The status of an enqueue from a partition and, if one sent it, a context, the last SEQ it answers with, and the state
after it (R226). DEDUCED, log 58. -/
def State.enqueue (s : State) (part : Option Nat) (from_ : Option Agent) (h : Word) (p : List Byte) : Nat × BitVec 32 × State :=
  match handleOf h with
  | none => (5, 0, s)
  | some (gen, q) =>
    let e := s.queue q
    let last := e.lastOf (packetProd p)
    let d := packetSeq p - last
    if part.isNone ∨ s.partOf (q / 8) ≠ part ∨ !e.en then (5, 0, s)
    else if gen ≠ e.gen then (4, last, s)
    else if e.seq then
      if 2 ^ 38 ≤ leNat (p.take 8) then (5, last, s)
      else if d = 1 then (if e.full then (3, last, s) else (0, packetSeq p, s.acceptPacket from_ q p))
      else if (last - packetSeq p).toNat < 2147483648 then (1, last, s)
      else (2, last, s)
    else if e.full then (3, last, s)
    else (0, last, s.acceptPacket from_ q p)

/-- The answer word of R226. -/
def answerWord (r : Nat × BitVec 32 × State) : Word := r.2.1 ++ (0 : BitVec 24) ++ BitVec.ofNat 8 r.1

/-- Whether acceptance waits for a sender of a partition to the queue that its handle names; a queue of another partition
answers at once (R351). -/
def State.handleWaits (s : State) (part : Option Nat) (h : Word) : Bool :=
  match handleOf h with
  | some (_, q) => part.isSome && decide (s.partOf (q / 8) = part) && (s.queue q).en && s.queueWaits q
  | none => false

/-- The packet of an ENQ at its queue answered, unless acceptance waits; a stale handle is recorded (R226). -/
def State.enqAnswer (s : State) (m : Msg) : State :=
  match m.ask with
  | .enq h p =>
    if s.handleWaits (s.partOf m.core) h then s
    else
      let r := s.enqueue (s.partOf m.core) (some ⟨m.core, m.res, m.pc, m.slot⟩) h p
      let w := answerWord r
      let s := r.2.2.answered m (wordBytes w)
      if r.1 = 4 then
        let f := { FaultRec.plain 19 0 m.pc with slot := m.slot, addr := m.va, aux0 := h, aux1 := w }
        s.record m.core m.res f 0
      else s
  | _ => s

/-- The region in whose cycles the queue of a packet takes it: that of the queue's core, while its clocks run. -/
def State.enqRegion (s : State) (m : Msg) : Option Nat :=
  match m.ask with
  | .enq h _ => (handleOf h).bind (fun e => if (s.regOf (e.2 / 8)).runs then s.regionOf (e.2 / 8) else none)
  | _ => none

/-- ENQUEUE_REQUEST (R226): a packet reaches its queue, which takes it in the next cycle of its region; where no clock runs it
is answered at once. -/
def State.enqueueRequest (s : State) (id : Nat) : State :=
  match s.fabric.find? (fun m => m.id = id) with
  | none => s
  | some m =>
    if !s.deliverable m then s
    else if (s.enqRegion m).isSome then
      { s with fabric := s.fabric.map (fun n => if n.id = id then { n with arrived := true } else n) }
    else s.enqAnswer m

/-- The packets that have reached the queues of a region taken, by ascending sending core (R226). -/
def State.enqTurn (s : State) (r : Nat) : State :=
  let here := s.fabric.filter (fun m => m.arrived && s.enqRegion m == some r)
  (here.foldl (fun l m => insertMsg m l) []).foldl (fun s m => s.enqAnswer m) s

/-! ### Dequeue (R227) -/

/-- DEQ of a context at issue + 8: the status, and the state with the packet at the destination and the head moved. Its read
of the image and its write meet errors and guard granules as any other access does (R106, R107). DEDUCED, log 58. -/
def State.dequeue (s : State) (a : Agent) (h : Word) (off : Nat) : Nat × State :=
  match s.deqFault a.core h, handleOf h with
  | some st, _ => (st, s)
  | none, none => (5, s)
  | none, some (_, q) =>
    let e := s.queue q
    if e.head = e.tail then (6, s)
    else
      let p := s.sample (e.slotKey q e.head.toNat) 64
      let s := (s.touchRead a (e.slotKey q e.head.toNat) 64).touchGuard a (vaultKey a.core off) 64
      let s := (s.put (vaultKey a.core off) p).setQueue q { e with head := e.head + 1 }
      (0, s.mirrorHead q)

/-! ### The directory (R307) -/

/-- The two copies of the queue directory. -/
def directories : List Nat := [0x0FFFFC0000, 0x6FFFFC0000]

/-- A queue entry as 32 bytes, HEAD and TAIL left out when asked (Table 17.9). -/
def Queue.entry (e : Queue) (idx : Bool) : BitVec 256 :=
  (if idx then e.tail ++ e.head else (0 : BitVec 64)) ++ (0 : BitVec 92) ++ e.moff ++ (0 : BitVec 10) ++ e.img ++
    (0 : BitVec 12) ++ e.gen ++ (0 : BitVec 1) ++ b1 e.swap ++ e.log2n ++ b1 e.seq ++ b1 e.en

/-- Bytes written to both copies, with the header: a 64-bit change count, then the CRC-32. -/
def State.dirPut (s : State) (off : Nat) (bs : List Byte) : State :=
  directories.foldl (fun s d =>
    let s := s.put (d + off) bs
    let n := leNat (s.through (d + 197504) 8) + 1
    s.put (d + 197504) (numBytes 8 n ++ numBytes 4 (crc32 (s.through d 197504)))) s

/-- The entry of a queue brought to the directory. -/
def State.dirQueue (s : State) (q : Nat) : State :=
  s.dirPut (32 * q) (numBytes 32 ((s.queue q).entry false).toNat)

/-- `$qmir` and `$lq` of a core brought to the directory after they changed. DESIGN CHOICE, log 52. -/
def State.dirCore (s : State) (c : Nat) (old : Core) : State :=
  let k := s.core c
  let s := if k.qmir == old.qmir then s else s.dirPut (196608 + c) [k.qmir]
  if k.lq == old.lq then s
  else
    match s.regionOf c with
    | some r => s.dirPut (197376 + 4 * r) (numBytes 4 k.lq.toNat)
    | none => s

/-- Whether a copy of the directory is valid: its CRC stands, and it has been written at all. -/
def State.dirValid (s : State) (d : Nat) : Bool :=
  s.mem.any (fun c => decide (d ≤ c.1) && decide (c.1 < d + 197568)) &&
    Memory.num s.mem (d + 197512) 4 = crc32 (s.sample d 197504)

/-! ### Queue entries (R307) -/

/-- Whether a mirror range may be used: inside its stack, in HBM groups of the partition, clear of the directory. -/
def mirrorOk (p : Partition) (q : Nat) (e : Queue) (stack : Nat) : Bool :=
  let lo := e.mirrorAt stack
  let hi := lo + 4096 + 64 * e.cap
  decide (e.moff.toNat + 4096 + 64 * e.cap ≤ 68719476736) && hbmOk p lo && hbmOk p (hi - 1) &&
    directories.all (fun d => decide (hi ≤ d) || decide (d + 262144 ≤ lo)) && decide (q < 6144)

/-- Whether an entry may be enabled. -/
def State.queueOk (s : State) (q : Nat) (e : Queue) : Bool :=
  decide (1 ≤ e.log2n.toNat) && decide (e.log2n.toNat ≤ 12) && decide (e.img.toNat % 64 = 0) && decide (e.moff.toNat % 4096 = 0) &&
    decide (e.img.toNat + 64 * e.cap ≤ 4194304) &&
    s.queues.all (fun o => o.1 = q || decide (o.1 / 8 ≠ q / 8) || !o.2.en ||
      decide (overlap e.img.toNat (64 * e.cap) o.2.img.toNat (64 * o.2.cap) = 0)) &&
    (match s.partOf (q / 8) with
     | none => false
     | some p => (s.stacksOf q).all (mirrorOk (s.partition p) q e))

/-- The fields of a queue entry as a host writes them. -/
def Queue.written (e : Queue) (w : BitVec 256) : Queue :=
  { e with
    en := w.getLsbD 0, seq := w.getLsbD 1, log2n := w.extractLsb' 2 4, swap := w.getLsbD 6, gen := w.extractLsb' 8 12
    img := w.extractLsb' 32 22, moff := w.extractLsb' 64 36 }

/-- Whether the reserved bits of a written queue entry are zero. -/
def queueBits (w : BitVec 256) : Bool :=
  w.extractLsb' 7 1 == 0 && w.extractLsb' 20 12 == 0 && w.extractLsb' 54 10 == 0 && w.extractLsb' 100 92 == 0

/-- A commit of a queue entry (R307), refused with a configuration error in the partition of its core. DEDUCED, log 58. -/
def State.queueCommit (s : State) (q : Nat) (w : BitVec 256) : State :=
  let e := s.queue q
  let n := e.written w
  let ok :=
    if !e.en then !n.en || (queueBits w && s.queueOk q n)
    else
      queueBits w && n.seq == e.seq && n.log2n == e.log2n && n.img == e.img && n.moff == e.moff &&
        (n.en || (e.head == e.tail && !e.swap && !n.swap))
  if !ok then s.cfgError (s.partOf (q / 8))
  else
    let s := s.setQueue q { n with copying := e.copying || (e.en && e.swap && !n.swap) }
    let s := s.dirQueue q
    if n.en && !e.en then s.mirrorAll q else if n.en then s.mirrorHead q else s

/-! ### Swap-in, failed stacks, restart -/

/-- The packets of a queue by index, from HEAD to TAIL. -/
def Queue.held (e : Queue) : List Nat := (List.range (e.tail - e.head).toNat).map (fun i => (e.head + BitVec.ofNat 32 i).toNat)

/-- The packets of a queue copied from a mirror to its vault image. -/
def State.fillImage (s : State) (q stack : Nat) : State :=
  let e := s.queue q
  e.held.foldl (fun s i => s.put (e.slotKey q i) (s.sample (e.mirrorAt stack + 4096 + 64 * (i % e.cap)) 64)) s

/-- SWAP_IN_COPY_COMPLETE (R307): the packets of the first mirror are back in the vault image. -/
def State.swapInDone (s : State) (q : Nat) : State :=
  let e := s.queue q
  if !e.copying then s
  else
    let s := s.fillImage q ((s.stacksOf q).headD 0)
    s.setQueue q { e with copying := false }

/-- MIRROR_COPY_COMPLETE (R318): what the surviving mirrors of a failed stack hold stands in a new stack. -/
def State.mirrorCopied (s : State) (stack fresh : Nat) : State :=
  if !s.failedStacks.getLsbD stack ∨ 12 ≤ fresh ∨ s.failedStacks.getLsbD fresh then s
  else
    (List.range 768).foldl (fun s c =>
      let k := s.core c
      let m := k.qmir.toNat
      if m % 16 ≠ stack ∧ m / 16 ≠ stack then s
      else
        let good := if m % 16 = stack then m / 16 else m % 16
        let new : BitVec 8 := if m % 16 = stack then BitVec.ofNat 8 (m / 16 * 16 + fresh) else BitVec.ofNat 8 (fresh * 16 + m % 16)
        let s := (List.range 8).foldl (fun s j =>
          let e := s.queue (c * 8 + j)
          if !e.en then s
          else s.put (e.mirrorAt fresh) (s.sample (e.mirrorAt good) (4096 + 64 * e.cap))) s
        (s.modCore c (fun k => { k with qmir := new })).dirCore c k) s

/-- A queue rebuilt from the mirror with the greater tail after a reset (R317); the head passes retired slots. -/
def State.rebuildQueue (s : State) (q : Nat) : State :=
  let e := s.queue q
  if !e.en then s
  else
    let tails := ((s.stacksOf q).filter (fun k => !s.failedStacks.getLsbD k)).map (fun k =>
      (k, Memory.num s.mem (e.mirrorAt k + 4) 4))
    match tails with
    | [] => s
    | t :: ts =>
      let (k, tail) := ts.foldl (fun b c => if b.2 < c.2 then c else b) t
      let at_ := e.mirrorAt k
      let head := Memory.num s.mem at_ 4
      let e := { e with
        head := BitVec.ofNat 32 head, tail := BitVec.ofNat 32 tail, gen := BitVec.ofNat 12 (Memory.num s.mem (at_ + 8) 4)
        last := (List.range 64).filterMap (fun j =>
          let v := Memory.num s.mem (at_ + 64 + 4 * j) 4
          if v = 0 then none else some (j, BitVec.ofNat 32 v)) }
      let done := e.held.filter (fun i =>
        (Memory.read s.mem (at_ + 320 + i % e.cap / 8)).getLsbD (i % e.cap % 8))
      let skip := (e.held.takeWhile done.contains).length
      let e := { e with head := e.head + BitVec.ofNat 32 skip, retired := done.drop skip, taken := [] }
      let e := { e with again := e.held }
      let s := s.setQueue q e
      if e.swap then s else s.fillImage q k

/-- What firmware restores before READY (R317, R408): entries, `$qmir`, `$lq` from a valid copy of the directory, and the
queues from their mirrors. No core belongs to a region yet, so the launch queue handles wait for the clusters that join. -/
def State.restoreQueues (s : State) : State :=
  match directories.find? s.dirValid with
  | none => s
  | some d =>
    let s := (List.range 768).foldl (fun s c =>
      let b := Memory.read s.mem (d + 196608 + c)
      if b = 0 then s else s.modCore c (fun k => { k with qmir := b })) s
    let lqs := (List.range 32).filterMap (fun r =>
      let h := Memory.num s.mem (d + 197376 + 4 * r) 4
      if h = 0 then none else some (r, BitVec.ofNat 64 h))
    let s := { s with lqKept := lqs }
    (List.range 6144).foldl (fun s q =>
      let w := BitVec.ofNat 256 (Memory.num s.mem (d + 32 * q) 32)
      if w = 0 then s else (s.setQueue q (Queue.fresh.written w)).rebuildQueue q) s

/-! ### Retirement (R313, R317) -/

/-- A slot retired: its bit in both mirrors, and the head over the slots that have retired. -/
def State.retireSlot (s : State) (q i : Nat) : State :=
  let e := s.queue q
  let done := e.retired ++ [i]
  let s := s.setQueue q { e with retired := done, taken := e.taken.filter (fun j => j ≠ i) }
  let s := s.mirrorRetired q i
  let past := e.held.takeWhile done.contains
  let s := s.setQueue q { s.queue q with
    head := e.head + BitVec.ofNat 32 past.length, retired := done.filter (fun j => !past.contains j) }
  s.mirrorHead q

/-! ### Host windows (R314, R315) -/

def State.window (s : State) (w : Nat) : Window := Table.get Window.fresh s.windows w
def State.setWindow (s : State) (w : Nat) (x : Window) : State := { s with windows := Table.set s.windows w x }

/-- A pending submit answered, unless its queue waits. DEDUCED, log 58. -/
def State.windowAnswer (s : State) (w : Nat) : State :=
  let x := s.window w
  let part := s.findPart (fun p => p.hostw.getLsbD w)
  if !x.pending || s.handleWaits part x.handle then s
  else
    let p := numBytes 64 x.staging.toNat
    let sq := match handleOf x.handle with
      | some (_, q) => (s.queue q).seq
      | none => false
    let r : Nat × BitVec 32 × State := s.enqueue part none x.handle p
    let r := if sq && decide (packetProd p ≠ w) && decide (r.1 ≠ 4) then (5, 0, s) else r
    r.2.2.setWindow w { x with pending := false, answer := answerWord r }

/-- HOST_WINDOW_SUBMIT (R315): discarded while an earlier submit is pending. -/
def State.windowSubmit (s : State) (w : Nat) (h : Word) : State :=
  if (s.window w).pending then s
  else (s.setWindow w { s.window w with pending := true, handle := h }).windowAnswer w

/-- The windows that waited for a queue, answered. -/
def State.windowsTurn (s : State) : State := (s.windows.map (fun p => p.1)).foldl (fun s w => s.windowAnswer w) s

/-- A read of n bytes at an offset of BAR2 (R314): the answer of the last submit of a window, status 0xFF while it is pending;
any other access, and any below READY (R406), reads all ones. DEDUCED, log 58. -/
def State.bar2Read (s : State) (off n : Nat) : Word :=
  let x := s.window (off / 4096)
  if s.boot = .ready ∧ off / 4096 < 64 ∧ off % 4096 = 0x48 ∧ n = 8 then (if x.pending then 0xFF else x.answer) else BitVec.allOnes 64

/-- PACKET_STAGING_WRITE (R314). -/
def State.stagePacket (s : State) (w off : Nat) (bs : List Byte) : State :=
  let x := s.window w
  let put := fun (v : BitVec 512) (p : Byte × Nat) =>
    let i := off + p.2
    if 64 ≤ i then v
    else
      let m : BitVec 512 := BitVec.ofNat 512 (255 * 256 ^ i)
      (v &&& ~~~m) ||| BitVec.ofNat 512 (p.1.toNat * 256 ^ i)
  s.setWindow w { x with staging := bs.zipIdx.foldl put x.staging }

end Sys2Proof.Machine
end

