-- ==== Sys2Proof/Machine/Streams.lean ====
section
/-!
DEFINITION. The stream transfer units (R115, R136, R221, R228 to R230, R285): reading a descriptor, and moving one register
of data.
-/

namespace Sys2Proof.Machine

/-- Who the accesses of a stream belong to: the context, at the bundle it has in hand. DEDUCED, log 57. -/
def State.streamAgent (s : State) (c : Nat) (res : BitVec 1) : Agent := ⟨c, res, (s.ctx c res).pc, 0⟩

/-! ### The descriptor (R228) -/

/-- A field of a stream descriptor. -/
def sfield {n : Nat} (d : BitVec n) (lo len : Nat) : Nat := (d.extractLsb' lo len).toNat

/-- Whether a write stream is bound to the port of a source in any context (R229). -/
def State.portWriter (s : State) (sel : BitVec 9) : Bool :=
  s.cores.any (fun p => (s.regOf p.1).sel == sel && [p.2.a, p.2.b].any (fun x =>
    x.streams.any (fun q => q.2.bound && q.2.write && q.2.read && q.2.kind = 3)))

/-- The condition of a kind: of a crossing its bound end (R285), of a port its source (R229). -/
def State.kindOk (s : State) (c : Nat) (res : BitVec 1) (t : Stream) (d : BitVec 512) : Bool :=
  let base := d.extractLsb' 0 64
  let flat := [256, 320, 384, 448].all (fun lo => sfield d lo 64 = 0)
  match sfield d 64 2 with
  | 2 =>
    flat && s.crossOk c base &&
      (match crossAddr base with
       | none => false
       | some (u, ch) =>
         let x := (s.crossing u).chan ch
         let e := if t.write then x.boundP else x.boundC
         e.any (fun b => b.1 = c && b.2.1 == res))
  | 3 =>
    let r := s.regOf c
    flat && sfield base 15 49 = 0 && r.en && decide (r.sel.toNat < 256) && decide (base.toNat % 256 = r.sel.toNat) &&
      !(t.write && s.portWriter r.sel)
  | _ => true

/-- The first check that a descriptor fails (R228). DEDUCED, log 57. -/
def State.descFail (s : State) (c : Nat) (res : BitVec 1) (t : Stream) (d : BitVec 512) : Option StreamFail :=
  let zero := [128, 160, 192, 224].any (fun lo => sfield d lo 32 = 0)
  let words := [0, 256, 320, 384, 448]
  if sfield d 66 62 ≠ 0 ∨ !s.kindOk c res t d ∨ zero then some ⟨1, 0, 0⟩
  else if sfield d 64 2 < 2 ∧ words.any (fun lo => sfield d lo 64 % 64 ≠ 0) then some ⟨4, 0, d.extractLsb' 0 64⟩
  else none

/-- The descriptor of a binding read at issue + 6; a binding that is gone reads nothing. -/
def State.streamDesc (s : State) (c : Nat) (res : BitVec 1) (id n off : Nat) : State :=
  let x := s.ctx c res
  let t := x.stream n
  if !t.bound || decide (t.id ≠ id) then s
  else
    let key := vaultKey c off
    let s := s.touchRead (s.streamAgent c res) key 64
    let d := BitVec.ofNat 512 (Memory.num s.mem key 64)
    match s.descFail c res t d with
    | some e => s.modCtx c res (fun x => x.setStream n { Stream.none with fail := some e })
    | none =>
      let pos := (s.regOf c).readable.1 * 65536
      s.modCtx c res (fun x => x.setStream n { t with read := true, desc := d, pos := pos })

/-! ### One register (R115) -/

/-- The parts of one transfer, when they translate and do not conflict; the state notes translations and DET records. -/
def State.streamParts (s : State) (c : Nat) (res : BitVec 1) (t : Stream) (acc : Acc) : Option (State × List Part) :=
  match s.parts c (s.ctx c res) (t.at t.moved) 512 acc with
  | .error _ => none
  | .ok ps =>
    let s := ps.foldl (fun s p => s.tlbPut c p.2.tlb) s
    let ps := ps.map (fun p => p.1)
    match s.detScan c res (acc != .load) (detRanges ps) with
    | .error e => some (s.detStop (s.streamAgent c res) (some t.id) [] e, [])
    | .ok s => some (s, ps)

/-- One register read from a vault or from memory; what another device refuses reads all ones (R352). -/
def State.streamLoad (s : State) (c : Nat) (res : BitVec 1) (admitted : Bool) (t : Stream) : Option (State × Stream) :=
  match s.streamParts c res t .load with
  | none => none
  | some (s, []) => some (s, t)
  | some (s, ps) =>
    let a := s.streamAgent c res
    let (bs, s) := ps.foldl (fun (acc : List Byte × State) p =>
      if p.device.isSome && !admitted then (acc.1 ++ List.replicate p.len (BitVec.allOnes 8), acc.2)
      else
        let s := acc.2.touchRead a p.key p.len
        let (b, s) := s.slotBytes p.key p.len
        (acc.1 ++ b, s)) ([], s)
    some (s, { t with data := t.data ++ [BitVec.ofNat 4096 (leNat bs)], moved := t.moved + 1 })

/-- One register written to a vault or to memory; what another device refuses is not written (R352). -/
def State.streamStore (s : State) (c : Nat) (res : BitVec 1) (admitted : Bool) (t : Stream) (v : BitVec 4096) : Option (State × Stream) :=
  match s.streamParts c res t .store with
  | none => none
  | some (s, []) => some (s, t)
  | some (s, ps) =>
    let a := s.streamAgent c res
    let go := ps.foldl (fun (acc : State × List Byte) p =>
      let s := acc.1
      ((if p.device.isSome && !admitted then s else (s.touchGuard a p.key p.len).put p.key (acc.2.take p.len)), acc.2.drop p.len))
      (s, numBytes 512 v.toNat)
    some (go.1, { t with data := t.data.tail, moved := t.moved + 1 })

/-- One register of data moved, when it can move. -/
def State.streamMove (s : State) (c : Nat) (res : BitVec 1) (admitted : Bool) (t : Stream) : Option (State × Stream) :=
  if !t.read || decide (t.total ≤ t.moved) then none
  else if t.write then
    match t.data with
    | [] => none
    | v :: rest =>
      let gone : Stream := { t with data := rest, moved := t.moved + 1 }
      match t.kind with
      | 2 =>
        (match crossAddr t.base with
         | none => none
         | some (u, ch) =>
           if ((s.crossing u).chan ch).room 1 then some (s.crossPut u ch v, gone) else none)
      | 3 =>
        (match s.regionOf c with
         | none => none
         | some r =>
           let g := s.region r
           let new := (unpackSamples t.portG v).map (fun y => (g.portNow, y))
           if g.outs.length + t.portG ≤ 2 * g.s.toNat then
             some (s.modRegion r (fun g => { g with outs := g.outs ++ new }), gone)
           else none)
      | _ => s.streamStore c res admitted t v
  else if decide (4 ≤ t.data.length) || (s.ctx c res).sbarHolds t.classBit then none
  else
    match t.kind with
    | 2 =>
      (match crossAddr t.base with
       | none => none
       | some (u, ch) =>
         let k := s.crossing u
         let x := k.chan ch
         if k.ready x t.data.length 1 then
           let (x', l) := s.takeOuts k x.gC (x.ahead t.data.length) x
           let s := s.tapErrors (s.streamAgent c res) u ch k (x.ahead t.data.length) l.length
           some (s.setCrossing u (k.setChan ch x'), { t with data := t.data ++ [packSamples l], moved := t.moved + 1 })
         else none)
    | 3 => none
    | _ => s.streamLoad c res admitted t

/-- STREAM_TRANSFER (R115): the unit of a register moves one register of data, of a drained binding first (R230). -/
def State.streamTransfer (s : State) (c : Nat) (res : BitVec 1) (n : Nat) (admitted : Bool) : State :=
  let x := s.ctx c res
  match x.drains.find? (fun d => d.reg = n) with
  | some d =>
    (match s.streamMove c res admitted d with
     | none => s
     | some (s, d') =>
       s.modCtx c res (fun x =>
         { x with drains := (x.drains.map (fun e => if e.id = d.id then d' else e)).filter (fun e => e.moved < e.taken) }))
  | none =>
    let t := x.stream n
    if !t.bound || (s.core c).away res then s
    else
      match s.streamMove c res admitted t with
      | none => s
      | some (s, t') => s.modCtx c res (fun x => x.setStream n t')

/-- Writes to crossings and ports move by themselves in the cycle in which they perform (R229, R285). DEDUCED, log 57. -/
def State.streamTurn (s : State) (c : Nat) (res : BitVec 1) : State :=
  let x := s.ctx c res
  let due := (x.drains.filter (fun d => decide (2 ≤ d.kind) && !d.data.isEmpty)).map (fun d => d.reg) ++
    ((x.streams.filter (fun p => p.2.bound && p.2.write && p.2.read && decide (2 ≤ p.2.kind) && !p.2.data.isEmpty)).map
      (fun p => p.1))
  due.foldl (fun s n => s.streamTransfer c res n true) s

end Sys2Proof.Machine
end

