-- ==== Sys2Proof/Machine/Perform.lean ====
section
/-!
DEFINITION. How effects in flight perform: accesses at their targets (R101, R103, R110, R216, R352), the answers that come
back to registers (R103, R178, R263, R274, R287), and the timed effects of slots (R101, R155, R224, R226 to R228, R262,
R267, R274, R284).
-/

namespace Sys2Proof.Machine

/-! ### Accesses of this device -/

def Msg.agent (m : Msg) : Agent := ⟨m.core, m.res, m.pc, m.slot⟩

/-- The bytes of a read, with what reading them raises in the context that asked. -/
def State.readParts (s : State) (m : Msg) : List Part → List Byte × State
  | [] => ([], s)
  | p :: ps =>
    let s := if m.host then s else s.touchRead m.agent p.key p.len
    let (b, s) := s.slotBytes p.key p.len
    let (r, s) := s.readParts m ps
    (b ++ r, s)

/-- The guard touches of parts of a message. -/
def State.guardParts (s : State) (m : Msg) (ps : List Part) : State :=
  if m.host then s else ps.foldl (fun s p => s.touchGuard m.agent p.key p.len) s

/-- A question of this device to a hoist or a crossing (R263, R287). -/
def State.question (s : State) (m : Msg) : List Byte :=
  match m.dest with
  | .hread _ _ =>
    let h := (s.ctx m.core m.res).hoist (m.va.toNat % 32)
    numBytes 8 (s.hoistValue h) ++ numBytes 8 h.reach.toNat
  | _ =>
    match crossAddr m.va with
    | some (u, ch) => wordBytes (s.xstatWord u ch)
    | none => wordBytes 0

/-- An access of a context of this device performed at its target: memory, a copy aperture, or the unit it asks; of one that
straddles pages the access of the next page (R112). DEDUCED, log 24. -/
def State.performMsg (s : State) (m : Msg) : State :=
  let (here, rest) := onePage m.parts
  match m.ask with
  | .read =>
    if here.isEmpty then s.answered m (s.question m)
    else
      let (b, s) := s.readParts m here
      s.paged m rest .read b
  | .write bs =>
    (match here with
     | [⟨.aperture c off, _, _, _, _, _⟩] => (s.apertureArrival c off (BitVec.ofNat 64 (leNat bs))).answered m []
     | _ =>
       let n := (here.map (fun p => p.len)).sum
       ((s.guardParts m here).putParts here (bs.take n)).paged m rest (.write (bs.drop n)) [])
  | .atomic op y c =>
    (match here with
     | p :: _ =>
       let s := if m.host then s else s.touchRead m.agent p.key p.len
       let r := s.atomicAt op p.key y c
       r.2.answered m (numBytes 8 r.1.toNat)
     | [] => s.answered m [])
  | .enq _ _ => s
  | .deq h =>
    let (st, s) := s.dequeue m.agent h (vaultOffset m.va)
    s.answered m (numBytes 8 st)

/-- What a refused remote access leaves (R352): all ones for a load or an atomic, nothing for a store. -/
def State.refuseMsg (s : State) (m : Msg) : State :=
  match m.ask with
  | .read => s.answered m (List.replicate (m.parts.map (fun p => p.len)).sum (BitVec.allOnes 8))
  | .atomic _ _ _ => s.answered m (wordBytes (BitVec.allOnes 64))
  | .write _ => s.answered m []
  | .enq _ _ => s
  | .deq _ => s

/-- The core whose vault an access goes to. -/
def Msg.vault (m : Msg) : Option Nat := (m.parts.head?.bind (fun p => vaultOf p.key)).map (fun v => v.1)

/-- The accesses that a kind of fabric event serves. -/
inductive Serve where
  | write | atomic | read
deriving DecidableEq, Repr

def Ask.served (a : Ask) (k : Serve) : Bool :=
  match a, k with
  | .write _, .write => true
  | .atomic _ _ _, .atomic => true
  | .read, .read => true
  | _, _ => false

/-- A message that arrives (R101): at a vault whose region runs it performs in that region's next cycle, anywhere else at
once; a release to the own vault performs by itself, but in a region whose clocks stand by an event as well (R19).
DEDUCED, log 22. -/
def State.arriveMsg (s : State) (k : Serve) (id : Nat) (admitted : Bool) : State :=
  match s.fabric.find? (fun m => m.id = id) with
  | none => s
  | some m =>
    if !m.ask.served k || m.arrived || (m.own && (s.regOf m.core).runs) || !s.deliverable m then s
    else if (m.parts.any (fun p => p.device.isSome)) && !admitted then s.refuseMsg m
    else
      match m.vault with
      | some c =>
        if (s.regOf c).runs then
          { s with fabric := s.fabric.map (fun n => if n.id = id then { n with arrived := true } else n) }
        else s.performMsg m
      | none => s.performMsg m

/-! ### Accesses of other devices (R110, R352) -/

/-- The partition that owns a device physical address. -/
def State.ownerOf (s : State) (pa : Nat) : Option Nat :=
  s.findPart (fun p =>
    hbmOk p pa || (decide (0x100000000000 ≤ pa) && decide (pa < 0x200000000000) &&
      p.cxlp.getLsbD (pa / 4398046511104 % 4) &&
      decide (pa % 4398046511104 < (Table.get (0 : BitVec 43) s.cxlCap (pa / 4398046511104 % 4)).toNat)))

/-- An access of another device: admitted by the owner's tag it performs, else it counts as refused there. The bytes of a
read and the old value of an atomic go back to that device and leave nothing here. -/
def State.serveRemote (s : State) (k : Serve) (tag addr : Word) (op : BitVec 5) (data : List Byte) : State :=
  match s.ownerOf addr.toNat with
  | none => s
  | some p =>
    let pa := addr.toNat
    if (s.partition p).tag != tag || !(s.partition p).en || inDirectory pa then
      s.modPartition p (fun x => { x with refused := x.refused + 1 })
    else
      match k with
      | .read => s
      | .write => s.put (paKey pa) data
      | .atomic =>
        (s.atomicAt op (paKey pa) (BitVec.ofNat 64 (leNat (data.take 8))) (BitVec.ofNat 64 (leNat (data.drop 8)))).2

/-- FABRIC_WRITE, FABRIC_ATOMIC and FABRIC_READ. DEDUCED, log 7. -/
def State.fabricEvent (s : State) (k : Serve) (a : Arrival) : State :=
  match a with
  | .own id admitted => s.arriveMsg k id admitted
  | .remote _ _ tag addr op data => s.serveRemote k tag addr op data

/-- The accesses that arrived at the vaults of a region performed, in the order of R101. -/
def State.fabricTurn (s : State) (r : Nat) : State :=
  let here := s.fabric.filter (fun m => m.arrived && m.vault.any (fun c => s.regionOf c = some r))
  (here.foldl (fun l m => insertMsg m l) []).foldl (fun s m => s.performMsg m) s

/-! ### Answers -/

/-- The value that a scalar register takes from the bytes of a load. -/
def loadWord (sext : Nat) (bs : List Byte) : Word :=
  let v := BitVec.ofNat 64 (leNat bs)
  if sext = 0 || !v.getLsbD (sext - 1) then v else v ||| BitVec.ofNat 64 (2 ^ 64 - 2 ^ sext)

/-- A register or polynomial written by the answer of an access, if that access still keeps it busy (R103). -/
def State.answerTo (s : State) (c : Nat) (res : BitVec 1) (id : Nat) (r : BusyReg) (sext : Nat) (bs : List Byte) : State :=
  match r with
  | .g n => s.answerG c res n id (loadWord sext bs)
  | .v n =>
    s.modCtx c res (fun x =>
      if x.busy.contains (r, id) then
        { x.wv n (BitVec.ofNat 4096 (leNat bs)) with busy := x.busy.filter (fun b => b != (r, id)) }
      else x)
  | .q n =>
    s.modCtx c res (fun x =>
      if x.busy.contains (r, id) then
        { x.setPoly n.toNat (Poly.ofImage bs) with busy := x.busy.filter (fun b => b != (r, id)) }
      else x)

/-- The words of a DIGEST that an answer brings. -/
def State.digestBytes (s : State) (m : Msg) (off : Nat) (bs : List Byte) : State :=
  s.modCtx m.core m.res (fun x =>
    match x.folding with
    | none => x
    | some g =>
      let got := (List.range (bs.length / 4)).foldl (fun t i =>
        Table.set t (off / 4 + i) (leNat ((bs.drop (4 * i)).take 4))) g.got
      { x with folding := some { g with got := got } })

/-- An answer delivered. -/
def State.deliver (s : State) (m : Msg) (bs : List Byte) : State :=
  match m.dest with
  | .none => s
  | .reg r sext => s.answerTo m.core m.res m.id r sext bs
  | .hread a b =>
    let s := s.answerG m.core m.res a m.id (BitVec.ofNat 64 (leNat (bs.take 8)))
    s.answerG m.core m.res b m.id (BitVec.ofNat 64 (leNat (bs.drop 8)))
  | .digest off => s.digestBytes m off bs

/-- REGISTER_DATA_ARRIVAL (R103): the answer of an access comes back. DEDUCED, log 20. -/
def State.dataArrival (s : State) (id : Nat) : State :=
  match s.fabric.find? (fun m => m.id = id) with
  | none => s
  | some m =>
    match m.answer with
    | none => s
    | some bs => { s with fabric := s.fabric.filter (fun n => n.id ≠ id) }.deliver m bs

/-! ### Releases held to the own vault (R132, R135, R231) -/

/-- Those due in this cycle perform, and an atomic among them answers at once. -/
def State.ownTurn (s : State) (r : Nat) : State :=
  let here := s.fabric.filter (fun m => m.own && s.regionOf m.core = some r && decide (m.due ≤ s.now m.core) && s.deliverable m)
  here.foldl (fun s m => (s.performMsg m).dataArrival m.id) s

/-- A release still held performs at the earliest a cycle after the last access it waits for. -/
def State.ownHold (s : State) (r : Nat) : State :=
  { s with fabric := s.fabric.map (fun m =>
      if m.own && s.regionOf m.core = some r && !(s.still m.core m.after).isEmpty then
        { m with due := max m.due (s.now m.core + 2) }
      else m) }

/-! ### Timed effects of slots -/

def Timed.agent (t : Timed) (c : Nat) : Agent := ⟨c, t.res, t.pc, t.slot⟩

/-- The register write of a near access, in this cycle, or held with the latency shadow (R159). -/
def State.landed (s : State) (c : Nat) (t : Timed) (r : Reg) (v : Nat) : State :=
  let w : RegWrite := ⟨r, BitVec.ofNat 4096 v, BitVec.allOnes 4096, 0, false, s.now c, t.seq, t.slot, s.now c⟩
  s.modCtx c t.res (fun x =>
    match t.hold with
    | .no => { x with writes := x.writes ++ [w] }
    | .dist d => { x with shadow := x.shadow ++ [{ w with due := d, issued := 6 - d }] }
    | .due u => { x with writes := x.writes ++ [{ w with due := max u (s.now c) }] })

/-- The pieces of a near load read in order. -/
def State.readPieces (s : State) (c : Nat) (a : Agent) : List (Nat × Nat) → List Byte × State
  | [] => ([], s)
  | p :: ps =>
    let key := vaultKey c p.1
    let (r, t) := (s.touchRead a key p.2).readPieces c a ps
    (s.sample key p.2 ++ r, t)

/-- A ring configured or reset (R114, R262): a record without geometry keeps the ring's. -/
def Ctx.resetRing (x : Ctx) (h : Nat) (r : Ring) : Ctx :=
  let g := x.ring h
  let n := if r.conf then r else { g with p := 0, q := 0 }
  x.setRing h { n with rel := g.rel + n.slots.toNat, relNow := g.relNow }

/-- XBIND at issue + 1 (R284). -/
def State.xbind (s : State) (c : Nat) (res : BitVec 1) (a b : Word) : State :=
  match crossAddr a with
  | none => s
  | some (u, ch) =>
    let g := (b.extractLsb' 0 7).toNat + 1
    let mine := fun (e : Option (Nat × BitVec 1 × Nat)) => e.any (fun e => e.1 = c && e.2.1 == res)
    let next := fun (e : Option (Nat × BitVec 1 × Nat)) =>
      if b.getLsbD 8 then (if mine e then none else e) else some (c, res, g)
    s.modXChan u ch (fun x => if b.getLsbD 7 then { x with boundP := next x.boundP } else { x with boundC := next x.boundC })

/-- A timed effect that performs in this cycle. RADVP has its turn after the hoists (R224). -/
def State.performAct (s : State) (c : Nat) (t : Timed) : State :=
  let a := t.agent c
  match t.act with
  | .load r ps sext =>
    let (bs, s) := s.readPieces c a ps
    let v := if sext = 0 then leNat bs else (loadWord sext bs).toNat
    s.landed c t r v
  | .store off bs => (s.touchGuard a (vaultKey c off) bs.length).put (vaultKey c off) bs
  | .atomic op r off y z =>
    let s := s.touchRead a (vaultKey c off) (atomicSize op)
    let (old, s) := s.atomicAt op (vaultKey c off) y z
    s.landed c t (.g r) old.toNat
  | .ring h isP n => if isP then s else s.drainRing c t.res h.toNat n
  | .ringSet h r => s.modCtx c t.res (fun x => x.resetRing h.toNat r)
  | .poly q p f => s.modCtx c t.res (fun x => { x.setPoly q.toNat p with raised := x.raised ||| f })
  | .polyLoad q off k got =>
    if k < 9 then
      let n := if k = 8 then 8 else 64
      let key := vaultKey c (off + 64 * k)
      let s := s.touchRead a key n
      let u : Timed := { t with due := t.due + 1, act := .polyLoad q off (k + 1) (got ++ s.sample key n) }
      s.modCore c (fun k => { k with timed := k.timed ++ [u] })
    else s.modCtx c t.res (fun x => x.setPoly q.toNat (Poly.ofImage got))
  | .enqRead r va h =>
    let off := vaultOffset (BitVec.ofNat 64 va)
    let key := vaultKey c off
    let s := s.touchRead a key 64
    let m := s.message c t.res .st 0 (BitVec.ofNat 64 va) [] (.enq h (s.sample key 64)) (if r = 0 then .none else .reg (.g r) 0)
    { s with fabric := s.fabric ++ [{ m with id := t.seq, pc := t.pc, slot := t.slot, after := m.after.filter (fun i => i < t.seq) }] }
  | .deq r h off =>
    let (st, s) := s.dequeue a h off
    s.landed c t (.g r) st
  | .streamDesc n off => s.streamDesc c t.res t.seq (24 + n.toNat) off
  | .xbind x y => s.xbind c t.res x y

/-- Whether a timed effect comes before another in a cycle: slot port 0 before slot port 1, then issue order (R101). -/
def Timed.before (t u : Timed) : Bool := decide (t.rank < u.rank) || (t.rank = u.rank && decide (t.seq < u.seq))

def insertTimed (t : Timed) : List Timed → List Timed
  | [] => [t]
  | u :: l => if t.before u then t :: u :: l else u :: insertTimed t l

/-- The slot effects of a core that perform in this cycle, RADVP apart. -/
def State.slotTurn (s : State) (c : Nat) : State :=
  let now := s.now c
  let k := s.core c
  let isP := fun (t : Timed) => match t.act with
    | .ring _ p _ => p
    | _ => false
  let due := k.timed.filter (fun t => decide (t.due ≤ now) && !isP t)
  let s := s.modCore c (fun k => { k with timed := k.timed.filter (fun t => decide (now < t.due) || isP t) })
  (due.foldl (fun l t => insertTimed t l) []).foldl (fun s t => s.performAct c t) s

/-- The RADVP effects of a core that perform in this cycle (R224). -/
def State.radvpTurn (s : State) (c : Nat) : State :=
  let now := s.now c
  let due := (s.core c).timed.filter (fun t => t.due ≤ now)
  let s := s.modCore c (fun k => { k with timed := k.timed.filter (fun t => now < t.due) })
  due.foldl (fun s t =>
    match t.act with
    | .ring h true n => s.modCtx c t.res (fun x => (x.setRing h.toNat ((x.ring h.toNat).fill n)).wake)
    | _ => s) s

end Sys2Proof.Machine
end

