-- ==== Sys2Proof/Machine/Replicas.lean ====
section
/-!
DEFINITION. Replicas (R369 to R372): the digest of a step, its comparison with that of the peer, and the pennants that are
held until a step has matched.
-/

namespace Sys2Proof.Machine

def State.replica (s : State) (p : Nat) : Replica := Table.get Replica.fresh s.replicas p

def State.modReplica (s : State) (p : Nat) (f : Replica → Replica) : State :=
  { s with replicas := Table.set s.replicas p (f (s.replica p)) }

/-- The number of the final step (R370). -/
def lastStep : BitVec 32 := BitVec.allOnes 32

/-- Held pennants of a partition that satisfy a test go on, each behind the earlier ones (R371). -/
def State.letGo (s : State) (p : Nat) (f : Msg → Bool) : State :=
  let sel := fun (m : Msg) => m.heldRep.any (fun h => decide (h.1 = p)) && f m
  let ids := (s.fabric.filter sel).map (fun m => m.id)
  { s with fabric := s.fabric.map (fun m =>
      if sel m then { m with heldRep := none, after := m.after ++ ids.filter (fun i => i < m.id) } else m) }

/-- A mismatch (R372): the trap becomes pending in every member context of the launch, and wakes it. -/
def State.stepFails (s : State) (p : Nat) (lid : Word) (step : BitVec 32) (own peer : BitVec 128) (cause : BitVec 8) : State :=
  let s := s.modReplica p (fun e => { e with st := .mismatch, lid := lid, steps := [], peers := [] })
  match s.launches.find? (fun l => l.lid == lid) with
  | none => s
  | some l => l.members.foldl (fun s m => s.modCtx m.1 m.2 (fun x => { x.wake with mismatch := some (step, own, peer, cause) })) s

/-- Steps compared in order as far as both digests are there (R371, R372). -/
def State.compareSteps (s : State) (p : Nat) : Nat → State
  | 0 => s
  | n + 1 =>
    let e := s.replica p
    if e.st = .mismatch then s
    else
      match e.steps, e.peers with
      | (lid, k, own, _) :: ss, (j, peer) :: ps =>
        if k == j && own == peer then
          let s := s.modReplica p (fun e => { e with steps := ss, peers := ps, st := if ss.isEmpty then .matched else .waiting })
          (s.letGo p (fun m => m.heldRep.any (fun h => h.2 == lid) && (k == lastStep || m.step + 1 == k))).compareSteps p n
        else s.stepFails p lid k own peer 1
      | _, _ => s

/-- The digests of the members of a launch folded, in the order of R72 (R370). -/
def State.stepDigest (s : State) (l : Launch) : BitVec 128 :=
  let fold := fun (j : Nat) => l.members.foldl (fun a m => mix32 (a ^^^ (s.ctx m.1 m.2).dig j)) (0 : BitVec 32)
  fold 3 ++ fold 2 ++ fold 1 ++ fold 0

/-- A step of a launch ends (R370): of a replicated launch the digest is taken, sent to PEER and compared, and every
member's becomes 0. -/
def State.stepEnd (s : State) (l : Launch) (num : BitVec 32) : State :=
  let s := { s with launches := s.launches.map (fun k => if k.lid == l.lid then { k with step := num } else k) }
  if !s.replicated l then s
  else
    let own := s.stepDigest l
    let s := l.members.foldl (fun s m => s.modCtx m.1 m.2 (fun x => { x with d0 := 0, d1 := 0, d2 := 0, d3 := 0 })) s
    let p := l.part.toNat
    let e := s.replica p
    let s := s.modReplica p (fun e => { e with sent := (e.peer, num, own) :: e.sent })
    if e.st = .mismatch then s
    else
      let s := s.modReplica p (fun e => { e with steps := e.steps ++ [(l.lid, num, own, s.wall)], st := .waiting })
      s.compareSteps p (e.peers.length + 1)

/-- RELEASE (R372): the held pennants perform. Ignored unless STATE is MISMATCH. DEDUCED, log 41. -/
def State.replicaRelease (s : State) (p : Nat) : State :=
  if (s.replica p).st ≠ .mismatch then s
  else (s.modReplica p (fun e => { e with st := .idle })).letGo p (fun _ => true)

/-- DISCARD (R372): the held pennants go, with every later one of the launch. Ignored unless STATE is MISMATCH.
DEDUCED, log 41. -/
def State.replicaDiscard (s : State) (p : Nat) : State :=
  let e := s.replica p
  if e.st ≠ .mismatch then s
  else
    { s with
      fabric := s.fabric.filter (fun m => !m.heldRep.any (fun h => decide (h.1 = p)))
      launches := s.launches.map (fun l => if l.lid == e.lid then { l with drop := true } else l) }

/-- The step digest of the peer (R370, R372). DEDUCED, log 41. -/
def State.peerDigest (s : State) (p : Nat) (digest : BitVec 128) (step : BitVec 32) : State :=
  let e := s.replica p
  if !e.en || e.st = .mismatch then s
  else (s.modReplica p (fun e => { e with peers := e.peers ++ [(step, digest)] })).compareSteps p (e.peers.length + 1)

/-- The wait for the peer in nanoseconds. -/
def Replica.wait (e : Replica) : Nat := if e.limit = 0 then 4294967295 else e.limit.toNat

/-- No digest of the peer within LIMIT (R372). -/
def State.digestTimeout (s : State) (p : Nat) : State :=
  let e := s.replica p
  match e.steps with
  | (lid, k, own, w) :: _ =>
    if e.en ∧ e.st ≠ .mismatch ∧ w.toNat + e.wait ≤ s.wall.toNat then s.stepFails p lid k own 0 2 else s
  | [] => s

/-! ### Events -/

/-- REPLICA_RELEASE (R372). -/
def execReplicaRelease (p : BitVec 3) (s : State) : Host.Outcome State Fault Refusal := .next (s.replicaRelease p.toNat)

/-- REPLICA_DISCARD (R372). -/
def execReplicaDiscard (p : BitVec 3) (s : State) : Host.Outcome State Fault Refusal := .next (s.replicaDiscard p.toNat)

/-- REPLICA_DIGEST_ARRIVAL (R370, R372). -/
def execReplicaDigestArrival (p : BitVec 3) (digest : BitVec 128) (step : BitVec 32) (s : State) :
    Host.Outcome State Fault Refusal := .next (s.peerDigest p.toNat digest step)

/-- REPLICA_DIGEST_TIMEOUT (R372). -/
def execReplicaDigestTimeout (p : BitVec 3) (s : State) : Host.Outcome State Fault Refusal := .next (s.digestTimeout p.toNat)

end Sys2Proof.Machine
end

