-- ==== Sys2Proof/Machine/Domains.lean ====
section
/-!
DEFINITION. Barrier completions (R70, R133), the bracket selector (R72 to R74, R327), and the steps of replicated launches
that completions end (R370).
-/

namespace Sys2Proof.Machine

/-! ### The selector (R74) -/

/-- A nonnegative fraction: numerator and denominator. -/
abbrev Frac := Nat × Nat

def fracLt (x y : Frac) : Bool := decide (x.1 * y.2 < y.1 * x.2)

/-- w(b, i). -/
def BSet.share (b : BSet) (k i : Nat) : Nat := ((b.shares[k]?).getD [])[i]?.getD 0

/-- need(b). -/
def BSet.need (b : BSet) (k : Nat) : Nat := (b.needs[k]?).getD 0

/-- The predicted time of bracket k, from times measured under bracket a. -/
def BSet.predict (b : BSet) (t : List Nat) (a k : Nat) : Frac :=
  t.zipIdx.foldl (fun m p =>
    let f : Frac := (b.share k p.2 * p.1, b.share a p.2)
    if fracLt m f then f else m) (0, 1)

/-- The first of a list of brackets whose value no later one undercuts. -/
def leastBy (f : Nat → Frac) : List Nat → Option Nat
  | [] => none
  | k :: ks =>
    match leastBy f ks with
    | none => some k
    | some j => some (if fracLt (f j) (f k) then j else k)

/-- The bracket that the selector chooses. -/
def BSet.select (b : BSet) (times : List Nat) (a cmin : Nat) : Nat :=
  let t := times.map (max 1)
  let ta := t.foldl max 0
  let all := List.range b.needs.length
  match leastBy (b.predict t a) (all.filter (fun k => b.need k ≤ cmin)) with
  | none => (leastBy (fun k => (b.need k, 1)) all).getD a
  | some best =>
    let tb := b.predict t a best
    if cmin < b.need a then best
    else if 16 * tb.1 ≤ 15 * ta * tb.2 then best
    else a

/-- The k-th bracket selection of a segment of the dispatch trace, from a position on (R338). -/
def State.traceSel (s : State) (c : Nat) (res : BitVec 1) (l : Launch) : Nat → Nat → Nat → Option Nat
  | 0, _, _ => none
  | n + 1, pos, k =>
    let e := s.traceRead c res l pos
    if entryKind e = 3 then none
    else if entryKind e = 2 then
      (if k = 0 then some (e.extractLsb' 26 4).toNat else s.traceSel c res l n (pos + 1) (k - 1))
    else s.traceSel c res l n (pos + 1) k

/-- The least C of the regions of the members, here and on other devices (R74, R327). -/
def State.leastC (s : State) (d : Domain) (afar : List Afar) : Nat :=
  let own := d.members.map (fun m => (s.regOf m.1).c.toNat)
  (own ++ afar.map (fun a => a.c.toNat)).foldl min 4294967295

/-- The bracket in force after a WORK phase (R74, R327): from the trace under BIND (R79), else by measurement. -/
def State.selection (s : State) (l : Launch) (b : BSet) (d : Domain) (afar : List Afar) : Nat :=
  if l.bind then
    match d.members.head? with
    | some m => (s.traceSel m.1 m.2 l 65536 0 ((d.count.toNat + 1) / 2 - 1)).getD d.bracket
    | none => d.bracket
  else b.select (d.times.map (fun t => t.2)) d.bracket (s.leastC d afar)

/-! ### Completion -/

/-- Whether a replica holds a pennant back; members do not wait for it (R370, R371). -/
def State.heldBack (s : State) (id : Nat) : Bool := s.fabric.any (fun m => m.id = id && m.heldRep.isSome)

/-- Whether every member has arrived and everything that the arrivals release has performed (R70, R133). Arrivals of other
devices come with their accesses performed. -/
def State.domainReady (s : State) (d : Domain) : Bool :=
  !d.members.isEmpty && d.members.all (fun m => d.arrivals.any (fun a => a.1 == m)) &&
    d.arrivals.all (fun a => (s.still a.1.1 a.2.1).all s.heldBack)

/-- A time put in the order of R72: device, core, context. -/
def insertTime (e : (Nat × Member) × Nat) : List ((Nat × Member) × Nat) → List ((Nat × Member) × Nat)
  | [] => [e]
  | f :: t =>
    if e.1.1 < f.1.1 || (e.1.1 = f.1.1 && memberLt e.1.2 f.1.2) then e :: f :: t else f :: insertTime e t

/-- The times t(i) of the WORK phase that ends, in the order of the members (R72, R74). -/
def State.measure (s : State) (d : Domain) (afar : List Afar) : List ((Nat × Member) × Nat) :=
  (d.arrivals.map (fun a => ((s.devId.toNat, a.1), a.2.2 - d.since)) ++
    afar.map (fun a => ((a.dev.toNat, (a.core.toNat, a.res)), a.time))).foldl (fun l e => insertTime e l) []

/-- Whether an instance is one of the widest scope of a launch (R137, R370). -/
def Launch.widestAt (l : Launch) (d : Domain) : Bool :=
  widest (l.packet.extractLsb' 112 5) = some d.scope && d.members.any l.members.contains

/-- A bracket put into force: every member reads it, and traces it (R327, R337). -/
def State.putBracket (s : State) (d : Domain) (k : Nat) : State :=
  let s := s.modDomain d (fun e => { e with bracket := k })
  d.members.foldl (fun s m =>
    let s := s.traceAdd m.1 m.2 2 ((d.bset.map (fun b => b.toNat)).getD 0) k 0
    s.modCtx m.1 m.2 (fun x => { x with bracket := BitVec.ofNat 64 k })) s

/-- The selector's part of a completion: t(i) kept when WORK ends, sel when WORK returns (R74). -/
def State.bracketTurn (s : State) (d : Domain) (afar : List Afar) : State :=
  if d.bset.isNone || !d.count.getLsbD 0 then s
  else
    match s.launches.find? (fun l => l.bset.any (fun b => b.scope = d.scope) && d.members.any l.members.contains) with
    | some l =>
      (match l.bset with
       | some b => s.putBracket d (s.selection l b d afar)
       | none => s)
    | none => s

/-- A completion (R70, R137, R176, R327, R370). -/
def State.completeDomain (s : State) (d : Domain) (afar : List Afar) : State :=
  let now := match d.members.head? with
    | some m => s.domainTime m.1 d.scope
    | none => 0
  let s := s.bracketTurn d afar
  let ends := !d.count.getLsbD 0
  let s := s.modDomain d (fun e =>
    { e with
      count := e.count + 1
      since := now
      times := if ends then s.measure e afar else e.times
      arrivals := [] })
  let s := d.members.foldl (fun s m =>
    s.modCtx m.1 m.2 (fun x => { x.wake with arrived := x.arrived.filter (fun sc => sc != d.scope) })) s
  (s.launches.filter (fun l => l.widestAt d)).foldl (fun s l => (s.detEmptyLaunch l.lid).stepEnd l (d.count + 1)) s

/-- BARRIER_COMPLETION (R70): the instance of a context at a scope completes, when it may: with the arrivals of all its
members on other devices. DEDUCED, log 9. -/
def State.barrierComplete (s : State) (c : Nat) (res : BitVec 1) (scope : BitVec 3) (afar : List Afar) : State :=
  match s.domainOf (s.ctx c res).lid c scope with
  | none => s
  | some d => if d.others = afar.length && s.domainReady d then s.completeDomain d afar else s

/-- The instances of a region whose members are all on this device complete by themselves. DEDUCED, log 9. -/
def State.domainTurn (s : State) (r : Nat) : State :=
  s.domains.foldl (fun s d =>
    match d.members.head? with
    | none => s
    | some m =>
      if d.others = 0 && s.regionOf m.1 = some r then
        match s.domains.find? d.same with
        | some e => if s.domainReady e then s.completeDomain e [] else s
        | none => s
      else s) s

/-! ### Events -/

/-- BARRIER_COMPLETION (R70). -/
def execBarrierCompletion (core : BitVec 10) (res : BitVec 1) (scope : BarEnd) (s : State) :
    Host.Outcome State Fault Refusal := .next (s.barrierComplete core.toNat res scope.scope scope.afar)

end Sys2Proof.Machine
end

