-- ==== Sys2Proof/Machine/Rates.lean ====
section
/-!
DEFINITION. Nominal frequencies of sources and the limits of a lock (R10, R11, R375).
-/

namespace Sys2Proof.Machine

/-- The nominal frequency of a source as numerator and denominator in Hz: 100 MHz for the reference source, the rate
entry of a recovered source or direct input when it is enabled, none for a reserved selector (R10, R375). -/
def State.fsrc (s : State) (sel : BitVec 9) : Option (Nat × Nat) :=
  if sel = 0x104 then some (100000000, 1)
  else if sel.toNat < 0x104 then
    let e := Table.get Rate.fresh s.rates sel.toNat
    if e.en && e.num != 0 && e.den != 0 then some (e.num.toNat, e.den.toNat) else none
  else none

/-- The ceiling of a rail in Hz; VL has no boost ceiling (R11). -/
def railCeil (rail : BitVec 1) (boost : Bool) : Option Nat :=
  if rail = 1 then (if boost then none else some 1500000000)
  else some (if boost then 3000000000 else 2500000000)

/-- Whether a lock keeps the limits of R11 against a source of num / den Hz. The reference source is never refused on range
(R377). DEDUCED, log 85. -/
def lockOk (sel : BitVec 9) (c : BitVec 32) (n : BitVec 16) (rail : BitVec 1) (boost : Bool) (f : Nat × Nat) : Bool :=
  match railCeil rail boost with
  | none => false
  | some top =>
    4096 ≤ c.toNat && n != 0 &&
      (sel == 0x104 || (200000000 * n.toNat * f.2 ≤ c.toNat * f.1 && c.toNat * f.1 ≤ top * n.toNat * f.2))

/-- Whether a region is locked to a source (R375). -/
def State.lockedTo (s : State) (sel : Nat) : Bool := s.regions.any (fun p => p.2.en && decide (p.2.sel.toNat = sel))

end Sys2Proof.Machine
end

