-- ==== Sys2Proof/Machine/Launch.lean ====
section
/-!
DEFINITION. The launch units (R305 to R313, R317, R326, R327, R336 to R338): taking packets, refusing them, writing
schedule tables and domains, launch pennants, completion and retirement, and the pennants of records (R62).
-/

namespace Sys2Proof.Machine

/-! ### Cores of a region -/

/-- The cores of a region, in ascending order. -/
def State.coresOf (s : State) (r : Nat) : List Nat :=
  (s.clusters.filter (fun p => decide (p.1 < 96) && p.2.getLsbD 5 && decide (p.2.toNat % 32 = r))).flatMap (fun p =>
    (List.range 8).map (fun i => 8 * p.1 + i))

/-- The launch queue of a region: its queue, when a handle is set (R306). -/
def State.launchQueue (s : State) (r : Nat) : Option Nat :=
  match (s.coresOf r).head? with
  | none => none
  | some c => if (s.core c).lq = 0 then none else (handleOf (s.core c).lq).map (fun h => h.2)

/-! ### Packet fields (Table 17.5) -/

/-- A field of a packet. -/
def pfield (w : BitVec 512) (lo len : Nat) : Nat := (w.extractLsb' lo len).toNat

def packetRes (w : BitVec 512) : BitVec 1 := w.extractLsb' 88 1

/-- The first of the two tiles, and the extent of the box, by coordinate; none when TILE1 precedes TILE0. -/
def packetBox (w : BitVec 512) : Option (List (Nat × Nat)) :=
  let cs := (List.range 3).map (fun k => (pfield w (160 + 16 * k) 16, pfield w (208 + 16 * k) 16))
  if cs.any (fun c => decide (c.2 < c.1)) then none else some (cs.map (fun c => (c.1, c.2 - c.1 + 1)))

/-- The tiles of a box. -/
def boxCount (b : List (Nat × Nat)) : Nat := b.foldl (fun a d => a * d.2) 1

/-- Tile n of a box, x fastest (R309). -/
def tileAt (b : List (Nat × Nat)) (n : Nat) : List Nat :=
  (b.foldl (fun (a : Nat × List Nat) d => (a.1 / d.2, a.2 ++ [d.1 + a.1 % d.2])) (n, [])).2

/-- Whether a packet breaks a reserved field or an alignment (code 1). -/
def packetBad (w : BitVec 512) : Bool :=
  pfield w 120 8 != 0 || pfield w 117 3 != 0 || pfield w 108 3 != 0 || pfield w 93 3 != 0 || pfield w 85 3 != 0 ||
    pfield w 382 2 != 0 || decide (pfield w 256 64 % 8 ≠ 0) || decide (pfield w 384 64 % 64 ≠ 0)

/-! ### The table (R62, R309, R310, R327) -/

/-- A field of a record replaced. -/
def setField (w : BitVec 512) (lo len v : Nat) : BitVec 512 :=
  let m : BitVec 512 := BitVec.ofNat 512 ((2 ^ len - 1) * 2 ^ lo)
  (w &&& ~~~m) ||| BitVec.ofNat 512 (v % 2 ^ len * 2 ^ lo)

/-- A record of the table: its tile moved, RES and DET set. -/
def placeRec (w : BitVec 512) (tile : List Nat) (res : BitVec 1) (det : Bool) : BitVec 512 :=
  let at_ := fun (w : BitVec 512) (k : Nat) => setField w (128 + 16 * k) 16 (pfield w (128 + 16 * k) 16 + (tile[k]?).getD 0)
  let w := at_ (at_ (at_ w 0) 1) 2
  let w := setField w 229 1 res.toNat
  if det then setField w 228 1 1 else w

/-- The records of a schedule of an image. -/
def Image.sched (m : Image) (k : Nat) : List (BitVec 512) :=
  match m.scheds[k]? with
  | none => []
  | some (_, first, n) => (m.recs.drop first).take n

/-- Records each with the bracket record and the bracket whose segment it stands in. -/
abbrev Placed := BitVec 512 × Option (Nat × Nat)

/-- One record from index i on: behind a bracket record come the records of each bracket's schedule (R327). -/
def Image.expand (m : Image) (i : Nat) (w : BitVec 512) : List Placed :=
  let segs := if w.getLsbD 223 then
      match m.bsets[pfield w 216 4]? with
      | some b => b.scheds.zipIdx.flatMap (fun k => (m.sched k.1).map (fun v => ((v, some (i, k.2)) : Placed)))
      | none => []
    else []
  (w, none) :: segs

/-- One copy of a schedule from index i on. -/
def Image.copyFrom (m : Image) : Nat → List (BitVec 512) → List Placed
  | _, [] => []
  | i, w :: ws =>
    let ps := m.expand i w
    ps ++ m.copyFrom (i + ps.length) ws

/-- The records of one copy. -/
def Image.copyLen (m : Image) (k : Nat) : Nat := (m.copyFrom 0 (m.sched k)).length

/-- The table of core ordinal o. -/
def Image.table (m : Image) (w : BitVec 512) (box : List (Nat × Nat)) (o : Nat) : List Placed :=
  let ncore := pfield w 144 16
  let tiles := (boxCount box + ncore - 1 - o) / ncore
  (List.range tiles).foldl (fun t j =>
    let tile := tileAt box (o + j * ncore)
    t ++ (m.copyFrom t.length (m.sched (pfield w 96 8))).map (fun p =>
      (placeRec p.1 tile (packetRes w) (w.getLsbD 89), p.2))) []

/-- A record newly written; those that a launch action names need a credit (R67). -/
def newRec (m : Image) (p : Placed × Nat) : Rec :=
  let w := if m.credits.contains p.2 then setField p.1.1 230 1 1 else p.1.1
  { Rec.blank with bits := w, st := .waiting, n := w.extractLsb' 96 32 }

/-! ### Refusals (R311, R317, R326) -/

/-- The image that a packet names, as loaded for its region and residency. -/
def State.imageOf (s : State) (part : Nat) (w : BitVec 512) : Option Image :=
  s.images.find? (fun m => decide (m.part.toNat = part) && m.id.toNat == pfield w 64 16 && m.region.toNat == pfield w 80 5 &&
    m.res == packetRes w)

/-- The cores that take part: those of the range that receive a tile (R309). -/
def launchCores (w : BitVec 512) (tiles : Nat) : List Nat :=
  (List.range (min (pfield w 144 16) tiles)).map (fun o => pfield w 128 16 + o)

/-- The bound of R326 in cycles: floor(f × 960 ns) at the clock of a region, capped at the sustained ceiling of its rail. -/
def State.switchBound (s : State) (g : Region) : Nat :=
  let top := if g.rail = 1 then 1440 else 2400
  match s.fsrc g.sel with
  | none => top
  | some (num, den) => min top (g.c.toNat * num * 960 / (max 1 g.s.toNat * den * 1000000000))

/-- The banks of the buffers of an image. -/
def Image.banks (m : Image) : List Nat :=
  (m.bufs.flatMap (fun b => (List.range 16).filter (fun k =>
    0 < overlap b.1 b.2 (262144 * k) 262144))).eraseDups

/-- Whether a residency switch could break its bound or its bank rule (code 8). -/
def State.switchBad (s : State) (m : Image) (w : BitVec 512) : Bool :=
  let g := s.region m.region.toNat
  let worst := m.recs.foldl (fun a v => max a (pfield v 232 24)) 0
  decide (s.switchBound g < worst + 96) ||
    s.images.any (fun o => o.region == m.region && o.res != packetRes w && o.banks.any m.banks.contains)

/-- The members of the instance of a scope around a core among the cores of a launch. -/
def State.groupMembers (s : State) (cores : List Nat) (res : BitVec 1) (scope : BitVec 3) (c : Nat) : List Member :=
  (cores.filter (fun d => s.groupOf d scope = s.groupOf c scope)).map (fun d => (d, res))

/-- Whether a bracket set does not fit the instances of a launch (code 7). DEDUCED, log 39. -/
def State.bsetBad (s : State) (m : Image) (w : BitVec 512) (cores : List Nat) : Bool :=
  w.getLsbD 111 &&
    (match m.bsets[pfield w 104 4]? with
     | none => true
     | some b =>
       !(w.extractLsb' 112 5).getLsbD b.scope.toNat ||
         (if b.scope = 4 then decide (pfield w 480 32 ≠ b.n)
          else cores.any (fun c => decide ((s.groupMembers cores (packetRes w) b.scope c).length ≠ b.n))))

/-- The refusal code of a packet of a launch queue of a partition; 0 for none (Table 17.6). -/
def State.refusalCode (s : State) (part : Nat) (w : BitVec 512) : Nat :=
  let r := pfield w 80 5
  let ncore := pfield w 144 16
  let cores := (List.range ncore).map (fun o => pfield w 128 16 + o)
  if packetBad w then 1
  else
    match s.imageOf part w with
    | none => 2
    | some m =>
      if (s.coresOf r).isEmpty ∨ s.partOfRegion r ≠ some part then 3
      else if ncore < 1 ∨ 768 < ncore ∨ cores.any (fun c => decide (s.regionOf c ≠ some r)) then 4
      else
        match m.scheds[pfield w 96 8]?, packetBox w with
        | none, _ => 5
        | some sc, box =>
          if sc.1 ≠ packetRes w then 5
          else
            match box with
            | none => 6
            | some b =>
              let tiles := boxCount b
              if 4096 < (tiles + ncore - 1) / ncore * m.copyLen (pfield w 96 8) then 6
              else if s.bsetBad m w (launchCores w tiles) then 7
              else if s.switchBad m w then 8
              else if (w.getLsbD 91 ∧ !w.getLsbD 89) ∨ (w.getLsbD 91 ∧ w.getLsbD 90) ∨
                  ((w.getLsbD 90 ∨ w.getLsbD 91) ∧ pfield w 384 64 = 0) then 9
              else if (pfield w 480 32 != 0) != (w.getLsbD 116) then 10
              else 0

/-- Whether the clocks of a region are gated for lack of a source (R377). -/
def Region.gated (g : Region) : Bool := g.st = .off || g.st = .locking || g.st = .frozen || g.st = .relock || g.start

/-- Whether a packet that a reset brought back waits for what the reset took (R317). -/
def State.waitsAgain (s : State) (part : Nat) (w : BitVec 512) : Bool :=
  let r := pfield w 80 5
  !(s.partition part).en || (s.coresOf r).isEmpty || (s.region r).st != .locked || (s.imageOf part w).isNone

/-! ### Launch pennants (R312) -/

/-- Where a launch pennant goes: through LROOT, without a TLB; none where the walk faults or no vault is named. -/
def State.lrootPart (s : State) (part : Nat) (va : Word) : Option Part :=
  if inWindow va then
    let f := coreField va
    if f < 768 ∧ s.partOf f = some part then some ⟨.mem (vaultKey f (vaultOffset va)), 8, .rc, false, 0, 0⟩ else none
  else
    let p := s.partition part
    match s.walk p (p.lroot.extractLsb' 12 40) (p.lroot.getLsbD 0) va with
    | .error _ => none
    | .ok l =>
      match s.leafPlace part p l va .store with
      | .ok ⟨.mem k, kind, _, _⟩ => some ⟨.mem k, 8, kind, false, 0, 0⟩
      | _ => none

/-- A launch pennant written: the message that carries it, if one does. A loss is counted in the partition. -/
def State.launchPennant (s : State) (part core : Nat) (res : BitVec 1) (va v : Word) (l : Option Launch) : State × List Nat :=
  if va = 0 ∨ va.toNat % 8 ≠ 0 then (s, [])
  else
    match s.lrootPart part va with
    | none => (s.modPartition part (fun p => { p with lostPen := p.lostPen + 1 }), [])
    | some pt =>
      let hold := match l with
        | some k => s.replicated k && pt.abroad
        | none => false
      if hold && l.any (fun k => k.drop) then (s, [])
      else
        let m : Msg :=
          { id := s.seq, dev := none, core := core, res := res, host := true, arrived := false, cls := .pen, scope := 4,
            va := va, parts := [pt], ask := .write (wordBytes v), dest := .none, got := [], answer := none, after := [], due := 0,
            own := false, pc := 0, slot := 0, det := false, ofCmd := none, step := (l.map (fun k => k.step)).getD 0,
            heldRep := if hold then l.map (fun k => (part, k.lid)) else none }
        ({ s with fabric := s.fabric ++ [m], seq := s.seq + 1 }, [m.id])

/-- The value of a launch pennant: PVAL behind the two bits of the event. -/
def pennantValue (ev : BitVec 2) (v : Nat) : Word := ev ++ BitVec.ofNat 62 v

/-! ### Domains (R69, R310 step 2) -/

/-- An instance of a launch at a scope with members of it, as a launch begins it (R69, R70). -/
def State.newDomain (s : State) (w : BitVec 512) (lid : Word) (b : Option BSet) (scope : BitVec 3) (group : Nat)
    (ms : List Member) : Domain :=
  { lid := lid, scope := scope, group := group, members := ms
    others := if scope = 4 then pfield w 480 32 - ms.length else 0
    count := 0, arrivals := []
    since := match ms.head? with
      | some m => s.domainTime m.1 scope
      | none => 0
    times := []
    bset := if b.any (fun k => k.scope = scope) then some (w.extractLsb' 104 4) else none
    bracket := 0 }

/-- The instances of a launch at cluster, region or device scope. -/
def State.newDomains (s : State) (w : BitVec 512) (lid : Word) (cores : List Nat) (b : Option BSet) (scope : BitVec 3) :
    List Domain :=
  if !(w.extractLsb' 112 5).getLsbD scope.toNat then []
  else
    (cores.map (fun c => s.groupOf c scope)).eraseDups.map (fun g =>
      s.newDomain w lid b scope g ((cores.filter (fun c => s.groupOf c scope = g)).map (fun c => (c, packetRes w))))

/-- Members joined to the instance of a core or of a system group: one that is there keeps its count, with the new ones in
the order of R72. At system scope the members not yet here are those of other devices. DESIGN CHOICE, log 37. -/
def State.joinDomain (s : State) (w : BitVec 512) (lid : Word) (b : Option BSet) (scope : BitVec 3) (group : Nat)
    (ms : List Member) : State :=
  if !(w.extractLsb' 112 5).getLsbD scope.toNat then s
  else
    match s.domains.find? (fun d => d.scope == scope && d.group = group) with
    | some d =>
      s.modDomain d (fun e =>
        let all := ms.foldl (fun l m => insertMember m l) e.members
        { e with members := all, others := if scope = 4 then pfield w 480 32 - all.length else 0 })
    | none => { s with domains := s.domains ++ [s.newDomain w lid b scope group ms] }

/-- A context out of the instances that other launches share: its core domain and its system group. DEDUCED, log 35. -/
def State.leaveShared (s : State) (m : Member) : State :=
  { s with domains := (s.domains.map (fun d =>
      if d.scope == 0 || d.scope == 4 then
        { d with members := d.members.filter (fun k => k != m), arrivals := d.arrivals.filter (fun a => a.1 != m) }
      else d)).filter (fun d => !d.members.isEmpty) }

/-! ### Starting (R310) -/

/-- A table written into the context of one core, with what a launch resets there. -/
def State.writeTable (s : State) (m : Image) (w : BitVec 512) (lid : Word) (box : List (Nat × Nat)) (c : Nat) : State :=
  let t := m.table w box (c - pfield w 128 16)
  s.modCtx c (packetRes w) (fun x =>
    Ctx.recur { x with
      recs := t.zipIdx.map (newRec m)
      segOf := t.zipIdx.filterMap (fun p => p.1.2.map (fun g => (p.2, g)))
      cursor := 0, running := none, resume := none, current := t.length - 1, pact := false, stopped := false, seg0 := none, span := none
      held := 0, heldRun := false, tracePos := 0, traceEnd := false, traceWait := 0
      halted := false, stall := none, idle := none, arrived := [], barWait := [], overrun := 0, mismatch := none
      hoists := x.hoists.map (fun h => (h.1, { h.2 with reach := 0 }))
      dmem := w.extractLsb' 112 5, bracket := 0, lid := lid })

/-- A launch started: tables, membership, domains, `$bracket`, `$lid`, and the start pennant. -/
def State.startLaunch (s : State) (part q i : Nat) (w : BitVec 512) (m : Image) (box : List (Nat × Nat)) : State :=
  let res := packetRes w
  let cores := launchCores w (boxCount box)
  let lid := BitVec.ofNat 64 (q * 4096 + i % (s.queue q).cap)
  let b := if w.getLsbD 111 then m.bsets[pfield w 104 4]? else none
  let s := cores.foldl (fun s c => s.writeTable m w lid box c) s
  let l : Launch :=
    { lid := lid, queue := q, slot := i, packet := w, region := m.region, part := BitVec.ofNat 3 part, res := res
      members := cores.map (fun c => (c, res)), stop := false, stopSlots := [], stopped := false, step := 0, drop := false
      ending := none, bset := b }
  let s := { s with
    launches := s.launches ++ [l]
    domains := s.domains ++ (List.range 3).flatMap (fun k => s.newDomains w lid cores b (BitVec.ofNat 3 (k + 1))) }
  let s := cores.foldl (fun s c => s.joinDomain w lid b 0 c [(c, res)]) s
  let s := s.joinDomain w lid b 4 l.sysGroup l.members
  (s.launchPennant part ((cores.head?).getD 0) res (w.extractLsb' 256 64) (pennantValue 1 (pfield w 320 62)) (some l)).1

/-- The launch that a STOP names (R313). -/
def State.stopTarget (s : State) (part : Nat) (w : BitVec 512) : Option Launch :=
  s.launches.find? (fun l => l.part.toNat == part && pfield l.packet 64 16 == pfield w 64 16 &&
    l.region.toNat == pfield w 80 5 && pfield l.packet 128 32 == pfield w 128 32 && l.res == packetRes w && l.ending.isNone)

/-- A packet refused: its pennant, and it retires. DEDUCED, log 39. -/
def State.refusePacket (s : State) (part q i : Nat) (w : BitVec 512) (code : Nat) : State :=
  let s := (s.launchPennant part (q / 8) (packetRes w) (w.extractLsb' 256 64) (pennantValue 3 code) none).1
  s.retireSlot q i

/-- The packet at the head of a launch queue taken, unless it waits. DEDUCED, log 40. -/
def State.takePacket (s : State) (part q i : Nat) (w : BitVec 512) : State :=
  let e := s.queue q
  let taken := fun (s : State) =>
    s.setQueue q { s.queue q with taken := (s.queue q).taken ++ [i], again := (s.queue q).again.filter (fun j => j ≠ i) }
  if e.again.contains i ∧ s.waitsAgain part w then s
  else if w.getLsbD 92 then
    match s.stopTarget part w with
    | none => (taken s).refusePacket part q i w 1
    | some t =>
      let code := s.refusalCode part w
      if code ≠ 0 then (taken s).refusePacket part q i w code
      else
        { taken s with launches := s.launches.map (fun l =>
            if l.lid == t.lid then { l with stop := true, stopSlots := l.stopSlots ++ [(q, i)] } else l) }
  else
    let code := s.refusalCode part w
    if code = 1 ∨ code = 2 ∨ code = 3 then (taken s).refusePacket part q i w code
    else if (s.region (pfield w 80 5)).gated then s
    else if code ≠ 0 then (taken s).refusePacket part q i w code
    else
      match s.imageOf part w, packetBox w with
      | some m, some box =>
        if (launchCores w (boxCount box)).any (fun c => (s.ctx c (packetRes w)).owned) then s
        else (taken s).startLaunch part q i w m box
      | _, _ => s

/-- The launch unit of a region looks at the next packet of its queue in acceptance order (R306, R313). -/
def State.launchTake (s : State) (r : Nat) : State :=
  match s.launchQueue r with
  | none => s
  | some q =>
    let e := s.queue q
    match s.partOf (q / 8), e.held.find? (fun i => !e.taken.contains i && !e.retired.contains i) with
    | some part, some i =>
      if !e.en || e.swap || e.copying then s
      else s.takePacket part q i (BitVec.ofNat 512 (Memory.num s.mem (e.slotKey q i) 64))
    | _, _ => s

/-! ### Record pennants (R62) -/

/-- The pennants of records whose task has no effect outstanding. DEDUCED, log 43. -/
def State.recPenTurn (s : State) (c : Nat) (res : BitVec 1) : State :=
  let x := s.ctx c res
  let ready := x.recPens.filter (fun p => (s.still c p.after).isEmpty && p.streams.all x.marked)
  let s := s.modCtx c res (fun x => { x with recPens := x.recPens.filter (fun p => !ready.contains p) })
  ready.foldl (fun s p => s.pennant c res ⟨1, p.record, 0, 0⟩ 2 p.addr p.value []) s

/-! ### Completion (R312, R313) -/

/-- Whether a context has no effect outstanding: accesses, engine commands, streams, pennants, reports (R312, R363). -/
def State.settled (s : State) (m : Member) : Bool :=
  let k := s.core m.1
  let x := k.ctx m.2
  (s.fabric.all (fun n => n.core != m.1 || n.res != m.2 || n.performed || n.heldRep.isSome || n.dev.isSome)) &&
    (k.commandIds m.2).isEmpty && k.timed.all (fun t => t.res != m.2) &&
    x.streams.all (fun p => !p.2.bound || !p.2.write || decide (p.2.taken ≤ p.2.moved)) && x.drains.isEmpty &&
    x.recPens.isEmpty && x.unrep.isEmpty && x.lostN == 0 && !x.saved &&
    !(k.preRes == m.2 && (k.preSt = .saving || k.preSt = .restoring))

/-- Whether a launch is complete: its tables done, its traces closed, its effects performed. DEDUCED, log 40. -/
def State.launchDone (s : State) (l : Launch) : Bool :=
  l.members.all (fun m =>
    let x := s.ctx m.1 m.2
    x.tableDone && (!l.trace || x.traceEnd) && s.settled m)

/-- A launch retired: its packet and the STOPs that named it, its contexts, its domains, its DET records (R313, R137).
DEDUCED, log 35. -/
def State.retireLaunch (s : State) (l : Launch) : State :=
  let s := ((l.queue, l.slot) :: l.stopSlots).foldl (fun s i => s.retireSlot i.1 i.2) s
  let s := l.members.foldl (fun s m =>
    (s.modCtx m.1 m.2 (fun x =>
      { x with recs := [], segOf := [], cursor := 0, pact := false, stopped := false, dmem := 0, bracket := 0, arrived := []
               lid := BitVec.allOnes 64 })).leaveShared m) s
  { s with
    launches := s.launches.filter (fun k => k.lid != l.lid)
    domains := s.domains.filter (fun d => d.scope == 0 || d.scope == 4 || d.lid != l.lid) }.detEmptyLaunch l.lid

/-- LAUNCH_COMPLETION (R312): the completion pennant once everything has performed, then retirement once it has. -/
def State.launchComplete (s : State) (lid : Word) : State :=
  match s.launches.find? (fun l => l.lid == lid) with
  | none => s
  | some l =>
    match l.ending with
    | some ids => if ids.any (fun i => s.fabric.any (fun m => m.id = i && !m.performed)) then s else s.retireLaunch l
    | none =>
      if !s.launchDone l then s
      else
        let (s, ids) := s.launchPennant l.part.toNat ((l.members.head?.map (fun m => m.1)).getD 0) l.res
          (l.packet.extractLsb' 256 64) (pennantValue 2 (pfield l.packet 320 62)) (some l)
        let s := s.stepEnd l lastStep
        if ids.isEmpty then s.retireLaunch l
        else { s with launches := s.launches.map (fun k => if k.lid == lid then { k with ending := some ids } else k) }

/-- The segments of the dispatch trace of cores whose tables are done, closed (R337). -/
def State.traceTurn (s : State) (r : Nat) : State :=
  (s.launches.filter (fun l => l.trace && l.region.toNat == r)).foldl (fun s l =>
    l.members.foldl (fun s m =>
      let x := s.ctx m.1 m.2
      if x.tableDone && !x.traceEnd then s.traceClose m.1 m.2 l false else s) s) s

/-! ### Events -/

/-- LAUNCH_PACKET_TAKE (R310, R311, R313). -/
def execLaunchPacketTake (region : BitVec 5) (s : State) : Host.Outcome State Fault Refusal := .next (s.launchTake region.toNat)

/-- LAUNCH_COMPLETION (R312, R313). -/
def execLaunchCompletion (lid : BitVec 64) (s : State) : Host.Outcome State Fault Refusal := .next (s.launchComplete lid)

end Sys2Proof.Machine
end

