-- ==== Sys2Proof/Machine/Loader.lean ====
section
/-!
DEFINITION. The TMO container and the loader (R402 to R405): reading and checking a file, placing code, buffers and data,
relocations, what LOAD writes, and UNLOAD.
-/

namespace Sys2Proof.Machine

/-- A little-endian field of a list of bytes. -/
def rd (f : List Byte) (off n : Nat) : Nat := leNat ((f.drop off).take n)

/-- Bytes replaced from an offset on. -/
def patch (f : List Byte) (off : Nat) (new : List Byte) : List Byte := f.take off ++ new ++ f.drop (off + new.length)

def allZero (f : List Byte) : Bool := f.all (fun b => b = 0)

/-- The next multiple of 64. -/
def up64 (n : Nat) : Nat := (n + 63) / 64 * 64

/-! ### Reading through the given root (R404) -/

/-- A page reached through a root for an access: its place and its entry. -/
def State.rootPage (s : State) (p : Nat) (root va : Word) (acc : Acc) : Except Nat (Nat × Word) :=
  if inWindow va then .error 6
  else
    let e := s.partition p
    match s.walk e (root.extractLsb' 12 40) (root.getLsbD 0) va with
    | .error _ => .error 6
    | .ok l =>
      match s.leafPlace p e l va acc with
      | .ok ⟨.mem k, _, _, _⟩ => .ok (k, l.e)
      | _ => .error 6

/-- The pieces of a range, each with its key and page table entry. -/
def State.rootParts (s : State) (p : Nat) (root va : Word) (len : Nat) (acc : Acc) : Except Nat (List (Nat × Nat × Word)) :=
  (pieces va (len / 4096 + 2) len).mapM (fun q =>
    match s.rootPage p root q.1 acc with
    | .ok (k, e) => .ok (k, q.2, e)
    | .error e => .error e)

/-- The bytes of a range. -/
def State.rootRead (s : State) (p : Nat) (root va : Word) (len : Nat) : Except Nat (List Byte) := do
  let ps ← s.rootParts p root va len .load
  if ps.any (fun q => (List.range (q.2.1 / 8 + 1)).any (fun i => s.badWord (q.1 + 8 * i) || s.lostPa (q.1 + 8 * i))) then throw 6
  return ps.flatMap (fun q => s.through q.1 q.2.1)

/-! ### The container (R402, R403) -/

/-- A section: kind, name, place in the file, entry count, contents. -/
structure Sect where
  kind : Nat
  name : Nat
  off : Nat
  count : Nat
  bytes : List Byte
deriving DecidableEq, Repr

/-- Whether the header is valid (Table 23.5). -/
def headOk (f : List Byte) : Bool :=
  decide (64 ≤ f.length) && decide (f.take 4 = [0x7F, 0x54, 0x4D, 0x4F]) && decide (rd f 4 2 = 1) && decide (rd f 6 2 = 64) &&
    decide (rd f 10 2 = 0) && decide (rd f 24 8 = f.length) && allZero ((f.drop 36).take 28) &&
    decide (rd f 16 8 + 32 * rd f 8 2 ≤ f.length) && decide (crc32 (patch f 32 [0, 0, 0, 0]) = rd f 32 4)

/-- The section table; none when an entry of it is invalid. -/
def sections (f : List Byte) : Option (List Sect) :=
  (List.range (rd f 8 2)).mapM (fun i =>
    let e := (f.drop (rd f 16 8 + 32 * i)).take 32
    let off := rd e 8 8
    let size := rd e 16 8
    if decide (1 ≤ rd e 0 2) && decide (rd e 0 2 ≤ 10) && decide (rd e 2 2 = 0) && decide (rd e 28 4 = 0) &&
        decide (off % 64 = 0) && decide (off + size ≤ f.length) then
      some ⟨rd e 0 2, rd e 4 4, off, rd e 24 4, (f.drop off).take size⟩
    else none)

/-- Entries of n bytes of all sections of a kind. -/
def entriesOf (l : List Sect) (kind n : Nat) : List (List Byte) :=
  (l.filter (fun x => x.kind = kind)).flatMap (fun x => (List.range (x.bytes.length / n)).map (fun i => (x.bytes.drop (n * i)).take n))

/-- The string area: what follows the last symbol. -/
def strings (l : List Sect) : List Byte :=
  match l.find? (fun x => x.kind = 10) with
  | some x => x.bytes.drop (16 * x.count)
  | none => []

/-- The name at an offset of the string area; none when it does not end there. -/
def nameAt (l : List Sect) (off : Nat) : Option (List Byte) :=
  let t := (strings l).drop off
  if t.any (fun b => b = 0) then some (t.takeWhile (fun b => b != 0)) else none

/-- Whether a section has a name. -/
def Sect.named (x : Sect) (l : List Sect) (s : String) : Bool := nameAt l x.name = some (s.toList.map (fun c => BitVec.ofNat 8 c.toNat))

/-- Whether a section is the one with the initial images of the buffers. -/
def Sect.vinit (x : Sect) (l : List Sect) : Bool := x.kind = 2 && x.named l ".vinit"

/-- A bracket set from its bytes, and what follows it. -/
def parseSet (b : List Byte) : Option (BSet × List Byte) :=
  let nb := rd b 1 1
  let n := rd b 2 4
  let shareAt := 16 + 8 * nb
  let size := (shareAt + 2 * nb * n + 7) / 8 * 8
  let ok := decide (16 ≤ b.length) && decide (1 ≤ rd b 0 1) && decide (rd b 0 1 ≤ 4) && decide (1 ≤ nb) && decide (nb ≤ 4) &&
    decide (1 ≤ n) && allZero ((b.drop 10).take 6) && decide (size ≤ b.length)
  if !ok then none
  else
    let shares := (List.range nb).map (fun i => (List.range n).map (fun j => rd b (shareAt + 2 * (n * i + j)) 2))
    let need := (List.range nb).map (fun i => rd b (16 + 8 * i + 4) 4)
    let zero := (List.range nb).all (fun i => decide (rd b (16 + 8 * i + 2) 2 = 0)) &&
      allZero ((b.drop (shareAt + 2 * nb * n)).take (size - (shareAt + 2 * nb * n)))
    if zero && need.all (fun k => decide (0 < k)) && shares.all (fun l => l.all (fun k => decide (0 < k))) then
      some (⟨BitVec.ofNat 3 (rd b 0 1), n, (List.range nb).map (fun i => rd b (16 + 8 * i) 2), need, shares⟩, b.drop size)
    else none

/-- The sets of a brackets section. -/
def parseSets : Nat → List Byte → Option (List BSet)
  | 0, b => if allZero b then some [] else none
  | n + 1, b => do
    let (x, rest) ← parseSet b
    let l ← parseSets n rest
    return x :: l

/-- The bracket sets of an image. -/
def bsetsOf (l : List Sect) : Option (List BSet) := do
  let t ← (l.filter (fun x => x.kind = 6)).mapM (fun x => parseSets x.count x.bytes)
  return t.flatten

/-- Whether a record is one that the loader accepts (R62). -/
def recordOk (w : BitVec 512) : Bool :=
  let f := fun (lo len : Nat) => pfield w lo len
  let ker := f 32 32
  decide (f 384 128 = 0) && decide (f 231 1 = 0) && decide (f 220 3 = 0) && decide (f 213 2 = 0) &&
    [176, 184, 192, 200].all (fun lo => decide (f (lo + 5) 2 = 0)) && decide (f 96 32 ≠ 0) && decide (ker % 4 = 0) &&
    decide (ker < 131072)

/-- Whether the entries of a section are valid (R403). A buffer of size 0 is none. DESIGN CHOICE, log 92. -/
def Sect.ok (l : List Sect) (x : Sect) : Bool :=
  let whole := fun (n : Nat) => decide (x.bytes.length = n * x.count)
  let es := fun (n : Nat) => (List.range x.count).map (fun i => (x.bytes.drop (n * i)).take n)
  let code := fun (i : Nat) => (l[i]?).any (fun y => y.kind = 1)
  match x.kind with
  | 1 =>
    decide (x.bytes.length % 4 = 0) &&
      decide (((List.range (x.bytes.length / 4)).filter (fun i => decide (2147483648 ≤ rd x.bytes (4 * i) 4))).length = x.count)
  | 2 => true
  | 3 => whole 32 && (es 32).all (fun e => decide (rd e 6 1 ≤ 1) && code (rd e 7 1) && decide (rd e 12 4 % 64 = 0) &&
      decide (0 < rd e 12 4) && decide (rd e 28 4 ≤ rd e 12 4))
  | 4 => whole 64 && (es 64).all (fun e => recordOk (BitVec.ofNat 512 (leNat e)))
  | 5 => whole 16 && (es 16).all (fun e => decide (rd e 0 1 ≤ 1) && decide (rd e 1 1 = 0) && decide (rd e 12 4 = 0) &&
      decide (1 ≤ rd e 2 2) && decide (rd e 2 2 ≤ 4096) && decide (rd e 4 4 + rd e 2 2 ≤ (entriesOf l 4 64).length))
  | 6 => (parseSets x.count x.bytes).isSome
  | 7 => whole 16 && (es 16).all (fun e => decide (rd e 0 1 < 16) && decide (rd e 1 1 = 0) && decide (rd e 10 6 = 0) &&
      decide (2 ≤ rd e 4 2) && decide (rd e 4 2 ≤ 256) && decide (1 ≤ rd e 6 4) && decide (rd e 6 4 ≤ 16384) &&
      (match (entriesOf l 3 32)[rd e 2 2]? with
       | some b => decide (rd e 4 2 * (64 * rd e 6 4) ≤ rd b 12 4)
       | none => false)) &&
      decide (((es 16).map (fun e => rd e 0 1)).eraseDups.length = x.count)
  | 8 => whole 64 && (es 64).all (fun e => decide (rd e 63 1 < 32))
  | 9 => whole 16 && (es 16).all (fun e => decide (rd e 0 2 < l.length) && decide (1 ≤ rd e 2 2) && decide (rd e 2 2 ≤ 3) &&
      decide (rd e 4 4 < (l.filter (fun y => y.kind = 10)).foldl (fun n y => n + y.count) 0))
  | _ => decide (16 * x.count ≤ x.bytes.length) && (es 16).all (fun e => decide (rd e 6 1 ≤ 1) && decide (rd e 7 1 = 0) &&
      decide (rd e 4 2 < l.length ∨ 0xFFFE ≤ rd e 4 2))

/-! ### Placing (R50, R405 steps 3 to 5) -/

/-- A buffer placed: offset, size, and its live range in a code section. -/
structure Buf where
  off : Nat
  size : Nat
  code : Nat
  first : Nat
  last : Nat
deriving DecidableEq, Repr

/-- The lowest multiple of 64 at which a size fits beside what is taken. -/
def fitCode (taken : List (Nat × Nat)) (size : Nat) : Option Nat :=
  ((0 :: taken.map (fun t => up64 (t.1 + t.2))).filter (fun a =>
    decide (a + size ≤ 131072) && taken.all (fun t => decide (overlap a size t.1 t.2 = 0)))).min?

/-- The addresses of code sections of these sizes, in order. -/
def placeCode : List (Nat × Nat) → List Nat → Option (List Nat)
  | _, [] => some []
  | taken, z :: zs => do
    let a ← fitCode taken z
    let l ← placeCode ((a, z) :: taken) zs
    return a :: l

/-- Whether the live ranges of two buffers overlap; those of different code sections count as overlapping. -/
def Buf.live (a b : Buf) : Bool := a.code ≠ b.code || (decide (a.first ≤ b.last) && decide (b.first ≤ a.last))

/-- Whether a buffer obeys R50 beside others and beside ranges that are taken for good: its guard granules in the vault, no
overlap with a buffer live with it, and no guard granule of one in the other. -/
def Buf.fits (b : Buf) (others : List Buf) (taken : List (Nat × Nat)) : Bool :=
  decide (64 ≤ b.off) && decide (b.off + b.size + 64 ≤ 4194304) &&
    others.all (fun o => !b.live o || decide (overlap (b.off - 64) (b.size + 128) o.off o.size = 0 ∧
      overlap b.off b.size (o.off - 64) (o.size + 128) = 0)) &&
    taken.all (fun t => decide (overlap (b.off - 64) (b.size + 128) t.1 t.2 = 0))

/-- The mask of the banks that a range occupies. -/
def banksIn (mask off size : Nat) : Bool :=
  (List.range 16).all (fun k => decide (overlap off size (262144 * k) 262144 = 0) || mask.testBit k)

/-- Buffers of a vault plan placed in order (R405 step 4). DESIGN CHOICE, log 49. -/
def placeBufs (taken : List (Nat × Nat)) : List Buf → List (List Byte) → Option (List Buf)
  | _, [] => some []
  | done, e :: es => do
    let at_ := fun (off : Nat) => (⟨off, rd e 12 4, rd e 7 1, rd e 16 4, rd e 20 4⟩ : Buf)
    let good := fun (off : Nat) => banksIn (rd e 4 2) off (rd e 12 4) && (at_ off).fits done taken
    let off ← if rd e 6 1 = 1 then (if rd e 8 4 % 64 = 0 && good (rd e 8 4) then some (rd e 8 4) else none)
      else ((List.range 65536).map (fun i => 64 * i)).find? good
    let l ← placeBufs taken (done ++ [at_ off]) es
    return at_ off :: l

/-- Offsets of data sections from DBASE upward, each at the next multiple of 64. -/
def placeData : Nat → List Nat → List Nat
  | _, [] => []
  | at_, z :: zs => up64 at_ :: placeData (up64 at_ + z) zs

/-! ### Relocations (R403, R405 step 6) -/

/-- Where everything of an image has been placed: by section-table index the address of code and data, and the buffers. -/
structure Plan where
  code : Table Nat
  data : Table Word
  bufs : List Buf

/-- The value of a symbol: of a code or data label, of a vault buffer by its name, or absolute; none for an external one.
DESIGN CHOICE, log 49. -/
def Plan.symbol (p : Plan) (l : List Sect) (k : Nat) : Option Word :=
  match (entriesOf l 10 16)[k]? with
  | none => none
  | some e =>
    let v := BitVec.ofNat 64 (rd e 8 8)
    let sec := rd e 4 2
    if sec = 0xFFFF then some v
    else
      match (l[sec]?).map (fun x => x.kind) with
      | some 1 => (Table.find p.code sec).map (fun a => BitVec.ofNat 64 a + v)
      | some 2 => (Table.find p.data sec).map (fun a => a + v)
      | some 3 =>
        (((entriesOf l 3 32).zip p.bufs).find? (fun b => nameAt l (rd b.1 0 4) == nameAt l (rd e 0 4))).map
          (fun b => BitVec.ofNat 64 b.2.off)
      | _ => none

/-- One relocation of the bytes of a section; the error is the loader's status. -/
def relocate (bs : List Byte) (kind off : Nat) (v : Word) : Except Nat (List Byte) :=
  match kind with
  | 1 => if off + 8 ≤ bs.length then .ok (patch bs off (wordBytes (BitVec.ofNat 64 (rd bs off 8) + v))) else .error 7
  | 2 =>
    if bs.length < off + 8 then .error 7
    else
      let si := rd bs off 4
      let lx := rd bs (off + 4) 4
      let old : BitVec 37 := BitVec.ofNat 27 lx ++ BitVec.ofNat 10 si
      let new := old.toInt + v.toInt
      let out := BitVec.ofInt 37 new
      if lx / 134217728 % 16 ≠ 13 ∨ out.toInt ≠ new then .error 7
      else
        .ok (patch (patch bs off (numBytes 4 (si / 1024 * 1024 + out.toNat % 1024))) (off + 4)
          (numBytes 4 (lx / 134217728 * 134217728 + out.toNat / 1024)))
  | _ =>
    if bs.length < off + 4 then .error 7
    else
      let n := rd bs off 4 + v.toNat
      if 4294967296 ≤ n then .error 7 else .ok (patch bs off (numBytes 4 n))

/-- All relocations applied to the contents of the sections. -/
def Plan.relocs (p : Plan) (l : List Sect) : List (List Byte) → List (List Byte) → Except Nat (List (List Byte))
  | bs, [] => .ok bs
  | bs, e :: es =>
    match p.symbol l (rd e 4 4), bs[rd e 0 2]? with
    | some v, some b => do
      let b' ← relocate b (rd e 2 2) (rd e 8 8) v
      p.relocs l (bs.set (rd e 0 2) b') es
    | _, _ => .error 2

/-- The instruction-store address of an offset into the code sections taken in table order. -/
def codeAddr : List (Nat × Nat) → Nat → Nat
  | [], off => off
  | (a, z) :: t, off => if off < z then a + off else codeAddr t (off - z)

/-- A record's addresses in the instruction store: a field that a relocation names has its value already.
DESIGN CHOICE, log 49. -/
def Plan.record (p : Plan) (sizes : List Nat) (named : Nat → Bool) (w : BitVec 512) : BitVec 512 :=
  let m := (p.code.map (fun c => c.2)).zip sizes
  ([0, 32, 64] : List Nat).foldl (fun w lo =>
    let v := pfield w lo 32
    if v = 0xFFFFFFFF ∨ named (lo / 8) then w else setField w lo 32 (codeAddr m v)) w

/-! ### LOAD (R405) -/

/-- The loaded image and what LOAD writes: code, buffers with their initial bytes, data, rings and hoists. -/
structure Loaded where
  img : Image
  code : List (Nat × List Byte)
  bufs : List (Nat × List Byte)
  data : List (Nat × List Byte)
  rings : List (Nat × Ring)
  hoists : List (Nat × BitVec 320)

/-- The code that the images in a region's instruction stores take. -/
def State.codeTaken (s : State) (r : BitVec 5) : List (Nat × Nat) := (s.images.filter (fun m => m.region == r)).flatMap (fun m => m.code)

/-- The vault ranges taken for good: the images of enabled queues of the cores. -/
def State.queueRanges (s : State) (cores : List Nat) : List (Nat × Nat) :=
  (s.queues.filter (fun q => q.2.en && cores.contains (q.1 / 8))).map (fun q => (q.2.img.toNat, 64 * q.2.cap))

/-- Key and bytes of a range written through a root. -/
def State.rootWrites (s : State) (p : Nat) (root va : Word) (bs : List Byte) : Except Nat (List (Nat × List Byte)) := do
  let ps ← s.rootParts p root va bs.length .store
  return (ps.foldl (fun (a : List (Nat × List Byte) × List Byte) q => (a.1 ++ [(q.1, a.2.take q.2.1)], a.2.drop q.2.1)) ([], bs)).1

/-- A file read, checked, placed and relocated, up to what is written; an error is a status of Table 23.7.
DESIGN CHOICE, log 49. -/
def State.prepare (s : State) (p : Nat) (e : Loader) : Except Nat Loaded := do
  let r := e.region.toNat
  let cores := s.coresOf r
  if cores.isEmpty ∨ s.partOfRegion r ≠ some p then throw 9
  if s.images.any (fun m => m.part.toNat = p && m.region == e.region && m.res == e.res && m.id == e.image) then throw 8
  let head ← s.rootRead p e.root e.file 64
  let f ← s.rootRead p e.root e.file (rd head 24 8)
  if !headOk f then throw 1
  let l ← match sections f with
    | some l => pure l
    | none => throw 1
  if !l.all (Sect.ok l) then throw 2
  let isCode := fun (x : Sect) => x.kind = 1
  let codes := l.zipIdx.filter (fun x => isCode x.1)
  let pages ← (l.filter isCode).mapM (fun x => s.rootParts p e.root (e.file + BitVec.ofNat 64 x.off) x.bytes.length .load)
  if pages.flatten.any (fun q => !q.2.2.getLsbD 4) then throw 6
  let datas := l.zipIdx.filter (fun x => x.1.kind = 2 && !x.1.vinit l)
  if !datas.isEmpty && (decide (e.dbase = 0) || decide (e.dbase.toNat % 4096 ≠ 0)) then throw 10
  let at_ ← match placeCode (s.codeTaken e.region) (codes.map (fun x => x.1.bytes.length)) with
    | some a => pure a
    | none => throw 4
  let others := (s.images.filter (fun m => m.region == e.region)).flatMap (fun m =>
    m.bufs.map (fun b => (⟨b.1, b.2, l.length, 0, 0⟩ : Buf)))
  let entries := entriesOf l 3 32
  let bufs ← match placeBufs (s.queueRanges cores) others entries with
    | some b => pure b
    | none => throw 3
  let offs := placeData 0 (datas.map (fun x => x.1.bytes.length))
  let plan : Plan :=
    { code := (codes.map (fun x => x.2)).zip at_
      data := (datas.map (fun x => x.2)).zip (offs.map (fun o => e.dbase + BitVec.ofNat 64 o))
      bufs := bufs }
  let rel := entriesOf l 9 16
  let bs ← plan.relocs l (l.map (fun x => x.bytes)) rel
  let m := (l.zip bs).map (fun x => { x.1 with bytes := x.2 })
  let writes ← (plan.data).mapM (fun d => s.rootWrites p e.root d.2 ((bs[d.1]?).getD []))
  let named := fun (sec i : Nat) (lo : Nat) => rel.any (fun q => rd q 0 2 = sec && rd q 2 2 = 3 && rd q 8 8 = 64 * i + lo)
  let sizes := codes.map (fun x => x.1.bytes.length)
  let recs := (m.zipIdx.filter (fun x => x.1.kind = 4)).flatMap (fun x =>
    (entriesOf [x.1] 4 64).zipIdx.map (fun w => plan.record sizes (named x.2 w.2) (BitVec.ofNat 512 (leNat w.1))))
  let vinit := ((m.find? (fun x => x.vinit l)).map (fun x => x.bytes)).getD []
  let image := fun (b : List Byte × Buf) =>
    let init := if rd b.1 24 4 = 0xFFFFFFFF then [] else (vinit.drop (rd b.1 24 4)).take (rd b.1 28 4)
    (b.2.off, (init ++ List.replicate b.2.size 0).take b.2.size)
  let rings := (entriesOf m 7 16).map (fun q =>
    let b := (bufs[rd q 2 2]?).map (fun b => b.off)
    (rd q 0 1, { Ring.none with
      conf := true, base := BitVec.ofNat 64 (b.getD 0), slots := BitVec.ofNat 16 (rd q 4 2)
      slotsize := BitVec.ofNat 24 (64 * rd q 6 4) }))
  let hoists := (entriesOf m 8 64).map (fun h => (rd h 63 1, BitVec.ofNat 320 (leNat (h.take 40))))
  return {
    img :=
      { part := BitVec.ofNat 3 p, region := e.region, res := e.res, id := e.image, recs := recs
        scheds := (entriesOf m 5 16).map (fun q => (BitVec.ofNat 1 (rd q 0 1), rd q 4 4, rd q 2 2))
        bsets := (bsetsOf m).getD []
        code := at_.zip sizes, bufs := bufs.map (fun b => (b.off, b.size))
        credits := (hoists.filter (fun h => (h.2.extractLsb' 144 3) = 3)).map (fun h => (h.2.extractLsb' 160 12).toNat) }
    code := at_.zip ((m.filter isCode).map (fun x => x.bytes))
    bufs := (entries.zip bufs).map image
    data := writes.flatten
    rings := rings
    hoists := hoists }

/-- The granules of a range in a vault given a tag. -/
def State.tagRange (s : State) (c off size : Nat) (f : GTag → GTag) : State :=
  (granules (vaultKey c off) size).foldl (fun s g => s.setGtag g (f (s.gtag g))) s

/-- One buffer written into a vault: zeros and its initial bytes, W cleared, G on its guard granules. -/
def State.loadBuf (s : State) (c : Nat) (b : Nat × List Byte) : State :=
  let n := b.2.length
  let s := s.putRaw (vaultKey c b.1) b.2
  let s := s.tagRange c b.1 n (fun t => { t with w := false })
  let s := s.tagRange c (b.1 - 64) 64 (fun t => { t with guard := true })
  s.tagRange c (b.1 + n) 64 (fun t => { t with guard := true })

/-- An image put into one core (R405 step 8). -/
def State.loadCore (s : State) (c : Nat) (res : BitVec 1) (root : Word) (m : Loaded) : State :=
  let s := m.code.foldl (fun s k => s.putRaw (istoreKey c k.1) k.2) s
  let s := m.bufs.foldl (fun s b => s.loadBuf c b) s
  let s := m.rings.foldl (fun s r => s.modCtx c res (fun x =>
    let g := x.ring r.1
    x.setRing r.1 { r.2 with rel := g.rel + r.2.slots.toNat, relNow := g.relNow })) s
  m.hoists.foldl (fun s h =>
    -- the range of an HBM hoist is reached through the given root
    let x := s.ctx c res
    let s := s.setCtx c res { x with ptroot := root.extractLsb' 12 40, pten := root.getLsbD 0 }
    let s := s.installHoist c res h.1 h.2 true
    let s := s.modCtx c res (fun y => { y with ptroot := x.ptroot, pten := x.pten })
    s.armHoist c res h.1 true) s

/-- The controllers of all installed hoists: a vault, or a stack behind the vaults. -/
def State.hoistSites (s : State) : List Nat :=
  s.cores.flatMap (fun p => ([p.2.a, p.2.b] : List Ctx).flatMap (fun x =>
    (x.hoists.filter (fun h => h.2.installed && !h.2.err)).map (fun h =>
      match vaultOf h.2.home with
      | some v => v.1
      | none => 768 + h.2.home / 68719476736)))

/-- Whether no controller holds more hoists than its supply (R117). -/
def State.hoistsFit (s : State) : Bool :=
  let l := s.hoistSites
  l.all (fun k => decide (l.count k ≤ (if k < 768 then 16 else 64)))

/-- LOAD carried out whole, or its status. -/
def State.loadImage (s : State) (p : Nat) (e : Loader) : Except Nat State := do
  let m ← s.prepare p e
  let t := m.data.foldl (fun s w => s.put w.1 w.2) s
  let t := (s.coresOf e.region.toNat).foldl (fun s c => s.loadCore c e.res e.root m) t
  if !t.hoistsFit then throw 5
  return { t with images := t.images ++ [m.img] }

/-- UNLOAD carried out, or its status: G of guard granules that no other image needs is cleared. DESIGN CHOICE, log 49. -/
def State.unload (s : State) (p : Nat) (e : Loader) : Except Nat State := do
  let mine := fun (m : Image) => m.part.toNat = p && m.region == e.region && m.res == e.res && m.id == e.image
  match s.images.find? mine with
  | none => throw 8
  | some m =>
    if s.launches.any (fun k => k.part.toNat = p && k.region == e.region && k.res == e.res &&
        pfield k.packet 64 16 = e.image.toNat) then throw 8
    let rest := s.images.filter (fun k => !mine k)
    let guards := fun (k : Image) => k.bufs.flatMap (fun b => [b.1 - 64, b.1 + b.2])
    let keep := (rest.filter (fun k => k.region == e.region)).flatMap guards
    let drop := (guards m).filter (fun g => !keep.contains g)
    let s := (s.coresOf e.region.toNat).foldl (fun s c =>
      drop.foldl (fun s g => s.tagRange c g 64 (fun t => { t with guard := false })) s) s
    return { s with images := rest }

/-! ### The entry (R404, Table 23.4) -/

def State.loader (s : State) (p : Nat) : Loader := Table.get Loader.fresh s.loaders p

def State.setLoader (s : State) (p : Nat) (e : Loader) : State := { s with loaders := Table.set s.loaders p e }

/-- The four words of a loader entry. -/
def Loader.word (e : Loader) (k : Nat) : Word :=
  match k with
  | 0 => (0 : BitVec 16) ++ e.status ++ (0 : BitVec 8) ++ e.image ++ (0 : BitVec 8) ++ e.region ++ e.res ++ (0 : BitVec 2)
  | 1 => e.file
  | 2 => e.root
  | _ => e.dbase

/-- A loader entry committed: its first word, and the other three as staged. -/
def State.loaderCommit (s : State) (p : Nat) (w file root dbase : Word) : State :=
  let e := s.loader p
  let act := w.extractLsb' 0 2
  if e.status = 0xFF then s
  else if act = 3 ∨ w.extractLsb' 8 8 ≠ 0 ∨ w.extractLsb' 32 8 ≠ 0 ∨ w.extractLsb' 48 16 ≠ 0 then
    s.cfgError (if (s.partition p).en then some p else none)
  else
    s.setLoader p
      { act := act, res := w.extractLsb' 2 1, region := w.extractLsb' 3 5, image := w.extractLsb' 16 16
        status := if act = 0 then e.status else 0xFF, file := file, root := root, dbase := dbase }

/-- LOAD_DONE (R405): the LOAD or UNLOAD under way ends with its status. -/
def State.loadDone (s : State) (p : Nat) : State :=
  let e := s.loader p
  if e.status ≠ 0xFF then s
  else
    let r := if e.act = 1 then s.loadImage p e else s.unload p e
    match r with
    | .ok t => t.setLoader p { e with act := 0, status := 0 }
    | .error k => s.setLoader p { e with act := 0, status := BitVec.ofNat 8 k }

end Sys2Proof.Machine
end

