-- ==== Sys2Proof/Machine/Region.lean ====
section
/-!
DEFINITION. Regions and their sources (R10 to R20, R374 to R384): arrivals and the lock loop, missed sample times, the
source port, period boundaries with retime, freeze and resumption, and the period policy.
-/

namespace Sys2Proof.Machine

/-! ### Range (R11, R17) -/

/-- Whether a region follows a recovered source, which carries samples (R375). -/
def Region.hasPort (g : Region) : Bool := decide (g.sel.toNat < 0x100)

/-- The ceiling has been lowered below that of the rail: by the power cap, or because boost has ended (R390, R392). -/
def Region.lowered (g : Region) : Bool := g.ceil != 0 || (g.boost && !g.boosted)

/-- The clock needed to follow the source is above the ceiling. A region that follows the reference source meets no ceiling
but a lowered one (R377, R390, R392). DEDUCED, log 85. -/
def Region.beyond (g : Region) : Bool :=
  (!g.isRef || g.lowered) && decide (g.ceilHz * 1000 * g.s.toNat < g.c.toNat * g.rate)

/-- It is below the floor. -/
def Region.below (g : Region) : Bool := decide (g.c.toNat * g.rate < 200000000 * 1000 * g.s.toNat)

/-- SLOW and SLOWEV are set below the floor (R17); SLOW lasts to a boundary at which the source is back above it.
DEDUCED, log 36. -/
def Region.slowTurn (g : Region) : Region := { g with slow := g.slow || g.below, slowev := g.slowev || (g.below && !g.slow) }

/-- FAST entered (R17, R380). -/
def Region.enterFast (g : Region) : Region := { g with st := .fast, fastev := true }

/-- LOCKED or FAST by range; FASTEV is set on an entry into FAST. -/
def Region.byRange (g : Region) : Region :=
  let g := g.slowTurn
  if g.beyond then (if g.st = .fast then g else g.enterFast) else { g with st := .locked }

/-- A change of the needed clock or of the ceiling: a LOCKED region beyond its ceiling enters FAST, and leaves it only at a
boundary. -/
def Region.follow (g : Region) : Region :=
  let g := g.slowTurn
  if g.st = .locked && g.beyond && !g.start then g.enterFast else g

/-! ### The source port (R15, R16, R229) -/

/-- The fill policy of the port of a region. -/
def State.fillOf (s : State) (g : Region) : BitVec 2 := (Table.get Rate.fresh s.rates g.sel.toNat).fill

/-- A sample put into the period that the port fills. -/
def Region.putSample (g : Region) (v : BitVec 32) : Region :=
  let k := g.portNow
  { g with ins := g.ins.map (fun p => if p.1 = k then (k, p.2 ++ [v]) else p) }

/-- The port opens the next period and forgets what is no longer readable. -/
def Region.openPort (g : Region) : Region :=
  let k := if g.ins.isEmpty then 2 else g.portNow + 1
  { g with ins := (g.ins ++ [(k, [])]).filter (fun p => decide (k ≤ p.1 + 2)) }

/-- The samples that a read stream passes over when its next one is no longer readable. -/
def Region.passed (g : Region) (t : Stream) : Nat :=
  let old := t.pos / 65536
  if old < g.portNow - 2 then
    ((List.range (g.portNow - 2 - old)).map (fun j =>
      ((Table.find g.ins (old + j)).getD []).length - (if j = 0 then t.pos % 65536 else 0))).sum
  else 0

/-- The read streams of a region moved on to the samples still readable, and what they passed over counted in OVR. -/
def State.portStreams (s : State) (r : Nat) (old : Region) : State :=
  let g := s.region r
  let g' := { g with ins := old.ins ++ g.ins.drop (g.ins.length - 1) }
  (s.coresOf r).foldl (fun s c =>
    ([0, 1] : List (BitVec 1)).foldl (fun s res =>
      (s.ctx c res).streams.foldl (fun s p =>
        let t := p.2
        if t.bound && t.read && !t.write && t.kind = 3 then
          let n := g'.passed t
          if t.pos / 65536 < g.portNow - 2 then
            (s.modRegion r (fun g => { g with ovr := g.ovr + BitVec.ofNat 16 n })).modCtx c res (fun x =>
              x.setStream p.1 { t with pos := (g.portNow - 2) * 65536 })
          else s
        else s) s) s) s

/-- What the port gives for a missing sample (R16). -/
def State.fillSample (s : State) (r : Nat) : State :=
  let g := s.region r
  if !g.hasPort then s
  else
    let f := s.fillOf g
    let v := if f = 1 then 0 else g.lastIn.getD 0
    s.modRegion r (fun g => { g.putSample v with stale := g.stale || f == 2 })

/-- A fill sent in place of an output sample (R229). DEDUCED, log 29. -/
def State.fillOutput (s : State) (r : Nat) : State :=
  let g := s.region r
  let v := if s.fillOf g = 1 then 0 else g.lastOut
  s.modRegion r (fun g => { g with sent := v :: g.sent, undr := g.undr + 1 })

/-- OUTPUT_SAMPLE_TIME (R229): the port sends the one output of a sample time, a sample written in an earlier period or a
fill. DEDUCED, log 29. -/
def State.sendSample (s : State) (r : Nat) : State :=
  let g := s.region r
  if !g.hasPort || g.gated || !g.outDue then s
  else
    let s := s.modRegion r (fun g => { g with outDue := false })
    match g.outs with
    | (k, v) :: rest =>
      if k < g.portNow then s.modRegion r (fun g => { g with outs := rest, lastOut := v, sent := v :: g.sent })
      else s.fillOutput r
    | [] => s.fillOutput r

/-! ### Period boundaries -/

/-- How many cycles a period holds against its C (R12, R17). -/
inductive Pace where
  /-- The clock follows the source: exactly C. -/
  | exact
  /-- It is held at the ceiling: fewer. -/
  | fewer
  /-- It is held at the floor: more. -/
  | more
deriving DecidableEq, Repr

/-- The pace of a period; in HOLDOVER the clock keeps what it had (R18). DEDUCED, log 36. -/
def Region.pace (g : Region) : Pace :=
  if g.st = .fast || g.beyond then .fewer else if g.slow then .more else .exact

/-- Whether a boundary is due at this point of the period (R12, R17): with the S sample times of the source, which the
reference source needs only away from its own pace, and not before C cycles unless the clock is held at the ceiling.
DEDUCED, log 36. -/
def Region.boundaryDue (g : Region) : Bool :=
  !g.gated && (g.pace = .fewer || decide (g.c.toNat ≤ g.into)) &&
    ((g.isRef && g.pace = .exact) || decide (g.s.toNat ≤ g.samp))

/-- Whether a cycle may pass: a period holds exactly C, below the ceiling's limit fewer, above the floor's as many as its
sample times leave. -/
def Region.mayTick (g : Region) : Bool :=
  g.drain ||
    (match g.pace with
     | .exact => decide (g.into < g.c.toNat)
     | .fewer => decide (g.into + 1 < g.c.toNat)
     | .more => true)

/-- The retime in the mailbox moves, when it may (R384). -/
def State.retimeMove (s : State) (r : Nat) : State :=
  let g := s.region r
  match g.mbox with
  | some q =>
    if !g.move && (g.st = .locked || g.st = .fast) && (!q.boost || s.grant) then
      s.setRegion r { g with c := q.c, s := q.s, rail := q.rail, boost := q.boost, mbox := none, move := true }
    else s
  | none => s

/-- The boost ceiling is in force from a boundary on while the entry asks for it and boost is granted (R11, R388).
DEDUCED, log 88. -/
def State.boostTurn (s : State) (r : Nat) : State := s.modRegion r (fun g => { g with boosted := g.boost && s.grant })

/-- One context at a boundary (R13, R14, R64, R76, R313, R335): its period schedule restarts, or it misses the restart. The
schedule of a context whose state is away restarts only after it is back. DEDUCED, log 30. -/
def Ctx.boundary (x : Ctx) (stop trap away : Bool) : Ctx × Bool :=
  if !x.owned || !x.recs.any (fun r => r.locked) then (x, false)
  else if x.incomplete then
    let x := if trap then { x.wake with overrun := x.overrun + 1 } else x
    ({ x with stopped := x.stopped || stop }, true)
  else if away then (x, false)
  else if x.stopped || stop then ({ x with stopped := true }, false)
  else
    (Ctx.recur { x with
      recs := x.recs.map (fun r => if r.locked && r.st != .running then { r with st := .waiting } else r)
      pact := true }, false)

/-- The contexts of a region at a boundary: `$slip`, and the event of each context that slips (R14, Table 22.4). -/
def State.restart (s : State) (r : Nat) : State :=
  let trap := (s.region r).policy = 0
  let step := fun (a : State × Bool) (m : Member) =>
    let x := a.1.ctx m.1 m.2
    let stop := match a.1.launchOf x with
      | some l => l.stopped
      | none => false
    let (y, miss) := x.boundary stop trap ((a.1.core m.1).away m.2)
    let s := a.1.setCtx m.1 m.2 y
    (if miss then s.event m.1 m.2 0x18 else s, a.2 || miss)
  let all := (s.coresOf r).flatMap (fun c => [(c, 0), (c, 1)])
  let (s, miss) := all.foldl step (s, false)
  if miss then s.modRegion r (fun g => { g with slip := g.slip + 1 }) else s

/-- The launches of a region whose STOP has been accepted are stopped from this boundary on (R313). -/
def State.stopLaunches (s : State) (r : Nat) : State :=
  { s with launches := s.launches.map (fun l => if l.region.toNat = r && l.stop then { l with stopped := true } else l) }

/-- A new period, its counters set (R12 to R15, R66, R382, R384). DEDUCED, log 36. -/
def State.newPeriod (s : State) (r : Nat) (period : Word) : State :=
  let s := s.modRegion r (fun g => { g with period := period, into := 0, samp := 0, move := false })
  let s := ((s.retimeMove r).boostTurn r).modRegion r (fun g => { g with slow := g.slow && g.below })
  let s := s.modRegion r (fun g => if g.st = .holdover then g.slowTurn else g.byRange)
  let old := s.region r
  let s := (s.modRegion r Region.openPort).portStreams r old
  ((s.driftAll r).stopLaunches r).restart r

/-- The region freezes (R18, R19): the boundary does not count, and the cycles that its own effects still need are not
counted either. A retime in progress has completed (R20, R384). -/
def State.freeze (s : State) (r : Nat) : State :=
  s.modRegion r (fun g => { g with st := .frozen, wf := s.wall, cycle := g.cycle - 1, drain := true, good := 0, miss := 0,
                                   anchor := none, move := false })

/-- PERIOD_BOUNDARY (R13), when one is due. -/
def State.boundary (s : State) (r : Nat) : State :=
  let g := s.region r
  if !g.boundaryDue then s
  else if g.stop then s.freeze r
  else s.newPeriod r (g.period + 1)

/-- Boundary 0 of a lock (R377). -/
def State.firstBoundary (s : State) (r : Nat) : State :=
  if !(s.region r).start then s
  else (s.modRegion r (fun g => { g with start := false, cycle := 0 })).newPeriod r 0

/-- REGION_RESUMPTION (R20, R378, R383). -/
def State.resume (s : State) (r : Nat) : State :=
  let g := s.region r
  if g.st ≠ .relock ∨ g.good < 16 then s
  else
    let gap := match s.fsrc g.sel with
      | some (num, den) => (s.wall - g.wf).toNat * num / (den * max 1 g.s.toNat * 1000000000)
      | none => 0
    let n : Word := BitVec.ofNat 64 gap
    let s := s.modRegion r (fun g =>
      { g.byRange with gap := g.gap + n, cycle := g.cycle + 1, drain := false, good := 0, miss := 0 })
    (s.newPeriod r (g.period + n + 1)).realignAll r

/-! ### Arrivals (R376, R377) -/

/-- The count of good arrivals after one at a time in nanoseconds, from its anchor on. DEDUCED, log 42. -/
def Region.judge (g : Region) (t : Word) (f : Nat × Nat) : Region :=
  match g.anchor with
  | none => { g with anchor := some (t, 0), good := 1 }
  | some (a, n) =>
    let step : Int := (f.2 : Int) * 1000000000
    let err := ((t - a).toInt * (f.1 : Int)) - ((n + 1 : Nat) : Int) * step
    if err.natAbs * 8 < step.natAbs then { g with anchor := some (a, n + 1), good := g.good + 1 }
    else { g with anchor := none, good := 0 }

/-- A sample or an edge into the elastic of eight; a full one discards it (R16). -/
def Region.push (g : Region) (v : BitVec 32) : Region :=
  if g.isRef then g
  else if 8 ≤ g.elastic.length then { g with ovr := g.ovr + 1 }
  else { g with elastic := g.elastic ++ [v] }

/-- An arrival at the source of a region. -/
def State.arrival (s : State) (r : Nat) (t : Word) (freq : Nat) (v : BitVec 32) : State :=
  let g := s.region r
  let f := (s.fsrc g.sel).getD (1, 1)
  let g := match g.st with
    | .off => g
    | .locking =>
      let g := { g.judge t f with freq := freq }
      if g.good < 16 then g
      else { g.byRange with start := true, good := 0, miss := 0, elastic := [], ins := [], lastIn := none }
    | .locked | .fast => { g.push v with freq := freq }.follow
    | .holdover =>
      if g.stop then { g with ovr := g.ovr + 1 }
      else { { g.push v with freq := freq, miss := 0 } with st := .locked }.byRange
    | .frozen => { g with st := .relock, stop := false, good := 1, miss := 0, anchor := some (t, 0), elastic := [], freq := freq }
    | .relock =>
      if 16 ≤ g.good then g.push v else { g.judge t f with freq := freq, miss := 0 }
  s.setRegion r g

/-- An arrival at `$wall` time t at every region that follows the source. -/
def State.sourceArrives (s : State) (sel : Nat) (t : Word) (freq : Nat) (v : BitVec 32) : State :=
  (s.regions.map (fun p => p.1)).foldl (fun s r =>
    let g := s.region r
    if g.en && decide (g.sel.toNat = sel) then s.arrival r t freq v else s) s

/-- The `$wall` time at which sample i of a packet falls due: the packet's IEEE 1588 time less OFFSET for the first, then
nominal sample times (R375). DEDUCED, log 42. -/
def dueAt (time offset : Word) (e : Rate) (i : Nat) : Word :=
  time - offset + BitVec.ofNat 64 (i * e.den.toNat * 1000000000 / max 1 e.num.toNat)

/-- Whether a `$wall` time has come. -/
def State.wallAt (s : State) (t : Word) : Bool := decide (t.toInt ≤ (s.wall.toNat : Int))

/-- The samples of packets that have fallen due arrive, in order, each at its `$wall` time (R375, R376). -/
def State.fallDue (s : State) : State :=
  s.packets.foldl (fun s p =>
    let late := p.2.filter (fun e => s.wallAt e.1)
    if late.isEmpty then s
    else
      late.foldl (fun s e => s.sourceArrives p.1 e.1 e.2.1 e.2.2)
        { s with packets := Table.set s.packets p.1 (p.2.filter (fun e => !s.wallAt e.1)) }) s

/-- A packet of a stream taken by every recovered source whose rate entry names it (R375); a sample that is late arrives
now. -/
def State.packetArrives (s : State) (link : BitVec 1) (stream : BitVec 32) (time : Word) (freq : Nat)
    (vs : List (BitVec 32)) : State :=
  ((s.rates.filter (fun p => decide (p.1 < 0x100) && p.2.en && p.2.link == link && p.2.stream == stream)).foldl (fun s p =>
    let new := vs.zipIdx.map (fun v =>
      let t := dueAt time s.offset p.2 v.2
      (if s.wallAt t then s.wall else t, freq, v.1))
    { s with packets := Table.set s.packets p.1 (Table.get [] s.packets p.1 ++ new) }) s).fallDue

/-- SAMPLE_ARRIVAL (R375, R376). -/
def State.sampleArrives (s : State) (time : Word) (freq : Nat) (vs : List (BitVec 32)) : Feed → State
  | .packet link stream => s.packetArrives link stream time freq vs
  | .edge sel => if 0x100 ≤ sel.toNat then s.sourceArrives sel.toNat s.wall freq 0 else s

/-! ### Sample times -/

/-- A sample time at which nothing is there (R16, R18, R377). -/
def State.miss (s : State) (r : Nat) : State :=
  let g := s.region r
  if g.isRef then s
  else
    match g.st with
    | .locking => s.setRegion r { g with good := 0, anchor := none }
    | .relock =>
      s.setRegion r { g with good := 0, anchor := none, miss := if g.miss = 3 then 0 else g.miss + 1,
                             st := if g.miss = 3 then .frozen else .relock }
    | .locked | .fast =>
      if g.start then s
      else (s.setRegion r { g with st := .holdover, miss := 1, missN := g.missN + 1, samp := g.samp + 1 }).fillSample r
    | .holdover =>
      let stop := decide (3 ≤ g.miss)
      (s.setRegion r { g with miss := g.miss + 1, missN := g.missN + 1, samp := g.samp + 1, stop := g.stop || stop,
                              stopev := g.stopev || (stop && !g.stop) }).fillSample r
    | .off | .frozen => s

/-- A boundary that falls at this sample time, of whatever kind. -/
def State.boundaryHere (s : State) (r : Nat) : State :=
  let g := s.region r
  if g.start then s.firstBoundary r
  else if g.st = .relock ∧ 16 ≤ g.good then s.resume r
  else s.boundary r

/-- Whether a sample time of a LOCKED period comes before its C cycles are over: the loop lets none (R12). -/
def Region.early (g : Region) : Bool :=
  !g.isRef && !g.gated && decide (g.s.toNat ≤ g.samp) && !g.boundaryDue

/-- The output of the last sample time sent, if it is still due, before the next one (R229). -/
def State.outTurn (s : State) (r : Nat) : State := s.sendSample r

/-- The output of this sample time is due (R229). -/
def State.outDue (s : State) (r : Nat) : State := s.modRegion r (fun g => { g with outDue := g.hasPort && !g.gated })

/-- MISSED_SAMPLE_TIME (R16): a sample time that finds the elastic empty. DEDUCED, log 42. -/
def State.missedTime (s : State) (r : Nat) : State :=
  let s := s.outTurn r
  let g := s.region r
  if g.early ∨ (g.elastic ≠ [] ∧ !g.stop) then s else ((s.boundaryHere r).miss r).outDue r

/-- A sample time of the source of a region: a boundary when one falls there, then the sample or a miss. A region that
freezes at it takes none. DEDUCED, log 42. -/
def State.sampleTime (s : State) (r : Nat) : State :=
  let s := s.outTurn r
  let g := s.region r
  if g.early then s
  else
    let s := s.boundaryHere r
    let g := s.region r
    if g.isRef then (if g.gated then s else s.modRegion r (fun g => { g with samp := g.samp + 1 }))
    else if g.gated then s
    else
      let s := match g.elastic with
        | v :: rest =>
          if g.stop then s.miss r
          else
            s.modRegion r (fun g =>
              let g := { g with elastic := rest, samp := g.samp + 1 }
              if g.hasPort then { g.putSample v with lastIn := some v, stale := false } else g)
        | [] => s.miss r
      s.outDue r

/-- The boundary of a region in its own cycle: boundary 0 and the boundaries of a region that follows the reference source
need no sample. -/
def State.boundaryTick (s : State) (r : Nat) : State :=
  let g := s.region r
  if !g.isRef then s
  else if g.start then s.firstBoundary r
  else s.boundary r

/-- Whether the own effects of a core are complete (R19). A suspended command stays. -/
def Core.quiet (k : Core) : Bool :=
  k.timed.isEmpty && k.mq.isEmpty && k.ct.isEmpty && k.small.isEmpty &&
    k.chans.all (fun p => p.2.st = .suspended || (p.2.cur.isNone && p.2.queue.isEmpty))

/-- The end of the cycles in which a freezing region completes its effects. DEDUCED, log 43. -/
def State.drainTurn (s : State) (r : Nat) : State :=
  if (s.region r).drain && (s.coresOf r).all (fun c => (s.core c).quiet) then s.modRegion r (fun g => { g with drain := false })
  else s

/-- RAIL_SWITCH_END (R384). -/
def State.railEnd (s : State) (r : Nat) : State := s.modRegion r (fun g => { g with move := false })

/-! ### Events -/

/-- PERIOD_BOUNDARY (R13). -/
def execPeriodBoundary (region : BitVec 5) (s : State) : Host.Outcome State Fault Refusal := .next (s.boundary region.toNat)

/-- SAMPLE_ARRIVAL (R376). -/
def execSampleArrival (source : Feed) (time : Word) (freq : Nat) (value : List (BitVec 32)) (s : State) :
    Host.Outcome State Fault Refusal := .next (s.sampleArrives time freq value source)

/-- MISSED_SAMPLE_TIME (R16). -/
def execMissedSampleTime (region : BitVec 5) (s : State) : Host.Outcome State Fault Refusal := .next (s.missedTime region.toNat)

/-- REGION_RESUMPTION (R378). -/
def execRegionResumption (region : BitVec 5) (s : State) : Host.Outcome State Fault Refusal := .next (s.resume region.toNat)

/-- OUTPUT_SAMPLE_TIME (R229). -/
def execOutputSampleTime (region : BitVec 5) (s : State) : Host.Outcome State Fault Refusal := .next (s.sendSample region.toNat)

/-- RAIL_SWITCH_END (R384). -/
def execRailSwitchEnd (region : BitVec 5) (s : State) : Host.Outcome State Fault Refusal := .next (s.railEnd region.toNat)

end Sys2Proof.Machine
end

