-- ==== Sys2Proof/Machine/Power.lean ====
section
/-!
DEFINITION. Package power (R388 to R392): the energy bucket, the grant of boost, the fallback retime, and the power cap.
-/

namespace Sys2Proof.Machine

/-- The ceiling of a region's rail in MHz (R11). -/
def Region.railMhz (g : Region) : Nat := if g.rail = 1 then 1500 else if g.boosted then 3000 else 2500

/-- A change of every region. -/
def State.mapRegions (s : State) (f : Region → Region) : State := { s with regions := s.regions.map (fun p => (p.1, f p.2)) }

/-- The period that fits 2.5 GHz (R390). -/
def State.fallbackC (s : State) (g : Region) : BitVec 32 :=
  match s.fsrc g.sel with
  | some (num, den) => BitVec.ofNat 32 (max 4096 (min g.c.toNat (2500000000 * g.s.toNat * den / max 1 num)))
  | none => g.c

/-- GRANT cleared: every region with BOOST has a retime without it put in its mailbox (R390). -/
def State.dropBoost (s : State) : State :=
  { s with grant := false }.mapRegions (fun g => if g.boost then { g with mbox := some ⟨s.fallbackC g, g.s, 0, false⟩ } else g)

/-- One step of the power cap (R392), the step a fraction of the clock. DESIGN CHOICE, log 48. -/
def State.capTurn (s : State) (power : Nat) : State :=
  let f := (Config.capStep s.free).toNat
  let run := fun (g : Region) => !g.gated
  if s.level = 0 ∧ 3000 < power then
    { s with capact := true, free := s.free + 1 }.mapRegions (fun g =>
      if run g then { g with ceil := BitVec.ofNat 32 (g.ceilHz / 1000000 * (65536 - f) / 65536) } else g)
  else if s.capact ∧ power ≤ 3000 ∧ 0 < s.level then
    let s := { s with free := s.free + 1 }.mapRegions (fun g =>
      if g.ceil = 0 then g
      else
        let n := g.ceil.toNat * (65536 + f) / 65536
        if n < g.railMhz then { g with ceil := BitVec.ofNat 32 n } else { g with ceil := 0 })
    { s with capact := s.regions.any (fun p => p.2.ceil != 0) }
  else s

/-- A region that waits to give up its boost has the sustained ceiling once the bucket is empty (R390). -/
def State.holdBoost (s : State) : State :=
  if s.level ≠ 0 ∨ s.grant then s else s.mapRegions (fun g => { g with boosted := false })

/-- ENERGY_BUCKET_UPDATE (R388): the mean power of one microsecond. DESIGN CHOICE, log 48. -/
def State.bucketUpdate (s : State) (power : BitVec 16) : State :=
  let p := power.toNat
  let sum := s.level + 3000
  let level := min 4800000000 (sum - p)
  let excess := s.excess + (p - sum)
  let fell := level < s.level ∧ level ≤ s.low.toNat * 1000000
  let rose := s.level < level ∧ s.high.toNat * 1000000 ≤ level
  let grant := s.grant
  let s := { s with level := level, excess := excess, pwr := power }
  let s := if grant ∧ fell then s.dropBoost else if !grant ∧ rose then { s with grant := true } else s
  ((s.holdBoost).capTurn p).mapRegions Region.follow

/-- The power entry's thresholds committed, or refused (R389). -/
def State.powerCommit (s : State) (w : Word) : State :=
  let low := w.extractLsb' 0 16
  let high := w.extractLsb' 16 16
  if high.toNat ≤ low.toNat ∨ 4800 < high.toNat then s.cfgError none else { s with low := low, high := high }

/-- The two words of the power entry (Table 22.1). -/
def State.powerWord (s : State) (hi : Bool) : Word :=
  if hi then BitVec.ofNat 24 (s.excess / 1000000) ++ BitVec.ofNat 24 (s.level / 1000) ++ s.pwr
  else (0 : BitVec 29) ++ b1 s.capact ++ b1 s.grant ++ (0 : BitVec 1) ++ s.high ++ s.low

/-! ### Events -/

/-- A step that a running device takes: below READY the entries of BAR0 take no write (R406). -/
def State.ready (s : State) (f : State → State) : State := if s.boot = .ready then f s else s

/-- ENERGY_BUCKET_UPDATE (R388). -/
def execEnergyBucketUpdate (power : BitVec 16) (s : State) : Host.Outcome State Fault Refusal := .next (s.bucketUpdate power)

/-- POWER_ENTRY_COMMIT (R389). -/
def execPowerEntryCommit (word : BitVec 64) (s : State) : Host.Outcome State Fault Refusal :=
  .next (s.ready (fun s => s.powerCommit word))

end Sys2Proof.Machine
end

