-- ==== Sys2Proof/Machine/ContactEngine.lean ====
section
/-!
DEFINITION. The contact unit (R275 to R282): block declarations, thumbnails and their comparison, the sheet, and the image
of its state.
-/

namespace Sys2Proof.Machine

def CtCmd.agent (m : CtCmd) (c : Nat) : Agent := ⟨c, m.res, m.pc, m.slot⟩

def Block.rp (b : Block) : Nat := b.field 128 32
def Block.tw (b : Block) : Nat := b.field 160 16
def Block.first (b : Block) : Nat := b.field 192 16

/-- The vault offset of row r of tile t (R275). -/
def Block.rowAt (b : Block) (t r : Nat) : Nat :=
  b.field 0 64 % 4194304 + (64 * (t / b.tw) + r) * b.rp + 128 * (t % b.tw)

/-- The vault offset of the previous thumbnail of tile t; the pending one follows it (R275). -/
def Block.thumb (b : Block) (t : Nat) : Nat := b.field 64 64 % 4194304 + 256 * t

/-- The end of the tiles of a block: of its last tile, or of the last one of the tile row before (R275). -/
def Block.tileEnd (b : Block) : Nat :=
  let row := (b.count - 1) / b.tw
  max (b.rowAt (b.count - 1) 63) (if row = 0 then 0 else b.rowAt (row * b.tw - 1) 63) + 128

/-- Whether a descriptor is valid (R278). -/
def Block.valid (b : Block) (c : Nat) (rest : Nat) : Bool :=
  let n := b.count
  decide (rest = 0) && isOwn c (b.desc.extractLsb' 0 64) && decide (b.field 0 64 % 64 = 0) &&
    isOwn c (b.desc.extractLsb' 64 64) && decide (b.field 64 64 % 64 = 0) && decide (b.rp % 64 = 0) &&
    decide (128 ≤ b.rp) && decide (1 ≤ b.tw) && decide (b.tw ≤ 4096) && decide (n ≤ 4096) && decide (b.first ≤ 4095) &&
    decide (b.first + n ≤ 4096) && (decide (n = 0) || (decide (b.tileEnd ≤ 4194304) && decide (b.thumb n ≤ 4194304)))

/-- Ones over the sheet range of a block. -/
def Block.bits (b : Block) : BitVec 4096 := BitVec.ofNat 4096 ((2 ^ b.count - 1) * 2 ^ b.first)

/-- Whether the sheet ranges of two blocks overlap. -/
def Block.meets (a b : Block) : Bool := 0 < overlap a.first a.count b.first b.count

/-- A block declared by CTBLK (R278). -/
def Ctx.declare (x : Ctx) (c k : Nat) (d : BitVec 512) : Ctx :=
  let b : Block := ⟨d.extractLsb' 0 208, true, false⟩
  if !b.valid c (d.extractLsb' 208 304).toNat then { x with blocks := Table.set x.blocks k ⟨b.desc, false, true⟩ }
  else
    let keep := ~~~b.bits
    let others := x.blocks.map (fun p =>
      if p.1 != k && p.2.declared && p.2.meets b then (p.1, { p.2 with declared := false }) else p)
    { x with
      blocks := Table.set others k { b with declared := decide (b.count ≠ 0) }
      sheet := x.sheet &&& keep, prevv := x.prevv &&& keep, pendv := x.pendv &&& keep }

/-! ### Thumbnails (R279) -/

/-- Cell (u, v) of the thumbnail of a tile, from its 64 rows of 64 BF16 elements. -/
def thumbCell (rows : Table Nat) (u v : Nat) : Nat :=
  let one : Num := .fin false 1 0
  let g := (List.range 64).foldl (fun (g : Group) i =>
    g.add (decodeF bf16 (elemBits 16 (Table.get 0 rows (8 * u + i / 8)) (8 * v + i % 8))) one) Group.start
  (roundNum bf16 (rne false) ((g.term 127 127).1.scale (-6))).1

/-- The thumbnail: 64 cells in row-major order. -/
def thumbOf (rows : Table Nat) : Nat := (List.range 64).foldr (fun i a => thumbCell rows (i / 8) (i % 8) + 65536 * a) 0

/-- The difference of two cells. -/
def cellDiff (a b : Nat) : Num :=
  if a = b then Num.zero
  else
    let x := decodeF bf16 a
    let y := decodeF bf16 b
    if x.isNan || x.isInf || y.isNan || y.isInf then .inf false else absDiff x y

/-- Whether a thumbnail is within a threshold of the previous one. -/
def thumbNear (new prev : Nat) (th : BitVec 32) : Bool :=
  let t := decodeF f32 th.toNat
  let d := (List.range 64).foldl (fun (m : Num) i => maxMag m (cellDiff (elemBits 16 new i) (elemBits 16 prev i))) Num.zero
  !t.isNan && !ltNum t d

/-! ### The state image (Table 12.5) -/

/-- The record of block k in the image. -/
def Block.image (b : Block) : BitVec 256 :=
  (0 : BitVec 40) ++ ((0 : BitVec 6) ++ b1 b.err ++ b1 b.declared) ++ b.desc

def Ctx.contactImage (x : Ctx) : Nat :=
  x.sheet.toNat + 2 ^ 4096 * x.prevv.toNat + 2 ^ 8192 * x.pendv.toNat +
    ((List.range 16).foldr (fun k a => (x.block k).image.toNat + 2 ^ 256 * a) 0) * 2 ^ 12288

/-- A block record loaded: one that is invalid under R278 installs undeclared with ERR (R281). -/
def loadBlock (c : Nat) (w : BitVec 256) : Block :=
  let b : Block := ⟨w.extractLsb' 0 208, w.getLsbD 208, w.getLsbD 209⟩
  if b.valid c 0 then b else { b with declared := false, err := true }

def Ctx.loadContact (x : Ctx) (c : Nat) (img : BitVec 16384) : Ctx :=
  { x with
    sheet := img.extractLsb' 0 4096, prevv := img.extractLsb' 4096 4096, pendv := img.extractLsb' 8192 4096
    blocks := (List.range 16).foldl (fun t k => Table.set t k (loadBlock c (img.extractLsb' (12288 + 256 * k) 256))) x.blocks }

/-! ### Running -/

/-- Whether a command does nothing: it names an undeclared block or a tile at or beyond its count (R278).
DEDUCED, log 65. -/
def CtCmd.void (m : CtCmd) (x : Ctx) : Bool :=
  let b := x.block m.block
  match m.i with
  | .ctsnap _ _ => !b.declared || decide (b.count ≤ m.a.toNat % 4096)
  | .ctstep _ => !b.declared
  | .ctclr _ _ => !b.declared
  | _ => false

/-- Cycles from the start to the end of a command without deferrals. A CTCLR takes one. DEDUCED, log 65. -/
def CtCmd.time (m : CtCmd) (x : Ctx) : Nat :=
  match m.i with
  | .ctblk _ _ => 2
  | .ctqry _ _ _ => 1
  | .ctclr _ _ => 1
  | _ => m.steps x

def State.modCt (s : State) (c : Nat) (f : CtCmd → CtCmd) : State :=
  s.modCore c (fun k => { k with ct := match k.ct with
    | [] => []
    | m :: t => f m :: t })

/-- The head of the contact queue leaves. -/
def State.popCt (s : State) (c : Nat) : State := s.modCore c (fun k => { k with ct := k.ct.tail, ctEnd := s.now c })

/-- The sheet bits of 64 tiles of a block (R280). -/
def Ctx.sheetWord (x : Ctx) (k w : Nat) : Word :=
  BitVec.ofNat 64 (((List.range 64).map (fun i => if x.sheetBit k (64 * w + i) then 2 ^ i else 0)).sum)

/-- The status word of a block (R280). -/
def Block.statusWord (b : Block) : Word :=
  (0 : BitVec 30) ++ b1 b.err ++ b1 b.declared ++ BitVec.ofNat 16 b.first ++ BitVec.ofNat 16 b.count

/-- What a command does in the cycle in which it starts. -/
def State.ctFirst (s : State) (c : Nat) (m : CtCmd) : State :=
  match m.i with
  | .ctclr _ k =>
    s.modCtx c m.res (fun x =>
      let keep := ~~~(x.block k.toNat).bits
      let x := { x with sheet := x.sheet &&& keep }
      if m.a.getLsbD 0 then { x with prevv := x.prevv &&& keep, pendv := x.pendv &&& keep } else x)
  | _ => s

/-- What a command does in the cycle after its last access. -/
def State.ctLast (s : State) (c : Nat) (m : CtCmd) : State :=
  match m.i with
  | .ctqry a _ k =>
    let x := s.ctx c m.res
    let w := if m.b.getLsbD 63 then (x.block k.toNat).statusWord else x.sheetWord k.toNat (m.b.toNat % 64)
    s.answerG c m.res a m.seq w
  | .ctload _ =>
    let img := (List.range 32).foldr (fun j a => Table.get 0 m.buf j + 256 ^ 64 * a) 0
    s.modCtx c m.res (fun x => x.loadContact c (BitVec.ofNat 16384 img))
  | _ => s

/-- CONTACT_COMMAND_START (R277); no access of a command passes an earlier acquire (R132). -/
def State.ctStart (s : State) (c : Nat) : State :=
  match (s.core c).ct with
  | [] => s
  | m :: _ =>
    if m.start.isSome || decide (s.now c < m.issue + 7) || !(s.still c m.gates).isEmpty then s
    else if m.void (s.ctx c m.res) then s.popCt c
    else (s.modCt c (fun m => { m with start := some (s.now c) })).ctFirst c m

/-- Installation and end of the running command, at the start of a cycle. -/
def State.ctEnds (s : State) (c : Nat) : State :=
  match (s.core c).ct with
  | [] => s
  | m :: _ =>
    match m.start with
    | none => s
    | some st =>
      let x := s.ctx c m.res
      let t := s.now c - (st + m.shift)
      if m.k < m.steps x || decide (s.now c < st + m.shift) then s
      else
        let s := match m.i with
          | .ctblk _ k =>
            if t = 1 then s.modCtx c m.res (fun x => x.declare c k.toNat (BitVec.ofNat 512 (Table.get 0 m.buf 0))) else s
          | _ => s
        if t < m.time x then s else (s.ctLast c m).popCt c

/-- Ends and starts of one cycle, until nothing more starts. -/
def State.ctTurn (s : State) (c : Nat) : Nat → State
  | 0 => s
  | n + 1 => ((s.ctEnds c).ctStart c).ctTurn c n

/-- The accesses of step k: reads and writes by offset and length. -/
def CtCmd.access (m : CtCmd) (x : Ctx) : List (Bool × Nat × Nat) :=
  let b := x.block m.block
  let t := m.a.toNat % 4096
  match m.i with
  | .ctblk _ _ => [(false, vaultOffset m.a, 64)]
  | .ctsnap _ _ =>
    if m.k < 64 then [(false, b.rowAt t m.k, 128)]
    else if m.k = 64 then [(false, b.thumb t, 128)] else [(true, b.thumb t + 128, 128)]
  | .ctstep _ =>
    let i := b.first + m.k
    if x.pendv.getLsbD i && !x.sheet.getLsbD i then [(false, b.thumb m.k + 128, 128), (true, b.thumb m.k, 128)] else []
  | .ctsave _ => [(true, vaultOffset m.a + 64 * m.k, 64)]
  | .ctload _ => [(false, vaultOffset m.a + 64 * m.k, 64)]
  | _ => []

/-- Step k of a command carried out. -/
def State.ctStep (s : State) (c : Nat) (m : CtCmd) : State :=
  let x := s.ctx c m.res
  let b := x.block m.block
  let a := m.agent c
  match m.i with
  | .ctsnap _ _ =>
    let t := m.a.toNat % 4096
    let i := b.first + t
    if m.k < 64 then
      let (v, s) := s.engRead a m.seq (b.rowAt t m.k) 128
      s.modCt c (fun m => { m with buf := Table.set m.buf m.k v })
    else if m.k = 64 then
      let (v, s) := s.engRead a m.seq (b.thumb t) 128
      s.modCt c (fun m => { m with buf := Table.set m.buf 64 v })
    else
      let new := thumbOf m.buf
      let skip := x.prevv.getLsbD i && thumbNear new (Table.get 0 m.buf 64) m.th
      let one : BitVec 4096 := BitVec.ofNat 4096 (2 ^ i)
      let s := s.engWrite a m.seq (b.thumb t + 128) (numBytes 128 new)
      s.modCtx c m.res (fun x =>
        { x with pendv := x.pendv ||| one, sheet := if skip then x.sheet ||| one else x.sheet &&& ~~~one })
  | .ctstep _ =>
    let i := b.first + m.k
    let one : BitVec 4096 := BitVec.ofNat 4096 (2 ^ i)
    let s :=
      if x.pendv.getLsbD i && !x.sheet.getLsbD i then
        let (v, s) := s.engRead a m.seq (b.thumb m.k + 128) 128
        (s.engWrite a m.seq (b.thumb m.k) (numBytes 128 v)).modCtx c m.res (fun x => { x with prevv := x.prevv ||| one })
      else s
    s.modCtx c m.res (fun x => { x with pendv := x.pendv &&& ~~~one })
  | .ctsave _ =>
    s.engWrite a m.seq (vaultOffset m.a + 64 * m.k) (numBytes 64 (x.contactImage / 256 ^ (64 * m.k) % 256 ^ 64))
  | _ =>
    let (v, s) := s.engRead a m.seq (vaultOffset m.a + 64 * m.k) 64
    s.modCt c (fun m => { m with buf := Table.set m.buf m.k v })

/-- The running command in one cycle (R102, R277). -/
def State.ctCycle (s : State) (c : Nat) (p : Ports) : State × Ports :=
  match (s.core c).ct with
  | [] => (s, p)
  | m :: _ =>
    match m.start with
    | none => (s, p)
    | some st =>
      let x := s.ctx c m.res
      if m.steps x ≤ m.k || decide (s.now c < st + m.k + m.shift) then (s, p)
      else
        let need := ((m.access x).flatMap (fun e => portsOf e.1 e.2.1 e.2.2)).eraseDups
        match claimPorts p need with
        | none => ((s.deferred c).modCt c (fun m => { m with shift := m.shift + 1 }), p)
        | some p => ((s.ctStep c m).modCt c (fun m => { m with k := m.k + 1 }), p)

end Sys2Proof.Machine
end

