-- ==== Sys2Proof/Machine/Sync.lean ====
section
/-!
DEFINITION. The MS group: fences, barriers, waits, rings, queues, streams and pennants (R217 to R231).
-/

namespace Sys2Proof.Machine

/-- FENCE (R131, R218): the token at issue + 1, and what it covers. -/
def execFence (a : BitVec 6) (m : BitVec 4) (sc : BitVec 3) (s : State) : Host.Outcome State Fault Refusal :=
  issue (.fence a m sc) s (fun s =>
    let x := s.cx
    let n := x.fenceNo + 1
    let f : Fence :=
      { num := n
        covers := s.accessIds s.me s.res m ++ (if m.getLsbD 2 then (s.core s.me).commandIds s.res else [])
        streams := if m.getLsbD 3 then x.streamMarks else [] }
    let s := s.writeG 1 a ((0 : BitVec 41) ++ sc ++ m ++ n)
    s.modCx (fun x => { x with fenceNo := n, fences := s.openFences s.me x ++ [f] }))

/-- FWAIT (R219): the wait is a stall at issue. -/
def execFwait (a : BitVec 6) (k : BitVec 5) (s : State) : Host.Outcome State Fault Refusal :=
  issue (.fwait a k) s (fun s => s)

/-- The phase count at a scope as a word; all ones without an instance (R220). -/
def State.countWord (s : State) (sc : BitVec 3) : Word :=
  ((s.countAt s.me s.cx sc).map (fun c => c.setWidth 64)).getD (BitVec.allOnes 64)

/-- BAR (R220): the arrival and the wait stand at issue; ga takes the new count when the next bundle issues. -/
def execBar (a : BitVec 6) (sc : BitVec 3) (k : BitVec 5) (s : State) : Host.Outcome State Fault Refusal :=
  issue (.bar a sc k) s (fun s => s.writeG 1 a (s.countWord sc))

/-- BARA (R220). -/
def execBara (a : BitVec 6) (sc : BitVec 3) (s : State) : Host.Outcome State Fault Refusal :=
  issue (.bara a sc) s (fun s => (s.writeG 1 a (s.countWord sc)).arrive s.me s.res sc)

/-- BARW (R220). -/
def execBarw (a : BitVec 6) (sc : BitVec 3) (k : BitVec 5) (s : State) : Host.Outcome State Fault Refusal :=
  issue (.barw a sc k) s (fun s => s.writeG 1 a (s.countWord sc))

/-- BARQ (R220). -/
def execBarq (a : BitVec 6) (sc : BitVec 3) (s : State) : Host.Outcome State Fault Refusal :=
  issue (.barq a sc) s (fun s => s.writeG 1 a (s.countWord sc))

/-- A read stream without what it fetched ahead (R221, R230): a crossing takes its outputs back, a port its position.
DEDUCED, log 77. -/
def State.unfetchAt (s : State) (c : Nat) (res : BitVec 1) (n : Nat) : State :=
  let t := (s.ctx c res).stream n
  let s := s.modCtx c res (fun x => x.setStream n
    { t with data := [], moved := t.taken, pos := t.pos - t.data.length * ((t.base.extractLsb' 8 7).toNat + 1) })
  if t.kind = 2 then
    match crossAddr t.base with
    | none => s
    | some (u, ch) => s.modXChan u ch (fun x => { x with pushed := t.data.flatMap (unpackSamples x.gC) ++ x.pushed })
  else s

/-- That of the context in hand. DEDUCED, log 77. -/
def State.unfetch (s : State) (n : Nat) : State := s.unfetchAt s.me s.res n

/-- SBAR (R221). -/
def execSbar (c : BitVec 3) (s : State) : Host.Outcome State Fault Refusal :=
  issue (.sbar c) s (fun s =>
    if c = 0 then s
    else
      let x := s.cx
      let named := x.streams.filter (fun p => p.2.bound && c.getLsbD p.2.classBit)
      let drains := x.drains.filter (fun t => c.getLsbD t.classBit)
      let marks := (named.filter (fun p => p.2.write)).map (fun p => (p.2.id, p.2.taken)) ++
        drains.map (fun t => (t.id, t.taken))
      let s := (named.filter (fun p => !p.2.write && p.2.read)).foldl (fun s p => s.unfetch p.1) s
      s.modCx (fun x => { x with sbars := x.sbars.filter (fun b => b.2.any (fun m => !x.marked m)) ++ [(c, marks)] }))

/-- HWAIT (R222): the wait is a stall at issue. -/
def execHwait (a : BitVec 6) (h k : BitVec 5) (s : State) : Host.Outcome State Fault Refusal :=
  issue (.hwait a h k) s (fun s => s)

/-- RWAIT (R223): the wait is a stall at issue. -/
def execRwait (a : BitVec 6) (h : BitVec 4) (f : BitVec 1) (k : BitVec 5) (s : State) : Host.Outcome State Fault Refusal :=
  issue (.rwait a h f k) s (fun s => s)

/-- RADVP (R224): at issue + 7. -/
def execRadvp (h : BitVec 4) (n : BitVec 9) (s : State) : Host.Outcome State Fault Refusal :=
  issue (.radvp h n) s (fun s => s.later 7 .st (.ring h true n))

/-- RADVC (R224): at issue + 7. -/
def execRadvc (h : BitVec 4) (n : BitVec 9) (s : State) : Host.Outcome State Fault Refusal :=
  issue (.radvc h n) s (fun s => s.later 7 .st (.ring h false n))

/-- ENQ (R226): the packet is read at issue + 6; ga is busy until the queue answers. -/
def execEnq (a b : BitVec 6) (s : State) : Host.Outcome State Fault Refusal :=
  issue (.enq a b) s (fun s =>
    let h := s.cx.rg a
    let va := (s.cx.rg b).toNat
    let s := if a = 0 then s else s.setBusy (.g a) s.seq
    s.later 6 .st (.enqRead a va h))

/-- DEQ (R227): the status at issue + 8, or behind what holds it back. -/
def execDeq (a b : BitVec 6) (s : State) : Host.Outcome State Fault Refusal :=
  issue (.deq a b) s (fun s =>
    let h := s.cx.rg a
    let va := s.cx.rg b
    if s.ungated then s.later 8 .at (.deq a h (vaultOffset va))
    else
      let m := s.message s.me s.res .at 0 va [⟨.mem (vaultKey s.me (vaultOffset va)), 64, .rc, true, 0, 0⟩] (.deq h) .none
      s.sendInto (s.heldMsg 8 m) (.g a) 0)

/-- QWAIT (R227): the wait is a stall at issue. -/
def execQwait (a : BitVec 6) (k : BitVec 5) (s : State) : Host.Outcome State Fault Refusal :=
  issue (.qwait a k) s (fun s => s)

/-- STBIND (R228): bound from issue on, its descriptor read at issue + 6. -/
def execStbind (a : BitVec 6) (w : BitVec 1) (n : BitVec 3) (s : State) : Host.Outcome State Fault Refusal :=
  issue (.stbind a w n) s (fun s =>
    let va := s.cx.rg a
    let t : Stream :=
      { Stream.none with id := s.seq, reg := 24 + n.toNat, write := w = 1, addr := va, bound := true }
    (s.modCx (fun x => x.setStream (24 + n.toNat) t)).later 6 .ld (.streamDesc n (vaultOffset va)))

/-- A stream unbound (R230): fetched data is discarded, issued writes still move. -/
def State.unbind (s : State) (n : Nat) : State :=
  let t := s.cx.stream n
  if !t.bound then s
  else
    let s := if !t.write && t.read then s.unfetch n else s
    s.modCx (fun x =>
      let x := x.setStream n Stream.none
      if t.write && t.moved < t.taken then { x with drains := x.drains ++ [t] } else x)

/-- STUNB (R230). -/
def execStunb (n : BitVec 3) (s : State) : Host.Outcome State Fault Refusal :=
  issue (.stunb n) s (fun s => s.unbind (24 + n.toNat))

/-- PENN (R231). -/
def execPenn (a b : BitVec 6) (sc : BitVec 3) (s : State) : Host.Outcome State Fault Refusal :=
  issue (.penn a b sc) s (fun s => s.withAcc (.penn a b sc) (fun t => s.release8 t sc (s.cx.rg b)))

end Sys2Proof.Machine
end

