-- ==== Sys2Proof/Machine/Preempt.lean ====
section
/-!
DEFINITION. Pre-emption (R328 to R335, R410, R411): the request and its refusals, the steps of a SAVE, the image, and a
RESTORE.
-/

namespace Sys2Proof.Machine

/-! ### The request (R328, Tables 18.2 and 18.3) -/

/-- The code of a pre-emption state (Table 18.3). -/
def PreSt.code : PreSt → BitVec 8
  | .idle => 0
  | .pending => 1
  | .saving => 2
  | .saved => 3
  | .restoring => 4
  | .resumed => 5
  | .refused => 6

/-- The status word of a core. -/
def Core.preStatus (k : Core) : Word := (0 : BitVec 40) ++ k.preCause ++ (0 : BitVec 8) ++ k.preSt.code

/-- Bytes of a save image (R332). -/
def areaBytes : Nat := 655360

/-- The parts of a save area under the page tables of its context. -/
def State.areaParts (s : State) (c : Nat) (res : BitVec 1) (area : Word) (off len : Nat) (acc : Acc) :
    Except XFault (List (Part × Xlat)) :=
  s.parts c (s.ctx c res) (area + BitVec.ofNat 64 off) len acc

/-- Whether a whole area is mapped RW in HBM or CXL. -/
def State.areaOk (s : State) (c : Nat) (res : BitVec 1) (area : Word) : Bool :=
  match s.areaParts c res area 0 areaBytes .load, s.areaParts c res area 0 areaBytes .store with
  | .ok ps, .ok _ => ps.all (fun p => match p.1.place with
    | .mem k => decide (k < 0x200000000000)
    | .aperture _ _ => false)
  | _, _ => false

/-- The bytes of a save area as they stand. -/
def State.areaNow (s : State) (c : Nat) (res : BitVec 1) (area : Word) : List Byte :=
  match s.areaParts c res area 0 areaBytes .load with
  | .ok ps => ps.flatMap (fun p => s.through p.1.key p.1.len)
  | .error _ => []

/-- Why a request is refused, if it is: reserved fields first, then the context, then the area. DEDUCED, log 45. -/
def State.preRefusal (s : State) (c : Nat) (w : Word) : Option (BitVec 8) :=
  let x := s.ctx c (w.extractLsb' 3 1)
  let act := w.toNat % 8
  if w.toNat / 16 % 256 ≠ 0 ∨ 2 < act then some 4
  else if act = 1 ∧ (!x.owned ∨ x.saved) then some 1
  else if act = 2 ∧ !x.savedOk then some 2
  else if !s.areaOk c (w.extractLsb' 3 1) (w &&& 0xFFFFFFFFFFFFF000) then some 3
  else none

/-- The energy word of an image installed (R410). -/
def Ctx.setEnergy (x : Ctx) (w : Word) : Ctx := { x with energy := w.setWidth 48, esat := w.getLsbD 48 }

/-- The nonzero bytes of a list, by index. -/
def sparse (bs : List Byte) : List Host.Cell := (bs.zipIdx.filter (fun p => p.1 != 0)).map (fun p => (p.2, p.1))

/-- A request committed (R328). -/
def State.preRequest (s : State) (c : Nat) (w : Word) : State :=
  let k := s.core c
  let res := w.extractLsb' 3 1
  let area := w &&& 0xFFFFFFFFFFFFF000
  if k.preSt = .pending ∨ k.preSt = .saving ∨ k.preSt = .restoring then s.cfgError (s.partOf c)
  else if w.toNat % 8 = 0 then s
  else
    match s.preRefusal c w with
    | some e => s.modCore c (fun k => { k with preSt := .refused, preCause := e })
    | none =>
      if w.toNat % 8 = 1 then
        s.modCore c (fun k => { k with preSt := .pending, preCause := 0, preArea := area, preRes := res })
      else
        let old := s.areaNow c res area
        let s := s.modCore c (fun k =>
          { k with preSt := .restoring, preCause := 0, preArea := area, preRes := res, preOld := sparse old })
        s.modCtx c res (fun x => { x.setEnergy (BitVec.ofNat 64 (leNat ((old.drop 0x560).take 8))) with saved := false })

/-! ### Setting aside the copies (R330) -/

/-- An entry taken from a channel: position and command. -/
abbrev Taken := Nat × Nat × Bool × CopyCmd

/-- Whether a command is a copy of a residency. -/
def CopyCmd.isCopy (m : CopyCmd) (res : BitVec 1) : Bool := m.kind = 0 && m.res == res

/-- The waiting copies of a residency on a channel, with CURSOR 0, and its suspended one; a running one is stopped. -/
def Chan.setAside (q : Chan) (ch : Nat) (res : BitVec 1) : Chan × List Taken :=
  let base := if q.cur.isSome then 1 else 0
  let wait := (q.queue.zipIdx.filter (fun p => p.1.isCopy res)).map (fun p =>
    ((ch, base + p.2, false, { p.1 with cursor0 := 0 }) : Taken))
  let q := { q with queue := q.queue.filter (fun m => !m.isCopy res) }
  match q.cur with
  | some m =>
    if !m.isCopy res then (q, wait)
    else if q.st = .suspended then
      ({ q with cur := none, st := .idle, fault := none, ahead := [], out := [], pat := [] },
       (ch, 0, true, { m with cursor0 := q.cursor }) :: wait)
    else if q.st = .active then ({ q with st := .cancelling }, wait)
    else (q, wait)
  | none => (q, wait)

/-- A running copy that has stopped for the save. -/
def Chan.takeStopped (q : Chan) (c ch : Nat) (res : BitVec 1) : Chan × List Taken :=
  match q.cur with
  | some m =>
    if m.isCopy res && q.cancel.isEmpty && q.stoppedAt c then
      ({ q with cur := none, st := .idle, fault := none, ahead := [], out := [], pat := [] }, [(ch, 0, false, { m with cursor0 := q.cursor })])
    else (q, [])
  | none => (q, [])

/-- A step over the four channels that takes commands. -/
def Core.takeCopies (k : Core) (f : Chan → Nat → Chan × List Taken) : Core :=
  (List.range 4).foldl (fun k ch =>
    match Table.find k.chans ch with
    | none => k
    | some q =>
      let (q', l) := f q ch
      { k.setChan ch q' with preCmds := k.preCmds ++ l }) k

/-- Whether no command of a residency is left on the channels. -/
def Core.copiesDone (k : Core) (res : BitVec 1) : Bool :=
  k.chans.all (fun p => (p.2.cur.toList ++ p.2.queue).all (fun m => m.res != res))

/-- The order of the entries: channel, then position. -/
def insertTaken (e : Taken) : List Taken → List Taken
  | [] => [e]
  | f :: t => if e.1 < f.1 || (e.1 = f.1 && e.2.1 < f.2.1) then e :: f :: t else f :: insertTaken e t

/-- The entries of a residency in order. -/
def Core.takenOf (k : Core) (res : BitVec 1) : List Taken :=
  (k.preCmds.filter (fun e => e.2.2.2.res == res)).foldl (fun l e => insertTaken e l) []

/-! ### Streams, rings, hoists (R331) -/

/-- Whether R331 zeroes the count of a hoist: its slot action feeds a ring with a FILLING slot. -/
def State.zeroes (s : State) (x : Ctx) (h : Hoist) : Bool :=
  h.installed && !h.err && h.action = 1 && s.filling x (h.aop % 16) && decide (0 < s.hoistValue h)

/-- Whether a committed chunk of an entry wrote a byte of a hoist's range. -/
def State.countedToward (s : State) (c : Nat) (m : CopyCmd) (h : Hoist) : Bool :=
  let q := { Chan.fresh with cur := some m }
  (List.range m.cursor0.toNat).any (fun n =>
    match s.pieceParts c (s.ctx c m.res) .store (Chan.dests (q.chunkPieces n)) with
    | .ok l => l.any (fun p => decide (0 < overlap p.1.key p.1.len h.home h.length))
    | .error _ => false)

/-- One stream: what was fetched is given up; the data of a write stream moves on by itself. -/
def State.asideStream (s : State) (c : Nat) (res : BitVec 1) (n : Nat) : State :=
  let t := (s.ctx c res).stream n
  if !t.bound then s
  else if !t.write then (if t.read then s.unfetchAt c res n else s)
  else
    s.modCtx c res (fun x =>
      let put := t.taken - x.inFlight n
      let d := if t.moved < put then [{ t with taken := put }] else []
      { x.setStream n { t with data := [], moved := put, taken := put } with drains := x.drains ++ d })

/-- Step 4 of a SAVE: streams, rings and hoists, and the CURSOR of copies that count anew. A hoist stays recorded as armed
until the image is composed. -/
def State.setAside (s : State) (c : Nat) (res : BitVec 1) : State :=
  let x := s.ctx c res
  let zero := (x.hoists.map (fun p => p.2)).filter (s.zeroes x)
  let again := fun (m : CopyCmd) => m.res == res && zero.any (s.countedToward c m)
  let s := s.modCore c (fun k => { k with preCmds := k.preCmds.map (fun e =>
    if again e.2.2.2 then (e.1, e.2.1, e.2.2.1, { e.2.2.2 with cursor0 := 0 }) else e) })
  let s := (x.hoists.filter (fun p => s.zeroes x p.2)).foldl (fun s p =>
    let s := if p.2.contig then s.clearW p.2.home p.2.length else s
    s.modCtx c res (fun x => x.setHoist p.1 { p.2 with count := 0 })) s
  (List.range 8).foldl (fun s n => s.asideStream c res (24 + n)) s

/-! ### The image (R332 to R334) -/

/-- The tag code of a tile (Table 18.5). -/
def Tag.code : Tag → Nat
  | .f => 0
  | .i => 1
  | .x => 2

/-- A number whose bits are those of a list of flags, the first lowest. -/
def flagBits (l : List Bool) : Nat := l.foldr (fun b a => (if b then 1 else 0) + 2 * a) 0

/-- The state that the image gives a record: a bracket record whose segment runs has no task running, and goes on later. -/
def Ctx.imageState (x : Ctx) (i : Nat) (r : Rec) : Nat :=
  if x.seg0 = some i ∧ x.running ≠ some i then 3 else r.st.code

/-- The address at which issue resumes (R333, R359). -/
def Ctx.resumeAt (x : Ctx) : Word :=
  if x.halted then x.tret
  else
    match x.recAt x.current with
    | some r => if r.st = .suspended then BitVec.ofNat 64 (r.entry false) else x.pc
    | none => x.pc

/-- Whether a record was SUSPENDED at the save, or RUNNING in a halted context. -/
def Ctx.curv (x : Ctx) : Bool :=
  match x.recAt x.current with
  | some r => r.st = .suspended || (x.halted && decide (x.running = some x.current))
  | none => false

/-- The level of an image: of a halted context that of its first trap (R359). -/
def Ctx.saveLevel (x : Ctx) : BitVec 2 := if x.halted then x.tcause.extractLsb' 16 2 else x.lvl

/-- Whether a general or a vector register is abandoned. -/
def Ctx.abanG (x : Ctx) (n : Nat) : Bool := x.abandoned.contains (.g (BitVec.ofNat 6 n))
def Ctx.abanV (x : Ctx) (n : Nat) : Bool := x.abandoned.contains (.v (BitVec.ofNat 5 n))

/-- The header (Table 18.5). -/
def Ctx.header (x : Ctx) (c : Nat) : Nat :=
  x.resumeAt.toNat + 2 ^ 64 * (x.lbeg.toNat % 2 ^ 32) + 2 ^ 96 * (x.lend.toNat % 2 ^ 32) + 2 ^ 128 * x.lcnt.toNat +
    2 ^ 192 * flagBits [x.lact] + 2 ^ 194 * x.saveLevel.toNat + 2 ^ 208 * x.fenceNo.toNat +
    (if x.curv then 2 ^ 224 * (x.current % 4096) + 2 ^ 236 else 0) +
    2 ^ 240 * ((List.range 8).map (fun t => (x.tagOf t).code * 4 ^ t)).sum + 2 ^ 256 * min 160 x.shadow.length +
    2 ^ 272 * flagBits ((List.range 64).map x.abanG) + 2 ^ 336 * flagBits ((List.range 32).map x.abanV) +
    2 ^ 384 * x.cursor.toNat + 2 ^ 396 * flagBits [x.incomplete] + 2 ^ 432 * c

/-- The file code and the register number of a shadow entry (R334). -/
def Reg.fileCode : Reg → Nat × Nat
  | .g n => (0, n.toNat)
  | .v n => (1, n.toNat)
  | .m n => (2, n.toNat)
  | .sys n => (3, n.toNat % 256)

/-- Insertion by distance, issue order within one. -/
def insertShadow (w : RegWrite) : List RegWrite → List RegWrite
  | [] => [w]
  | v :: t => if w.due < v.due || (w.due = v.due && w.seq < v.seq) then w :: v :: t else v :: insertShadow w t

/-- What a register of a core holds. -/
def State.regValue (s : State) (c : Nat) (res : BitVec 1) (r : Reg) : BitVec 4096 :=
  let x := s.ctx c res
  match r with
  | .g n => (x.rg n).setWidth 4096
  | .v n => x.rv0 n
  | .m n => (x.rm n).setWidth 4096
  | .sys n => (s.readSys c res n).setWidth 4096

/-- The shadow entries as 576 bytes each; an entry holds the whole register as it leaves it. DEDUCED, log 46. -/
def State.shadowBytes (s : State) (c : Nat) (res : BitVec 1) : List RegWrite → List Byte
  | [] => []
  | w :: t =>
    let k := (s.core c).performWrite res w
    let s' := s.setCore c k
    let f := w.reg.fileCode
    let head := f.1 + 256 * f.2 + 65536 * (w.due % 256) + 16777216 * (w.issued % 256) + 2 ^ 32 * (w.slot % 8) +
      2 ^ 35 * w.flags.toNat + 2 ^ 40 * flagBits [w.toMx]
    numBytes 64 head ++ numBytes 512 (s'.regValue c res w.reg).toNat ++ s'.shadowBytes c res t

/-- A block of bytes cut or filled with zeros to a length. -/
def padTo (n : Nat) (bs : List Byte) : List Byte := (bs ++ List.replicate n 0).take n

/-- A restartable command entry (R332). -/
def takenBytes (e : Taken) : List Byte :=
  let m := e.2.2.2
  let latched := match m.sat with
    | some b => 2 + flagBits [b]
    | none => 0
  padTo 64 ([BitVec.ofNat 8 (e.1 % 4 + 4 + 8 * flagBits [e.2.2.1]), m.tidx.setWidth 8, m.mode.setWidth 8,
    BitVec.ofNat 8 e.2.1] ++ numBytes 4 m.cursor0.toNat ++ wordBytes m.disp ++ [BitVec.ofNat 8 latched])

/-- A stream entry (Table 18.4). -/
def Stream.bytes (t : Stream) : List Byte :=
  if t.bound then
    padTo 128 (numBytes 64 t.desc.toNat ++ numBytes 8 t.moved ++ [BitVec.ofNat 8 (flagBits [t.bound, t.write])])
  else List.replicate 128 0

/-- The dynamic state of a record (R333). DEDUCED, log 46. -/
def Ctx.dynBytes (x : Ctx) (i : Nat) (r : Rec) : List Byte :=
  padTo 32 (numBytes 4 r.n.toNat ++ [BitVec.ofNat 8 (x.imageState i r), BitVec.ofNat 8 (flagBits [r.epi, r.covf, r.iovf])] ++
    numBytes 2 r.credits.toNat ++ (List.range 4).flatMap (fun j => numBytes 4 (Table.get (0 : BitVec 32) r.used j).toNat))

/-- The image (R332, Table 18.4), the `$energy` word included as it stands. -/
def State.image (s : State) (c : Nat) (res : BitVec 1) : List Byte :=
  let x := s.ctx c res
  let sys := (List.range 0x180).flatMap (fun n =>
    let r := BitVec.ofNat 9 n
    wordBytes (if sysAssigned r then s.readSys c res r else 0))
  let shadow := (x.shadow.foldl (fun l w => insertShadow w l) []).take 160
  padTo areaBytes (numBytes 256 (x.header c) ++
    (List.range 64).flatMap (fun n => wordBytes (x.rg (BitVec.ofNat 6 n))) ++
    (List.range 8).flatMap (fun n => numBytes 64 (x.rm (BitVec.ofNat 3 n)).toNat) ++ sys ++
    (List.range 16).flatMap (fun h => numBytes 64 (s.ringRecord x h).toNat) ++
    (List.range 32).flatMap (fun k => numBytes 64 (s.hoistRecord (x.hoist k)).toNat) ++
    (List.range 8).flatMap (fun n => (x.stream (24 + n)).bytes) ++
    (List.range 4).flatMap (fun n => numBytes 192 (Table.get (0 : BitVec 1536) x.gcfg n).toNat) ++
    padTo 1280 (((s.core c).takenOf res).flatMap takenBytes) ++ numBytes 2048 x.contactImage ++
    (List.range 8).flatMap (fun q => padTo 576 (x.poly q).image) ++
    (List.range 64).flatMap (fun n => numBytes 64 (Table.get (0 : BitVec 512) x.tmpl n).toNat) ++
    (List.range 32).flatMap (fun n => numBytes 512 (x.rv0 (BitVec.ofNat 5 n)).toNat) ++
    padTo 92160 (s.shadowBytes c res shadow) ++
    (List.range 8).flatMap (fun t => numBytes 16384 (x.tile1 t).toNat) ++
    padTo 131072 (x.recs.zipIdx.flatMap (fun p => x.dynBytes p.2 p.1)) ++
    padTo 262144 (x.recs.flatMap (fun r => numBytes 64 r.bits.toNat)))

/-! ### A SAVE (R329) -/

/-- Whether a context is at no KNEXT or END now: its record runs, or its handler does. DEDUCED, log 45. -/
def Core.issuing (k : Core) (res : BitVec 1) : Bool :=
  let x := k.ctx res
  !x.halted && (x.running.isSome || (k.holder == res && !k.idle && x.act))

/-- A counted write of the save unit, and its number when it translates. -/
def State.areaStore (s : State) (c : Nat) (res : BitVec 1) (off : Nat) (bs : List Byte) : State × List Nat :=
  let area := (s.core c).preArea
  match s.areaParts c res area off bs.length .store with
  | .error _ => (s, [])
  | .ok ps =>
    let m := s.message c res .st 4 (area + BitVec.ofNat 64 off) (ps.map (fun p => p.1)) (.write bs) .none
    (s.send { m with host := true, after := [], det := false }, [s.seq])

/-- A SAVE that takes effect in a context that is not issuing: the core passes on from a holder. -/
def State.saveAtOnce (s : State) (c : Nat) (res : BitVec 1) : State :=
  let now := s.now c
  let k := s.core c
  let s := s.modCore c (fun k => { k with preSt := .saving, prePhase := 0, preCount := now })
  if k.holder != res || k.idle || k.switchWait then s
  else if s.hasWork c (res ^^^ 1) then s.switchTo c res now now
  else s.coreIdle c

/-- The loads of a context that are still outstanding given up (R103, R329). -/
def Ctx.abandonAll (x : Ctx) : Ctx :=
  let regs := (x.busy.map (fun b => b.1)).filter (fun r => match r with
    | .q _ => false
    | _ => true)
  { x with busy := [], abandoned := (x.abandoned ++ regs).eraseDups }

/-- One cycle of a SAVE under way, by its step. Writes that the handler of a halted context issued perform; its shadow stays
that of the first trap (R359). DEDUCED, log 46. -/
def State.saveTick (s : State) (c : Nat) (res : BitVec 1) : State :=
  let now := s.now c
  let k := s.core c
  let x := k.ctx res
  let phase := fun (s : State) (n : BitVec 4) => s.modCore c (fun k => { k with prePhase := n, preCount := 0 })
  match k.prePhase.toNat with
  | 0 =>
    if now < k.preCount then s
    else
      let s := if x.halted then s else s.shadow c res k.preCount
      phase (s.modCore c (fun k => k.takeCopies (fun q ch => q.setAside ch res))) 1
  | 1 =>
    let s := s.modCore c (fun k => k.takeCopies (fun q ch => q.takeStopped c ch res))
    if (s.core c).copiesDone res then phase s 2 else s
  | 2 =>
    let busy := k.mq.any (fun m => m.res == res) || k.ct.any (fun m => m.res == res) || k.small.any (fun m => m.res == res) ||
      k.timed.any (fun t => t.res == res) || x.qbusy.any (fun p => now < p.2) || (x.halted && !x.writes.isEmpty)
    if busy then s else phase s 3
  | 3 =>
    if x.busy.isEmpty then phase s 4
    else if k.preCount < 16777216 then s.modCore c (fun k => { k with preCount := k.preCount + 1 })
    else phase (s.modCtx c res Ctx.abandonAll) 4
  | 4 =>
    let s := s.setAside c res
    let img := s.image c res
    let s := s.modCtx c res (fun x => { x with hoists := x.hoists.map (fun p => (p.1, { p.2 with armed := false })) })
    let (s, a) := s.areaStore c res 0 (img.take 0x560)
    let (s, b) := s.areaStore c res 0x568 (img.drop 0x568)
    (phase s 5).modCore c (fun k => { k with preOut := a ++ b })
  | 5 =>
    if k.preOut.any (s.outstanding c) then s
    else
      let (s, a) := s.areaStore c res 0x560 (wordBytes x.energyWord)
      let s := s.modCtx c res (fun x => { x with saved := true, savedOk := false })
      (phase s 6).modCore c (fun k => { k with preOut := [], preEnergy := a.head? })
  | _ => s

/-- The pre-emption unit of a core in one cycle. DEDUCED, log 43. -/
def State.preTick (s : State) (c : Nat) : State :=
  let k := s.core c
  match k.preSt with
  | .pending => if k.issuing k.preRes then s else (s.saveAtOnce c k.preRes).saveTick c k.preRes
  | .saving => s.saveTick c k.preRes
  | _ => s

/-- SAVE_COMPLETE (R329): the energy word has performed. -/
def State.saveComplete (s : State) (c : Nat) : State :=
  let k := s.core c
  if k.preSt ≠ .saving ∨ k.prePhase ≠ 6 ∨ k.preEnergy.any (s.outstanding c) then s
  else
    (s.modCore c (fun k => { k with preSt := .saved, preEnergy := none })).modCtx c k.preRes (fun x => { x with savedOk := true })

/-! ### A RESTORE (R335) -/

/-- The bytes of an image: each aligned word as it stood at the commit, or as it stands now where it has changed since.
DEDUCED, log 47. -/
def State.readImage (s : State) (c : Nat) : List Byte :=
  let k := s.core c
  let new := s.areaNow c k.preRes k.preArea
  (List.range (areaBytes / 8)).flatMap (fun i =>
    let old := Memory.bytes k.preOld (8 * i) 8
    let now := padTo 8 ((new.drop (8 * i)).take 8)
    if old != now && Config.torn (s.free + i) then now else old)

/-- A field of the image, in bytes. -/
def imgNum (img : List Byte) (off n : Nat) : Nat := leNat ((img.drop off).take n)

/-- Whether a header is valid: reserved fields zero, SHN at most 160, no tag of code 3. -/
def headerOk (h : Nat) : Bool :=
  let f := fun (lo len : Nat) => h / 2 ^ lo % 2 ^ len
  let resv := [(193, 1), (196, 12), (237, 3), (264, 8), (368, 16), (397, 35), (448, 1600)]
  resv.all (fun p => decide (f p.1 p.2 = 0)) && decide (f 256 8 ≤ 160) &&
    (List.range 8).all (fun t => decide (f (240 + 2 * t) 2 ≠ 3))

/-- The registers of an image. -/
def Ctx.loadRegs (x : Ctx) (img : List Byte) : Ctx :=
  let tab := fun {α : Type} (n : Nat) (f : Nat → α) => ((List.range n).map (fun i => (i, f i)) : Table α)
  { x with
    g := tab 64 (fun i => BitVec.ofNat 64 (imgNum img (0x100 + 8 * i) 8))
    m := tab 8 (fun i => BitVec.ofNat 512 (imgNum img (0x300 + 64 * i) 64))
    v := tab 32 (fun i => BitVec.ofNat 4096 (imgNum img (0x5300 + 512 * i) 512))
    acc := tab 8 (fun i => BitVec.ofNat 131072 (imgNum img (0x1FB00 + 16384 * i) 16384))
    q := tab 8 (fun i => Poly.ofImage ((img.drop (0x3100 + 576 * i)).take 520))
    tmpl := tab 64 (fun i => BitVec.ofNat 512 (imgNum img (0x4300 + 64 * i) 64))
    gcfg := tab 4 (fun i => BitVec.ofNat 1536 (imgNum img (0x2100 + 192 * i) 192))
    upsets := [] }

/-- The system registers of an image that belong to the context; `$energy` came first (R410). Of `$lid` the context keeps the
queue that its 12 bits leave out. DEDUCED, log 47. -/
def Ctx.loadSys (x : Ctx) (img : List Byte) : Ctx :=
  let w := fun (n : Nat) => BitVec.ofNat 64 (imgNum img (0x500 + 8 * n) 8)
  let own := fun (n : Nat) => sysAssigned (BitVec.ofNat 9 n) && decide (n ≠ 0x00C)
  let x := ((List.range 0x180).filter own).foldl (fun x n => x.setSys (BitVec.ofNat 9 n) (w n)) x
  { x with
    tile := w 7, bracket := w 8, dmem := (w 9).setWidth 5, d0 := (w 0xE).setWidth 32, d1 := (w 0xE).extractLsb' 32 32
    lid := (x.lid &&& ~~~(0xFFF : Word)) ||| (w 0x110 &&& 0xFFF) }

/-- Level, loop, fence number, tags, abandoned registers, cursor and period schedule of a header. -/
def Ctx.loadHeader (x : Ctx) (h : Nat) : Ctx :=
  let f := fun (lo len : Nat) => h / 2 ^ lo % 2 ^ len
  let bit := fun (n : Nat) => decide (h / 2 ^ n % 2 = 1)
  { x with
    pc := BitVec.ofNat 64 (f 0 64), lbeg := BitVec.ofNat 64 (f 64 32), lend := BitVec.ofNat 64 (f 96 32)
    lcnt := BitVec.ofNat 64 (f 128 64), lact := bit 192, lvl := heldLevel (BitVec.ofNat 2 (f 194 2)), fenceNo := BitVec.ofNat 16 (f 208 16)
    tag := (List.range 8).map (fun t => (t, match f (240 + 2 * t) 2 with
      | 0 => Tag.f
      | 1 => Tag.i
      | _ => Tag.x))
    abandoned := ((List.range 64).filter (fun n => bit (272 + n))).map (fun n => BusyReg.g (BitVec.ofNat 6 n)) ++
      ((List.range 32).filter (fun n => bit (336 + n))).map (fun n => BusyReg.v (BitVec.ofNat 5 n))
    cursor := BitVec.ofNat 12 (f 384 12), pact := bit 396, busy := [], qbusy := [], halted := false, stall := none, idle := none
    heldRun := false, span := none }

/-- The shadow of an image (R334), numbered in its order from a sequence number on. -/
def loadShadow (img : List Byte) (n seq : Nat) : List RegWrite :=
  (List.range n).map (fun i =>
    let at_ := 0x9300 + 576 * i
    let w := imgNum img at_ 8
    let num := w / 256 % 256
    let reg : Reg := match w % 256 with
      | 0 => .g (BitVec.ofNat 6 num)
      | 1 => .v (BitVec.ofNat 5 num)
      | 2 => .m (BitVec.ofNat 3 num)
      | _ => .sys (BitVec.ofNat 9 num)
    ⟨reg, BitVec.ofNat 4096 (imgNum img (at_ + 64) 512), BitVec.allOnes 4096, BitVec.ofNat 5 (w / 2 ^ 35), w / 2 ^ 40 % 2 = 1,
      w / 65536 % 256, seq + i, w / 2 ^ 32 % 8, w / 16777216 % 256⟩)

/-- A record of an image; its number of effects stays. -/
def loadRec (img : List Byte) (i : Nat) (seg : Bool) (r : Rec) : Rec :=
  let at_ := 0x3FB00 + 32 * i
  let fl := imgNum img (at_ + 5) 1
  { r with
    bits := BitVec.ofNat 512 (imgNum img (0x5FB00 + 64 * i) 64)
    n := BitVec.ofNat 32 (imgNum img at_ 4)
    st := match imgNum img (at_ + 4) 1 with
      | 1 => .ready
      | 2 => .running
      | 3 => if seg then .running else .suspended
      | 4 => .skipped
      | 5 => .done
      | _ => .waiting
    epi := fl % 2 = 1, covf := fl / 2 % 2 = 1, iovf := fl / 4 % 2 = 1
    credits := BitVec.ofNat 16 (imgNum img (at_ + 6) 2)
    used := (List.range 4).map (fun j => (j, BitVec.ofNat 32 (imgNum img (at_ + 8 + 4 * j) 4))) }

/-- Whether record CURR of an image is RUNNING: a bracket record whose segment runs is not. -/
def runsNow (recs : List Rec) (h cur : Nat) (seg : Option Nat) : Bool :=
  match recs[cur]? with
  | some r => decide (h / 2 ^ 236 % 2 = 1) && decide (r.st = .running) && decide (seg ≠ some cur)
  | none => false

/-- The records of an image, and what runs. -/
def Ctx.loadRecs (x : Ctx) (img : List Byte) : Ctx :=
  let h := imgNum img 0 256
  let cur := h / 2 ^ 224 % 4096
  let recs := x.recs.zipIdx.map (fun p => loadRec img p.2 (x.seg0 = some p.2) p.1)
  let runs := runsNow recs h cur x.seg0
  let x := { x with recs := recs }
  if h / 2 ^ 236 % 2 = 0 then { x with running := none, resume := none }
  else if runs then
    { x with running := some cur, current := cur, resume := none, tcause := x.tcause &&& 0xBFFFF }
  else { x with running := none, current := cur, resume := some (cur, x.pc) }

/-- The rings of an image; the slot actions that wait stay. -/
def Ctx.loadRings (x : Ctx) (img : List Byte) : Ctx :=
  (List.range 16).foldl (fun x k =>
    let v := imgNum img (0x1100 + 64 * k) 64
    let g := x.ring k
    x.setRing k { g with
      base := BitVec.ofNat 64 v, slots := BitVec.ofNat 16 (v / 2 ^ 64), slotsize := BitVec.ofNat 24 (v / 2 ^ 80)
      p := BitVec.ofNat 9 (v / 2 ^ 104), q := BitVec.ofNat 9 (v / 2 ^ 113), conf := v / 2 ^ 129 % 2 = 1 }) x

/-- A hoist of an image, armed again with its count; of a CONTIG hoist the W tags are set to give it. -/
def State.loadHoist (s : State) (c : Nat) (res : BitVec 1) (img : List Byte) (k : Nat) : State :=
  let v := imgNum img (0x1500 + 64 * k) 64
  let h := (s.ctx c res).hoist k
  if !h.installed && decide (v = 0) then s
  else
    let d := BitVec.ofNat 320 v
    let home := s.hoistHome c (s.ctx c res) d
    let err := v / 2 ^ 392 % 2 = 1 || home.isNone
    let armed := v / 2 ^ 393 % 2 = 1 && !err
    let count := BitVec.ofNat 40 (v / 2 ^ 320)
    let h' : Hoist := { h with
      installed := decide (v ≠ 0), desc := d, home := home.getD 0, err := err, armed := armed, count := count
      reach := BitVec.ofNat 32 (v / 2 ^ 360) }
    let s := if armed && h'.contig then (s.clearW h'.home h'.length).markW h'.home count.toNat else s
    s.modCtx c res (fun x => x.setHoist k h')

/-- A stream of an image rebound; writes of its register that wait in the shadow have still to enter it. -/
def State.loadStream (s : State) (c : Nat) (res : BitVec 1) (img : List Byte) (n : Nat) : State :=
  let at_ := 0x1D00 + 128 * n
  let b := imgNum img (at_ + 72) 1
  if b % 2 = 0 then s.modCtx c res (fun x => x.setStream (24 + n) Stream.none)
  else
    let moved := imgNum img (at_ + 64) 8
    let old := (s.ctx c res).stream (24 + n)
    let wr := decide (b / 2 % 2 = 1)
    let pend := if wr then (s.ctx c res).inFlight (24 + n) else 0
    let t : Stream := { Stream.none with
      id := if old.bound then old.id else s.seq, reg := 24 + n, write := wr, addr := old.addr, read := true, bound := true
      desc := BitVec.ofNat 512 (imgNum img at_ 64), moved := moved, taken := moved + pend
      pos := if old.bound then old.pos else (s.regOf c).readable.1 * 65536 }
    (s.modCtx c res (fun x => x.setStream (24 + n) t)).tick1

/-- A restartable command back on its channel. The number it had is kept, so that what waits for it still does. -/
def State.loadCmd (s : State) (c : Nat) (res : BitVec 1) (e : List Byte) (old : Option CopyCmd) : State :=
  let f := imgNum e
  let latched := f 16 1
  let m : CopyCmd :=
    { kind := 0, res := res, seq := (old.map (fun m => m.seq)).getD s.seq
      pc := (old.map (fun m => m.pc)).getD (BitVec.allOnes 64), slot := (old.map (fun m => m.slot)).getD 0
      issue := s.now c, tidx := BitVec.ofNat 6 (f 1 1), mode := BitVec.ofNat 2 (f 2 1), disp := BitVec.ofNat 64 (f 8 8)
      aperture := (old.map (fun m => m.aperture)).getD false
      sat := if latched / 2 % 2 = 1 then some (decide (latched % 2 = 1)) else none
      tmpl := none, kvDesc := 0, kvPath := 0, after := [], gates := [], cursor0 := BitVec.ofNat 32 (f 4 4)
      kvBuf := [], kvShift := 0 }
  (s.modChan c (f 0 1 % 4) (fun q => { q with queue := q.queue ++ [m] })).tick1

/-- The commands of an image, in the order of their queue positions. -/
def State.loadCmds (s : State) (c : Nat) (res : BitVec 1) (img : List Byte) : State :=
  let olds := (s.core c).takenOf res
  let es := (List.range 20).map (fun k => ((img.drop (0x2400 + 64 * k)).take 64, (olds[k]?).map (fun e => e.2.2.2)))
  let es := es.filter (fun e => decide (imgNum e.1 0 1 / 4 % 2 = 1))
  let s := s.modCore c (fun k => { k with preCmds := k.preCmds.filter (fun e => e.2.2.2.res != res) })
  (List.range 256).foldl (fun s p =>
    (es.filter (fun e => decide (imgNum e.1 3 1 = p))).foldl (fun s e => s.loadCmd c res e.1 e.2) s) s

/-- A whole image taken into a context. DEDUCED, log 47. -/
def State.takeImage (s : State) (c : Nat) (res : BitVec 1) (img : List Byte) : State :=
  let h := imgNum img 0 256
  let n := h / 2 ^ 256 % 256
  let s := s.modCtx c res (fun x =>
    let x := ((((x.loadRegs img).loadSys img).loadHeader h).loadRings img).loadRecs img
    let x := x.loadContact c (BitVec.ofNat 16384 (imgNum img 0x2900 2048))
    { x with shadow := loadShadow img n s.seq, writes := [] })
  let s := { s with seq := s.seq + n }
  let s := (List.range 32).foldl (fun s k => s.loadHoist c res img k) s
  let s := (List.range 8).foldl (fun s k => s.loadStream c res img k) s
  s.loadCmds c res img

/-- RESTORE_COMPLETE (R335): the image is read and checked, and taken. DEDUCED, log 47. -/
def State.restoreComplete (s : State) (c : Nat) : State :=
  let k := s.core c
  let res := k.preRes
  if k.preSt ≠ .restoring then s
  else
    let img := s.readImage c
    let h := imgNum img 0 256
    let s := { s with free := s.free + areaBytes / 8 }
    let refuse := fun (e : BitVec 8) =>
      (s.modCore c (fun k => { k with preSt := .refused, preCause := e, preOld := [] })).modCtx c res
        (fun x => { x with saved := true })
    if h / 2 ^ 432 % 65536 ≠ c then refuse 6
    else if !headerOk h then refuse 7
    else
      ((s.takeImage c res img).modCore c (fun k => { k with preSt := .resumed, preOld := [] })).modCtx c res
        (fun x => { x with saved := false, savedOk := false })

/-! ### Events -/

/-- PREEMPT_SAVE (R329): a request of action SAVE commits. -/
def execPreemptSave (core : BitVec 10) (word : BitVec 64) (s : State) : Host.Outcome State Fault Refusal :=
  .next (if word.toNat % 8 = 1 then s.preRequest core.toNat word else s)

/-- SAVE_COMPLETE (R329). -/
def execSaveComplete (core : BitVec 10) (s : State) : Host.Outcome State Fault Refusal := .next (s.saveComplete core.toNat)

/-- PREEMPT_RESTORE (R335): a request of action RESTORE commits. -/
def execPreemptRestore (core : BitVec 10) (word : BitVec 64) (s : State) : Host.Outcome State Fault Refusal :=
  .next (if word.toNat % 8 = 2 then s.preRequest core.toNat word else s)

/-- RESTORE_COMPLETE (R335). -/
def execRestoreComplete (core : BitVec 10) (s : State) : Host.Outcome State Fault Refusal := .next (s.restoreComplete core.toNat)

end Sys2Proof.Machine
end

