-- ==== Sys2Proof/Machine/Bar.lean ====
section
/-!
DEFINITION. What the host configures through BAR0 (R349, R350, R369, R373 to R375, R380, R381, R398, R399, R404): the
commits of the entries with their refusals, the staging of their words, the constant store, and the BAR4 window.
-/

namespace Sys2Proof.Machine

/-! ### Idle clusters and regions (R350, R373, R374) -/

/-- Whether a hoist is armed that a context of a core holds or that watches its vault. -/
def State.armedIn (s : State) (c : Nat) : Bool :=
  s.cores.any (fun p => [p.2.a, p.2.b].any (fun x =>
    x.hoists.any (fun h => h.2.installed && h.2.armed && (p.1 = c || decide ((vaultOf h.2.home).map (fun v => v.1) = some c)))))

/-- Whether a cluster is idle: no launch, nothing SAVED, no armed hoist. -/
def State.clusterIdle (s : State) (k : Nat) : Bool :=
  (List.range 8).all (fun i =>
    let c := 8 * k + i
    let o := s.core c
    !o.a.owned && !o.b.owned && !o.a.saved && !o.b.saved && !s.armedIn c)

/-- Whether every cluster of a region is idle. -/
def State.regionIdle (s : State) (r : Nat) : Bool :=
  (List.range 96).all (fun k => decide (s.regionOfCluster k ≠ some r) || s.clusterIdle k)

/-- `$part` of the cores of a cluster follows the partition of their region (R350). DEDUCED, log 58. -/
def State.partTurn (s : State) (k : Nat) : State :=
  let p := BitVec.ofNat 3 (((s.regionOfCluster k).bind s.partOfRegion).getD 0)
  (List.range 8).foldl (fun s i => s.modCore (8 * k + i) (fun o => { o with part := p })) s

/-! ### Partition entries (Table 19.7) -/

/-- The fields of a partition entry; its status stays. -/
def Partition.written (q : Partition) (w : BitVec 512) : Partition :=
  { q with
    en := w.getLsbD 0, regions := w.extractLsb' 32 32, cross := w.extractLsb' 64 64, hbmg := w.extractLsb' 128 96
    cxlp := w.extractLsb' 224 4, hostw := w.extractLsb' 256 64, tag := w.extractLsb' 320 64, lroot := w.extractLsb' 384 64 }

/-- The 64 bytes of a partition entry. -/
def Partition.bits (q : Partition) : BitVec 512 :=
  (0 : BitVec 64) ++ q.lroot ++ q.tag ++ q.hostw ++ (0 : BitVec 28) ++ q.cxlp ++ q.hbmg ++ q.cross ++ q.regions ++
    (0 : BitVec 31) ++ b1 q.en

/-- Whether two entries give something to both. -/
def Partition.meets (a b : Partition) : Bool :=
  a.regions &&& b.regions != 0 || a.cross &&& b.cross != 0 || a.hbmg &&& b.hbmg != 0 || a.cxlp &&& b.cxlp != 0 ||
    a.hostw &&& b.hostw != 0

/-- A partition entry committed (R349, R350). DEDUCED, log 50. -/
def State.partitionCommit (s : State) (p : Nat) (w : BitVec 512) : State :=
  let q := s.partition p
  let n := q.written w
  let clear := w.extractLsb' 1 31 == 0 && w.extractLsb' 228 28 == 0 && w.extractLsb' 448 64 == 0
  let apart := !n.en || s.partitions.all (fun o => decide (o.1 = p) || !o.2.en || !o.2.meets n)
  let named := (List.range 32).filter (fun r => (q.regions ||| n.regions).getLsbD r)
  if n = q then s
  else if !clear || !apart || !named.all s.regionIdle then s.cfgError none
  else
    let s := { s with partitions := Table.set s.partitions p n }
    ((List.range 96).filter (fun k => (s.regionOfCluster k).any named.contains)).foldl (fun s k => s.partTurn k) s

/-- The two words of a partition status entry and a half (Table 23.2). -/
def Partition.statusWord (q : Partition) (k : Nat) : Word :=
  match k with
  | 0 => q.dblTrap ++ q.cfgErr
  | 1 => q.refused ++ q.scrubErr
  | 2 => q.lostPen.setWidth 64
  | _ => 0

/-! ### Cluster entries (Table 21.6) -/

/-- A cluster entry committed (R373). A core that joins a region gets the launch queue handle kept for it (R317).
DEDUCED, log 50. -/
def State.clusterCommit (s : State) (k : Nat) (w : Word) : State :=
  let old := Table.get (0 : BitVec 6) s.clusters k
  let new := w.setWidth 6
  let regs := ([old, new].filter (fun e => e.getLsbD 5)).map (fun e => e.toNat % 32)
  if w.toNat < 64 ∧ new = old then s
  else if 64 ≤ w.toNat ∨ !s.clusterIdle k ∨ !regs.all (fun r => s.regionIdle r && !(s.region r).en) then s.cfgError none
  else
    let s := ({ s with clusters := Table.set s.clusters k new }).partTurn k
    let lq := if new.getLsbD 5 then Table.find s.lqKept (new.toNat % 32) else none
    match lq with
    | some h => (List.range 8).foldl (fun s i => s.modCore (8 * k + i) (fun o => { o with lq := h })) s
    | none => s

/-! ### Source entries (Table 21.1) -/

/-- The 16 bytes of a source entry. -/
def Region.entry (g : Region) : BitVec 128 :=
  g.c ++ g.s ++ (0 : BitVec 62) ++ g.policy ++ b1 g.boost ++ g.rail ++ (0 : BitVec 5) ++ b1 g.en ++ g.sel

/-- A source entry committed (R374). DEDUCED, log 50. -/
def State.sourceCommit (s : State) (r : Nat) (w : BitVec 128) : State :=
  let g := s.region r
  let sel := w.extractLsb' 0 9
  let en := w.getLsbD 9
  let rail := w.extractLsb' 15 1
  let boost := w.getLsbD 16
  let policy := w.extractLsb' 17 1
  let n := w.extractLsb' 80 16
  let c := w.extractLsb' 96 32
  let refuse := s.cfgError (s.partOfRegion r)
  if w.extractLsb' 10 5 ≠ 0 ∨ w.extractLsb' 18 62 ≠ 0 then refuse
  else if g.en then
    if sel ≠ g.sel ∨ rail ≠ g.rail ∨ boost ≠ g.boost ∨ n ≠ g.s ∨ c ≠ g.c then refuse
    else if en then s.setRegion r { g with policy := policy }
    else if !s.regionIdle r then refuse
    else
      s.setRegion r { g with
        en := false, policy := policy, st := .off, stop := false, good := 0, miss := 0, anchor := none, slow := false
        boosted := false, outDue := false, mbox := none, move := false, start := false, drain := false, elastic := [], ins := [], lastIn := none, outs := [] }
  else if !en then s.setRegion r { g with sel := sel, rail := rail, boost := boost, policy := policy, s := n, c := c }
  else
    match s.fsrc sel with
    | none => refuse
    | some f =>
      if !lockOk sel c n rail boost f ∨ (s.coresOf r).isEmpty then refuse
      else
        s.setRegion r { g with
          sel := sel, en := true, rail := rail, boost := boost, boosted := boost && s.grant, policy := policy, s := n, c := c
          st := .locking, stop := false, good := 0, miss := 0, anchor := none, freq := f.1 * 1000 / f.2
          cycle := 0, period := 0, gap := 0, slip := 0, into := 0, samp := 0, missN := 0, ovr := 0, slow := false
          mbox := none, move := false, ceil := 0, undr := 0, stale := false, slowev := false, stopev := false, fastev := false
          start := false, drain := false, elastic := [], ins := [], lastIn := none, outs := [], lastOut := 0
          outDue := false }

/-- The words of a region status entry (Table 21.7). -/
def Region.statusWord (g : Region) (hi : Bool) : Word :=
  if hi then g.rstat else g.undr ++ (0 : BitVec 44) ++ b1 g.stale ++ b1 g.slowev ++ b1 g.stopev ++ b1 g.fastev

/-- Word 0 of a region status entry written (R380). -/
def State.statusClear (s : State) (r : Nat) (w : Word) : State :=
  s.modRegion r (fun g =>
    { g with
      fastev := g.fastev && !w.getLsbD 0, stopev := g.stopev && !w.getLsbD 1, slowev := g.slowev && !w.getLsbD 2 })

/-! ### Rate entries (Table 21.2) -/

/-- The 16 bytes of a rate entry. -/
def Rate.entry (e : Rate) : BitVec 128 :=
  e.num ++ e.den ++ (0 : BitVec 14) ++ e.fill ++ e.stream ++ (0 : BitVec 30) ++ e.link ++ b1 e.en

/-- A rate entry committed (R375). DEDUCED, log 50. -/
def State.rateCommit (s : State) (sel : Nat) (w : BitVec 128) : State :=
  let e := Table.get Rate.fresh s.rates sel
  let n : Rate := ⟨w.getLsbD 0, w.extractLsb' 1 1, w.extractLsb' 32 32, w.extractLsb' 64 2, w.extractLsb' 80 16, w.extractLsb' 96 32⟩
  let user := (s.regions.find? (fun p => p.2.en && decide (p.2.sel.toNat = sel))).bind (fun p => s.partOfRegion p.1)
  if w.extractLsb' 2 30 ≠ 0 ∨ w.extractLsb' 66 14 ≠ 0 ∨ n.fill = 3 ∨ (n.en ∧ (n.num = 0 ∨ n.den = 0)) ∨ (s.lockedTo sel ∧ n ≠ e)
  then s.cfgError user
  else { s with rates := Table.set s.rates sel n }

/-! ### Crossing entries (Table 21.5) -/

/-- The fields of a crossing entry. -/
def Crossing.written (x : Crossing) (w : BitVec 128) : Crossing :=
  { x with
    en := w.getLsbD 0, cons := w.extractLsb' 42 5, prod := w.extractLsb' 47 5, nch := w.extractLsb' 52 6
    policy := w.extractLsb' 58 2, phm := w.extractLsb' 60 6, table := w.extractLsb' 66 14, b := w.extractLsb' 80 24
    a := w.extractLsb' 104 24 }

/-- The 16 bytes of a crossing entry. -/
def Crossing.entry (x : Crossing) : BitVec 128 :=
  x.a ++ x.b ++ x.table ++ x.phm ++ x.policy ++ x.nch ++ x.prod ++ x.cons ++ (0 : BitVec 41) ++ b1 x.en

/-- Whether some end of a unit is bound. -/
def Crossing.bound (x : Crossing) : Bool := x.chans.any (fun c => c.2.boundP.isSome || c.2.boundC.isSome)

/-- Whether the ratio of a unit is that of the nominal frequencies of its regions. -/
def State.ratioOk (s : State) (x : Crossing) : Bool :=
  let p := s.region x.prod.toNat
  let c := s.region x.cons.toNat
  p.en && c.en &&
    (match s.fsrc p.sel, s.fsrc c.sel with
     | some fp, some fc => decide (x.a.toNat * (fc.1 * fp.2) = x.b.toNat * (fp.1 * fc.2))
     | _, _ => false)

/-- Whether a unit may be configured as written (R381). -/
def State.crossingOk (s : State) (u : Nat) (x : Crossing) : Bool :=
  x.a != 0 && x.b != 0 && Nat.gcd x.a.toNat x.b.toNat = 1 && s.ratioOk x && x.prod != x.cons &&
    s.partitions.any (fun p => p.2.en && p.2.cross.getLsbD u && p.2.regions.getLsbD x.prod.toNat &&
      p.2.regions.getLsbD x.cons.toNat) &&
    decide (x.table.toNat < 15296) && x.policy != 3

/-- A crossing entry committed (R381). DEDUCED, log 50. -/
def State.crossingCommit (s : State) (u : Nat) (w : BitVec 128) : State :=
  let x := s.crossing u
  let n := x.written w
  let refuse := s.cfgError (s.findPart (fun p => p.cross.getLsbD u))
  if w.extractLsb' 1 41 ≠ 0 then refuse
  else if x.en then
    if { n with en := true } ≠ x then refuse
    else if n.en then s
    else if x.bound then refuse
    else s.setCrossing u { n with chans := [] }
  else if n.en then
    if x.bound ∨ !s.crossingOk u n then refuse else s.setCrossing u { n with chans := [] }
  else s.setCrossing u { n with chans := [] }

/-! ### Replica entries (Table 20.8) -/

/-- The code of a replica state. -/
def RepSt.code : RepSt → BitVec 4
  | .idle => 0
  | .waiting => 1
  | .matched => 2
  | .mismatch => 3

/-- The 16 bytes of a replica entry. -/
def Replica.entry (e : Replica) : BitVec 128 :=
  e.limit ++ e.group ++ (0 : BitVec 13) ++ e.peer ++ (0 : BitVec 24) ++ e.st.code ++ (0 : BitVec 3) ++ b1 e.en

/-- A replica entry committed, with its action (R369, R372). -/
def State.replicaCommit (s : State) (p : Nat) (w : BitVec 128) : State :=
  let act := w.extractLsb' 1 2
  if act = 3 then s.cfgError (if (s.partition p).en then some p else none)
  else
    let s := s.modReplica p (fun e =>
      { e with en := w.getLsbD 0, peer := w.extractLsb' 32 19, group := w.extractLsb' 64 32, limit := w.extractLsb' 96 32 })
    if act = 1 then s.replicaRelease p else if act = 2 then s.replicaDiscard p else s

/-! ### The constant store (R108) -/

/-- A word of the constant store written; refused inside a table that a bound crossing uses. -/
def State.constWrite (s : State) (off : Nat) (v : Word) : State :=
  let inUse := fun (x : Crossing) =>
    x.en && x.bound && decide (0 < overlap off 8 (0x10000 + 1024 * x.table.toNat) 1024)
  match s.crossings.find? (fun p => inUse p.2) with
  | some p => s.cfgError (s.findPart (fun q => q.cross.getLsbD p.1))
  | none => s.putRaw (constKey off) (wordBytes v)

/-! ### Staging (R399) -/

/-- The word of an entry as staged, or as committed. -/
def State.stagedWord (s : State) (off : Nat) (old : Word) : Word := Table.get old s.barStaged off

/-- The staged words of an entry of some bytes dropped, its commit done. -/
def State.unstage (s : State) (off bytes : Nat) : State :=
  { s with barStaged := s.barStaged.filter (fun p => decide (p.1 < off) || decide (off + bytes ≤ p.1)) }

/-- The whole entry at an offset as its commit takes it: the first word written, the others staged or as they are. -/
def State.gather (s : State) (off : Nat) {n : Nat} (old : BitVec n) (w : Word) : BitVec n :=
  BitVec.ofNat n (w.toNat + ((List.range (n / 64 - 1)).map (fun i =>
    (s.stagedWord (off + 8 * (i + 1)) (old.extractLsb' (64 * (i + 1)) 64)).toNat * 2 ^ (64 * (i + 1)))).sum)

/-- A word staged. -/
def State.stage (s : State) (off : Nat) (v : Word) : State := { s with barStaged := Table.set s.barStaged off v }

/-! ### The commits by entry -/

/-- Offsets of the entries (Table 23.2). -/
def offPartition (p : Nat) : Nat := 0x2000 + 64 * p
def offReplica (p : Nat) : Nat := 0x2400 + 16 * p
def offLoader (p : Nat) : Nat := 0x2800 + 32 * p
def offSource (r : Nat) : Nat := 0x3000 + 16 * r
def offStatus (r : Nat) : Nat := 0x3200 + 16 * r
def offRate (k : Nat) : Nat := 0x4000 + 16 * k
def offCluster (k : Nat) : Nat := 0x5800 + 8 * k
def offCrossing (u : Nat) : Nat := 0x6000 + 16 * u
def offPreempt (c : Nat) : Nat := 0x8000 + 16 * c
def offAperture (c : Nat) : Nat := 0x100000 + 4096 * c
def offQueue (q : Nat) : Nat := 0x400000 + 32 * q

/-- The first word of a partition entry written. -/
def State.commitPartition (s : State) (p : Nat) (w : Word) : State :=
  (s.partitionCommit p (s.gather (offPartition p) (s.partition p).bits w)).unstage (offPartition p) 64

def State.commitReplica (s : State) (p : Nat) (w : Word) : State :=
  (s.replicaCommit p (s.gather (offReplica p) (s.replica p).entry w)).unstage (offReplica p) 16

def State.commitLoader (s : State) (p : Nat) (w : Word) : State :=
  let e := s.loader p
  let k := fun (i : Nat) => s.stagedWord (offLoader p + 8 * i) (e.word i)
  (s.loaderCommit p w (k 1) (k 2) (k 3)).unstage (offLoader p) 32

def State.commitSource (s : State) (r : Nat) (w : Word) : State :=
  (s.sourceCommit r (s.gather (offSource r) (s.region r).entry w)).unstage (offSource r) 16

def State.commitRate (s : State) (k : Nat) (w : Word) : State :=
  (s.rateCommit k (s.gather (offRate k) (Table.get Rate.fresh s.rates k).entry w)).unstage (offRate k) 16

def State.commitCrossing (s : State) (u : Nat) (w : Word) : State :=
  (s.crossingCommit u (s.gather (offCrossing u) (s.crossing u).entry w)).unstage (offCrossing u) 16

def State.commitQueue (s : State) (q : Nat) (w : Word) : State :=
  ((s.queueCommit q (s.gather (offQueue q) ((s.queue q).entry true) w)).unstage (offQueue q) 32).windowsTurn

/-! ### Starting firmware (R406, R407) -/

/-- A posted write of the device to host memory, performed at once. DEDUCED, log 51. -/
def State.hostPost (s : State) (addr v : Word) : State := if addr = 0 then s else s.putRaw (hostKey addr.toNat) (wordBytes v)

/-- Bring-up failed, with its pennant (Table 23.8). -/
def State.bootFail (s : State) (cause : BitVec 8) : State :=
  ({ s with boot := .failed, bootCause := cause }).hostPost s.readyAddr ((0xFF : BitVec 8) ++ cause.setWidth 56)

/-- The staged firmware image. -/
def State.firmware (s : State) (len : Nat) : List Byte :=
  ((List.range ((len + 7) / 8)).flatMap (fun i => wordBytes (Table.get 0 s.fwImage i))).take len

/-- FIRMWARE_START (R406): START outside FIRMWARE is discarded; the image is checked. DEDUCED, log 51. -/
def State.firmwareStart (s : State) (w : Word) : State :=
  if s.boot ≠ .firmware ∨ !w.getLsbD 32 then s
  else
    let len := w.toNat % 4294967296
    let img := s.firmware len
    let s := { s with fwLen := w.setWidth 32 }
    if len < 4 ∨ 16777216 < len ∨ crc32 (img.take (len - 4)) ≠ rd img (len - 4) 4 then s.bootFail 1
    else { s with boot := .training }

/-! ### Writes (R398, R399) -/

/-- A write to the device block (Table 23.3). -/
def State.deviceWrite (s : State) (off : Nat) (v : Word) : State :=
  match off with
  | 0x010 => s.firmwareStart v
  | 0x018 => { s with readyAddr := v }
  | 0x020 => if s.boot = .ready then s else { s with devId := v.setWidth 19 }
  | 0x030 => { s with wbase := v.setWidth 31 }
  | 0x038 => { s with offset := v }
  | _ => s

/-- An aligned 8-byte write to an entry below the constant store, in READY. -/
def State.entryWrite (s : State) (off : Nat) (v : Word) : State :=
  let at_ := fun (base size n : Nat) => decide (base ≤ off) && decide (off < base + size * n)
  let k := fun (base size : Nat) => (off - base) / size
  let first := fun (base size : Nat) => (off - base) % size = 0
  if off = 0x1000 then (s.powerCommit v).unstage 0x1000 16
  else if at_ 0x2000 64 8 then
    if first 0x2000 64 then s.commitPartition (k 0x2000 64) v else s.stage off v
  else if at_ 0x2400 16 8 then
    if first 0x2400 16 then s.commitReplica (k 0x2400 16) v else s.stage off v
  else if at_ 0x2800 32 8 then
    if first 0x2800 32 then s.commitLoader (k 0x2800 32) v else s.stage off v
  else if at_ 0x3000 16 32 then
    if first 0x3000 16 then s.commitSource (k 0x3000 16) v else s.stage off v
  else if at_ 0x3200 16 32 then
    if first 0x3200 16 then s.statusClear (k 0x3200 16) v else s
  else if at_ 0x4000 16 260 then
    if first 0x4000 16 then s.commitRate (k 0x4000 16) v else s.stage off v
  else if at_ 0x5800 8 96 then s.clusterCommit (k 0x5800 8) v
  else if at_ 0x6000 16 64 then
    if first 0x6000 16 then s.commitCrossing (k 0x6000 16) v else s.stage off v
  else if at_ 0x8000 16 768 then
    if first 0x8000 16 then s.preRequest (k 0x8000 16) v else s
  else if at_ 0x100000 4096 768 then s.apertureArrival (k 0x100000 4096) ((off - 0x100000) % 4096) v
  else if at_ 0x400000 32 6144 then
    if first 0x400000 32 then s.commitQueue (k 0x400000 32) v else s.stage off v
  else s

/-- An 8-byte host write through BAR0. Below READY only the device block and the firmware window take writes (R406, R407). -/
def State.bar0Write (s : State) (off : Nat) (v : Word) : State :=
  if off % 8 ≠ 0 then s
  else if off < 0x1000 then s.deviceWrite off v
  else if 0x2000000 ≤ off then
    if s.boot = .firmware ∧ off < 0x3000000 then { s with fwImage := Table.set s.fwImage ((off - 0x2000000) / 8) v } else s
  else if s.boot ≠ .ready then s
  else if 0x1000000 ≤ off then s.constWrite (off - 0x1000000) v
  else s.entryWrite off v

/-! ### Reads (R398, R399, Tables 23.2 and 23.3) -/

/-- A word of an entry of n bits. -/
def entryWord {n : Nat} (e : BitVec n) (k : Nat) : Word := e.extractLsb' (64 * k) 64

/-- The code of a bring-up state (Table 23.8). -/
def Boot.code : Boot → BitVec 8
  | .reset => 0
  | .firmware => 1
  | .training => 2
  | .tags => 3
  | .selftest => 4
  | .locking => 5
  | .ready => 6
  | .failed => 7

/-- A word of the device block; the revision, which the spec leaves open, reads 0. DEDUCED, log 51. -/
def State.deviceRead (s : State) (off : Nat) : Word :=
  match off with
  | 0x000 => 0x9768
  | 0x008 => (0 : BitVec 48) ++ s.bootCause ++ s.boot.code
  | 0x018 => s.readyAddr
  | 0x020 => s.devId.setWidth 64
  | 0x028 => s.cfgErr.setWidth 64
  | 0x030 => s.wbase.setWidth 64
  | 0x038 => s.offset
  | _ =>
    if 0x040 ≤ off ∧ off < 0x060 then (Table.get (0 : BitVec 43) s.cxlCap ((off - 0x040) / 8)).setWidth 64
    else BitVec.allOnes 64

/-- A word of an entry below the constant store. -/
def State.entryRead (s : State) (off : Nat) : Word :=
  let at_ := fun (base size n : Nat) => decide (base ≤ off) && decide (off < base + size * n)
  let k := fun (base size : Nat) => (off - base) / size
  let w := fun (base size : Nat) => (off - base) % size / 8
  if off = 0x1000 then s.powerWord false
  else if off = 0x1008 then s.powerWord true
  else if at_ 0x2000 64 8 then entryWord (s.partition (k 0x2000 64)).bits (w 0x2000 64)
  else if at_ 0x2200 64 8 then (s.partition (k 0x2200 64)).statusWord (w 0x2200 64)
  else if at_ 0x2400 16 8 then entryWord (s.replica (k 0x2400 16)).entry (w 0x2400 16)
  else if at_ 0x2800 32 8 then (s.loader (k 0x2800 32)).word (w 0x2800 32)
  else if at_ 0x3000 16 32 then entryWord (s.region (k 0x3000 16)).entry (w 0x3000 16)
  else if at_ 0x3200 16 32 then (s.region (k 0x3200 16)).statusWord (w 0x3200 16 = 1)
  else if at_ 0x4000 16 260 then entryWord (Table.get Rate.fresh s.rates (k 0x4000 16)).entry (w 0x4000 16)
  else if at_ 0x5800 8 96 then (Table.get (0 : BitVec 6) s.clusters (k 0x5800 8)).setWidth 64
  else if at_ 0x6000 16 64 then entryWord (s.crossing (k 0x6000 16)).entry (w 0x6000 16)
  else if at_ 0x8000 16 768 then (if w 0x8000 16 = 1 then (s.core (k 0x8000 16)).preStatus else 0)
  else if at_ 0x400000 32 6144 then entryWord ((s.queue (k 0x400000 32)).entry true) (w 0x400000 32)
  else BitVec.allOnes 64

/-- An 8-byte host read through BAR0. -/
def State.bar0Read (s : State) (off : Nat) : Word :=
  if off % 8 ≠ 0 then BitVec.allOnes 64
  else if off < 0x1000 then s.deviceRead off
  else if 0x2000000 ≤ off ∧ off < 0x3000000 then Table.get 0 s.fwImage ((off - 0x2000000) / 8)
  else if s.boot ≠ .ready then BitVec.allOnes 64
  else if 0x1000000 ≤ off ∧ off < 0x2000000 then BitVec.ofNat 64 (Memory.num s.mem (constKey (off - 0x1000000)) 8)
  else s.entryRead off

/-! ### BAR4 (R398) -/

/-- The device physical address of an offset in BAR4, when it names memory. -/
def State.bar4Pa (s : State) (off : Nat) : Option Nat :=
  let pa := s.wbase.toNat * 1073741824 + off
  let cxl := decide (0x100000000000 ≤ pa) && decide (pa < 0x200000000000) &&
    decide (pa % 4398046511104 < (Table.get (0 : BitVec 43) s.cxlCap (pa / 4398046511104 % 4)).toNat)
  if s.boot = .ready ∧ !inDirectory pa ∧ !s.lostPa pa ∧ (pa < 96 * 8589934592 ∨ cxl) then some pa else none

/-- A host write through BAR4, counted by HBM hoists as any write there. DEDUCED, log 21. -/
def State.bar4Write (s : State) (off : Nat) (bs : List Byte) : State :=
  match s.bar4Pa off with
  | some pa => if bs = [] then s else s.put (paKey pa) bs
  | none => s

/-- What a host read of n bytes through BAR4 gives: the stored bytes, or all ones where the offset names no memory (R398, R406).
DEDUCED, log 21. -/
def State.bar4Read (s : State) (off n : Nat) : List Byte :=
  match s.bar4Pa off with
  | some pa => s.through (paKey pa) n
  | none => List.replicate n 0xFF

/-! ### Events -/

/-- PARTITION_ENTRY_COMMIT (R349). -/
def execPartitionEntryCommit (p : BitVec 3) (word : BitVec 64) (s : State) : Host.Outcome State Fault Refusal :=
  .next (s.ready (fun s => s.commitPartition p.toNat word))

/-- CLUSTER_ENTRY_COMMIT (R373). -/
def execClusterEntryCommit (k : BitVec 7) (word : BitVec 64) (s : State) : Host.Outcome State Fault Refusal :=
  .next (s.ready (fun s => if k.toNat < 96 then s.clusterCommit k.toNat word else s))

/-- SOURCE_ENABLE (R374): a commit that sets EN. -/
def execSourceEnable (region : BitVec 5) (word : BitVec 64) (s : State) : Host.Outcome State Fault Refusal :=
  .next (s.ready (fun s =>
    if !(s.region region.toNat).en && word.getLsbD 9 then s.commitSource region.toNat word else s))

/-- SOURCE_DISABLE (R374): a commit that clears EN. -/
def execSourceDisable (region : BitVec 5) (word : BitVec 64) (s : State) : Host.Outcome State Fault Refusal :=
  .next (s.ready (fun s =>
    if (s.region region.toNat).en && !word.getLsbD 9 then s.commitSource region.toNat word else s))

/-- RATE_ENTRY_COMMIT (R375). -/
def execRateEntryCommit (source : BitVec 9) (word : BitVec 64) (s : State) : Host.Outcome State Fault Refusal :=
  .next (s.ready (fun s => if source.toNat < 260 then s.commitRate source.toNat word else s))

/-- CROSSING_ENABLE (R381): a commit that sets EN. -/
def execCrossingEnable (u : BitVec 6) (word : BitVec 64) (s : State) : Host.Outcome State Fault Refusal :=
  .next (s.ready (fun s => if !(s.crossing u.toNat).en && word.getLsbD 0 then s.commitCrossing u.toNat word else s))

/-- CROSSING_DISABLE (R381): a commit that clears EN. -/
def execCrossingDisable (u : BitVec 6) (word : BitVec 64) (s : State) : Host.Outcome State Fault Refusal :=
  .next (s.ready (fun s => if (s.crossing u.toNat).en && !word.getLsbD 0 then s.commitCrossing u.toNat word else s))

/-- REGION_STATUS_CLEAR (R380). -/
def execRegionStatusClear (region : BitVec 5) (word : BitVec 64) (s : State) : Host.Outcome State Fault Refusal :=
  .next (s.ready (fun s => s.statusClear region.toNat word))

/-- LOADER_LOAD (R405): a commit with ACTION LOAD. -/
def execLoaderLoad (p : BitVec 3) (word : BitVec 64) (s : State) : Host.Outcome State Fault Refusal :=
  .next (s.ready (fun s => if word.toNat % 4 = 1 then s.commitLoader p.toNat word else s))

/-- LOADER_UNLOAD (R405): a commit with ACTION UNLOAD. -/
def execLoaderUnload (p : BitVec 3) (word : BitVec 64) (s : State) : Host.Outcome State Fault Refusal :=
  .next (s.ready (fun s => if word.toNat % 4 = 2 then s.commitLoader p.toNat word else s))

/-- LOAD_DONE (R405). -/
def execLoadDone (p : BitVec 3) (s : State) : Host.Outcome State Fault Refusal := .next (s.loadDone p.toNat)

/-- QUEUE_ENABLE (R307): a commit that sets EN. -/
def execQueueEnable (q : BitVec 13) (word : BitVec 64) (s : State) : Host.Outcome State Fault Refusal :=
  .next (s.ready (fun s =>
    if q.toNat < 6144 && !(s.queue q.toNat).en && word.getLsbD 0 then s.commitQueue q.toNat word else s))

/-- QUEUE_DISABLE (R307): a commit that clears EN. -/
def execQueueDisable (q : BitVec 13) (word : BitVec 64) (s : State) : Host.Outcome State Fault Refusal :=
  .next (s.ready (fun s =>
    if q.toNat < 6144 && (s.queue q.toNat).en && !word.getLsbD 0 then s.commitQueue q.toNat word else s))

/-- QUEUE_SWAP_OUT (R307): a commit that sets SWAP. -/
def execQueueSwapOut (q : BitVec 13) (word : BitVec 64) (s : State) : Host.Outcome State Fault Refusal :=
  .next (s.ready (fun s =>
    if q.toNat < 6144 && (s.queue q.toNat).en && !(s.queue q.toNat).swap && word.getLsbD 6 then s.commitQueue q.toNat word else s))

/-- QUEUE_SWAP_IN (R307): a commit that clears SWAP. -/
def execQueueSwapIn (q : BitVec 13) (word : BitVec 64) (s : State) : Host.Outcome State Fault Refusal :=
  .next (s.ready (fun s =>
    if q.toNat < 6144 && (s.queue q.toNat).en && (s.queue q.toNat).swap && !word.getLsbD 6 then s.commitQueue q.toNat word else s))

/-- QUEUE_GENERATION_CHANGE (R307): a commit that changes GEN. -/
def execQueueGenerationChange (q : BitVec 13) (word : BitVec 64) (s : State) : Host.Outcome State Fault Refusal :=
  .next (s.ready (fun s =>
    if q.toNat < 6144 && (s.queue q.toNat).en && (s.queue q.toNat).gen != word.extractLsb' 8 12 then s.commitQueue q.toNat word
    else s))

/-- CONSTANT_STORE_WRITE (R108). -/
def execConstantStoreWrite (off : BitVec 24) (value : BitVec 64) (s : State) : Host.Outcome State Fault Refusal :=
  .next (s.ready (fun s => if off.toNat % 8 = 0 then s.constWrite off.toNat value else s))

/-- BAR4_ACCESS (R398): a write; a read, with no data, changes nothing. -/
def execBar4Access (off : BitVec 40) (data : List Byte) (s : State) : Host.Outcome State Fault Refusal :=
  .next (s.bar4Write off.toNat data)

/-- FIRMWARE_START (R406). -/
def execFirmwareStart (word : BitVec 64) (s : State) : Host.Outcome State Fault Refusal := .next (s.firmwareStart word)

/-- REGISTER_WRITE (R399). -/
def execRegisterWrite (off : BitVec 26) (value : BitVec 64) (s : State) : Host.Outcome State Fault Refusal :=
  .next (s.bar0Write off.toNat value)

end Sys2Proof.Machine
end

