-- ==== Sys2Proof/Machine/Boot.lean ====
section
/-!
DEFINITION. Bring-up, reset and the failures of the package (R317, R368, R400, R401, R406 to R408): the steps of Table
23.8, what PERST# and a loss of power keep, the loss of an expander, a port or an HBM stack, and scrubbing.
-/

namespace Sys2Proof.Machine

/-! ### Reset (R407, R408) -/

/-- The device after the loss of every state but the memory that a wipe keeps: the bring-up state RESET. The model's own
fields go on. -/
def State.lost (s : State) (w : Wipe) : State :=
  { State.reset with
    mem := s.mem, wipe := w, ecc := s.ecc.filter (fun e => w.keeps e.1)
    inputs := s.inputs, turn := s.turn, seq := s.seq, free := s.free }

/-- PERST# asserted or released. -/
def State.perst (s : State) (asserted : Bool) : State :=
  if asserted then s.lost .package
  else if s.boot = .reset then { s with boot := .firmware } else s

/-! ### The steps of bring-up (Table 23.8) -/

/-- The installed capacity of a port as firmware reports it (R400). -/
def installed (c : BitVec 43) : BitVec 43 := BitVec.ofNat 43 (min 4398046511104 (c.toNat / 1073741824 * 1073741824))

/-- TRAINING ends: an HBM stack that failed is fatal; a port that failed reports no capacity. -/
def State.trainingDone (s : State) (trained : BitVec 12) (cxl : List (BitVec 43)) : State :=
  if s.boot ≠ .training then s
  else if trained ≠ BitVec.allOnes 12 then s.bootFail 2
  else { s with boot := .tags, cxlCap := (List.range 4).map (fun p => (p, installed (cxl.getD p 0))) }

/-- TAGS ends: the vaults are zero and their granule tags clear (R104). -/
def State.tagsDone (s : State) : State :=
  if s.boot ≠ .tags then s
  else
    { s with
      boot := .selftest, gtags := [], wipe := .vaults
      ecc := s.ecc.filter (fun e => Wipe.vaults.keeps e.1) }

/-- SELFTEST ends. -/
def State.selftestDone (s : State) (pass : Bool) : State :=
  if s.boot ≠ .selftest then s else if pass then { s with boot := .locking } else s.bootFail 3

/-- The Hadamard matrices that firmware writes to the constant store (Table 5.4). -/
def State.writeSigns (s : State) : State :=
  [16, 32, 64].foldl (fun s n => s.putRaw (constKey (hadOff n)) (numBytes (n * n / 8) (hadSigns n))) s

/-- LOCKING ends: `$wall` starts, firmware writes the constant store and brings the queues back (R317), and the ready pennant is
written. -/
def State.lockingDone (s : State) (pass : Bool) : State :=
  if s.boot ≠ .locking then s
  else if !pass then s.bootFail 4
  else
    let s := { s with wall := 0 }.writeSigns.restoreQueues
    ({ s with boot := .ready }).hostPost s.readyAddr (0x0100000000000000 + s.devId.setWidth 64)

/-! ### Failures while running -/

/-- An expander behind a port lost with its range (R400). DEDUCED, log 18. -/
def State.cxlLoss (s : State) (port : BitVec 2) (lo : BitVec 42) (hi : BitVec 43) : State :=
  let base := 0x100000000000 + port.toNat * 4398046511104
  { s with cxlLost := s.cxlLost ++ [(base + lo.toNat, base + hi.toNat)] }

/-- A GXL port failed: its traffic goes over another, and each access still performs once (R401). DEDUCED, log 18. -/
def State.gxlFailure (s : State) (port : BitVec 6) : State :=
  if port.toNat < 36 then { s with gxlDown := s.gxlDown ||| BitVec.ofNat 36 (2 ^ port.toNat) } else s

/-- An HBM stack failed (R318). DEDUCED, log 18. -/
def State.stackFailure (s : State) (k : BitVec 4) : State :=
  if k.toNat < 12 then { s with failedStacks := s.failedStacks ||| BitVec.ofNat 12 (2 ^ k.toNat) } else s

/-- One vault word scrubbed (R368): a single-bit error is mended unless another write of the cycle touches its granule, a
double-bit one counts in the status of the partition. -/
def State.scrub (s : State) (c word : Nat) : State :=
  let key := vaultKey c (8 * word)
  match s.ecc.find? (fun e => e.1 = key) with
  | none => s
  | some (_, true) =>
    match s.partOf c with
    | some p => s.modPartition p (fun q => { q with scrubErr := q.scrubErr + 1 })
    | none => s
  | some (_, false) =>
    if s.wlog.any (fun w => decide (0 < overlap w.key w.bytes.length (key / 64 * 64) 64)) then s
    else { s with ecc := s.ecc.filter (fun e => e.1 ≠ key) }

/-! ### Events -/

/-- PERST (R407). -/
def execPerst (asserted : Bool) (s : State) : Host.Outcome State Fault Refusal := .next (s.perst asserted)

/-- POWER_LOSS (R408): HBM is lost with the rest. -/
def execPowerLoss (s : State) : Host.Outcome State Fault Refusal := .next (s.lost .supplies)

/-- TRAINING_DONE (R406). -/
def execTrainingDone (trained : BitVec 12) (cxl : List (BitVec 43)) (s : State) : Host.Outcome State Fault Refusal :=
  .next (s.trainingDone trained cxl)

/-- TAGS_DONE (R406). -/
def execTagsDone (s : State) : Host.Outcome State Fault Refusal := .next s.tagsDone

/-- SELFTEST_DONE (R406). -/
def execSelftestDone (pass : Bool) (s : State) : Host.Outcome State Fault Refusal := .next (s.selftestDone pass)

/-- LOCKING_DONE (R406). -/
def execLockingDone (pass : Bool) (s : State) : Host.Outcome State Fault Refusal := .next (s.lockingDone pass)

/-- CXL_EXPANDER_LOSS (R400). -/
def execCxlExpanderLoss (port : BitVec 2) (lo : BitVec 42) (hi : BitVec 43) (s : State) :
    Host.Outcome State Fault Refusal := .next (s.cxlLoss port lo hi)

/-- GXL_PORT_FAILURE (R401). -/
def execGxlPortFailure (port : BitVec 6) (s : State) : Host.Outcome State Fault Refusal := .next (s.gxlFailure port)

/-- HBM_STACK_FAILURE (R318). -/
def execHbmStackFailure (stack : BitVec 4) (s : State) : Host.Outcome State Fault Refusal := .next (s.stackFailure stack)

/-- SCRUB_READ (R368). -/
def execScrubRead (core : BitVec 10) (word : BitVec 19) (s : State) : Host.Outcome State Fault Refusal :=
  .next (s.scrub core.toNat word.toNat)

end Sys2Proof.Machine
end

