-- ==== Sys2Proof/Machine/Commands.lean ====
section
/-!
DEFINITION. The MX and CX groups at issue: commands put in the queues of the engines, ring and crossing bindings (R237, R248 to R264, R276, R284, R287).
-/

namespace Sys2Proof.Machine

/-- MMA (R239): into the matrix queue. -/
def execMma (c : BitVec 3) (h j : BitVec 4) (f g : BitVec 3) (v : BitVec 2) (l z p q : BitVec 1) (s : State) : Host.Outcome State Fault Refusal :=
  issue (.mma c h j f g v l z p q) s (fun s => s.pushMatrix (.mma c h j f g v l z p q))

/-- MMAS (R239): into the matrix queue. -/
def execMmas (c : BitVec 3) (h j : BitVec 4) (f g : BitVec 3) (v : BitVec 2) (l z q : BitVec 1) (s : State) : Host.Outcome State Fault Refusal :=
  issue (.mmas c h j f g v l z q) s (fun s => s.pushMatrix (.mmas c h j f g v l z q))

/-- MMAG (R239): into the matrix queue. -/
def execMmag (c : BitVec 3) (h : BitVec 4) (j : BitVec 2) (f g : BitVec 3) (v l z p q : BitVec 1) (s : State) : Host.Outcome State Fault Refusal :=
  issue (.mmag c h j f g v l z p q) s (fun s => s.pushMatrix (.mmag c h j f g v l z p q))

/-- MHAD (R239): into the matrix queue. -/
def execMhad (c h : BitVec 3) (n : BitVec 2) (s : State) : Host.Outcome State Fault Refusal :=
  issue (.mhad c h n) s (fun s => s.pushMatrix (.mhad c h n))

/-- MZERO (R239): into the matrix queue. -/
def execMzero (c : BitVec 3) (k : BitVec 2) (s : State) : Host.Outcome State Fault Refusal :=
  issue (.mzero c k) s (fun s => s.pushMatrix (.mzero c k))

/-- MLOAD (R239): into the matrix queue. -/
def execMload (c : BitVec 3) (h : BitVec 4) (v : BitVec 1) (k : BitVec 2) (s : State) : Host.Outcome State Fault Refusal :=
  issue (.mload c h v k) s (fun s => s.pushMatrix (.mload c h v k))

/-- The kind of a tile as `drain` takes it. -/
def Tag.num : Tag → Nat
  | .f => 0
  | .i => 1
  | .x => 2

/-- MDRAIN (R248): every lane of vd at issue + 8, flags in `$mxstat`. -/
def execMdrain (c : BitVec 3) (h j : BitVec 4) (f : BitVec 3) (k u w : BitVec 1) (r : BitVec 2) (d : BitVec 5) (s : State) :
    Host.Outcome State Fault Refusal :=
  issue (.mdrain c h j f k u w r d) s (fun s =>
    let x := s.cx
    let e : DrainEnv :=
      { rnd := ⟨r, x.round.getLsbD 2⟩, sr := u = 1, key := x.key, tile := x.tile, period := (s.regOf s.me).period }
    let sc := if w = 1 then some (x.rv (BitVec.ofNat 5 (16 + j.toNat))) else none
    let t := c.toNat
    s.writeV 8 d (drain e x.vshape.toNat f (x.tagOf t).num x.fxq.toInt (x.tile1 t) (x.tile1 (t + 1)) (k ++ h).toNat sc) true)

/-- ECW (R250). -/
def execEcw (a b : BitVec 6) (s : State) : Host.Outcome State Fault Refusal :=
  issue (.ecw a b) s (fun s => s.pushSmall (.ecw a b) (s.cx.rg a) (s.cx.rg b))

/-- ECR (R250). -/
def execEcr (a b : BitVec 6) (s : State) : Host.Outcome State Fault Refusal :=
  issue (.ecr a b) s (fun s => s.pushSmall (.ecr a b) (s.cx.rg a) (s.cx.rg b))

/-- CPY (R254). -/
def execCpy (a b : BitVec 6) (m c : BitVec 2) (s : State) : Host.Outcome State Fault Refusal :=
  issue (.cpy a b m c) s (fun s => s.pushCopy c.toNat 0 ((s.cx.rg a).setWidth 6) m (s.cx.rg b) 0 0)

/-- CPYX (R258): waiting commands go, a suspended copy cancels at once, a running one stops at its chunk boundary. -/
def State.cancelCopy (s : State) (ch : Nat) (a : BitVec 6) : State :=
  let id := s.seq
  let s := if a = 0 then s else s.setBusy (.g a) id
  (s.modMe (fun k =>
    let q := k.chan ch
    let idle := q.cur.isNone && q.st = .idle
    let q := { q with queue := [], cancel := q.cancel ++ [(id, a, s.res, idle)] }
    k.setChan ch (match q.st with
      | .active => { q with st := .cancelling }
      | .suspended => { q with st := .idle, cur := none, fault := none }
      | _ => q))).tick1

def execCpyx (a : BitVec 6) (c : BitVec 2) (s : State) : Host.Outcome State Fault Refusal :=
  issue (.cpyx a c) s (fun s => s.cancelCopy c.toNat a)

/-- GCFG (R244). -/
def execGcfg (a : BitVec 6) (n : BitVec 2) (s : State) : Host.Outcome State Fault Refusal :=
  issue (.gcfg a n) s (fun s => s.pushSmall (.gcfg a n) (s.cx.rg a) 0)

/-- A contact command of block k. -/
def State.contact (s : State) (i : Instr) (a b : Word) (k : Nat) : State :=
  s.pushContact i a b (Table.get (0 : BitVec 32) s.cx.ctthr k)

/-- CTBLK (R276 to R281). -/
def execCtblk (a : BitVec 6) (k : BitVec 4) (s : State) : Host.Outcome State Fault Refusal :=
  issue (.ctblk a k) s (fun s => s.contact (.ctblk a k) (s.cx.rg a) 0 k.toNat)

/-- CTSNAP (R276 to R281). -/
def execCtsnap (a : BitVec 6) (k : BitVec 4) (s : State) : Host.Outcome State Fault Refusal :=
  issue (.ctsnap a k) s (fun s => s.contact (.ctsnap a k) (s.cx.rg a) 0 k.toNat)

/-- CTSTEP (R276 to R281). -/
def execCtstep (k : BitVec 4) (s : State) : Host.Outcome State Fault Refusal :=
  issue (.ctstep k) s (fun s => s.contact (.ctstep k) (0) 0 k.toNat)

/-- CTCLR (R276 to R281). -/
def execCtclr (a : BitVec 6) (k : BitVec 4) (s : State) : Host.Outcome State Fault Refusal :=
  issue (.ctclr a k) s (fun s => s.contact (.ctclr a k) (s.cx.rg a) 0 k.toNat)

/-- CTSAVE (R276 to R281). -/
def execCtsave (a : BitVec 6) (s : State) : Host.Outcome State Fault Refusal :=
  issue (.ctsave a) s (fun s => s.contact (.ctsave a) (s.cx.rg a) 0 0)

/-- CTLOAD (R276 to R281). -/
def execCtload (a : BitVec 6) (s : State) : Host.Outcome State Fault Refusal :=
  issue (.ctload a) s (fun s => s.contact (.ctload a) (s.cx.rg a) 0 0)

/-- CTQRY (R280): ga is busy until the answer. -/
def execCtqry (a b : BitVec 6) (k : BitVec 4) (s : State) : Host.Outcome State Fault Refusal :=
  issue (.ctqry a b k) s (fun s =>
    let y := s.cx.rg b
    let s := if a = 0 then s else s.setBusy (.g a) s.seq
    s.contact (.ctqry a b k) 0 y k.toNat)

/-- KVCOMMIT (R260). -/
def execKvcommit (a b : BitVec 6) (c : BitVec 2) (s : State) : Host.Outcome State Fault Refusal :=
  issue (.kvcommit a b c) s (fun s => s.pushCopy c.toNat 1 0 0 0 (s.cx.rg a) (s.cx.rg b))

/-- KVRESET (R261): LEN and DN travel in the displacement. -/
def execKvreset (a b : BitVec 6) (c : BitVec 2) (s : State) : Host.Outcome State Fault Refusal :=
  issue (.kvreset a b c) s (fun s => s.pushCopy c.toNat 2 0 0 (s.cx.rg b) (s.cx.rg a) 0)

/-- XBIND (R284): at issue + 1. -/
def execXbind (a b : BitVec 6) (s : State) : Host.Outcome State Fault Refusal :=
  issue (.xbind a b) s (fun s => s.later 1 .ld (.xbind (s.cx.rg a) (s.cx.rg b)))

/-- XSTAT (R287): a question to the crossing, ga busy until it answers. -/
def execXstat (a b : BitVec 6) (s : State) : Host.Outcome State Fault Refusal :=
  issue (.xstat a b) s (fun s =>
    let m := s.message s.me s.res .ld 0 (s.cx.rg b) [] .read .none
    s.sendInto { m with host := true, after := [] } (.g a) 0)

/-- RCFG (R262): at issue + 1. -/
def execRcfg (a b : BitVec 6) (r : BitVec 4) (s : State) : Host.Outcome State Fault Refusal :=
  issue (.rcfg a b r) s (fun s =>
    let y := s.cx.rg b
    s.later 1 .st (.ringSet r
      { Ring.none with
        conf := true
        base := s.cx.rg a
        slots := (y.extractLsb' 0 9).setWidth 16
        slotsize := (y.extractLsb' 16 16).setWidth 24 * 64 }))

/-- RRST (R262): at issue + 1; a record without geometry keeps the ring's. -/
def execRrst (r : BitVec 4) (s : State) : Host.Outcome State Fault Refusal :=
  issue (.rrst r) s (fun s => s.later 1 .st (.ringSet r Ring.none))

/-- HCFG (R263). -/
def execHcfg (a : BitVec 6) (k : BitVec 5) (s : State) : Host.Outcome State Fault Refusal :=
  issue (.hcfg a k) s (fun s => s.pushSmall (.hcfg a k) (s.cx.rg a) 0)

/-- HARM (R263). -/
def execHarm (a : BitVec 6) (k : BitVec 5) (s : State) : Host.Outcome State Fault Refusal :=
  issue (.harm a k) s (fun s => s.pushSmall (.harm a k) (s.cx.rg a) 0)

/-- HREAD (R263): ga and gb are busy until the controller answers. -/
def execHread (a b : BitVec 6) (k : BitVec 5) (s : State) : Host.Outcome State Fault Refusal :=
  issue (.hread a b k) s (fun s =>
    let id := s.seq
    let s := if a = 0 then s else s.setBusy (.g a) id
    let s := if b = 0 then s else s.setBusy (.g b) id
    s.pushSmall (.hread a b k) 0 0)

end Sys2Proof.Machine
end

