-- ==== Sys2Proof/Machine/Control.lean ====
section
/-!
DEFINITION. The control group: branches, jumps, the hardware loop and task control (R166 to R172).
-/

namespace Sys2Proof.Machine

/-- The target of an SB offset (R145). -/
def sbTarget (pc : Word) (o : BitVec 11) : Word := pc + o.signExtend 64 * 4

/-- The target of an SJ offset (R145). -/
def sjTarget (pc : Word) (o : BitVec 17) : Word := pc + o.signExtend 64 * 4

/-- The transfer that the control word of the bundle asks for (R166). -/
def State.goTo (s : State) (g : Go) : State := { s with ctl := { s.ctl with go := g } }

/-- A branch (R167). -/
def State.branch (s : State) (a b : BitVec 6) (o : BitVec 11) (f : Word → Word → Bool) : State :=
  if f (s.cx.rg a) (s.cx.rg b) then s.goTo (.jump (sbTarget s.cx.pc o)) else s

/-- The first address of words first, first + 4, … whose word ends a bundle, within its 64-byte block (R141); the block's
end when there is none. The result is the address behind it. -/
def State.afterWordAt (s : State) (core : Nat) : Nat → Nat → Nat
  | 0, a => a
  | n + 1, a =>
    if a < 0x20000 ∧ (Memory.read s.mem (istoreKey core (a + 3))).getLsbD 7 then a + 4 else s.afterWordAt core n (a + 4)

/-- next_after(a) (R169). -/
def State.nextAfter (s : State) (core : Nat) (a : Word) : Word :=
  BitVec.ofNat 64 (s.afterWordAt core ((64 - a.toNat % 64) / 4) a.toNat)

/-- BEQ (Table 8.3). -/
def execBeq (a b : BitVec 6) (o : BitVec 11) (s : State) : Host.Outcome State Fault Refusal :=
  issue (.beq a b o) s (fun s => s.branch a b o (fun x y => x == y))

/-- BNE (Table 8.3). -/
def execBne (a b : BitVec 6) (o : BitVec 11) (s : State) : Host.Outcome State Fault Refusal :=
  issue (.bne a b o) s (fun s => s.branch a b o (fun x y => x != y))

/-- BLT (Table 8.3). -/
def execBlt (a b : BitVec 6) (o : BitVec 11) (s : State) : Host.Outcome State Fault Refusal :=
  issue (.blt a b o) s (fun s => s.branch a b o (fun x y => decide (x.toInt < y.toInt)))

/-- BGE (Table 8.3). -/
def execBge (a b : BitVec 6) (o : BitVec 11) (s : State) : Host.Outcome State Fault Refusal :=
  issue (.bge a b o) s (fun s => s.branch a b o (fun x y => decide (y.toInt ≤ x.toInt)))

/-- BLTN (Table 8.3). -/
def execBltn (a b : BitVec 6) (o : BitVec 11) (s : State) : Host.Outcome State Fault Refusal :=
  issue (.bltn a b o) s (fun s => s.branch a b o (fun x y => decide (x.toNat < y.toNat)))

/-- BGEN (Table 8.3). -/
def execBgen (a b : BitVec 6) (o : BitVec 11) (s : State) : Host.Outcome State Fault Refusal :=
  issue (.bgen a b o) s (fun s => s.branch a b o (fun x y => decide (y.toNat ≤ x.toNat)))

/-- JMP (Table 8.3). -/
def execJmp (o : BitVec 17) (s : State) : Host.Outcome State Fault Refusal :=
  issue (.jmp o) s (fun s => s.goTo (.jump (sjTarget s.cx.pc o)))

/-- JAL (Table 8.3, R168). -/
def execJal (d : BitVec 6) (o : BitVec 17) (s : State) : Host.Outcome State Fault Refusal :=
  issue (.jal d o) s (fun s =>
    (s.writeG 1 d (s.nextAddr)).goTo (.jump (sjTarget s.cx.pc o)))

/-- JR (Table 8.3). -/
def execJr (a : BitVec 6) (o : BitVec 11) (s : State) : Host.Outcome State Fault Refusal :=
  issue (.jr a o) s (fun s => s.goTo (.jump (sbTarget (s.cx.rg a) o)))

/-- JALR (Table 8.3, R168): the link goes to the register that gb names. -/
def execJalr (a b : BitVec 6) (o : BitVec 11) (s : State) : Host.Outcome State Fault Refusal :=
  issue (.jalr a b o) s (fun s =>
    (s.writeG 1 b (s.nextAddr)).goTo (.jump (sbTarget (s.cx.rg a) o)))

/-- LOOP (R169). -/
def execLoop (a : BitVec 6) (o : BitVec 11) (s : State) : Host.Outcome State Fault Refusal :=
  issue (.loop a o) s (fun s =>
    let n := s.cx.rg a
    let last := sbTarget s.cx.pc o
    let next := s.nextAddr
    if n = 0 then s.goTo (.jump (s.nextAfter s.me last))
    else s.modCx (fun x => { x with lact := true, lbeg := next, lend := last, lcnt := n }))

/-- KNEXT (R61, R171). -/
def execKnext (s : State) : Host.Outcome State Fault Refusal := issue .knext s (fun s => s.goTo .knext)

/-- END (R61, R171). -/
def execEndTask (s : State) : Host.Outcome State Fault Refusal := issue .endTask s (fun s => s.goTo .endTask)

/-- TRAP (R172). -/
def execTrap (d : BitVec 6) (o : BitVec 17) (s : State) : Host.Outcome State Fault Refusal :=
  issue (.trap d o) s (fun s => s.softTrap o (s.cx.rg d))

end Sys2Proof.Machine
end

