-- ==== Sys2Proof/Machine/System.lean ====
section
/-!
DEFINITION. The SY group: access to system registers, IDLE, DIGEST, BREAK and the privileged instructions (R173 to R183).
-/

namespace Sys2Proof.Machine

/-- SRR, SRW, SRS, SRC (R173): gd takes the old value, and the fields writable at the context's level take the new one. -/
def State.sysAccess (s : State) (d : BitVec 6) (n : BitVec 9) (new : Word → Word) : State :=
  let old := s.readSys s.me s.res n
  let m := sysMask s.cx.lvl n
  let s := s.writeG 1 d old
  let v : Word := (old &&& ~~~m) ||| (new old &&& m)
  s.queueWrite 1 (.sys n) (v.setWidth 4096) (m.setWidth 4096) 0 false

/-- SRR (Table 8.4). -/
def execSrr (d : BitVec 6) (n : BitVec 9) (s : State) : Host.Outcome State Fault Refusal :=
  issue (.srr d n) s (fun s => s.writeG 1 d (s.readSys s.me s.res n))

/-- SRW (Table 8.4). -/
def execSrw (d a : BitVec 6) (n : BitVec 9) (s : State) : Host.Outcome State Fault Refusal :=
  issue (.srw d a n) s (fun s => s.sysAccess d n (fun _ => s.cx.rg a))

/-- SRS (Table 8.4). -/
def execSrs (d a : BitVec 6) (n : BitVec 9) (s : State) : Host.Outcome State Fault Refusal :=
  issue (.srs d a n) s (fun s => s.sysAccess d n (fun old => old ||| s.cx.rg a))

/-- SRC (Table 8.4). -/
def execSrc (d a : BitVec 6) (n : BitVec 9) (s : State) : Host.Outcome State Fault Refusal :=
  issue (.src d a n) s (fun s => s.sysAccess d n (fun old => old &&& ~~~(s.cx.rg a)))

/-- A pending trap, which wakes an IDLE (R176). -/
def Ctx.trapPending (x : Ctx) : Bool := !x.act && (decide (0 < x.overrun) || x.mismatch.isSome || x.asyncWl.isSome)

/-- The end of an IDLE in this cycle (R176): gd one cycle later, and the next bundle then. DEDUCED, log 72. -/
def State.idleEnd (s : State) (c : Nat) (res : BitVec 1) (d : BitVec 6) (woken : Bool) : State :=
  let now := s.now c
  let w : RegWrite := ⟨.g d, if woken then 1 else 0, BitVec.allOnes 4096, 0, false, now + 1, s.seq, 0, now⟩
  let s := s.modCtx c res (fun x =>
    { x with writes := x.writes ++ [w], idle := none, gate := max x.gate (now + 1) })
  s.tick1

/-- IDLE (R176): it ends at once for x = 0 or when a wake event falls in its issue cycle. -/
def execIdle (d a : BitVec 6) (s : State) : Host.Outcome State Fault Refusal :=
  issue (.idle d a) s (fun s =>
    let x := s.cx
    let n := min (x.rg a).toNat 0xFFFFFFFF
    let woken := x.idleEvent || x.trapPending
    if n = 0 then s.idleEnd s.me s.res d false
    else if woken then s.idleEnd s.me s.res d true
    else s.modCx (fun x => { x with idle := some (s.now s.me + n, d) }))

/-- A cycle of a context in IDLE (R176, Table 22.4). DEDUCED, log 72. -/
def State.idleCycle (s : State) (c : Nat) (res : BitVec 1) : State :=
  let x := s.ctx c res
  match x.idle with
  | none => s
  | some (e, d) =>
    let s := (s.event c res 4).event c res 8
    if x.idleEvent || x.trapPending then s.idleEnd c res d true
    else if e ≤ s.now c then s.idleEnd c res d false
    else s

/-- The pieces of a DIGEST that are not in the own vault, each a message (R178). -/
def State.digestReads (s : State) (va : Word) : List (Part × Xlat) → Nat → State
  | [], _ => s
  | p :: ps, off =>
    let m := s.message s.me s.res .ld 0 (va + BitVec.ofNat 64 off) [p.1] .read (.digest off)
    let s := if p.1.place.near s.me then s else s.send m
    s.digestReads va ps (off + p.1.len)

/-- DIGEST (R177, R178): the reads begin; the fold follows the last of them. -/
def execDigest (d a : BitVec 6) (z : BitVec 1) (s : State) : Host.Outcome State Fault Refusal :=
  issue (.digest d a z) s (fun s =>
    let x := s.cx
    let n := (x.rg d).toNat
    let s := match s.parts s.me x (x.rg a) n .load with
      | .ok ps => s.digestReads (x.rg a) ps 0
      | .error _ => s
    s.modCx (fun y => { y with folding := some ⟨x.pc, s.wordIx, s.now s.me, x.rg a, n, z = 1, []⟩ }))

/-- The fold of a DIGEST over its words in order (R177). -/
def digestFold (z : Bool) (len : Nat) (words : List Nat) (d0 d1 d2 d3 : BitVec 32) :
    BitVec 32 × BitVec 32 × BitVec 32 × BitVec 32 :=
  let fold1 := fun (d : BitVec 32) (w j : Nat) => mix32 (d ^^^ BitVec.ofNat 32 w ^^^ BitVec.ofNat 32 (j * 0x9E3779B9))
  let start := if z then (0, 0, 0, 0) else (d0, d1, d2, d3)
  let (a, b, c, d) := words.zipIdx.foldl
    (fun (t : BitVec 32 × BitVec 32 × BitVec 32 × BitVec 32) p =>
      let (a, b, c, d) := t
      match p.2 % 4 with
      | 0 => (fold1 a p.1 0, b, c, d)
      | 1 => (a, fold1 b p.1 1, c, d)
      | 2 => (a, b, fold1 c p.1 2, d)
      | _ => (a, b, c, fold1 d p.1 3)) start
  (mix32 (a ^^^ BitVec.ofNat 32 len), b, c, d)

/-- A context whose DIGEST has all its words folds them (R178). DEDUCED, log 14. -/
def Ctx.digestDone (x : Ctx) (g : Dig) : Ctx :=
  let (a, b, c, d) := digestFold g.z g.len (g.got.map (fun p => p.2)) x.d0 x.d1 x.d2 x.d3
  { x with d0 := a, d1 := b, d2 := c, d3 := d, folding := none }

/-- The own-vault words of a DIGEST that are sampled in this cycle (R178). DEDUCED, log 14. -/
def State.digestSample (s : State) (c : Nat) (res : BitVec 1) : State :=
  let x := s.ctx c res
  match x.folding with
  | none => s
  | some g =>
    let now := s.now c
    if now < g.issue + 6 then s
    else
      let k := now - g.issue - 6
      let idx := (List.range 16).filterMap (fun j =>
        let off := 64 * k + 4 * j
        let va := g.va + BitVec.ofNat 64 off
        if off < g.len ∧ isOwn c va then some (off / 4, vaultKey c (vaultOffset va)) else none)
      let got := idx.foldl (fun t p => Table.set t p.1 (Memory.num s.mem p.2 4)) g.got
      let a : Agent := ⟨c, res, g.pc, g.slot⟩
      let s := idx.foldl (fun s p => s.touchRead a p.2 4) s
      s.modCtx c res (fun x => { x with folding := some { g with got := got } })

/-- BREAK (R179): `trap g0, 0x1_FFFF`. -/
def execBrk (s : State) : Host.Outcome State Fault Refusal :=
  issue .brk s (fun s => s.softTrap 0x1FFFF 0)

/-- ERET (R181, R358). -/
def execEret (s : State) : Host.Outcome State Fault Refusal := issue .eret s (fun s => { s with ctl := { s.ctl with eret := true } })

/-- TLBI (R181, R182): it stalls at issue until done; entries that others installed meanwhile go with it. DEDUCED, log 75. -/
def execTlbi (a : BitVec 6) (k : BitVec 3) (s : State) : Host.Outcome State Fault Refusal :=
  issue (.tlbi a k) s (fun s => s.tlbi s.me s.res k (s.cx.rg a))

/-- SWCTX (R181): the slice of the context is over. -/
def execSwctx (s : State) : Host.Outcome State Fault Refusal :=
  issue .swctx s (fun s => s.modCx (fun x => { x with held := (s.core s.me).slice s.res }))

/-- FLUSHI (R181): the next bundle issues at t + 2 from the store as it then stands. -/
def execFlushi (s : State) : Host.Outcome State Fault Refusal :=
  issue .flushi s (fun s => { s with ctl := { s.ctl with refetch := true } })

/-- Whether a retime request is accepted (R183). DEDUCED, log 74. -/
def State.retimeOk (s : State) (c : Nat) (x : Word) (r : BitVec 5) : Bool :=
  x.extractLsb' 50 14 == 0 && (s.partOf c).isSome && s.partOf c == s.partOfRegion r.toNat &&
    (match s.fsrc (s.region r.toNat).sel with
     | none => false
     | some f => lockOk (s.region r.toNat).sel (x.setWidth 32) (x.extractLsb' 32 16) (x.extractLsb' 48 1) (x.getLsbD 49) f)

/-- RETIME (R183, R384). -/
def execRetime (d a : BitVec 6) (r : BitVec 5) (s : State) : Host.Outcome State Fault Refusal :=
  issue (.retime d a r) s (fun s =>
    let x := s.cx.rg a
    let ok := s.retimeOk s.me x r
    let s := s.writeG 1 d (if ok then 0 else 1)
    if ok then
      s.modRegion r.toNat (fun g =>
        { g with mbox := some ⟨x.setWidth 32, x.extractLsb' 32 16, x.extractLsb' 48 1, x.getLsbD 49⟩ })
    else s)

end Sys2Proof.Machine
end

