-- ==== Sys2Proof/Machine/Fetch.lean ====
section
/-!
DEFINITION. Fetching a bundle (R139 to R142, R166, R353, R367): its words from the instruction store, the traps of steps 1
to 5 that no decoded bundle can raise, and when a context may issue.
-/

namespace Sys2Proof.Machine

/-! ### Words -/

/-- Words of the instruction store from an address on. -/
def State.iwords (s : State) (c a n : Nat) : List IWord :=
  let bs := s.sample (istoreKey c a) (4 * n)
  (List.range n).map (fun i => BitVec.ofNat 32 (leNat ((bs.drop (4 * i)).take 4)))

/-- The words up to the one with E = 1; none when there is no end mark (R141). -/
def upToEnd : List IWord → Option (List IWord)
  | [] => none
  | w :: ws => if endMark w then some [w] else (upToEnd ws).map (fun l => w :: l)

/-- The words in error among those that hold a range of the instruction store (R367). -/
def State.fetchErrs (s : State) (c a len : Nat) : List (Nat × Bool) := s.badIn (istoreKey c a) len

/-! ### Steps 1 to 5 -/

/-- The class of a word by its group (Table 2.2). -/
def classOf (w : IWord) : Slot :=
  let g := group w
  if g < 6 then .s else if g < 9 then .v else if g = 9 then .f else if g < 13 then .m else .none

/-- The first word that breaks step 4 (R139, R140, R166), with its cause (Table 20.6). `prev` is the word before, `seen` the
classes so far, `ctl` whether a control word came. -/
def step4 : Nat → Option IWord → List Slot → Bool → List IWord → Option (Nat × IWord × BitVec 8)
  | _, _, _, _, [] => none
  | i, prev, seen, ctl, w :: ws =>
    if group w = 13 then
      if prev.any (fun v => group v = 1) then
        if 8 ≤ i then some (i, w, 3) else step4 (i + 1) (some w) seen ctl ws
      else some (i, w, 4)
    else
      let cls := seen ++ [classOf w]
      if !slotsOk cls || 8 ≤ i || (ctl && isControl w) then some (i, w, 3)
      else step4 (i + 1) (some w) cls (ctl || isControl w) ws

/-- The words decoded in order, LX words with the word before: the instructions with their word indices, and the first
word that does not decode. -/
def decodeAll : Nat → List IWord → List BWord × Option (Nat × IWord)
  | _, [] => ([], none)
  | i, w :: ws =>
    if group w = 13 then decodeAll (i + 1) ws
    else
      match decodeWord w (ws.head?.bind lxBits) with
      | .error _ => ([], some (i, w))
      | .ok n =>
        let r := decodeAll (i + 1) ws
        (⟨n, i, w⟩ :: r.1, r.2)

/-- What the program counter of a context brings. -/
inductive Fetched where
  | trap (t : Trap)
  | words (is : List Instr)
deriving DecidableEq, Repr

/-- ILLEGAL_BUNDLE (Tables 20.3 and 20.6). DEDUCED, log 16. -/
def bundleTrap (cause : BitVec 8) (pc : Word) (ix : Nat) (w first : IWord) : Trap :=
  let f := { FaultRec.plain 2 cause pc with slot := ix, addr := pc, aux0 := first.setWidth 64 }
  ⟨2, cause, pc, w.setWidth 64, false, some f⟩

/-- The words of a bundle through steps 3 to 5 as far as decoding goes. DEDUCED, log 12. -/
def State.framed (s : State) (c : Nat) (res : BitVec 1) (pc : Word) (ws : List IWord) : Fetched :=
  let first := ws.headD 0
  match ws.zipIdx.find? (fun p => 14 ≤ group p.1) with
  | some (w, i) => .trap (wordTrap 1 pc ⟨.nop, i, w⟩ i 0)
  | none =>
    match step4 0 none [] false ws with
    | some (i, w, cause) => .trap (bundleTrap cause pc i w first)
    | none =>
      match decodeAll 0 ws with
      | (ok, none) => .words (ok.map (fun w => w.i))
      | (ok, some (i, w)) =>
        match s.step5 c res ok with
        | some v => .trap (illegal pc v)
        | none => .trap (illegal pc ⟨.nop, i, w⟩)

/-- The bundle at the program counter of a context (R142, steps 1 to 4 and the undecodable words of step 5).
DEDUCED, log 16. -/
def State.fetch (s : State) (c : Nat) (res : BitVec 1) : Fetched :=
  let pc := (s.ctx c res).pc
  let a := pc.toNat
  if a % 4 ≠ 0 then .trap ⟨4, 0, pc, pc, false, some { FaultRec.plain 4 0 pc with addr := pc }⟩
  else if 0x20000 ≤ a then .trap (bundleTrap 1 pc 0 0 0)
  else
    let room := 16 - a % 64 / 4
    let block := s.iwords c a room
    let ws := upToEnd block
    let len := 4 * ((ws.map List.length).getD room)
    if (s.fetchErrs c a len).any (fun e => e.2) then .trap (bundleTrap 5 pc 0 0 (block.headD 0))
    else
      match ws with
      | none => .trap (bundleTrap 2 pc 0 0 (block.headD 0))
      | some ws => s.framed c res pc ws

/-! ### When a context issues -/

/-- Whether the holder of a core has its task in hand: it runs a task or a handler, is not halted, and no switch is under way
(R61, R324, R325, R359). DEDUCED, log 33. -/
def State.hasTask (s : State) (c : Nat) : Bool :=
  let k := s.core c
  let x := k.ctx k.holder
  !k.idle && !k.switchWait && k.switch.isNone && !x.halted && !x.saved && (x.running.isSome || x.act)

/-- Whether it may issue a bundle in this cycle: its first cycle has come (R144). -/
def State.mayIssue (s : State) (c : Nat) : Bool :=
  s.hasTask c && decide (((s.core c).ctx (s.core c).holder).gate ≤ s.now c)

/-- Whether a DIGEST has all its words (R178). -/
def Dig.full (g : Dig) : Bool := decide (g.len / 4 ≤ g.got.length)

/-- A DIGEST given up at its limit (R178): the words that come later are for nobody. -/
def State.dropDigest (s : State) (c : Nat) (res : BitVec 1) : State :=
  { s with fabric := s.fabric.map (fun m =>
      if m.core = c && m.res == res then
        (match m.dest with
         | .digest _ => { m with dest := .none }
         | _ => m)
      else m) }

/-- The WAIT_LIMIT of a DIGEST (R178). -/
def State.digestLimit (s : State) (c : Nat) (res : BitVec 1) (g : Dig) : State :=
  let s := (s.dropDigest c res).modCtx c res (fun x => { x with folding := none })
  s.takeTrap c res (s.now c) ⟨7, 12, g.pc, 0, false, some { FaultRec.plain 7 12 g.pc with slot := g.slot }⟩

/-- Whether the limit of a DIGEST has expired. -/
def State.digestExpired (s : State) (c : Nat) (g : Dig) : Bool := decide (g.issue + 16777216 < s.now c)

/-- WAIT_LIMIT_EXPIRY (R178, R217): the trap of the stalled bundle, when its limit has expired. -/
def State.limitEvent (s : State) (c : Nat) : State :=
  let s := { s with cur := BitVec.ofNat 10 c }
  let res := s.res
  let x := s.cx
  if !s.sequences c || !s.mayIssue c || x.idle.isSome then s
  else
    match x.folding with
    | some g => if !g.full && s.digestExpired c g then s.digestLimit c res g else s
    | none =>
      match s.fetch c res with
      | .trap _ => s
      | .words is =>
        match s.check c res (mkBundle 0 is) with
        | .ok =>
          (match (s.holds c res (mkBundle 0 is) ++ s.lateWhy c res (mkBundle 0 is)).find? x.expired with
           | some w => s.waitLimit c res w
           | none => s)
        | _ => s

end Sys2Proof.Machine
end

