-- ==== Sys2Proof/Machine/Events.lean ====
section
/-!
DEFINITION. The steps that units of the device take beside the instructions, each as a meaning of its own. A step whose
condition does not hold leaves the state as it is.
-/

namespace Sys2Proof.Machine

/-- A step of a core's own units: none while the clocks of its region stand (R18, R19). -/
def State.clocked (s : State) (c : Nat) (f : State → State) : State := if (s.regOf c).runs then f s else s

/-! ### Sequencer and issue -/

/-- RESIDENCY_SWITCH (R325). -/
def execResidencySwitch (core : BitVec 10) (s : State) : Host.Outcome State Fault Refusal := .next (s.handOver core.toNat)

/-- IDLE_CORE_DISPATCH (R324). -/
def execIdleCoreDispatch (core : BitVec 10) (s : State) : Host.Outcome State Fault Refusal :=
  .next (s.idleDispatch core.toNat)

/-- The count of an IDLE elapsed (R176). -/
def State.idleTimeout (s : State) (c : Nat) : State :=
  let k := s.core c
  match (k.ctx k.holder).idle with
  | some (e, d) => if s.sequences c && decide (e ≤ s.now c) then s.idleEnd c k.holder d false else s
  | none => s

/-- IDLE_TIMEOUT (R176). -/
def execIdleTimeout (core : BitVec 10) (s : State) : Host.Outcome State Fault Refusal := .next (s.idleTimeout core.toNat)

/-- WAIT_LIMIT_EXPIRY (R217). -/
def execWaitLimitExpiry (core : BitVec 10) (s : State) : Host.Outcome State Fault Refusal := .next (s.limitEvent core.toNat)

/-! ### Matrix engine -/

/-- BALLAST_PASS (R391). -/
def execBallastPass (core : BitVec 10) (s : State) : Host.Outcome State Fault Refusal :=
  .next (s.clocked core.toNat (fun s => s.ballast core.toNat))

/-- MATRIX_COMMAND_START (R239). -/
def execMatrixCommandStart (core : BitVec 10) (s : State) : Host.Outcome State Fault Refusal :=
  .next (s.clocked core.toNat (fun s => s.mxStart core.toNat))

/-- MATRIX_COMMAND_END (R239). -/
def execMatrixCommandEnd (core : BitVec 10) (s : State) : Host.Outcome State Fault Refusal :=
  .next (s.clocked core.toNat (fun s => s.mxEnd core.toNat))

/-- MATRIX_WAIT_LIMIT_EXPIRY (R240). -/
def execMatrixWaitLimitExpiry (core : BitVec 10) (s : State) : Host.Outcome State Fault Refusal :=
  .next (s.clocked core.toNat (fun s => s.mxExpire core.toNat))

/-! ### Hoists and rings -/

/-- HOIST_REACH (R119). -/
def execHoistReach (core : BitVec 10) (res : BitVec 1) (k : BitVec 5) (s : State) : Host.Outcome State Fault Refusal :=
  .next (s.reachHoist core.toNat res k.toNat)

/-- PENDING_SLOT_ACTION_RELEASE (R114). -/
def execPendingSlotActionRelease (core : BitVec 10) (res : BitVec 1) (h : BitVec 4) (s : State) :
    Host.Outcome State Fault Refusal := .next (s.clocked core.toNat (fun s => s.releaseSlots core.toNat res h.toNat))

/-! ### Copy and contact engines, streams -/

/-- COPY_BEGIN (R254). -/
def execCopyBegin (core : BitVec 10) (ch : BitVec 2) (s : State) : Host.Outcome State Fault Refusal :=
  .next (s.clocked core.toNat (fun s => s.copyBegin core.toNat ch.toNat))

/-- CHUNK_COMMIT (R254). -/
def execChunkCommit (core : BitVec 10) (ch : ChunkStep) (s : State) : Host.Outcome State Fault Refusal :=
  .next (s.clocked core.toNat (fun s => s.chunkEvent core.toNat ch))

/-- COPY_CHUNK_FAULT (R256). -/
def execCopyChunkFault (core : BitVec 10) (ch : ChunkStop) (s : State) : Host.Outcome State Fault Refusal :=
  .next (s.clocked core.toNat (fun s =>
    match ch with
    | .own ch => s.chunkFault core.toNat ch.toNat false
    | .refused ch => s.chunkFault core.toNat ch.toNat true))

/-- COPY_COMPLETION_ACTION (R256). -/
def execCopyCompletionAction (core : BitVec 10) (ch : BitVec 2) (s : State) : Host.Outcome State Fault Refusal :=
  .next (s.clocked core.toNat (fun s => s.copyCompletion core.toNat ch.toNat))

/-- WATERMARK_WAIT_LIMIT_EXPIRY (R257). -/
def execWatermarkWaitLimitExpiry (core : BitVec 10) (ch : BitVec 2) (s : State) : Host.Outcome State Fault Refusal :=
  .next (s.clocked core.toNat (fun s => s.watermarkExpiry core.toNat ch.toNat))

/-- COPY_CANCEL_COMPLETE (R258). -/
def execCopyCancelComplete (core : BitVec 10) (ch : BitVec 2) (s : State) : Host.Outcome State Fault Refusal :=
  .next (s.clocked core.toNat (fun s => s.cancelComplete core.toNat ch.toNat))

/-- APERTURE_COMMAND_ARRIVAL (R232). -/
def execApertureCommandArrival (core : BitVec 10) (off : BitVec 12) (value : BitVec 64) (s : State) :
    Host.Outcome State Fault Refusal := .next (s.apertureArrival core.toNat off.toNat value)

/-- CONTACT_COMMAND_START (R277). -/
def execContactCommandStart (core : BitVec 10) (s : State) : Host.Outcome State Fault Refusal :=
  .next (s.clocked core.toNat (fun s => s.ctStart core.toNat))

/-- STREAM_TRANSFER (R115). -/
def execStreamTransfer (core : BitVec 10) (res : BitVec 1) (n : StreamMove) (s : State) : Host.Outcome State Fault Refusal :=
  .next (s.clocked core.toNat (fun s => s.streamTransfer core.toNat res (24 + n.n.toNat) n.admitted))

/-! ### Fabric -/

/-- FABRIC_WRITE (R101). -/
def execFabricWrite (arrival : Arrival) (s : State) : Host.Outcome State Fault Refusal := .next (s.fabricEvent .write arrival)

/-- FABRIC_ATOMIC (R216). -/
def execFabricAtomic (arrival : Arrival) (s : State) : Host.Outcome State Fault Refusal :=
  .next (s.fabricEvent .atomic arrival)

/-- FABRIC_READ (R103). -/
def execFabricRead (arrival : Arrival) (s : State) : Host.Outcome State Fault Refusal := .next (s.fabricEvent .read arrival)

/-- REGISTER_DATA_ARRIVAL (R103). -/
def execRegisterDataArrival (msg : Nat) (s : State) : Host.Outcome State Fault Refusal := .next (s.dataArrival msg)

/-! ### Queues and host windows -/

/-- ENQUEUE_REQUEST (R226). -/
def execEnqueueRequest (msg : Nat) (s : State) : Host.Outcome State Fault Refusal := .next (s.enqueueRequest msg)

/-- HOST_WINDOW_SUBMIT (R315). -/
def execHostWindowSubmit (w : BitVec 6) (handle : BitVec 64) (s : State) : Host.Outcome State Fault Refusal :=
  .next (s.ready (fun s => s.windowSubmit w.toNat handle))

/-- PACKET_STAGING_WRITE (R314). -/
def execPacketStagingWrite (w off : BitVec 6) (data : List Byte) (s : State) : Host.Outcome State Fault Refusal :=
  .next (s.ready (fun s => s.stagePacket w.toNat off.toNat data))

/-- MIRROR_COPY_COMPLETE (R318): acceptance goes on, and waiting submits are answered. -/
def execMirrorCopyComplete (stack fresh : BitVec 4) (s : State) : Host.Outcome State Fault Refusal :=
  .next (s.mirrorCopied stack.toNat fresh.toNat).windowsTurn

/-- SWAP_IN_COPY_COMPLETE (R307). -/
def execSwapInCopyComplete (q : BitVec 13) (s : State) : Host.Outcome State Fault Refusal :=
  .next (s.swapInDone q.toNat).windowsTurn

end Sys2Proof.Machine
end

