-- ==== Sys2Proof/Machine/Scalar.lean ====
section
/-!
DEFINITION. The SR and SI groups: register and immediate operations (R161 to R165).
-/

namespace Sys2Proof.Machine

/-- x ÷ y, signed, truncated; all ones for a zero divisor (R162). -/
def sdivWord {n : Nat} (x y : BitVec n) : BitVec n := if y = 0 then BitVec.allOnes n else x.sdiv y

/-- x ÷ y, unsigned; all ones for a zero divisor (R162). -/
def udivWord {n : Nat} (x y : BitVec n) : BitVec n := if y = 0 then BitVec.allOnes n else x / y

/-- The remainder of the signed division, with the sign of x; x for a zero divisor (R162). -/
def sremWord {n : Nat} (x y : BitVec n) : BitVec n := if y = 0 then x else x.srem y

/-- The remainder of the unsigned division; x for a zero divisor (R162). -/
def uremWord {n : Nat} (x y : BitVec n) : BitVec n := if y = 0 then x else x % y

/-- 1 or 0. -/
def boolWord (b : Bool) : Word := if b then 1 else 0

/-- sext32 of a 32-bit result. -/
def sext32 (w : BitVec 32) : Word := w.signExtend 64

/-- The low half of a register. -/
def low32 (x : Word) : BitVec 32 := x.setWidth 32

def clzWord (x : Word) : Word := if x = 0 then 64 else BitVec.ofNat 64 (63 - Nat.log2 x.toNat)

def ctzWord (x : Word) : Word := BitVec.ofNat 64 (((List.range 64).find? (fun i => x.getLsbD i)).getD 64)

def popcWord (x : Word) : Word := BitVec.ofNat 64 ((List.range 64).countP (fun i => x.getLsbD i))

def brevWord (x : Word) : Word := x.reverse

/-- The bytes in the opposite order, byte 0 first. -/
def bswapWord (x : Word) : Word :=
  x.extractLsb' 0 8 ++ x.extractLsb' 8 8 ++ x.extractLsb' 16 8 ++ x.extractLsb' 24 8 ++ x.extractLsb' 32 8 ++
    x.extractLsb' 40 8 ++ x.extractLsb' 48 8 ++ x.extractLsb' 56 8

/-- Sign-extension of the low w bits, w from 1 to 63. -/
def extsWord (x : Word) (w : Nat) : Word := (x <<< (64 - w)).sshiftRight (64 - w)

/-- Zero-extension of the low w bits, w from 1 to 63. -/
def extzWord (x : Word) (w : Nat) : Word := (x <<< (64 - w)) >>> (64 - w)

/-- A two-source SR word: its result, its latency, its flags. -/
def State.sr2 (s : State) (lat : Nat) (d a b : BitVec 6) (f : Word → Word → Word) (fl : Word → Flags) : State :=
  s.writeG lat d (f (s.cx.rg a) (s.cx.rg b)) (fl (s.cx.rg b))

/-- A one-source SR word. -/
def State.sr1 (s : State) (d a : BitVec 6) (f : Word → Word) : State := s.writeG 1 d (f (s.cx.rg a))

/-- An SI word. -/
def State.si (s : State) (lat : Nat) (d a : BitVec 6) (i : Imm) (f : Word → Word → Word) : State :=
  s.writeG lat d (f (s.cx.rg a) i.val)

/-- No flag is raised. -/
def noFlags (_ : Word) : Flags := 0

/-- NOP (R143). -/
def execNop (s : State) : Host.Outcome State Fault Refusal := issue .nop s (fun s => s)

/-- ADD (Table 8.1). -/
def execAdd (d a b : BitVec 6) (s : State) : Host.Outcome State Fault Refusal :=
  issue (.add d a b) s (fun s => s.sr2 1 d a b (fun x y => x + y) noFlags)

/-- SUB (Table 8.1). -/
def execSub (d a b : BitVec 6) (s : State) : Host.Outcome State Fault Refusal :=
  issue (.sub d a b) s (fun s => s.sr2 1 d a b (fun x y => x - y) noFlags)

/-- AND (Table 8.1). -/
def execAnd (d a b : BitVec 6) (s : State) : Host.Outcome State Fault Refusal :=
  issue (.and d a b) s (fun s => s.sr2 1 d a b (fun x y => x &&& y) noFlags)

/-- OR (Table 8.1). -/
def execOr (d a b : BitVec 6) (s : State) : Host.Outcome State Fault Refusal :=
  issue (.or d a b) s (fun s => s.sr2 1 d a b (fun x y => x ||| y) noFlags)

/-- XOR (Table 8.1). -/
def execXor (d a b : BitVec 6) (s : State) : Host.Outcome State Fault Refusal :=
  issue (.xor d a b) s (fun s => s.sr2 1 d a b (fun x y => x ^^^ y) noFlags)

/-- ANDN (Table 8.1). -/
def execAndn (d a b : BitVec 6) (s : State) : Host.Outcome State Fault Refusal :=
  issue (.andn d a b) s (fun s => s.sr2 1 d a b (fun x y => x &&& ~~~y) noFlags)

/-- SHL (Table 8.1). -/
def execShl (d a b : BitVec 6) (s : State) : Host.Outcome State Fault Refusal :=
  issue (.shl d a b) s (fun s => s.sr2 1 d a b (fun x y => x <<< (y.toNat % 64)) noFlags)

/-- SHR (Table 8.1). -/
def execShr (d a b : BitVec 6) (s : State) : Host.Outcome State Fault Refusal :=
  issue (.shr d a b) s (fun s => s.sr2 1 d a b (fun x y => x >>> (y.toNat % 64)) noFlags)

/-- SRA (Table 8.1). -/
def execSra (d a b : BitVec 6) (s : State) : Host.Outcome State Fault Refusal :=
  issue (.sra d a b) s (fun s => s.sr2 1 d a b (fun x y => x.sshiftRight (y.toNat % 64)) noFlags)

/-- ROL (Table 8.1). -/
def execRol (d a b : BitVec 6) (s : State) : Host.Outcome State Fault Refusal :=
  issue (.rol d a b) s (fun s => s.sr2 1 d a b (fun x y => x.rotateLeft (y.toNat % 64)) noFlags)

/-- ROR (Table 8.1). -/
def execRor (d a b : BitVec 6) (s : State) : Host.Outcome State Fault Refusal :=
  issue (.ror d a b) s (fun s => s.sr2 1 d a b (fun x y => x.rotateRight (y.toNat % 64)) noFlags)

/-- MUL (Table 8.1). -/
def execMul (d a b : BitVec 6) (s : State) : Host.Outcome State Fault Refusal :=
  issue (.mul d a b) s (fun s => s.sr2 3 d a b (fun x y => x * y) noFlags)

/-- MULH (Table 8.1). -/
def execMulh (d a b : BitVec 6) (s : State) : Host.Outcome State Fault Refusal :=
  issue (.mulh d a b) s (fun s => s.sr2 3 d a b (fun x y => (x.signExtend 128 * y.signExtend 128).extractLsb' 64 64) noFlags)

/-- MULHN (Table 8.1). -/
def execMulhn (d a b : BitVec 6) (s : State) : Host.Outcome State Fault Refusal :=
  issue (.mulhn d a b) s (fun s => s.sr2 3 d a b (fun x y => (x.setWidth 128 * y.setWidth 128).extractLsb' 64 64) noFlags)

/-- DIV (Table 8.1, R162). -/
def execDiv (d a b : BitVec 6) (s : State) : Host.Outcome State Fault Refusal :=
  issue (.div d a b) s (fun s => s.sr2 20 d a b (fun x y => sdivWord x y) (divFlags 64))

/-- DIVN (Table 8.1, R162). -/
def execDivn (d a b : BitVec 6) (s : State) : Host.Outcome State Fault Refusal :=
  issue (.divn d a b) s (fun s => s.sr2 20 d a b (fun x y => udivWord x y) (divFlags 64))

/-- REM (Table 8.1, R162). -/
def execRem (d a b : BitVec 6) (s : State) : Host.Outcome State Fault Refusal :=
  issue (.rem d a b) s (fun s => s.sr2 20 d a b (fun x y => sremWord x y) (divFlags 64))

/-- REMN (Table 8.1, R162). -/
def execRemn (d a b : BitVec 6) (s : State) : Host.Outcome State Fault Refusal :=
  issue (.remn d a b) s (fun s => s.sr2 20 d a b (fun x y => uremWord x y) (divFlags 64))

/-- MIN (Table 8.1). -/
def execMin (d a b : BitVec 6) (s : State) : Host.Outcome State Fault Refusal :=
  issue (.min d a b) s (fun s => s.sr2 1 d a b (fun x y => if x.toInt ≤ y.toInt then x else y) noFlags)

/-- MAX (Table 8.1). -/
def execMax (d a b : BitVec 6) (s : State) : Host.Outcome State Fault Refusal :=
  issue (.max d a b) s (fun s => s.sr2 1 d a b (fun x y => if x.toInt ≤ y.toInt then y else x) noFlags)

/-- MINN (Table 8.1). -/
def execMinn (d a b : BitVec 6) (s : State) : Host.Outcome State Fault Refusal :=
  issue (.minn d a b) s (fun s => s.sr2 1 d a b (fun x y => if x.toNat ≤ y.toNat then x else y) noFlags)

/-- MAXN (Table 8.1). -/
def execMaxn (d a b : BitVec 6) (s : State) : Host.Outcome State Fault Refusal :=
  issue (.maxn d a b) s (fun s => s.sr2 1 d a b (fun x y => if x.toNat ≤ y.toNat then y else x) noFlags)

/-- CEQ (Table 8.1). -/
def execCeq (d a b : BitVec 6) (s : State) : Host.Outcome State Fault Refusal :=
  issue (.ceq d a b) s (fun s => s.sr2 1 d a b (fun x y => boolWord (x == y)) noFlags)

/-- CNE (Table 8.1). -/
def execCne (d a b : BitVec 6) (s : State) : Host.Outcome State Fault Refusal :=
  issue (.cne d a b) s (fun s => s.sr2 1 d a b (fun x y => boolWord (x != y)) noFlags)

/-- CLT (Table 8.1). -/
def execClt (d a b : BitVec 6) (s : State) : Host.Outcome State Fault Refusal :=
  issue (.clt d a b) s (fun s => s.sr2 1 d a b (fun x y => boolWord (decide (x.toInt < y.toInt))) noFlags)

/-- CLE (Table 8.1). -/
def execCle (d a b : BitVec 6) (s : State) : Host.Outcome State Fault Refusal :=
  issue (.cle d a b) s (fun s => s.sr2 1 d a b (fun x y => boolWord (decide (x.toInt ≤ y.toInt))) noFlags)

/-- CLTN (Table 8.1). -/
def execCltn (d a b : BitVec 6) (s : State) : Host.Outcome State Fault Refusal :=
  issue (.cltn d a b) s (fun s => s.sr2 1 d a b (fun x y => boolWord (decide (x.toNat < y.toNat))) noFlags)

/-- CLEN (Table 8.1). -/
def execClen (d a b : BitVec 6) (s : State) : Host.Outcome State Fault Refusal :=
  issue (.clen d a b) s (fun s => s.sr2 1 d a b (fun x y => boolWord (decide (x.toNat ≤ y.toNat))) noFlags)

/-- SEL (R163): gd is also a source. -/
def execSel (d a b : BitVec 6) (s : State) : Host.Outcome State Fault Refusal :=
  issue (.sel d a b) s (fun s => s.writeG 1 d (if s.cx.rg d ≠ 0 then s.cx.rg a else s.cx.rg b))

/-- CLZ (Table 8.1). -/
def execClz (d a : BitVec 6) (s : State) : Host.Outcome State Fault Refusal :=
  issue (.clz d a) s (fun s => s.sr1 d a (fun x => clzWord x))

/-- CTZ (Table 8.1). -/
def execCtz (d a : BitVec 6) (s : State) : Host.Outcome State Fault Refusal :=
  issue (.ctz d a) s (fun s => s.sr1 d a (fun x => ctzWord x))

/-- POPC (Table 8.1). -/
def execPopc (d a : BitVec 6) (s : State) : Host.Outcome State Fault Refusal :=
  issue (.popc d a) s (fun s => s.sr1 d a (fun x => popcWord x))

/-- BREV (Table 8.1). -/
def execBrev (d a : BitVec 6) (s : State) : Host.Outcome State Fault Refusal :=
  issue (.brev d a) s (fun s => s.sr1 d a (fun x => brevWord x))

/-- BSWAP (Table 8.1). -/
def execBswap (d a : BitVec 6) (s : State) : Host.Outcome State Fault Refusal :=
  issue (.bswap d a) s (fun s => s.sr1 d a (fun x => bswapWord x))

/-- EXTS (R163): the gb field is the width w. -/
def execExts (d a w : BitVec 6) (s : State) : Host.Outcome State Fault Refusal :=
  issue (.exts d a w) s (fun s => s.sr1 d a (fun x => extsWord x w.toNat))

/-- EXTZ (R163): the gb field is the width w. -/
def execExtz (d a w : BitVec 6) (s : State) : Host.Outcome State Fault Refusal :=
  issue (.extz d a w) s (fun s => s.sr1 d a (fun x => extzWord x w.toNat))

/-- ADD.W (Table 8.1). -/
def execAddW (d a b : BitVec 6) (s : State) : Host.Outcome State Fault Refusal :=
  issue (.addW d a b) s (fun s => s.sr2 1 d a b (fun x y => sext32 (low32 x + low32 y)) noFlags)

/-- SUB.W (Table 8.1). -/
def execSubW (d a b : BitVec 6) (s : State) : Host.Outcome State Fault Refusal :=
  issue (.subW d a b) s (fun s => s.sr2 1 d a b (fun x y => sext32 (low32 x - low32 y)) noFlags)

/-- SHL.W (Table 8.1). -/
def execShlW (d a b : BitVec 6) (s : State) : Host.Outcome State Fault Refusal :=
  issue (.shlW d a b) s (fun s => s.sr2 1 d a b (fun x y => sext32 (low32 x <<< (y.toNat % 32))) noFlags)

/-- SHR.W (Table 8.1). -/
def execShrW (d a b : BitVec 6) (s : State) : Host.Outcome State Fault Refusal :=
  issue (.shrW d a b) s (fun s => s.sr2 1 d a b (fun x y => sext32 (low32 x >>> (y.toNat % 32))) noFlags)

/-- SRA.W (Table 8.1). -/
def execSraW (d a b : BitVec 6) (s : State) : Host.Outcome State Fault Refusal :=
  issue (.sraW d a b) s (fun s => s.sr2 1 d a b (fun x y => sext32 ((low32 x).sshiftRight (y.toNat % 32))) noFlags)

/-- MUL.W (Table 8.1). -/
def execMulW (d a b : BitVec 6) (s : State) : Host.Outcome State Fault Refusal :=
  issue (.mulW d a b) s (fun s => s.sr2 3 d a b (fun x y => sext32 (low32 x * low32 y)) noFlags)

/-- DIV.W (Table 8.1, R162). -/
def execDivW (d a b : BitVec 6) (s : State) : Host.Outcome State Fault Refusal :=
  issue (.divW d a b) s (fun s => s.sr2 12 d a b (fun x y => sext32 (sdivWord (low32 x) (low32 y))) (divFlags 32))

/-- DIVN.W (Table 8.1, R162). -/
def execDivnW (d a b : BitVec 6) (s : State) : Host.Outcome State Fault Refusal :=
  issue (.divnW d a b) s (fun s => s.sr2 12 d a b (fun x y => sext32 (udivWord (low32 x) (low32 y))) (divFlags 32))

/-- REM.W (Table 8.1, R162). -/
def execRemW (d a b : BitVec 6) (s : State) : Host.Outcome State Fault Refusal :=
  issue (.remW d a b) s (fun s => s.sr2 12 d a b (fun x y => sext32 (sremWord (low32 x) (low32 y))) (divFlags 32))

/-- REMN.W (Table 8.1, R162). -/
def execRemnW (d a b : BitVec 6) (s : State) : Host.Outcome State Fault Refusal :=
  issue (.remnW d a b) s (fun s => s.sr2 12 d a b (fun x y => sext32 (uremWord (low32 x) (low32 y))) (divFlags 32))

/-- ADDI (Table 8.2). -/
def execAddi (d a : BitVec 6) (i : Imm) (s : State) : Host.Outcome State Fault Refusal :=
  issue (.addi d a i) s (fun s => s.si 1 d a i (fun x i => x + i))

/-- ANDI (Table 8.2). -/
def execAndi (d a : BitVec 6) (i : Imm) (s : State) : Host.Outcome State Fault Refusal :=
  issue (.andi d a i) s (fun s => s.si 1 d a i (fun x i => x &&& i))

/-- ORI (Table 8.2). -/
def execOri (d a : BitVec 6) (i : Imm) (s : State) : Host.Outcome State Fault Refusal :=
  issue (.ori d a i) s (fun s => s.si 1 d a i (fun x i => x ||| i))

/-- XORI (Table 8.2). -/
def execXori (d a : BitVec 6) (i : Imm) (s : State) : Host.Outcome State Fault Refusal :=
  issue (.xori d a i) s (fun s => s.si 1 d a i (fun x i => x ^^^ i))

/-- SHLI (Table 8.2). -/
def execShli (d a : BitVec 6) (i : Imm) (s : State) : Host.Outcome State Fault Refusal :=
  issue (.shli d a i) s (fun s => s.si 1 d a i (fun x i => x <<< i.toNat))

/-- SHRI (Table 8.2). -/
def execShri (d a : BitVec 6) (i : Imm) (s : State) : Host.Outcome State Fault Refusal :=
  issue (.shri d a i) s (fun s => s.si 1 d a i (fun x i => x >>> i.toNat))

/-- SRAI (Table 8.2). -/
def execSrai (d a : BitVec 6) (i : Imm) (s : State) : Host.Outcome State Fault Refusal :=
  issue (.srai d a i) s (fun s => s.si 1 d a i (fun x i => x.sshiftRight i.toNat))

/-- MULI (Table 8.2). -/
def execMuli (d a : BitVec 6) (i : Imm) (s : State) : Host.Outcome State Fault Refusal :=
  issue (.muli d a i) s (fun s => s.si 3 d a i (fun x i => x * i))

/-- CEQI (Table 8.2). -/
def execCeqi (d a : BitVec 6) (i : Imm) (s : State) : Host.Outcome State Fault Refusal :=
  issue (.ceqi d a i) s (fun s => s.si 1 d a i (fun x i => boolWord (x == i)))

/-- CLTI (Table 8.2). -/
def execClti (d a : BitVec 6) (i : Imm) (s : State) : Host.Outcome State Fault Refusal :=
  issue (.clti d a i) s (fun s => s.si 1 d a i (fun x i => boolWord (decide (x.toInt < i.toInt))))

/-- CLTNI (Table 8.2). -/
def execCltni (d a : BitVec 6) (i : Imm) (s : State) : Host.Outcome State Fault Refusal :=
  issue (.cltni d a i) s (fun s => s.si 1 d a i (fun x i => boolWord (decide (x.toNat < i.toNat))))

/-- MOVHI (Table 8.2). -/
def execMovhi (d a : BitVec 6) (i : Imm) (s : State) : Host.Outcome State Fault Refusal :=
  issue (.movhi d a i) s (fun s => s.si 1 d a i (fun x i => i.setWidth 27 ++ x.setWidth 37))

/-- ADPC (Table 8.2): pc + i. -/
def execAdpc (d : BitVec 6) (i : Imm) (s : State) : Host.Outcome State Fault Refusal :=
  issue (.adpc d i) s (fun s => s.writeG 1 d (s.cx.pc + i.val))

/-- ADDWI (Table 8.2). -/
def execAddwi (d a : BitVec 6) (i : Imm) (s : State) : Host.Outcome State Fault Refusal :=
  issue (.addwi d a i) s (fun s => s.si 1 d a i (fun x i => sext32 (low32 x + low32 i)))

end Sys2Proof.Machine
end

