-- ==== Sys2Proof/Machine/Vector.lean ====
section
/-!
DEFINITION. The VV, VR, VM and FS groups: vector arithmetic, conversions, reductions, lane moves, masks, tree masks,
polynomials and special functions (R184 to R207, R265 to R273).
-/

namespace Sys2Proof.Machine

/-- What a vector word reads of its context besides operands (R184). -/
def State.env (s : State) : Env :=
  let x := s.cx
  ⟨x.vshape.toNat, ⟨x.round.extractLsb' 0 2, x.round.getLsbD 2⟩, x.key, x.tile, (s.regOf s.me).period⟩

/-- A one-source element-wise word. -/
def State.vv1 (s : State) (lat : Nat) (f m : BitVec 3) (d a : BitVec 5) (op : Env → Nat → Nat × Flags) : State :=
  let va := s.cx.rv a
  s.writeV lat d (each f (s.cx.rm m) (fun l => op s.env (lane (eb f) va l)))

/-- A two-source element-wise word. -/
def State.vv2 (s : State) (lat : Nat) (f m : BitVec 3) (d a b : BitVec 5) (op : Env → Nat → Nat → Nat × Flags) : State :=
  let va := s.cx.rv a
  let vb := s.cx.rv b
  s.writeV lat d (each f (s.cx.rm m) (fun l => op s.env (lane (eb f) va l) (lane (eb f) vb l)))

/-- A three-source element-wise word: vd is also read. -/
def State.vv3 (s : State) (f m : BitVec 3) (d a b : BitVec 5) (negP negD : Bool) : State :=
  let va := s.cx.rv a
  let vb := s.cx.rv b
  let vd := s.cx.rv d
  s.writeV 4 d (each f (s.cx.rm m) (fun l =>
    fused f s.env.rnd negP negD (lane (eb f) va l) (lane (eb f) vb l) (lane (eb f) vd l)))

/-- VSEL: every lane is written, from va where the mask has a 1 (R192). -/
def State.vselect (s : State) (f m : BitVec 3) (d a b : BitVec 5) : State :=
  let va := s.cx.rv a
  let vb := s.cx.rv b
  let mk := s.cx.rm m
  s.writeV 2 d ((each f (BitVec.allOnes 512) (fun l =>
    (if bitOf mk l then lane (eb f) va l else lane (eb f) vb l, 0))).whole)

/-- A compare into mask vd (R191). -/
def State.vcompare (s : State) (f m : BitVec 3) (d a b : BitVec 5) (kind : Nat) : State :=
  let r := compareLanes f (s.cx.rm m) kind (s.cx.rv a) (s.cx.rv b)
  s.writeM 2 (d.setWidth 3) r.1 r.2

/-- A VR word of one vector source. -/
def State.vr1 (s : State) (lat : Nat) (m : BitVec 3) (d a : BitVec 5) (op : Env → BitVec 512 → BitVec 4096 → VRes) :
    State :=
  s.writeV lat d (op s.env (s.cx.rm m) (s.cx.rv a))

/-- A mask-register word (R204). -/
def State.mask2 (s : State) (d a b : BitVec 5) (op : BitVec 512 → BitVec 512 → BitVec 512) : State :=
  s.writeM 2 (d.setWidth 3) (op (s.cx.rm (a.setWidth 3)) (s.cx.rm (b.setWidth 3))) (BitVec.allOnes 512)

/-- The bits 0 to N − 1 of a mask that are set (R204). -/
def maskCount (f : BitVec 3) (m : BitVec 512) : Nat := (List.range (laneCount f)).countP (bitOf m)

/-- A polynomial that a word leaves behind, `lat` cycles after its issue; a step of more than one cycle keeps it busy
until then (R267). -/
def State.putPoly (s : State) (lat : Nat) (q : BitVec 3) (r : Poly × Flags) : State :=
  let s := s.later lat .ld (.poly q r.1 r.2)
  if lat = 1 then s
  else s.modCx (fun x => { x with qbusy := Table.set x.qbusy q.toNat (s.now s.me + lat) })

/-- VADD (Table 9.3). -/
def execVadd (f m : BitVec 3) (d a b : BitVec 5) (s : State) : Host.Outcome State Fault Refusal :=
  issue (.vadd f m d a b) s (fun s => s.vv2 2 f m d a b (fun e => vadd f e.rnd))

/-- VSUB (Table 9.3). -/
def execVsub (f m : BitVec 3) (d a b : BitVec 5) (s : State) : Host.Outcome State Fault Refusal :=
  issue (.vsub f m d a b) s (fun s => s.vv2 2 f m d a b (fun e => vsub f e.rnd))

/-- VMUL (Table 9.3). -/
def execVmul (f m : BitVec 3) (d a b : BitVec 5) (s : State) : Host.Outcome State Fault Refusal :=
  issue (.vmul f m d a b) s (fun s => s.vv2 4 f m d a b (fun e => vmul f e.rnd))

/-- VFMA (Table 9.3). -/
def execVfma (f m : BitVec 3) (d a b : BitVec 5) (s : State) : Host.Outcome State Fault Refusal :=
  issue (.vfma f m d a b) s (fun s => s.vv3 f m d a b false false)

/-- VFMS (Table 9.3). -/
def execVfms (f m : BitVec 3) (d a b : BitVec 5) (s : State) : Host.Outcome State Fault Refusal :=
  issue (.vfms f m d a b) s (fun s => s.vv3 f m d a b false true)

/-- VFNMA (Table 9.3). -/
def execVfnma (f m : BitVec 3) (d a b : BitVec 5) (s : State) : Host.Outcome State Fault Refusal :=
  issue (.vfnma f m d a b) s (fun s => s.vv3 f m d a b true false)

/-- VMIN (Table 9.3). -/
def execVmin (f m : BitVec 3) (d a b : BitVec 5) (s : State) : Host.Outcome State Fault Refusal :=
  issue (.vmin f m d a b) s (fun s => s.vv2 2 f m d a b (fun _ => minmax f false))

/-- VMAX (Table 9.3). -/
def execVmax (f m : BitVec 3) (d a b : BitVec 5) (s : State) : Host.Outcome State Fault Refusal :=
  issue (.vmax f m d a b) s (fun s => s.vv2 2 f m d a b (fun _ => minmax f true))

/-- VABS (Table 9.3). -/
def execVabs (f m : BitVec 3) (d a : BitVec 5) (s : State) : Host.Outcome State Fault Refusal :=
  issue (.vabs f m d a) s (fun s => s.vv1 2 f m d a (fun _ => signOp f false))

/-- VNEG (Table 9.3). -/
def execVneg (f m : BitVec 3) (d a : BitVec 5) (s : State) : Host.Outcome State Fault Refusal :=
  issue (.vneg f m d a) s (fun s => s.vv1 2 f m d a (fun _ => signOp f true))

/-- VAND (Table 9.3). -/
def execVand (f m : BitVec 3) (d a b : BitVec 5) (s : State) : Host.Outcome State Fault Refusal :=
  issue (.vand f m d a b) s (fun s => s.vv2 2 f m d a b (fun _ x y => (x &&& y, 0)))

/-- VOR (Table 9.3). -/
def execVor (f m : BitVec 3) (d a b : BitVec 5) (s : State) : Host.Outcome State Fault Refusal :=
  issue (.vor f m d a b) s (fun s => s.vv2 2 f m d a b (fun _ x y => (x ||| y, 0)))

/-- VXOR (Table 9.3). -/
def execVxor (f m : BitVec 3) (d a b : BitVec 5) (s : State) : Host.Outcome State Fault Refusal :=
  issue (.vxor f m d a b) s (fun s => s.vv2 2 f m d a b (fun _ x y => (x ^^^ y, 0)))

/-- VNOT (Table 9.3). -/
def execVnot (f m : BitVec 3) (d a : BitVec 5) (s : State) : Host.Outcome State Fault Refusal :=
  issue (.vnot f m d a) s (fun s => s.vv1 2 f m d a (fun _ x => (2 ^ eb f - 1 - x, 0)))

/-- VSHL (Table 9.3). -/
def execVshl (f m : BitVec 3) (d a b : BitVec 5) (s : State) : Host.Outcome State Fault Refusal :=
  issue (.vshl f m d a b) s (fun s => s.vv2 2 f m d a b (fun _ => vshift f 0))

/-- VSHR (Table 9.3). -/
def execVshr (f m : BitVec 3) (d a b : BitVec 5) (s : State) : Host.Outcome State Fault Refusal :=
  issue (.vshr f m d a b) s (fun s => s.vv2 2 f m d a b (fun _ => vshift f 1))

/-- VSRA (Table 9.3). -/
def execVsra (f m : BitVec 3) (d a b : BitVec 5) (s : State) : Host.Outcome State Fault Refusal :=
  issue (.vsra f m d a b) s (fun s => s.vv2 2 f m d a b (fun _ => vshift f 2))

/-- VMOV (Table 9.3). -/
def execVmov (f m : BitVec 3) (d a : BitVec 5) (s : State) : Host.Outcome State Fault Refusal :=
  issue (.vmov f m d a) s (fun s => s.vv1 2 f m d a (fun _ x => (x, 0)))

/-- VSEL (Table 9.3, R192). -/
def execVsel (f m : BitVec 3) (d a b : BitVec 5) (s : State) : Host.Outcome State Fault Refusal :=
  issue (.vsel f m d a b) s (fun s => s.vselect f m d a b)

/-- VCEQ (Table 9.3, R191). -/
def execVceq (f m : BitVec 3) (d a b : BitVec 5) (s : State) : Host.Outcome State Fault Refusal :=
  issue (.vceq f m d a b) s (fun s => s.vcompare f m d a b 0)

/-- VCNE (Table 9.3, R191). -/
def execVcne (f m : BitVec 3) (d a b : BitVec 5) (s : State) : Host.Outcome State Fault Refusal :=
  issue (.vcne f m d a b) s (fun s => s.vcompare f m d a b 1)

/-- VCLT (Table 9.3, R191). -/
def execVclt (f m : BitVec 3) (d a b : BitVec 5) (s : State) : Host.Outcome State Fault Refusal :=
  issue (.vclt f m d a b) s (fun s => s.vcompare f m d a b 2)

/-- VCLE (Table 9.3, R191). -/
def execVcle (f m : BitVec 3) (d a b : BitVec 5) (s : State) : Host.Outcome State Fault Refusal :=
  issue (.vcle f m d a b) s (fun s => s.vcompare f m d a b 3)

/-- VSCALEB (R95, R193). -/
def execVscaleb (f m : BitVec 3) (d a b : BitVec 5) (s : State) : Host.Outcome State Fault Refusal :=
  issue (.vscaleb f m d a b) s (fun s => s.vv2 2 f m d a b (fun e => vscaleb f e.rnd))

/-- VEXPO (R95, R193). -/
def execVexpo (f m : BitVec 3) (d a : BitVec 5) (s : State) : Host.Outcome State Fault Refusal :=
  issue (.vexpo f m d a) s (fun s => s.vv1 2 f m d a (fun _ => vexpo f))

/-- VCVT (R194, R195). -/
def execVcvt (f m : BitVec 3) (d a : BitVec 5) (p : BitVec 2) (fs : BitVec 3) (s : State) : Host.Outcome State Fault Refusal :=
  issue (.vcvt f m d a p fs) s (fun s => s.vr1 3 m d a (fun e => vcvt e f fs p.toNat))

/-- VCVTS (R194, R196). -/
def execVcvts (f m : BitVec 3) (d a : BitVec 5) (p : BitVec 2) (fs : BitVec 3) (s : State) : Host.Outcome State Fault Refusal :=
  issue (.vcvts f m d a p fs) s (fun s => s.vr1 3 m d a (fun e => vcvts e f fs p.toNat))

/-- VRMAX (R197, R198). -/
def execVrmax (f m : BitVec 3) (d a : BitVec 5) (s : State) : Host.Outcome State Fault Refusal :=
  issue (.vrmax f m d a) s (fun s => s.vr1 6 m d a (fun e => vrext e f true false))

/-- VRMIN (R197, R198). -/
def execVrmin (f m : BitVec 3) (d a : BitVec 5) (s : State) : Host.Outcome State Fault Refusal :=
  issue (.vrmin f m d a) s (fun s => s.vr1 6 m d a (fun e => vrext e f false false))

/-- VRSUM (R197, R198). -/
def execVrsum (f m : BitVec 3) (d a : BitVec 5) (s : State) : Host.Outcome State Fault Refusal :=
  issue (.vrsum f m d a) s (fun s => s.vr1 6 m d a (fun e => vrsum e f))

/-- VRSSQ (R197, R198). -/
def execVrssq (f m : BitVec 3) (d a : BitVec 5) (s : State) : Host.Outcome State Fault Refusal :=
  issue (.vrssq f m d a) s (fun s => s.vr1 6 m d a (fun e => vrssq e f))

/-- VRAMAX (R197, R198). -/
def execVramax (f m : BitVec 3) (d a : BitVec 5) (s : State) : Host.Outcome State Fault Refusal :=
  issue (.vramax f m d a) s (fun s => s.vr1 6 m d a (fun e => vrext e f true true))

/-- VRARG (R197, R198). -/
def execVrarg (f m : BitVec 3) (d a : BitVec 5) (s : State) : Host.Outcome State Fault Refusal :=
  issue (.vrarg f m d a) s (fun s => s.vr1 6 m d a (fun e => vrarg e f))

/-- VCSUM (R199). -/
def execVcsum (f m : BitVec 3) (d a : BitVec 5) (s : State) : Host.Outcome State Fault Refusal :=
  issue (.vcsum f m d a) s (fun s => s.vr1 6 m d a (fun e => vcsum e f))

/-- VSCAN (R199). -/
def execVscan (f m : BitVec 3) (d a : BitVec 5) (s : State) : Host.Outcome State Fault Refusal :=
  issue (.vscan f m d a) s (fun s => s.vr1 6 m d a (fun e => vscan e f))

/-- VBROW (Table 9.5). -/
def execVbrow (f m : BitVec 3) (d a : BitVec 5) (s : State) : Host.Outcome State Fault Refusal :=
  issue (.vbrow f m d a) s (fun s => s.vr1 4 m d a (fun e => vbrow e f))

/-- VBCOL (Table 9.5). -/
def execVbcol (f m : BitVec 3) (d a : BitVec 5) (s : State) : Host.Outcome State Fault Refusal :=
  issue (.vbcol f m d a) s (fun s => s.vr1 4 m d a (fun e => vbcol e f))

/-- VSPLAT (Table 9.5). -/
def execVsplat (f m : BitVec 3) (d a : BitVec 5) (s : State) : Host.Outcome State Fault Refusal :=
  issue (.vsplat f m d a) s (fun s => s.writeV 4 d (vsplat f (s.cx.rm m) (s.cx.rg (a.setWidth 6))))

/-- VINS (Table 9.5). -/
def execVins (f : BitVec 3) (d a b : BitVec 5) (s : State) : Host.Outcome State Fault Refusal :=
  issue (.vins f d a b) s (fun s => s.writeV 4 d (vins f (s.cx.rg (a.setWidth 6)) (s.cx.rg (b.setWidth 6))))

/-- VEXT (Table 9.5). -/
def execVext (f : BitVec 3) (d a b : BitVec 5) (s : State) : Host.Outcome State Fault Refusal :=
  issue (.vext f d a b) s (fun s => s.writeG 4 (d.setWidth 6) (vext f (s.cx.rv a) (s.cx.rg (b.setWidth 6))))

/-- VPERM (Table 9.5). -/
def execVperm (f m : BitVec 3) (d a b : BitVec 5) (s : State) : Host.Outcome State Fault Refusal :=
  issue (.vperm f m d a b) s (fun s => s.writeV 4 d (vperm f (s.cx.rm m) (s.cx.rv a) (s.cx.rv b)))

/-- VTRANS (Table 9.5). -/
def execVtrans (f m : BitVec 3) (d a : BitVec 5) (s : State) : Host.Outcome State Fault Refusal :=
  issue (.vtrans f m d a) s (fun s => s.vr1 4 m d a (fun e => vtrans e f))

/-- VIOTA (Table 9.5). -/
def execViota (f m : BitVec 3) (d : BitVec 5) (s : State) : Host.Outcome State Fault Refusal :=
  issue (.viota f m d) s (fun s => s.writeV 4 d (viota s.env f (s.cx.rm m)))

/-- VRAND (R201). -/
def execVrand (f m : BitVec 3) (d a : BitVec 5) (s : State) : Host.Outcome State Fault Refusal :=
  issue (.vrand f m d a) s (fun s => s.writeV 4 d (vrand s.env f (s.cx.rm m) (s.cx.rg (a.setWidth 6))))

/-- VOXD (R202). -/
def execVoxd (f m : BitVec 3) (d a b : BitVec 5) (s : State) : Host.Outcome State Fault Refusal :=
  issue (.voxd f m d a b) s (fun s => s.vr1 3 m d a (fun e k v => voxd e f k v b.toNat))

/-- VOXE (R203). -/
def execVoxe (f : BitVec 3) (d a b : BitVec 5) (s : State) : Host.Outcome State Fault Refusal :=
  issue (.voxe f d a b) s (fun s => s.writeV 3 d (voxe f (s.cx.rv a) b.toNat))

/-- MAND (R204). -/
def execMand (d a b : BitVec 5) (s : State) : Host.Outcome State Fault Refusal :=
  issue (.mand d a b) s (fun s => s.mask2 d a b (fun x y => x &&& y))

/-- MOR (R204). -/
def execMor (d a b : BitVec 5) (s : State) : Host.Outcome State Fault Refusal :=
  issue (.mor d a b) s (fun s => s.mask2 d a b (fun x y => x ||| y))

/-- MXOR (R204). -/
def execMxor (d a b : BitVec 5) (s : State) : Host.Outcome State Fault Refusal :=
  issue (.mxor d a b) s (fun s => s.mask2 d a b (fun x y => x ^^^ y))

/-- MNOT (R204). -/
def execMnot (d a : BitVec 5) (s : State) : Host.Outcome State Fault Refusal :=
  issue (.mnot d a) s (fun s => s.mask2 d a a (fun x _ => ~~~x))

/-- MPOPC (R204). -/
def execMpopc (f : BitVec 3) (d a : BitVec 5) (s : State) : Host.Outcome State Fault Refusal :=
  issue (.mpopc f d a) s (fun s => s.writeG 2 (d.setWidth 6) (BitVec.ofNat 64 (maskCount f (s.cx.rm (a.setWidth 3)))))

/-- VTREE (R205). -/
def execVtree (f m : BitVec 3) (d a b : BitVec 5) (s : State) : Host.Outcome State Fault Refusal :=
  issue (.vtree f m d a b) s (fun s => s.writeV 6 d (vtree s.env f (s.cx.rm m) (s.cx.rv a) (s.cx.rg (b.setWidth 6))))

/-- PPINIT (R269). -/
def execPpinit (d : BitVec 5) (s : State) : Host.Outcome State Fault Refusal :=
  issue (.ppinit d) s (fun s => s.putPoly 1 (d.setWidth 3) (ppInit (s.cx.poly (d.setWidth 3).toNat), 0))

/-- PPDEG (R269). -/
def execPpdeg (d a : BitVec 5) (s : State) : Host.Outcome State Fault Refusal :=
  issue (.ppdeg d a) s (fun s => s.putPoly 1 (d.setWidth 3) (ppDeg (s.cx.poly (d.setWidth 3).toNat) (s.cx.rg (a.setWidth 6))))

/-- PPMUL (R270). -/
def execPpmul (f m : BitVec 3) (d a b : BitVec 5) (s : State) : Host.Outcome State Fault Refusal :=
  issue (.ppmul f m d a b) s (fun s => s.putPoly ((activeLanes f (s.cx.rm m)).length + 4) (d.setWidth 3)
    (ppMul (s.cx.poly (d.setWidth 3).toNat) f (s.cx.rm m) (s.cx.rv a) (s.cx.rv b)))

/-- PPDIV (R271). -/
def execPpdiv (f m : BitVec 3) (d a b : BitVec 5) (s : State) : Host.Outcome State Fault Refusal :=
  issue (.ppdiv f m d a b) s (fun s => s.putPoly 5 (d.setWidth 3)
    (ppDiv (s.cx.poly (d.setWidth 3).toNat) f (s.cx.rm m) (s.cx.rv a) (s.cx.rv b)))

/-- PPRD (R273). -/
def execPprd (f m : BitVec 3) (d a b : BitVec 5) (s : State) : Host.Outcome State Fault Refusal :=
  issue (.pprd f m d a b) s (fun s => s.writeV 4 d (ppRead s.env (s.cx.poly (a.setWidth 3).toNat) f (s.cx.rm m) (s.cx.rg (b.setWidth 6))))

/-- PPSCALE (R269). -/
def execPpscale (d a : BitVec 5) (s : State) : Host.Outcome State Fault Refusal :=
  issue (.ppscale d a) s (fun s => s.putPoly 1 (d.setWidth 3) (ppScale (s.cx.poly (d.setWidth 3).toNat) (s.cx.rg (a.setWidth 6))))

/-- PPSTAT (R273). -/
def execPpstat (d a : BitVec 5) (s : State) : Host.Outcome State Fault Refusal :=
  issue (.ppstat d a) s (fun s => s.writeG 4 (d.setWidth 6) (s.cx.poly (a.setWidth 3).toNat).status)

/-- FEXP2 (R206, R207). -/
def execFexp2 (f m : BitVec 3) (d a : BitVec 5) (s : State) : Host.Outcome State Fault Refusal :=
  issue (.fexp2 f m d a) s (fun s => s.vr1 10 m d a (fun e => vspecial e .exp2 f))

/-- FEXP2M (R206, R207). -/
def execFexp2m (f m : BitVec 3) (d a b : BitVec 5) (s : State) : Host.Outcome State Fault Refusal :=
  issue (.fexp2m f m d a b) s (fun s => s.writeV 10 d (vexp2m s.env f (s.cx.rm m) (s.cx.rv a) (s.cx.rv b)))

/-- FLOG2 (R206, R207). -/
def execFlog2 (f m : BitVec 3) (d a : BitVec 5) (s : State) : Host.Outcome State Fault Refusal :=
  issue (.flog2 f m d a) s (fun s => s.vr1 10 m d a (fun e => vspecial e .log2 f))

/-- FRCP (R206, R207). -/
def execFrcp (f m : BitVec 3) (d a : BitVec 5) (s : State) : Host.Outcome State Fault Refusal :=
  issue (.frcp f m d a) s (fun s => s.vr1 10 m d a (fun e => vspecial e .rcp f))

/-- FRSQ (R206, R207). -/
def execFrsq (f m : BitVec 3) (d a : BitVec 5) (s : State) : Host.Outcome State Fault Refusal :=
  issue (.frsq f m d a) s (fun s => s.vr1 10 m d a (fun e => vspecial e .rsq f))

/-- FSQRT (R206, R207). -/
def execFsqrt (f m : BitVec 3) (d a : BitVec 5) (s : State) : Host.Outcome State Fault Refusal :=
  issue (.fsqrt f m d a) s (fun s => s.vr1 10 m d a (fun e => vspecial e .sqrt f))

/-- FSIN (R206, R207). -/
def execFsin (f m : BitVec 3) (d a : BitVec 5) (s : State) : Host.Outcome State Fault Refusal :=
  issue (.fsin f m d a) s (fun s => s.vr1 10 m d a (fun e => vspecial e .sin f))

/-- FCOS (R206, R207). -/
def execFcos (f m : BitVec 3) (d a : BitVec 5) (s : State) : Host.Outcome State Fault Refusal :=
  issue (.fcos f m d a) s (fun s => s.vr1 10 m d a (fun e => vspecial e .cos f))

/-- FTANH (R206, R207). -/
def execFtanh (f m : BitVec 3) (d a : BitVec 5) (s : State) : Host.Outcome State Fault Refusal :=
  issue (.ftanh f m d a) s (fun s => s.vr1 10 m d a (fun e => vspecial e .tanh f))

/-- FSIGM (R206, R207). -/
def execFsigm (f m : BitVec 3) (d a : BitVec 5) (s : State) : Host.Outcome State Fault Refusal :=
  issue (.fsigm f m d a) s (fun s => s.vr1 10 m d a (fun e => vspecial e .sigm f))

/-- FERF (R206, R207). -/
def execFerf (f m : BitVec 3) (d a : BitVec 5) (s : State) : Host.Outcome State Fault Refusal :=
  issue (.ferf f m d a) s (fun s => s.vr1 10 m d a (fun e => vspecial e .erf f))

/-- FSILU (R206, R207). -/
def execFsilu (f m : BitVec 3) (d a : BitVec 5) (s : State) : Host.Outcome State Fault Refusal :=
  issue (.fsilu f m d a) s (fun s => s.vr1 10 m d a (fun e => vspecial e .silu f))

end Sys2Proof.Machine
end

