-- ==== Sys2Proof/Machine/Dispatch.lean ====
section
/-!
DEFINITION. The dispatch of every instruction and event of the opcode table to its meaning.
-/

namespace Sys2Proof.Machine

/-- The meaning of one instruction or event. -/
def exec (i : Instr) (s : State) : Host.Outcome State Fault Refusal :=
  match i with
  | .nop => Sys2Proof.Machine.execNop s
  | .add d a b => Sys2Proof.Machine.execAdd d a b s
  | .sub d a b => Sys2Proof.Machine.execSub d a b s
  | .and d a b => Sys2Proof.Machine.execAnd d a b s
  | .or d a b => Sys2Proof.Machine.execOr d a b s
  | .xor d a b => Sys2Proof.Machine.execXor d a b s
  | .andn d a b => Sys2Proof.Machine.execAndn d a b s
  | .shl d a b => Sys2Proof.Machine.execShl d a b s
  | .shr d a b => Sys2Proof.Machine.execShr d a b s
  | .sra d a b => Sys2Proof.Machine.execSra d a b s
  | .rol d a b => Sys2Proof.Machine.execRol d a b s
  | .ror d a b => Sys2Proof.Machine.execRor d a b s
  | .mul d a b => Sys2Proof.Machine.execMul d a b s
  | .mulh d a b => Sys2Proof.Machine.execMulh d a b s
  | .mulhn d a b => Sys2Proof.Machine.execMulhn d a b s
  | .div d a b => Sys2Proof.Machine.execDiv d a b s
  | .divn d a b => Sys2Proof.Machine.execDivn d a b s
  | .rem d a b => Sys2Proof.Machine.execRem d a b s
  | .remn d a b => Sys2Proof.Machine.execRemn d a b s
  | .min d a b => Sys2Proof.Machine.execMin d a b s
  | .max d a b => Sys2Proof.Machine.execMax d a b s
  | .minn d a b => Sys2Proof.Machine.execMinn d a b s
  | .maxn d a b => Sys2Proof.Machine.execMaxn d a b s
  | .ceq d a b => Sys2Proof.Machine.execCeq d a b s
  | .cne d a b => Sys2Proof.Machine.execCne d a b s
  | .clt d a b => Sys2Proof.Machine.execClt d a b s
  | .cle d a b => Sys2Proof.Machine.execCle d a b s
  | .cltn d a b => Sys2Proof.Machine.execCltn d a b s
  | .clen d a b => Sys2Proof.Machine.execClen d a b s
  | .sel d a b => Sys2Proof.Machine.execSel d a b s
  | .clz d a => Sys2Proof.Machine.execClz d a s
  | .ctz d a => Sys2Proof.Machine.execCtz d a s
  | .popc d a => Sys2Proof.Machine.execPopc d a s
  | .brev d a => Sys2Proof.Machine.execBrev d a s
  | .bswap d a => Sys2Proof.Machine.execBswap d a s
  | .exts d a w => Sys2Proof.Machine.execExts d a w s
  | .extz d a w => Sys2Proof.Machine.execExtz d a w s
  | .addW d a b => Sys2Proof.Machine.execAddW d a b s
  | .subW d a b => Sys2Proof.Machine.execSubW d a b s
  | .shlW d a b => Sys2Proof.Machine.execShlW d a b s
  | .shrW d a b => Sys2Proof.Machine.execShrW d a b s
  | .sraW d a b => Sys2Proof.Machine.execSraW d a b s
  | .mulW d a b => Sys2Proof.Machine.execMulW d a b s
  | .divW d a b => Sys2Proof.Machine.execDivW d a b s
  | .divnW d a b => Sys2Proof.Machine.execDivnW d a b s
  | .remW d a b => Sys2Proof.Machine.execRemW d a b s
  | .remnW d a b => Sys2Proof.Machine.execRemnW d a b s
  | .addi d a ix => Sys2Proof.Machine.execAddi d a ix s
  | .andi d a ix => Sys2Proof.Machine.execAndi d a ix s
  | .ori d a ix => Sys2Proof.Machine.execOri d a ix s
  | .xori d a ix => Sys2Proof.Machine.execXori d a ix s
  | .shli d a ix => Sys2Proof.Machine.execShli d a ix s
  | .shri d a ix => Sys2Proof.Machine.execShri d a ix s
  | .srai d a ix => Sys2Proof.Machine.execSrai d a ix s
  | .muli d a ix => Sys2Proof.Machine.execMuli d a ix s
  | .ceqi d a ix => Sys2Proof.Machine.execCeqi d a ix s
  | .clti d a ix => Sys2Proof.Machine.execClti d a ix s
  | .cltni d a ix => Sys2Proof.Machine.execCltni d a ix s
  | .movhi d a ix => Sys2Proof.Machine.execMovhi d a ix s
  | .adpc d ix => Sys2Proof.Machine.execAdpc d ix s
  | .addwi d a ix => Sys2Proof.Machine.execAddwi d a ix s
  | .beq a b o => Sys2Proof.Machine.execBeq a b o s
  | .bne a b o => Sys2Proof.Machine.execBne a b o s
  | .blt a b o => Sys2Proof.Machine.execBlt a b o s
  | .bge a b o => Sys2Proof.Machine.execBge a b o s
  | .bltn a b o => Sys2Proof.Machine.execBltn a b o s
  | .bgen a b o => Sys2Proof.Machine.execBgen a b o s
  | .jmp o => Sys2Proof.Machine.execJmp o s
  | .jal d o => Sys2Proof.Machine.execJal d o s
  | .jr a o => Sys2Proof.Machine.execJr a o s
  | .jalr a b o => Sys2Proof.Machine.execJalr a b o s
  | .loop a o => Sys2Proof.Machine.execLoop a o s
  | .knext => Sys2Proof.Machine.execKnext s
  | .endTask => Sys2Proof.Machine.execEndTask s
  | .trap d o => Sys2Proof.Machine.execTrap d o s
  | .srr d sf => Sys2Proof.Machine.execSrr d sf s
  | .srw d a sf => Sys2Proof.Machine.execSrw d a sf s
  | .srs d a sf => Sys2Proof.Machine.execSrs d a sf s
  | .src d a sf => Sys2Proof.Machine.execSrc d a sf s
  | .idle d a => Sys2Proof.Machine.execIdle d a s
  | .digest d a z => Sys2Proof.Machine.execDigest d a z s
  | .brk => Sys2Proof.Machine.execBrk s
  | .eret => Sys2Proof.Machine.execEret s
  | .tlbi a k => Sys2Proof.Machine.execTlbi a k s
  | .swctx => Sys2Proof.Machine.execSwctx s
  | .flushi => Sys2Proof.Machine.execFlushi s
  | .retime d a r => Sys2Proof.Machine.execRetime d a r s
  | .mma c h j f g v l z p q => Sys2Proof.Machine.execMma c h j f g v l z p q s
  | .mmas c h j f g v l z q => Sys2Proof.Machine.execMmas c h j f g v l z q s
  | .mmag c h j f g v l z p q => Sys2Proof.Machine.execMmag c h j f g v l z p q s
  | .mhad c h n => Sys2Proof.Machine.execMhad c h n s
  | .mzero c k => Sys2Proof.Machine.execMzero c k s
  | .mdrain c h j f k u w r d => Sys2Proof.Machine.execMdrain c h j f k u w r d s
  | .mload c h v k => Sys2Proof.Machine.execMload c h v k s
  | .ecw a b => Sys2Proof.Machine.execEcw a b s
  | .ecr a b => Sys2Proof.Machine.execEcr a b s
  | .cpy a b m c => Sys2Proof.Machine.execCpy a b m c s
  | .cpyx a c => Sys2Proof.Machine.execCpyx a c s
  | .gcfg a sf => Sys2Proof.Machine.execGcfg a sf s
  | .ctblk a k => Sys2Proof.Machine.execCtblk a k s
  | .ctsnap a k => Sys2Proof.Machine.execCtsnap a k s
  | .ctqry a b k => Sys2Proof.Machine.execCtqry a b k s
  | .ctstep k => Sys2Proof.Machine.execCtstep k s
  | .ctclr a k => Sys2Proof.Machine.execCtclr a k s
  | .ctsave a => Sys2Proof.Machine.execCtsave a s
  | .ctload a => Sys2Proof.Machine.execCtload a s
  | .kvcommit a b c => Sys2Proof.Machine.execKvcommit a b c s
  | .kvreset a b c => Sys2Proof.Machine.execKvreset a b c s
  | .xbind a b => Sys2Proof.Machine.execXbind a b s
  | .xstat a b => Sys2Proof.Machine.execXstat a b s
  | .rcfg a b r => Sys2Proof.Machine.execRcfg a b r s
  | .rrst r => Sys2Proof.Machine.execRrst r s
  | .hcfg a k => Sys2Proof.Machine.execHcfg a k s
  | .harm a k => Sys2Proof.Machine.execHarm a k s
  | .hread a b k => Sys2Proof.Machine.execHread a b k s
  | .vadd f m d a b => Sys2Proof.Machine.execVadd f m d a b s
  | .vsub f m d a b => Sys2Proof.Machine.execVsub f m d a b s
  | .vmul f m d a b => Sys2Proof.Machine.execVmul f m d a b s
  | .vfma f m d a b => Sys2Proof.Machine.execVfma f m d a b s
  | .vfms f m d a b => Sys2Proof.Machine.execVfms f m d a b s
  | .vfnma f m d a b => Sys2Proof.Machine.execVfnma f m d a b s
  | .vmin f m d a b => Sys2Proof.Machine.execVmin f m d a b s
  | .vmax f m d a b => Sys2Proof.Machine.execVmax f m d a b s
  | .vabs f m d a => Sys2Proof.Machine.execVabs f m d a s
  | .vneg f m d a => Sys2Proof.Machine.execVneg f m d a s
  | .vand f m d a b => Sys2Proof.Machine.execVand f m d a b s
  | .vor f m d a b => Sys2Proof.Machine.execVor f m d a b s
  | .vxor f m d a b => Sys2Proof.Machine.execVxor f m d a b s
  | .vnot f m d a => Sys2Proof.Machine.execVnot f m d a s
  | .vshl f m d a b => Sys2Proof.Machine.execVshl f m d a b s
  | .vshr f m d a b => Sys2Proof.Machine.execVshr f m d a b s
  | .vsra f m d a b => Sys2Proof.Machine.execVsra f m d a b s
  | .vmov f m d a => Sys2Proof.Machine.execVmov f m d a s
  | .vsel f m d a b => Sys2Proof.Machine.execVsel f m d a b s
  | .vceq f m d a b => Sys2Proof.Machine.execVceq f m d a b s
  | .vcne f m d a b => Sys2Proof.Machine.execVcne f m d a b s
  | .vclt f m d a b => Sys2Proof.Machine.execVclt f m d a b s
  | .vcle f m d a b => Sys2Proof.Machine.execVcle f m d a b s
  | .vscaleb f m d a b => Sys2Proof.Machine.execVscaleb f m d a b s
  | .vexpo f m d a => Sys2Proof.Machine.execVexpo f m d a s
  | .vcvt f m d a p sf => Sys2Proof.Machine.execVcvt f m d a p sf s
  | .vcvts f m d a p sf => Sys2Proof.Machine.execVcvts f m d a p sf s
  | .vrmax f m d a => Sys2Proof.Machine.execVrmax f m d a s
  | .vrmin f m d a => Sys2Proof.Machine.execVrmin f m d a s
  | .vrsum f m d a => Sys2Proof.Machine.execVrsum f m d a s
  | .vrssq f m d a => Sys2Proof.Machine.execVrssq f m d a s
  | .vramax f m d a => Sys2Proof.Machine.execVramax f m d a s
  | .vrarg f m d a => Sys2Proof.Machine.execVrarg f m d a s
  | .vcsum f m d a => Sys2Proof.Machine.execVcsum f m d a s
  | .vscan f m d a => Sys2Proof.Machine.execVscan f m d a s
  | .vbrow f m d a => Sys2Proof.Machine.execVbrow f m d a s
  | .vbcol f m d a => Sys2Proof.Machine.execVbcol f m d a s
  | .vsplat f m d a => Sys2Proof.Machine.execVsplat f m d a s
  | .vins f d a b => Sys2Proof.Machine.execVins f d a b s
  | .vext f d a b => Sys2Proof.Machine.execVext f d a b s
  | .vperm f m d a b => Sys2Proof.Machine.execVperm f m d a b s
  | .vtrans f m d a => Sys2Proof.Machine.execVtrans f m d a s
  | .viota f m d => Sys2Proof.Machine.execViota f m d s
  | .vrand f m d a => Sys2Proof.Machine.execVrand f m d a s
  | .voxd f m d a b => Sys2Proof.Machine.execVoxd f m d a b s
  | .voxe f d a b => Sys2Proof.Machine.execVoxe f d a b s
  | .mand d a b => Sys2Proof.Machine.execMand d a b s
  | .mor d a b => Sys2Proof.Machine.execMor d a b s
  | .mxor d a b => Sys2Proof.Machine.execMxor d a b s
  | .mnot d a => Sys2Proof.Machine.execMnot d a s
  | .mpopc f d a => Sys2Proof.Machine.execMpopc f d a s
  | .vtree f m d a b => Sys2Proof.Machine.execVtree f m d a b s
  | .ppinit d => Sys2Proof.Machine.execPpinit d s
  | .ppdeg d a => Sys2Proof.Machine.execPpdeg d a s
  | .ppmul f m d a b => Sys2Proof.Machine.execPpmul f m d a b s
  | .ppdiv f m d a b => Sys2Proof.Machine.execPpdiv f m d a b s
  | .pprd f m d a b => Sys2Proof.Machine.execPprd f m d a b s
  | .ppscale d a => Sys2Proof.Machine.execPpscale d a s
  | .ppstat d a => Sys2Proof.Machine.execPpstat d a s
  | .fexp2 f m d a => Sys2Proof.Machine.execFexp2 f m d a s
  | .fexp2m f m d a b => Sys2Proof.Machine.execFexp2m f m d a b s
  | .flog2 f m d a => Sys2Proof.Machine.execFlog2 f m d a s
  | .frcp f m d a => Sys2Proof.Machine.execFrcp f m d a s
  | .frsq f m d a => Sys2Proof.Machine.execFrsq f m d a s
  | .fsqrt f m d a => Sys2Proof.Machine.execFsqrt f m d a s
  | .fsin f m d a => Sys2Proof.Machine.execFsin f m d a s
  | .fcos f m d a => Sys2Proof.Machine.execFcos f m d a s
  | .ftanh f m d a => Sys2Proof.Machine.execFtanh f m d a s
  | .fsigm f m d a => Sys2Proof.Machine.execFsigm f m d a s
  | .ferf f m d a => Sys2Proof.Machine.execFerf f m d a s
  | .fsilu f m d a => Sys2Proof.Machine.execFsilu f m d a s
  | .ldb d a o => Sys2Proof.Machine.execLdb d a o s
  | .ldh d a o => Sys2Proof.Machine.execLdh d a o s
  | .ldw d a o => Sys2Proof.Machine.execLdw d a o s
  | .ldd d a o => Sys2Proof.Machine.execLdd d a o s
  | .ldbn d a o => Sys2Proof.Machine.execLdbn d a o s
  | .ldhn d a o => Sys2Proof.Machine.execLdhn d a o s
  | .ldwn d a o => Sys2Proof.Machine.execLdwn d a o s
  | .stb d a o => Sys2Proof.Machine.execStb d a o s
  | .sth d a o => Sys2Proof.Machine.execSth d a o s
  | .stw d a o => Sys2Proof.Machine.execStw d a o s
  | .std d a o => Sys2Proof.Machine.execStd d a o s
  | .vld d a o => Sys2Proof.Machine.execVld d a o s
  | .vst d a o => Sys2Proof.Machine.execVst d a o s
  | .vldx d a o => Sys2Proof.Machine.execVldx d a o s
  | .ldf d a o => Sys2Proof.Machine.execLdf d a o s
  | .ppsave d a o => Sys2Proof.Machine.execPpsave d a o s
  | .ppload d a o => Sys2Proof.Machine.execPpload d a o s
  | .aadd d a b sf r => Sys2Proof.Machine.execAadd d a b sf r s
  | .amin d a b sf r => Sys2Proof.Machine.execAmin d a b sf r s
  | .amax d a b sf r => Sys2Proof.Machine.execAmax d a b sf r s
  | .aminn d a b sf r => Sys2Proof.Machine.execAminn d a b sf r s
  | .amaxn d a b sf r => Sys2Proof.Machine.execAmaxn d a b sf r s
  | .aand d a b sf r => Sys2Proof.Machine.execAand d a b sf r s
  | .aor d a b sf r => Sys2Proof.Machine.execAor d a b sf r s
  | .axor d a b sf r => Sys2Proof.Machine.execAxor d a b sf r s
  | .aswap d a b sf r => Sys2Proof.Machine.execAswap d a b sf r s
  | .acas d a b sf r => Sys2Proof.Machine.execAcas d a b sf r s
  | .agts d a b sf r => Sys2Proof.Machine.execAgts d a b sf r s
  | .agtsn d a b sf r => Sys2Proof.Machine.execAgtsn d a b sf r s
  | .avswap d a b sf r => Sys2Proof.Machine.execAvswap d a b sf r s
  | .atagswap d a b sf r => Sys2Proof.Machine.execAtagswap d a b sf r s
  | .afadd d a b sf r => Sys2Proof.Machine.execAfadd d a b sf r s
  | .ldacq d a sf => Sys2Proof.Machine.execLdacq d a sf s
  | .strel a b sf => Sys2Proof.Machine.execStrel a b sf s
  | .fence a m sf => Sys2Proof.Machine.execFence a m sf s
  | .fwait a k => Sys2Proof.Machine.execFwait a k s
  | .bar a sf k => Sys2Proof.Machine.execBar a sf k s
  | .bara a sf => Sys2Proof.Machine.execBara a sf s
  | .barw a sf k => Sys2Proof.Machine.execBarw a sf k s
  | .barq a sf => Sys2Proof.Machine.execBarq a sf s
  | .sbar c => Sys2Proof.Machine.execSbar c s
  | .hwait a h k => Sys2Proof.Machine.execHwait a h k s
  | .rwait a h f k => Sys2Proof.Machine.execRwait a h f k s
  | .radvp h n => Sys2Proof.Machine.execRadvp h n s
  | .radvc h n => Sys2Proof.Machine.execRadvc h n s
  | .enq a b => Sys2Proof.Machine.execEnq a b s
  | .deq a b => Sys2Proof.Machine.execDeq a b s
  | .qwait a k => Sys2Proof.Machine.execQwait a k s
  | .stbind a w n => Sys2Proof.Machine.execStbind a w n s
  | .stunb n => Sys2Proof.Machine.execStunb n s
  | .penn a b sf => Sys2Proof.Machine.execPenn a b sf s
  | .residencySwitch core => Sys2Proof.Machine.execResidencySwitch core s
  | .idleCoreDispatch core => Sys2Proof.Machine.execIdleCoreDispatch core s
  | .idleTimeout core => Sys2Proof.Machine.execIdleTimeout core s
  | .periodBoundary region => Sys2Proof.Machine.execPeriodBoundary region s
  | .sampleArrival source time freq value => Sys2Proof.Machine.execSampleArrival source time freq value s
  | .missedSampleTime region => Sys2Proof.Machine.execMissedSampleTime region s
  | .regionResumption region => Sys2Proof.Machine.execRegionResumption region s
  | .outputSampleTime region => Sys2Proof.Machine.execOutputSampleTime region s
  | .railSwitchEnd region => Sys2Proof.Machine.execRailSwitchEnd region s
  | .energyBucketUpdate power => Sys2Proof.Machine.execEnergyBucketUpdate power s
  | .ballastPass core => Sys2Proof.Machine.execBallastPass core s
  | .hoistReach core res k => Sys2Proof.Machine.execHoistReach core res k s
  | .pendingSlotActionRelease core res h => Sys2Proof.Machine.execPendingSlotActionRelease core res h s
  | .barrierCompletion core res scope => Sys2Proof.Machine.execBarrierCompletion core res scope s
  | .registerDataArrival msg => Sys2Proof.Machine.execRegisterDataArrival msg s
  | .waitLimitExpiry core => Sys2Proof.Machine.execWaitLimitExpiry core s
  | .matrixCommandStart core => Sys2Proof.Machine.execMatrixCommandStart core s
  | .matrixCommandEnd core => Sys2Proof.Machine.execMatrixCommandEnd core s
  | .matrixWaitLimitExpiry core => Sys2Proof.Machine.execMatrixWaitLimitExpiry core s
  | .copyBegin core ch => Sys2Proof.Machine.execCopyBegin core ch s
  | .chunkCommit core ch => Sys2Proof.Machine.execChunkCommit core ch s
  | .copyChunkFault core ch => Sys2Proof.Machine.execCopyChunkFault core ch s
  | .copyCompletionAction core ch => Sys2Proof.Machine.execCopyCompletionAction core ch s
  | .watermarkWaitLimitExpiry core ch => Sys2Proof.Machine.execWatermarkWaitLimitExpiry core ch s
  | .copyCancelComplete core ch => Sys2Proof.Machine.execCopyCancelComplete core ch s
  | .apertureCommandArrival core off value => Sys2Proof.Machine.execApertureCommandArrival core off value s
  | .contactCommandStart core => Sys2Proof.Machine.execContactCommandStart core s
  | .streamTransfer core res n => Sys2Proof.Machine.execStreamTransfer core res n s
  | .fabricWrite arrival => Sys2Proof.Machine.execFabricWrite arrival s
  | .fabricAtomic arrival => Sys2Proof.Machine.execFabricAtomic arrival s
  | .fabricRead arrival => Sys2Proof.Machine.execFabricRead arrival s
  | .enqueueRequest msg => Sys2Proof.Machine.execEnqueueRequest msg s
  | .launchPacketTake region => Sys2Proof.Machine.execLaunchPacketTake region s
  | .launchCompletion lid => Sys2Proof.Machine.execLaunchCompletion lid s
  | .hostWindowSubmit w handle => Sys2Proof.Machine.execHostWindowSubmit w handle s
  | .queueEnable q word => Sys2Proof.Machine.execQueueEnable q word s
  | .queueDisable q word => Sys2Proof.Machine.execQueueDisable q word s
  | .queueSwapOut q word => Sys2Proof.Machine.execQueueSwapOut q word s
  | .queueSwapIn q word => Sys2Proof.Machine.execQueueSwapIn q word s
  | .queueGenerationChange q word => Sys2Proof.Machine.execQueueGenerationChange q word s
  | .hbmStackFailure stack => Sys2Proof.Machine.execHbmStackFailure stack s
  | .preemptSave core word => Sys2Proof.Machine.execPreemptSave core word s
  | .saveComplete core => Sys2Proof.Machine.execSaveComplete core s
  | .preemptRestore core word => Sys2Proof.Machine.execPreemptRestore core word s
  | .restoreComplete core => Sys2Proof.Machine.execRestoreComplete core s
  | .partitionEntryCommit p word => Sys2Proof.Machine.execPartitionEntryCommit p word s
  | .clusterEntryCommit k word => Sys2Proof.Machine.execClusterEntryCommit k word s
  | .sourceEnable region word => Sys2Proof.Machine.execSourceEnable region word s
  | .sourceDisable region word => Sys2Proof.Machine.execSourceDisable region word s
  | .rateEntryCommit source word => Sys2Proof.Machine.execRateEntryCommit source word s
  | .crossingEnable u word => Sys2Proof.Machine.execCrossingEnable u word s
  | .crossingDisable u word => Sys2Proof.Machine.execCrossingDisable u word s
  | .regionStatusClear region word => Sys2Proof.Machine.execRegionStatusClear region word s
  | .powerEntryCommit word => Sys2Proof.Machine.execPowerEntryCommit word s
  | .replicaRelease p => Sys2Proof.Machine.execReplicaRelease p s
  | .replicaDiscard p => Sys2Proof.Machine.execReplicaDiscard p s
  | .replicaDigestArrival p digest step => Sys2Proof.Machine.execReplicaDigestArrival p digest step s
  | .replicaDigestTimeout p => Sys2Proof.Machine.execReplicaDigestTimeout p s
  | .loaderLoad p word => Sys2Proof.Machine.execLoaderLoad p word s
  | .loaderUnload p word => Sys2Proof.Machine.execLoaderUnload p word s
  | .loadDone p => Sys2Proof.Machine.execLoadDone p s
  | .constantStoreWrite off value => Sys2Proof.Machine.execConstantStoreWrite off value s
  | .bar4Access off data => Sys2Proof.Machine.execBar4Access off data s
  | .registerWrite off value => Sys2Proof.Machine.execRegisterWrite off value s
  | .firmwareStart word => Sys2Proof.Machine.execFirmwareStart word s
  | .perst asserted => Sys2Proof.Machine.execPerst asserted s
  | .trainingDone trained cxl => Sys2Proof.Machine.execTrainingDone trained cxl s
  | .tagsDone => Sys2Proof.Machine.execTagsDone s
  | .selftestDone pass => Sys2Proof.Machine.execSelftestDone pass s
  | .lockingDone pass => Sys2Proof.Machine.execLockingDone pass s
  | .cxlExpanderLoss port lo hi => Sys2Proof.Machine.execCxlExpanderLoss port lo hi s
  | .gxlPortFailure port => Sys2Proof.Machine.execGxlPortFailure port s
  | .scrubRead core word => Sys2Proof.Machine.execScrubRead core word s
  | .powerLoss => Sys2Proof.Machine.execPowerLoss s
  | .mirrorCopyComplete stack fresh => Sys2Proof.Machine.execMirrorCopyComplete stack fresh s
  | .swapInCopyComplete q => Sys2Proof.Machine.execSwapInCopyComplete q s
  | .packetStagingWrite w off data => Sys2Proof.Machine.execPacketStagingWrite w off data s

end Sys2Proof.Machine
end

