-- ==== Sys2Proof/Machine/Tick.lean ====
section
/-!
DEFINITION. One cycle of a region (R101, R102, R144, R155 to R157, R320, R393 to R396), in the order in which its parts see
each other, and what an input from outside does. Every read of a cycle sees the memory that the cycle began with; the
writes of the cycle collect in `wlog` and apply at its end.
-/

namespace Sys2Proof.Machine

/-- The two residencies. -/
def both : List (BitVec 1) := [0, 1]

/-- The cores of a region that hold any state. -/
def State.present (s : State) (r : Nat) : List Nat := (s.coresOf r).filter (fun c => (Table.find s.cores c).isSome)

/-- Something done for every core. -/
def State.eachCore (s : State) (cs : List Nat) (f : State → Nat → State) : State := cs.foldl f s

/-- Something done for both contexts of every core. -/
def State.eachCtx (s : State) (cs : List Nat) (f : State → Nat → BitVec 1 → State) : State :=
  cs.foldl (fun s c => both.foldl (fun s res => f s c res) s) s

/-! ### Engines (R102) -/

/-- An engine command with accesses to its own vault. -/
inductive Eng where
  | mx
  | ct
  | chan (n : Nat)
  | kv (n : Nat) (m : CopyCmd)
  | small (m : SmallCmd)
deriving DecidableEq, Repr

/-- The commands of a core that may access its vault, with their issue numbers. -/
def Core.engines (k : Core) : List (Nat × Eng) :=
  (k.mq.take 1).map (fun m => (m.seq, Eng.mx)) ++ (k.ct.take 1).map (fun m => (m.seq, Eng.ct)) ++
    k.chans.filterMap (fun p => p.2.cur.map (fun m => (m.seq, Eng.chan p.1))) ++
    k.chans.flatMap (fun p => ((p.2.cur.toList ++ p.2.queue).filter (fun m => m.kvRead.isSome)).map (fun m =>
      (m.seq, Eng.kv p.1 m))) ++ k.small.map (fun m => (m.seq, Eng.small m))

/-- Insertion by issue. -/
def insertEng (e : Nat × Eng) : List (Nat × Eng) → List (Nat × Eng)
  | [] => [e]
  | f :: t => if e.1 < f.1 then e :: f :: t else f :: insertEng e t

/-- One command's access, when the ports it needs are free. -/
def State.engineCycle (s : State) (c : Nat) (p : Ports) : Eng → State × Ports
  | .mx => s.mxCycle c p
  | .ct => s.ctCycle c p
  | .chan n => s.copyCycle c n p
  | .kv n m => s.kvCycle c n m p
  | .small m => s.smallCycle c m p

/-- The engine accesses of a core in one cycle: the command issued first takes its ports first. -/
def State.engineTurn (s : State) (c : Nat) : State :=
  let l := (s.core c).engines.foldl (fun l e => insertEng e l) []
  (l.foldl (fun (a : State × Ports) e => a.1.engineCycle c a.2 e.2) (s, [])).1

/-- What commands do at the start of a cycle, without an access: installs, ends, starts, commits, completions. -/
def State.commandTurn (s : State) (c : Nat) : State :=
  let s := ((((s.smallInstall c).mxEnd c).mxStart c).mxExpire c).ctTurn c ((s.core c).ct.length + 1)
  ((s.core c).chans.map (fun p => p.1)).foldl (fun s ch =>
    ((((((s.copyCompletion c ch).chunkTick c ch).chunkFault c ch false).watermarkWait c ch).watermarkExpiry c ch).cancelComplete
      c ch).copyBegin c ch) s

/-- Commands that begin in the cycle in which they issue (R254). -/
def State.lateBegin (s : State) (c : Nat) : State := ((s.core c).chans.map (fun p => p.1)).foldl (fun s ch => s.copyBegin c ch) s

/-! ### Register writes -/

/-- The register writes that perform in this cycle (R155). -/
def State.writeTurn (s : State) (c : Nat) (res : BitVec 1) : State :=
  let old := s.core c
  (s.modCore c (fun k => k.performDue res (s.now c))).dirCore c old

/-! ### Issue -/

/-- One word or bundle of one word run through its meaning. -/
def State.runWord (s : State) (i : Instr) : State :=
  match exec i s with
  | .next t => t
  | _ => s

/-- A fetched bundle: of one word its meaning alone; else the checks, the words in order, the end. -/
def State.runBundle (s : State) (c : Nat) (is : List Instr) : State :=
  match is with
  | [i] => s.runWord i
  | _ =>
    let (t, ok) := s.clears c s.res is
    if ok then (is.foldl State.runWord (t.begins is)).finish else t

/-- Corrected errors of a bundle fetched for the first time (R367). -/
def State.fetchEvents (s : State) (c : Nat) (n : Nat) : State :=
  let x := s.cx
  if x.stall.isSome then s
  else
    match s.ecc with
    | [] => s
    | _ => (s.fetchErrs c x.pc.toNat (4 * n)).foldl (fun s e => if e.2 then s else s.coreEvent c 0x15) s

/-- The bundle at the program counter of the holder in this cycle (R142, R354). -/
def State.bundleTurn (s : State) (c : Nat) : State :=
  let res := s.res
  match s.asyncTrap c res with
  | some t => t
  | none =>
    match s.fetch c res with
    | .trap t => s.takeTrap c res (s.now c) t
    | .words is => (s.fetchEvents c (is.map wordCount).sum).runBundle c is

/-- The issue of a core in one cycle (R144, R157, R176, R178). -/
def State.issueTurn (s : State) (c : Nat) : State :=
  let s := { s with cur := BitVec.ofNat 10 c }
  let res := s.res
  let x := s.cx
  if x.idle.isSome then (if s.hasTask c then s.idleCycle c res else s)
  else if !s.mayIssue c then s
  else
    match x.folding with
    | none => s.bundleTurn c
    | some g =>
      if g.full then (s.modCtx c res (fun x => x.digestDone g)).bundleTurn c
      else if s.digestExpired c g then s.digestLimit c res g
      else s.event c res 4

/-! ### The end of a cycle -/

/-- A context at the end of a cycle (R89, R235, R322, R394, R395). `holds`: it holds the core; `eu`: the static charge.
DEDUCED, log 76. -/
def Ctx.endCycle (x : Ctx) (holds : Bool) (eu : Nat) : Ctx :=
  let x := { x with
    flags := x.flags ||| x.raised, raised := 0, mxstat := x.mxstat ||| x.raisedMx, raisedMx := 0
    held := if x.heldRun && holds then x.held + 1 else x.held
    idleEvent := x.idleEvent && x.idle.isSome
    evs := if holds && x.resident then x.evs ++ [(1, x.lvl == 0)] else x.evs }
  let x := if x.resident then x.addEnergy (x.charge + eu) else x
  (Ctx.addEvents { x with charge := 0 }).turnRings

/-- The static charge of each context of a core (Table 22.3); none in the cycles of a freezing region. -/
def Core.static (k : Core) (drain : Bool) : Nat := if drain then 0 else if k.a.resident && k.b.resident then 24 else 48

/-- Which residency holds the core in this cycle: none while it is idle or switches (R322, R324). -/
def Core.holds (k : Core) (drain : Bool) (res : BitVec 1) : Bool :=
  !drain && !k.idle && !k.switchWait && k.switch.isNone && k.holder == res

/-- A core at the end of a cycle; `h` is the core as it stood before issue. DEDUCED, log 15. -/
def Core.endCycle (k h : Core) (drain : Bool) : Core :=
  { k with
    a := k.a.endCycle (h.holds drain 0) (k.static drain)
    b := k.b.endCycle (h.holds drain 1) (k.static drain) }

/-- The counters of a region after a cycle (R10, R12, R19, R24). -/
def State.regionEnd (s : State) (r : Nat) : State :=
  let s := s.modRegion r (fun g =>
    if g.drain then { g with now := g.now + 1 }
    else { g with now := g.now + 1, into := g.into + 1, cycle := g.cycle + 1 })
  s.drainTurn r

/-! ### One cycle -/

/-- Everything of a cycle before the sequencers: what performs and what that lets go. -/
def State.performTurn (s : State) (r : Nat) (cs : List Nat) : State :=
  let s := s.eachCore cs State.commandTurn
  let s := (s.fabricTurn r).enqTurn r
  let s := s.eachCore cs State.engineTurn
  let s := (s.eachCore cs State.slotTurn).ownTurn r
  let s := s.eachCtx cs State.releaseAll
  let s := s.eachCtx cs State.reaches1
  let s := (s.eachCore cs State.radvpTurn).eachCore cs State.hreads
  let s := s.eachCtx cs State.writeTurn
  let s := s.eachCtx cs State.streamTurn
  (s.eachCore cs State.preTick).traceTurn r

/-- A core's turn to choose and to issue, and its end of the cycle. -/
def State.coreTurn (s : State) (c : Nat) : State :=
  let drain := (s.regOf c).drain
  let s := if drain then s else s.sequence c
  let h := s.core c
  let s := if drain then s else (s.issueTurn c).lateBegin c
  let s := both.foldl (fun s res => s.digestSample c res) s
  s.modCore c (fun k => k.endCycle h drain)

/-- A cycle of a region whose clocks run. -/
def State.cycle (s : State) (r : Nat) : State :=
  let cs := s.present r
  let s := s.eachCtx cs State.scanTurn
  let s := (s.performTurn r cs).eachCore cs State.coreTurn
  ((s.eachCtx cs State.recPenTurn).ownHold r).regionEnd r

/-- A cycle of a region, its output and boundary first and its barriers. -/
def State.tick (s : State) (r : Nat) : State :=
  let s := ((s.outTurn r).boundaryTick r).domainTurn r
  let g := s.region r
  if g.runs && g.mayTick then s.cycle r else s

/-- Whether a region has something to do in its own turn. -/
def Region.awake (g : Region) : Bool := g.runs || (g.isRef && g.start)

/-- The next region in turn; regions take turns in the order of their numbers. DESIGN CHOICE, log 1. -/
def State.nextRegion (s : State) : Option Nat :=
  let t := s.turn.toNat
  (((List.range 32).map (fun i => (t + i) % 32)).find? (fun r => (s.region r).awake))

/-- A step without input: one cycle of the next region; with none awake only time passes. -/
def State.free1 (s : State) : State :=
  match s.nextRegion with
  | some r => { s with turn := BitVec.ofNat 5 (r + 1) }.tick r
  | none => s

/-- Two 64-bit counts added without going round. -/
def addUp (a b : Word) : Word := BitVec.ofNat 64 (min (a.toNat + b.toNat) (2 ^ 64 - 1))

/-- The time of a step (R24, R386): `$wall` rises from bring-up's lock on and never falls, and the samples of packets fall due
with it (R375). DESIGN CHOICE, log 2, log 8. -/
def State.passes (s : State) : State :=
  if s.boot = .ready then
    { s with wall := addUp s.wall ((Config.wallStep s.free).setWidth 64), free := s.free + 1 }.fallDue
  else { s with free := s.free + 1 }

/-! ### Inputs -/

/-- An upset of the 64-bit word that holds a key (R367): of a memory, or of a register file. -/
def State.upset (s : State) (key : Nat) (double : Bool) : State :=
  if fileKey 0 0 0 ≤ key then
    let w := (key - fileKey 0 0 0) / 8
    s.modCtx (w / fileWords / 2) (BitVec.ofNat 1 (w / fileWords)) (fun x =>
      { x with upsets := x.without (w % fileWords) 1 ++ [(w % fileWords, double)] })
  else
  { s with ecc := (s.ecc.filter (fun e => e.1 ≠ key / 8 * 8)) ++ [(key / 8 * 8, double)] }

/-- Firmware writes `$lq` or `$qmir` of a core, which the queue directory records (R306, R307). -/
def State.firmwareWrite (s : State) (c : Nat) (n : BitVec 9) (v : Word) : State :=
  if s.boot = .reset ∨ 768 ≤ c ∨ (n ≠ 0x181 ∧ n ≠ 0x182) then s
  else (s.modCore c (fun k => k.setSys 0 n v)).dirCore c (s.core c)

/-- Whether a constructor is a step of the device rather than an instruction word. DESIGN CHOICE, log 44. -/
def isEvent (i : Instr) : Bool := (encode i).isNone

/-- One input taken. DESIGN CHOICE, log 1. -/
def State.input (s : State) : Turn → State
  | .event i => if isEvent i then s.runWord i else s
  | .cycle r => s.tick r.toNat
  | .sampleTime r => s.sampleTime r.toNat
  | .upset w d => s.upset w d
  | .firmware c n v => s.firmwareWrite c.toNat n v

/-- The end of a step that began with memory `m`: what is lost goes, then the writes apply; a word written anew holds no
error (R101, R367, R408). DEDUCED, log 17. -/
def State.commit (s : State) (m : Memory) : State :=
  { s with
    mem := Memory.apply (m.lose s.wipe) s.wlog
    ecc := s.ecc.filter (fun e => s.wlog.all (fun w => overlap w.key w.bytes.length e.1 8 = 0))
    wlog := [], wipe := .none }

end Sys2Proof.Machine
end

