-- ==== Sys2Proof/Machine/Step.lean ====
section
/-!
DEFINITION. The step of the device, and the placing of one instruction where the next step fetches it.
-/

namespace Sys2Proof.Machine

/-- One step: the next input, or with none the next cycle. -/
def step (s : State) : Host.Outcome State Fault Refusal :=
  match s.inputs with
  | t :: rest => .next ((State.input { s with inputs := rest } t).passes.commit s.mem)
  | [] => .next (s.free1.passes.commit s.mem)

/-- The bytes of the opcode-table bits `w` as a bundle of its own: E set in its last word. -/
def placedBytes (nbits w : Nat) : List Byte :=
  let v := w % 2 ^ nbits
  let first := iw v
  let second := iw (v / 4294967296)
  if group first = 1 && group second = 13 then leBytes 4 (v % 2147483648) ++ leBytes 4 (second.toNat ||| 0x80000000)
  else leBytes 4 (first.toNat ||| 0x80000000)

/-- A context of a launch that runs record 0 at address 0. DESIGN CHOICE, log 6. -/
def placedCtx : Ctx :=
  { Ctx.fresh with lid := 0, recs := [{ Rec.blank with st := .running }], running := some 0 }

/-- A core that holds nothing but that context. -/
def placedCore : Core := { Core.fresh with a := placedCtx, idle := false }

/-- A region locked to the reference source that has passed boundary 0. -/
def placedRegion : Region :=
  { Region.fresh with sel := 0x104, en := true, s := 1, c := 0xFFFFFFFF, st := .locked, freq := 1000 }

/-- The device READY, core 0 in cluster 0 of region 0 about to fetch the bundle at address 0, which is the instruction of
the opcode-table bits `w`. DESIGN CHOICE, log 6. -/
def State.withFetchWord (s : State) (nbits w : Nat) : State :=
  { s with
    mem := Memory.writeList s.mem (istoreKey 0 0) (placedBytes nbits w)
    cores := Table.set s.cores 0 placedCore
    regions := Table.set s.regions 0 placedRegion
    clusters := Table.set s.clusters 0 0x20
    boot := .ready, inputs := [], turn := 0, bundle := none, ctl := .plain, wlog := [], wipe := .none }

end Sys2Proof.Machine
end

