-- ==== Sys2Proof/Safety.lean ====
section
/-!
DEFINITION. The words in which the claims speak: what a state must satisfy in every run, what a word of a bundle may change,
and what it means that a word completes with a result.
-/

namespace Sys2Proof.Machine

/-! ### What holds in every run -/

/-- Memory is in its canonical form and no write of a step is left over. -/
def State.Sound (s : State) : Prop := Memory.wf s.mem = true ∧ s.wlog = [] ∧ s.wipe = .none

/-! ### A word of a bundle -/

/-- A bundle whose checks have passed is in hand: its words run one after the other, then it ends. -/
abbrev State.inHand (s : State) : Prop := s.bundle.isSome = true

/-- No vector register that a word names is bound to a stream (R158). -/
def State.unbound (s : State) (i : Instr) : Prop :=
  ∀ v ∈ (uses i).vr ++ (uses i).vw, (s.cx.stream v.toNat).bound = false

/-- A state with other numbers for what orders words: the issue slot, the word index, the common sequence. -/
def State.numbered (s : State) (slot ix n : Nat) : State := { s with slotNo := slot, wordIx := ix, seq := n }

/-- A context with other events and charges of the cycle (R393, R395). -/
def Ctx.metered (x : Ctx) (evs : List (Nat × Bool)) (charge : Nat) : Ctx := { x with evs := evs, charge := charge }

/-- `t` is `s` with the context in hand changed by `f`, but for the events and the energy that every word adds and the
numbers that order words: every other register, flag and special register, every other context and core, and all of
memory are the same. -/
def Only (f : Ctx → Ctx) (s t : State) : Prop :=
  ∃ evs charge slot ix n, t = (s.modCx (fun x => (f x).metered evs charge)).numbered slot ix n

/-- The word completes: its one effect is a register write queued to perform `lat` cycles after the issue (R155). -/
def Queues (i : Instr) (s : State) (r : Reg) (lat : Nat) (v m : BitVec 4096) (fl : Flags) (mx : Bool) : Prop :=
  ∃ t w, exec i s = .next t ∧ Only (fun x => { x with writes := x.writes ++ [w] }) s t ∧
    w.reg = r ∧ w.value = v ∧ w.mask = m ∧ w.flags = fl ∧ w.toMx = mx ∧ w.due = s.now s.me + lat

/-- The word completes with a scalar result. -/
def GivesG (i : Instr) (s : State) (d : BitVec 6) (lat : Nat) (v : Word) (fl : Flags := 0) : Prop :=
  Queues i s (.g d) lat (v.setWidth 4096) (BitVec.allOnes 4096) fl false

/-- The word completes with a vector result: the lanes that it writes and the flags they raise. -/
def GivesV (i : Instr) (s : State) (d : BitVec 5) (lat : Nat) (r : VRes) (mx : Bool := false) : Prop :=
  Queues i s (.v d) lat r.val r.mask r.flags mx

/-- The word completes with a mask result of which the bits of `m` are written. -/
def GivesM (i : Instr) (s : State) (d : BitVec 3) (lat : Nat) (w m : BitVec 512) : Prop :=
  Queues i s (.m d) lat (w.setWidth 4096) (m.setWidth 4096) 0 false

/-! ### Words with accesses, commands and jumps -/

/-- A core without what every word changes: the events and energy of the cycle, and the translations it holds. -/
def Core.bare (k : Core) : Core := { k with a := k.a.metered [] 0, b := k.b.metered [] 0, tlb := [] }

/-- A state without its cores and without what every access changes: the clusters' translations (R346), the DET records
with the guard tags (R137), and the numbers that order words. -/
def State.rest (s : State) : State :=
  { s with cores := [], ctlbs := [], dets := [], gtags := [], slotNo := 0, wordIx := 0, seq := 0 }

/-- Two states that differ at most in that: memory, messages, regions and the whole of every core and context are the
same. -/
def Same (s t : State) : Prop := s.rest = t.rest ∧ ∀ c, (s.core c).bare = (t.core c).bare

/-- The word completes, and its effect is that of `u`. -/
def Effect (i : Instr) (s u : State) : Prop := ∃ t, exec i s = .next t ∧ Same t u

/-- A state in which the bundle goes on as given at its end. -/
def State.turning (s : State) (c : Ctl) : State := { s with ctl := c }

/-- A state whose bundle goes on as its control word says. -/
def State.sent (s : State) (g : Go) : State := s.turning { s.ctl with go := g }

/-- A state with more register writes queued in the context in hand. -/
def State.queued (s : State) (ws : List RegWrite) : State := s.modCx (fun x => { x with writes := x.writes ++ ws })

/-- A register write of a word of the bundle in hand: what it writes, and that it performs `lat` cycles after the issue. -/
def RegWrite.Is (w : RegWrite) (s : State) (r : Reg) (lat : Nat) (v : BitVec 4096) (m : BitVec 4096 := BitVec.allOnes 4096)
    (fl : Flags := 0) : Prop :=
  w.reg = r ∧ w.value = v ∧ w.mask = m ∧ w.flags = fl ∧ w.toMx = false ∧ w.due = s.now s.me + lat

/-- A state whose bundle has ended. -/
def State.ended (s : State) : State := { s with bundle := none, ctl := .plain }

/-- What the word in hand puts in flight: an effect that performs `lat` cycles after the issue (R208). -/
def State.flight (s : State) (i : Instr) (lat : Nat) (cls : Cls) (a : Act) : Timed :=
  ⟨s.now s.me + lat, (s.place i).rank, s.seq, s.wordIx, s.res, s.cx.pc, cls, .no, a⟩

/-- A state with one more effect in flight in the core in hand. -/
def State.flying (s : State) (t : Timed) : State := s.modMe (fun k => { k with timed := k.timed ++ [t] })

/-! ### From the instruction store to a step -/

/-- The words of a bundle of these instructions: E is set in the last one (R139). -/
def bundleWords : List Instr → List IWord
  | [] => []
  | [i] => encodeWords i true
  | i :: j :: is => encodeWords i false ++ bundleWords (j :: is)

/-- Words as the instruction store holds them: four bytes each, little-endian (R139). -/
def codeBytes (ws : List IWord) : List Byte := ws.flatMap (fun w => leBytes 4 w.toNat)

/-- The instruction store of a core holds these words from an address on, in one aligned block of 64 bytes (R139, R141), and
none of them holds a memory error. -/
abbrev State.holdsCode (s : State) (c a : Nat) (ws : List IWord) : Prop :=
  a % 4 = 0 ∧ a < 0x20000 ∧ a % 64 + 4 * ws.length ≤ 64 ∧ s.sample (istoreKey c a) (4 * ws.length) = codeBytes ws ∧
    s.badIn (istoreKey c a) (4 * ws.length) = []

/-- A region about to run a cycle of its own turn: its output, its boundary and its domain have had their part. -/
def State.opened (s : State) (r : Nat) : State :=
  (({ s with turn := BitVec.ofNat 5 (r + 1) }.outTurn r).boundaryTick r).domainTurn r

/-- Region `r` is next to run a cycle, with no input waiting, and its clocks run. -/
abbrev State.runsNext (s : State) (r : Nat) : Prop :=
  s.inputs = [] ∧ s.nextRegion = some r ∧ ((s.opened r).region r).runs = true ∧ ((s.opened r).region r).mayTick = true

/-- The cycle of a region with one core when all that performs before the core's turn has performed. -/
def State.performed (s : State) (r c : Nat) : State :=
  ((s.opened r).eachCtx [c] State.scanTurn).performTurn r [c]

/-- That cycle when the core has chosen what it runs, about to issue. -/
def State.readied (s : State) (r c : Nat) : State := { (s.performed r c).sequence c with cur := BitVec.ofNat 10 c }

/-- The holder of the core in hand may issue the bundle at its program counter: nothing else takes the place of the bundle. -/
abbrev State.issues (s : State) (c : Nat) : Prop :=
  s.mayIssue c = true ∧ s.cx.idle = none ∧ s.cx.folding = none ∧ s.asyncTrap c s.res = none

/-- Instructions run one after the other from a state to another. -/
def State.runs : List Instr → State → State → Prop
  | [], s, t => t = s
  | i :: is, s, t => ∃ u, exec i s = .next u ∧ State.runs is u t

/-- The rest of the cycle of a region with one core, after the issue: commands that begin at once, digests, the end of the
cycle of the core (which stood as `h` before the issue) and of the region, the time that passes, and the writes of the cycle.
-/
def State.closed (t : State) (r c : Nat) (h : Core) (m : Memory) : State :=
  let t := both.foldl (fun s res => s.digestSample c res) (t.lateBegin c)
  let t := t.modCore c (fun k => k.endCycle h false)
  (((t.eachCtx [c] State.recPenTurn).ownHold r).regionEnd r).passes.commit m

end Sys2Proof.Machine
end

