-- ==== Sys2Proof/Certificates/Slice0/Obligations.lean ====
section
/-!
DEFINITION. The statements about the model that the provers prove.
-/

open Sys2Proof Sys2Proof.Machine

/-- R143, R145, R150 to R154: words that the examples of the spec write out decode to the instructions they stand for. -/
def Obligations.WordsDecode : Prop :=
  decodeWord 0x00000000 none = .ok .nop ∧ decodeWord 0x00044146 none = .ok (.add 4 5 6) ∧
  decodeWord 0x08040000 (some 0x7FFF000) = .ok (.addi 4 0 (.long 0x1FFFFC00000)) ∧
  decodeWord 0x908807FD none = .ok (.bne 4 0 0x7FD) ∧ decodeWord 0x96080002 none = .ok (.loop 4 2) ∧
  decodeWord 0x98E00000 none = .ok .eret ∧ decodeWord 0x980A0010 none = .ok (.srr 20 0x10) ∧
  decodeWord 0x22020028 none = .ok (.mmag 0 1 0 0 0 1 0 1 0 0) ∧ decodeWord 0xA5000001 none = .ok (.mdrain 0 0 0 0 0 0 0 0 1) ∧
  decodeWord 0x2800A000 none = .ok (.ecw 10 0) ∧ decodeWord 0x2D008240 none = .ok (.xbind 8 9) ∧
  decodeWord 0x30000443 none = .ok (.vadd 0 0 1 2 3) ∧ decodeWord 0xB2B804E8 none = .ok (.vclt 6 0 1 7 8) ∧
  decodeWord 0xB81898A0 none = .ok (.vcvt 6 1 6 5 0 0) ∧ decodeWord 0xC0A00C45 none = .ok (.vtree 0 0 3 2 5) ∧
  decodeWord 0x48002040 none = .ok (.fexp2 0 0 4 1) ∧ decodeWord 0xD2C51C01 none = .ok (.vld 5 7 1) ∧
  decodeWord 0xE1400001 none = .ok (.radvc 0 1) ∧ decodeWord 0xE0400032 none = .ok (.bar 0 1 18)

/-- R143: the all-zero SR word is NOP with any E; with op9 = 0 any other bit set fails step 5, which raises
ILLEGAL_INSTRUCTION (R142). -/
def Obligations.ReservedNopBits : Prop :=
  ∀ (s : State) (c : Nat) (res : BitVec 1) (pc : Word) (w : IWord), group w = 0 → fld w 18 9 = 0 →
    (fld w 0 27 = 0 → decodeWord w none = .ok .nop) ∧
    (fld w 0 27 ≠ 0 → (∃ e, decodeWord w none = .error e) ∧
      ∃ t : Trap, s.framed c res pc [w] = .trap t ∧ t.code = 1 ∧ t.ret = pc ∧ t.arg = w.setWidth 64 ∧ t.async = false)

/-- R139, R145, R150 to R154: the bytes of an encoded instruction decode to it, with any bytes behind. -/
def Obligations.RoundTripBytes : Prop :=
  ∀ (i : Instr) (rest : List Byte), i.wf = true → isEvent i = false →
    decodeBytes (codeBytes (encodeWords i true) ++ rest) = .ok (i, rest)

/-- R101: a step always has a next state and keeps the invariant `State.Sound`. A byte reads as before unless a write of the
step covers it or a loss of contents (R406, R408) takes it. -/
def Obligations.StepsKeepSound : Prop :=
  ∀ (s : State), s.Sound →
    let u := (match s.inputs with
      | e :: rest => State.input { s with inputs := rest } e
      | [] => s.free1).passes
    ∃ t : State, step s = .next t ∧ t.Sound ∧
      ∀ key : Nat, (∀ w ∈ u.wlog, key < w.key ∨ w.key + w.bytes.length ≤ key) → u.wipe.keeps key = true →
        Memory.read t.mem key = Memory.read s.mem key

/-- R406, R408: the reset state satisfies the invariant of every step; nothing is enabled and no memory byte is listed. That
memory outside the vaults reads 0 is the model's choice (log entry 5). -/
def Obligations.ResetIsSound : Prop :=
  State.reset.Sound ∧ State.reset.boot = .reset ∧ State.reset.inputs = [] ∧ State.reset.nextRegion = none ∧
    (∀ r, (State.reset.region r).en = false) ∧ (∀ q, (State.reset.queue q).en = false) ∧
    (∀ u, (State.reset.crossing u).en = false) ∧ (∀ c, State.reset.regionOf c = none) ∧
    (∀ p, (State.reset.partition p).en = false) ∧ (∀ p, (State.reset.replica p).en = false) ∧
    (∀ key, Memory.read State.reset.mem key = 0) ∧
    ∀ (c : Nat) (res : BitVec 1), (∀ n, (State.reset.ctx c res).rg n = 0) ∧ (∀ n, (State.reset.ctx c res).rv0 n = 0) ∧
      ∀ n, (State.reset.ctx c res).rm n = if n = 0 then BitVec.allOnes 512 else 0

/-- R101: bytes written read back, others stay, and of several writes to one byte in a cycle the last one wins. -/
def Obligations.MemoryReads : Prop :=
  ∀ (m : Memory) (a n : Nat) (bs : List Byte) (ws : List Write) (w : Write), m.wf = true →
    (m.writeList a bs).wf = true ∧
    (∀ k b, bs[k]? = some b → (m.writeList a bs).read (a + k) = b) ∧
    (∀ key, key < a ∨ a + bs.length ≤ key → (m.writeList a bs).read key = m.read key) ∧
    (∀ k b, w.bytes[k]? = some b → (Memory.apply m (ws ++ [w])).read (w.key + k) = b) ∧
    (m.bytes a n).length = n ∧ ∀ k, k < n → (m.bytes a n)[k]? = some (m.read (a + k))

/-- What a step does with an input: an event runs through `exec`, a requested cycle is one cycle of that region; the writes
of the step apply at its end (R101). -/
def Obligations.StepTakesInput : Prop :=
  ∀ (s : State) (rest : List Turn),
    (∀ i t, s.inputs = .event i :: rest → isEvent i = true → exec i { s with inputs := rest } = .next t →
      step s = .next (t.passes.commit s.mem)) ∧
    (∀ i, s.inputs = .event i :: rest → isEvent i = false → step s = .next (State.commit (State.passes { s with inputs := rest }) s.mem)) ∧
    (∀ r, s.inputs = .cycle r :: rest → step s = .next ((State.tick { s with inputs := rest } r.toNat).passes.commit s.mem)) ∧
    (s.inputs = [] → s.nextRegion = none →
      step s = .next (s.passes.commit s.mem)) ∧
    (s.boot = .ready → s.packets = [] → s.passes =
      { s with wall := BitVec.ofNat 64 (min (s.wall.toNat + (Config.wallStep s.free).toNat) (2 ^ 64 - 1)), free := s.free + 1 }) ∧
    (s.boot ≠ .ready → s.passes = { s with free := s.free + 1 })

/-- R139, R142, R144: a step at a state whose next bundle is one instruction is `exec` of that instruction, with what a cycle
does before its issue (`State.readied`) and after it (`State.closed`). -/
def Obligations.StepRunsInstruction : Prop :=
  ∀ (s t : State) (r c : Nat) (i : Instr),
    s.runsNext r → (s.opened r).present r = [c] → ((s.performed r c).regOf c).drain = false →
    let v := s.readied r c
    v.issues c → i.wf = true → isEvent i = false → v.holdsCode c v.cx.pc.toNat (encodeWords i true) →
    exec i v = .next t → step s = .next (t.closed r c (v.core c) s.mem)

/-- R139 to R142: what a context fetches is the list of instructions whose words its store holds at the pc. -/
def Obligations.FetchReadsTheBundle : Prop :=
  ∀ (s : State) (c : Nat) (res : BitVec 1) (is : List Instr), is ≠ [] → (∀ i ∈ is, isEvent i = false) →
    s.holdsCode c (s.ctx c res).pc.toNat (bundleWords is) → step4 0 none [] false (bundleWords is) = none →
    s.fetch c res = .words is

/-- R142, R157, R354: what surrounds the effect of an instruction that is alone in its bundle. -/
def Obligations.OneWordBundle : Prop :=
  ∀ (i : Instr) (s : State), isEvent i = false → s.bundle = none →
    (∀ t, s.asyncTrap s.me s.res = some t → exec i s = .next t) ∧
    (s.asyncTrap s.me s.res = none → ∀ u,
      (s.clears s.me s.res [i] = (u, false) → exec i s = .next u) ∧
      (s.clears s.me s.res [i] = (u, true) → ∃ w, exec i (u.begins [i]) = .next w ∧ exec i s = .next w.finish))

/-- R142, R144, R157: a bundle of several words issues all of them in order or none. -/
def Obligations.StepRunsBundle : Prop :=
  ∀ (s u : State) (r c : Nat) (is : List Instr),
    s.runsNext r → (s.opened r).present r = [c] → ((s.performed r c).regOf c).drain = false →
    let v := s.readied r c
    v.issues c → 2 ≤ is.length → (∀ i ∈ is, isEvent i = false) → v.holdsCode c v.cx.pc.toNat (bundleWords is) →
    step4 0 none [] false (bundleWords is) = none →
    (v.clears c v.res is = (u, false) → step s = .next (u.closed r c (v.core c) s.mem)) ∧
    (v.clears c v.res is = (u, true) → ∀ w : State,
      State.runs is (u.begins is) w →
      step s = .next (w.finish.closed r c (v.core c) s.mem))

/-- R148, with R155 and R156 for when and in which order: what the register writes of a context leave in the cycle in which
they perform, and what a context just created holds. -/
def Obligations.RegistersKeepTheLastWrite : Prop :=
  (∀ (k : Core) (res : BitVec 1) (now : Nat),
    let x := k.ctx res
    let y := (k.performDue res now).ctx res
    y.writes = x.writes.filter (fun w => now < w.due) ∧ y.rg 0 = 0 ∧ y.rm 0 = BitVec.allOnes 512 ∧
    (∀ w ∈ x.writes, w.due ≤ now → w.toMx = false → w.flags &&& y.raised = w.flags) ∧
    (∀ w ∈ x.writes, w.due ≤ now → w.mask = BitVec.allOnes 4096 →
      (∀ v ∈ x.writes, v ≠ w → v.due ≤ now → v.reg = w.reg → v.seq < w.seq) →
      (∀ n, n ≠ 0 → w.reg = .g n → y.rg n = w.value.setWidth 64) ∧ (∀ n, w.reg = .v n → y.rv0 n = w.value) ∧
      ∀ n, n ≠ 0 → w.reg = .m n → y.rm n = w.value.setWidth 512) ∧
    (∀ w n, x.writes.filter (fun v => v.due ≤ now && v.reg == .v n) = [w] →
      y.rv0 n = (x.rv0 n &&& ~~~w.mask) ||| (w.value &&& w.mask)) ∧
    (∀ n, (∀ w ∈ x.writes, w.reg = .g n → now < w.due) → y.rg n = x.rg n) ∧
    (∀ n, (∀ w ∈ x.writes, w.reg = .v n → now < w.due) → y.rv0 n = x.rv0 n) ∧
    ∀ n, (∀ w ∈ x.writes, w.reg = .m n → now < w.due) → y.rm n = x.rm n) ∧
  (∀ n, Ctx.fresh.rg n = 0) ∧ (∀ n, Ctx.fresh.rv0 n = 0) ∧ ∀ n, n ≠ 0 → Ctx.fresh.rm n = 0

/-- R355 to R357, R159: what taking a precise trap writes, and what it leaves. -/
def Obligations.TrapEntry : Prop :=
  ∀ (s : State) (c : Nat) (res : BitVec 1) (t : Nat) (q : Trap),
    let x := s.ctx c res
    let y := (s.takeTrap c res t q).ctx c res
    x.act = false → badTarget x.tvec = none →
    y.tcause = b1 q.async ++ (1 : BitVec 1) ++ x.lvl ++ q.cause ++ q.code ∧ y.tret = q.ret ∧ y.targ = q.arg ∧
    y.lvl = (if x.lvl = 0 then 1 else x.lvl) ∧ y.pc = x.tvec ∧ y.gate = t + 2 ∧ y.halted = x.halted ∧ y.idle = none ∧ y.stall = none ∧
    y.writes = x.writes.filter (fun w => w.due ≤ t) ∧
    y.shadow = x.shadow ++ (x.writes.filter (fun w => t < w.due)).map (fun w =>
      { w with due := w.due - t, issued := t - w.issued }) ∧
    y.g = x.g ∧ y.v = x.v ∧ y.m = x.m ∧ y.acc = x.acc ∧ y.q = x.q ∧ y.flags = x.flags ∧ y.raised = x.raised ∧
    y.mxstat = x.mxstat ∧ y.tvec = x.tvec ∧ y.tscr = x.tscr ∧ y.lact = x.lact ∧ y.lcnt = x.lcnt ∧ y.lbeg = x.lbeg ∧
    y.lend = x.lend ∧ y.running = x.running ∧ y.recs = x.recs ∧ y.rings = x.rings ∧ y.hoists = x.hoists ∧
    y.streams = x.streams ∧
    (∀ c' res', ¬(c' = c ∧ res' = res) → (s.takeTrap c res t q).ctx c' res' = s.ctx c' res') ∧
    (s.takeTrap c res t q).mem = s.mem ∧ (s.takeTrap c res t q).wlog = s.wlog

/-- R358, R159, R364: the return from a handler, and the shadow that comes back with the next bundle. -/
def Obligations.TrapReturn : Prop :=
  (∀ (s : State), s.inHand → Effect .eret s (s.turning { s.ctl with eret := true })) ∧
  (∀ (s : State), s.ctl.eret = true → s.ctl.trap = none →
    let x := s.cx
    let t := s.finish
    let y := t.cx
    y.lvl = heldLevel (x.tcause.extractLsb' 16 2) ∧ y.act = false ∧ y.tcause = x.tcause &&& ~~~((1 : BitVec 20) <<< 18) ∧
    y.pc = x.tret ∧ y.gate = s.now s.me + 2 ∧ y.reported = [] ∧ y.g = x.g ∧ y.v = x.v ∧ y.m = x.m ∧ y.q = x.q ∧
    y.acc = x.acc ∧ y.flags = x.flags ∧ y.tret = x.tret ∧ y.targ = x.targ ∧ y.tvec = x.tvec ∧ y.tscr = x.tscr ∧
    y.writes = x.writes ∧ y.shadow = x.shadow ∧ t.mem = s.mem ∧ t.bundle = none ∧
    (∀ r ∈ x.reported, ((s.core r.1).chan r.2).st = .suspended → ((t.core r.1).chan r.2).st = .active) ∧
    ∀ c n, (c, n) ∉ x.reported → (t.core c).chan n = (s.core c).chan n) ∧
  (∀ (s : State) (is : List Instr), s.cx.act = false →
    let t := s.begins is
    t.cx.shadow = [] ∧ t.cx.writes = s.cx.writes ++ s.cx.shadow.map (fun w =>
      { w with due := s.now s.me + w.due, issued := s.now s.me - w.issued })) ∧
  ∀ (s : State) (c : Nat) (res : BitVec 1), (s.ctx c res).act = false →
    ∃ q : Trap, s.check c res (mkBundle 0 [.eret]) = .trap q ∧ q.code = 1 ∧ q.ret = (s.ctx c res).pc

/-- R359: a double trap halts the context, which then issues nothing more. -/
def Obligations.DoubleTrap : Prop :=
  (∀ (s : State) (c : Nat) (res : BitVec 1) (t : Nat) (q : Trap),
    let x := s.ctx c res
    let u := s.takeTrap c res t q
    let y := u.ctx c res
    x.act = true → q.async = false →
    y.halted = true ∧ y.tcause = x.tcause ∧ y.tret = x.tret ∧ y.targ = x.targ ∧ y.lvl = x.lvl ∧ y.pc = x.pc ∧
    y.shadow = x.shadow ∧ y.writes = x.writes ∧ y.g = x.g ∧ y.v = x.v ∧ y.m = x.m ∧ y.flags = x.flags ∧ u.mem = s.mem ∧
    ∀ p, s.partOf c = some p → (u.partition p).dblTrap = (s.partition p).dblTrap + 1) ∧
  (∀ (s : State) (c : Nat) (res : BitVec 1) (t : Nat) (q : Trap), (s.ctx c res).act = false →
    badTarget (s.ctx c res).tvec ≠ none →
    let y := (s.takeTrap c res t q).ctx c res
    y.halted = true ∧ y.act = true ∧ y.tret = q.ret) ∧
  ∀ (s : State) (c : Nat), ((s.core c).ctx (s.core c).holder).halted = true → s.mayIssue c = false

/-- R99, R142, R149, R300: words that fail step 5, 6 or 8 trap in place of their bundle and touch no memory. -/
def Obligations.ChecksTrap : Prop :=
  ∀ (s : State) (i : Instr), isEvent i = false → s.bundle = none → s.asyncTrap s.me s.res = none →
    let x := s.cx
    let ws := mkBundle 0 [i]
    let taken := fun (code : BitVec 8) (arg : Word) => ∃ q : Trap, q.code = code ∧ q.ret = x.pc ∧ q.arg = arg ∧ q.async = false ∧
      exec i s = .next (((s.modCtx s.me s.res Ctx.freshWaits).failMet s.me s.res [i] q).takeTrap s.me s.res (s.now s.me) q) ∧
      ∀ t, exec i s = .next t → t.mem = s.mem ∧ t.wlog = s.wlog
    let word := ((encodeWords i (wordCount i = 1)).headD 0).setWidth 64
    (i.wf = false → taken 1 word) ∧
    (s.step5 s.me s.res ws = none →
      ((privileged i = true ∧ x.lvl = 0) ∨ ∃ n, sysOf i = some n ∧ x.lvl.toNat < sysLevel n) → taken 5 word) ∧
    ∀ t va n, slotAcc x i = some t → t.segs.head? = some (va, n) → (∀ d a o, i ≠ .vldx d a o) →
      va.toNat % t.align ≠ 0 → s.steps57 s.me s.res ws = none → x.streams = [] → x.detMode = false → x.reportDue = false →
      taken 4 va

/-- R360 to R362: a fault record's fields, where it is written, and when it is lost. -/
def Obligations.FaultRecords : Prop :=
  ∀ (s : State) (c : Nat) (res : BitVec 1) (f : FaultRec), c < 1024 → f.slot < 8 → f.owner < 1024 → f.obj < 65536 →
    let x := s.ctx c res
    let b := s.recordBits c res f
    (b.extractLsb' 0 8 = f.code ∧ b.extractLsb' 8 8 = f.cause ∧ b.extractLsb' 16 1 = b1 (decide (f.code.toNat ≤ 12)) ∧
      b.extractLsb' 17 1 = 0 ∧ b.extractLsb' 18 2 = x.lvl ∧ b.extractLsb' 20 1 = res ∧ (b.extractLsb' 21 3).toNat = f.slot ∧
      (b.extractLsb' 24 10).toNat = c ∧ (b.extractLsb' 34 10).toNat = f.owner ∧ b.extractLsb' 44 20 = 0 ∧
      b.extractLsb' 64 32 = f.pc.setWidth 32 ∧ b.extractLsb' 96 32 = x.seqNo ∧ b.extractLsb' 128 64 = f.addr ∧
      b.extractLsb' 192 16 = 1 ∧ b.extractLsb' 208 32 = s.phaseOf c res ∧ (b.extractLsb' 240 16).toNat = f.obj ∧
      b.extractLsb' 256 64 = f.aux0 ∧ b.extractLsb' 320 64 = f.aux1 ∧ b.extractLsb' 384 64 = f.aux2 ∧
      b.extractLsb' 448 64 = f.aux3) ∧
    (∀ ps, x.fqCount.toNat < 64 → f.code.toNat ≤ 12 →
      s.parts c x ((0 : BitVec 7) ++ x.fqBase ++ (0 : BitVec 12) + BitVec.ofNat 64 (64 * ((x.fqHead.toNat + x.fqCount.toNat) % 64)))
        64 .store = .ok ps →
      let t := s.record c res f 0
      (t.ctx c res).fqCount = x.fqCount + 1 ∧ (t.ctx c res).seqNo = x.seqNo + 1 ∧ (t.ctx c res).fqOvf = x.fqOvf ∧
      t.mem = s.mem ∧ ∃ m : Msg, t.fabric = s.fabric ++ [m] ∧ m.cls = .st ∧ m.ask = .write (numBytes 64 b.toNat) ∧
        m.parts = ps.map (fun p => p.1) ∧
        m.va.toNat = x.fqBase.toNat * 4096 + 64 * ((x.fqHead.toNat + x.fqCount.toNat) % 64)) ∧
    (x.fqCount = 64 → let t := s.record c res f 0
      (t.ctx c res).fqOvf = true ∧ (t.ctx c res).fqCount = 64 ∧ t.fabric = s.fabric)

/-- R101, R209, R216: near accesses in the cycle in which they perform. -/
def Obligations.NearAccessesPerform : Prop :=
  ∀ (s : State) (c : Nat) (t : Timed), t.hold = .no →
    let u := s.performAct c t
    let lands := fun (r : Reg) (v : Nat) => ∃ w : RegWrite, (u.ctx c t.res).writes = (s.ctx c t.res).writes ++ [w] ∧
      w.reg = r ∧ w.value = BitVec.ofNat 4096 v ∧ w.mask = BitVec.allOnes 4096 ∧ w.flags = 0 ∧ w.due = s.now c ∧ w.seq = t.seq
    (∀ off bs, t.act = .store off bs → u.mem = s.mem ∧ u.wlog = s.wlog ++ [⟨vaultKey c off, bs⟩] ∧
      ∀ res, (u.ctx c res).writes = (s.ctx c res).writes ∧ (u.ctx c res).g = (s.ctx c res).g ∧ (u.ctx c res).v = (s.ctx c res).v) ∧
    (∀ r off n sext, t.act = .load r [(off, n)] sext → u.mem = s.mem ∧ u.wlog = s.wlog ∧
      lands r (if sext = 0 then leNat (Memory.bytes s.mem (vaultKey c off) n)
        else (loadWord sext (Memory.bytes s.mem (vaultKey c off) n)).toNat)) ∧
    ∀ op r off y z, t.act = .atomic op r off y z →
      let old := BitVec.ofNat 64 (leNat ((Memory.apply s.mem s.wlog).bytes (vaultKey c off) (atomicSize op)))
      let new := atomicOp op old y z
      lands (.g r) old.toNat ∧ u.mem = s.mem ∧
      u.wlog = s.wlog ++ (if new.2 then [⟨vaultKey c off, numBytes (atomicSize op) new.1.toNat⟩] else [])

/-- R158: streams as operands. -/
def Obligations.StreamOperands : Prop :=
  ∀ (s : State) (f : BitVec 3) (d a : BitVec 5), s.inHand →
    (∀ v rest, (s.cx.stream d.toNat).bound = false → (s.cx.stream a.toNat).bound = true → (s.cx.stream a.toNat).write = false →
      (s.cx.stream a.toNat).kind ≠ 2 → (s.cx.stream a.toNat).kind ≠ 3 → (s.cx.stream a.toNat).data = v :: rest →
      ∃ w : RegWrite, w.Is s (.v d) 2 v ∧ Effect (.vmov f 0 d a) s ((s.queued [w]).modCx (fun x =>
        x.setStream a.toNat { s.cx.stream a.toNat with taken := (s.cx.stream a.toNat).taken + 1, data := rest }))) ∧
    ((s.cx.stream a.toNat).bound = false → (s.cx.stream d.toNat).bound = true → (s.cx.stream d.toNat).write = true →
      ∃ w : RegWrite, w.Is s (.v d) 2 (s.cx.rv a) ∧ Effect (.vmov f 0 d a) s ((s.queued [w]).modCx (fun x =>
        x.setStream d.toNat { s.cx.stream d.toNat with taken := (s.cx.stream d.toNat).taken + 1 }))) ∧
    ∀ (k : Core) (res : BitVec 1) (w : RegWrite) (n : BitVec 5), w.reg = .v n → w.mask = BitVec.allOnes 4096 →
      ((k.ctx res).stream n.toNat).bound = true → ((k.ctx res).stream n.toNat).write = true →
      ((k.ctx res).stream n.toNat).id < w.seq →
      (((k.performWrite res w).ctx res).stream n.toNat).data = ((k.ctx res).stream n.toNat).data ++ [w.value]

/-- Table 8.1: the words that add, multiply, combine bits and choose, each with its latency. -/
def Obligations.ScalarArithmetic : Prop :=
  ∀ (s : State) (d a b : BitVec 6) (x y : Word), s.inHand → x = s.cx.rg a → y = s.cx.rg b →
    GivesG (.add d a b) s d 1 (BitVec.ofNat 64 (x.toNat + y.toNat)) ∧
    GivesG (.sub d a b) s d 1 (BitVec.ofInt 64 (x.toInt - y.toInt)) ∧
    GivesG (.and d a b) s d 1 (x &&& y) ∧
    GivesG (.or d a b) s d 1 (x ||| y) ∧
    GivesG (.xor d a b) s d 1 (x ^^^ y) ∧
    GivesG (.andn d a b) s d 1 (x &&& ~~~y) ∧
    GivesG (.mul d a b) s d 3 (BitVec.ofInt 64 (x.toInt * y.toInt)) ∧
    GivesG (.mulh d a b) s d 3 (BitVec.ofInt 64 (x.toInt * y.toInt / 2 ^ 64)) ∧
    GivesG (.mulhn d a b) s d 3 (BitVec.ofNat 64 (x.toNat * y.toNat / 2 ^ 64)) ∧
    GivesG (.min d a b) s d 1 (BitVec.ofInt 64 (min x.toInt y.toInt)) ∧
    GivesG (.max d a b) s d 1 (BitVec.ofInt 64 (max x.toInt y.toInt)) ∧
    GivesG (.minn d a b) s d 1 (BitVec.ofNat 64 (min x.toNat y.toNat)) ∧
    GivesG (.maxn d a b) s d 1 (BitVec.ofNat 64 (max x.toNat y.toNat))

/-- Table 8.1: the words that shift, compare, select and rearrange bits. -/
def Obligations.ScalarBits : Prop :=
  ∀ (s : State) (d a b : BitVec 6) (x y : Word), s.inHand → x = s.cx.rg a → y = s.cx.rg b →
    GivesG (.shl d a b) s d 1 (BitVec.ofNat 64 (x.toNat * 2 ^ (y.toNat % 64))) ∧
    GivesG (.shr d a b) s d 1 (BitVec.ofNat 64 (x.toNat / 2 ^ (y.toNat % 64))) ∧
    GivesG (.sra d a b) s d 1 (BitVec.ofInt 64 (x.toInt / 2 ^ (y.toNat % 64))) ∧
    GivesG (.rol d a b) s d 1 (x.rotateLeft (y.toNat % 64)) ∧
    GivesG (.ror d a b) s d 1 (x.rotateRight (y.toNat % 64)) ∧
    GivesG (.ceq d a b) s d 1 (if x = y then 1 else 0) ∧
    GivesG (.cne d a b) s d 1 (if x = y then 0 else 1) ∧
    GivesG (.clt d a b) s d 1 (if x.toInt < y.toInt then 1 else 0) ∧
    GivesG (.cle d a b) s d 1 (if x.toInt ≤ y.toInt then 1 else 0) ∧
    GivesG (.cltn d a b) s d 1 (if x.toNat < y.toNat then 1 else 0) ∧
    GivesG (.clen d a b) s d 1 (if x.toNat ≤ y.toNat then 1 else 0) ∧
    GivesG (.sel d a b) s d 1 (if s.cx.rg d = 0 then y else x) ∧
    GivesG (.popc d a) s d 1 (BitVec.ofNat 64 ((List.range 64).countP (fun j => x.getLsbD j))) ∧
    (∀ v : Word, (∀ j < 64, v.getLsbD j = x.getLsbD (63 - j)) → GivesG (.brev d a) s d 1 v) ∧
    (∀ v : Word, (∀ j < 8, v.extractLsb' (8 * j) 8 = x.extractLsb' (8 * (7 - j)) 8) → GivesG (.bswap d a) s d 1 v) ∧
    (∀ w : BitVec 6, w ≠ 0 → GivesG (.exts d a w) s d 1 ((x.setWidth w.toNat).signExtend 64) ∧
      GivesG (.extz d a w) s d 1 ((x.setWidth w.toNat).setWidth 64)) ∧
    (∀ n ≤ 64, (∀ j < n, x.getLsbD (63 - j) = false) → (n < 64 → x.getLsbD (63 - n) = true) →
      GivesG (.clz d a) s d 1 (BitVec.ofNat 64 n)) ∧
    ∀ n ≤ 64, (∀ j < n, x.getLsbD j = false) → (n < 64 → x.getLsbD n = true) → GivesG (.ctz d a) s d 1 (BitVec.ofNat 64 n)

/-- R162: truncated quotients and remainders, with a zero divisor giving all ones or the dividend and the invalid flag. -/
def Obligations.Division : Prop :=
  ∀ (s : State) (d a b : BitVec 6) (x y : Word) (p q : BitVec 32) (fl fw : Flags), s.inHand → x = s.cx.rg a → y = s.cx.rg b →
    p = x.extractLsb' 0 32 → q = y.extractLsb' 0 32 → fl = (if y = 0 then fInvalid else 0) →
    fw = (if q = 0 then fInvalid else 0) →
    GivesG (.div d a b) s d 20 (if y = 0 then BitVec.allOnes 64 else BitVec.ofInt 64 (x.toInt.tdiv y.toInt)) fl ∧
    GivesG (.divn d a b) s d 20 (if y = 0 then BitVec.allOnes 64 else BitVec.ofNat 64 (x.toNat / y.toNat)) fl ∧
    GivesG (.rem d a b) s d 20 (BitVec.ofInt 64 (x.toInt.tmod y.toInt)) fl ∧
    GivesG (.remn d a b) s d 20 (BitVec.ofNat 64 (x.toNat % y.toNat)) fl ∧
    GivesG (.divW d a b) s d 12
      ((if q = 0 then BitVec.allOnes 32 else BitVec.ofInt 32 (p.toInt.tdiv q.toInt)).signExtend 64) fw ∧
    GivesG (.divnW d a b) s d 12
      ((if q = 0 then BitVec.allOnes 32 else BitVec.ofNat 32 (p.toNat / q.toNat)).signExtend 64) fw ∧
    GivesG (.remW d a b) s d 12 ((BitVec.ofInt 32 (p.toInt.tmod q.toInt)).signExtend 64) fw ∧
    GivesG (.remnW d a b) s d 12 ((BitVec.ofNat 32 (p.toNat % q.toNat)).signExtend 64) fw

/-- Tables 8.1 and 8.2: the .W words and the words with an immediate, the immediate extended from its field. -/
def Obligations.ImmediatesAndHalves : Prop :=
  ∀ (s : State) (d a b : BitVec 6) (i : Imm) (x y n : Word) (p q : BitVec 32), s.inHand → x = s.cx.rg a → y = s.cx.rg b →
    (∀ k : BitVec 10, i = .short k → n = BitVec.ofInt 64 k.toInt) →
    (∀ k : BitVec 37, i = .long k → n = BitVec.ofInt 64 k.toInt) → p = x.extractLsb' 0 32 → q = y.extractLsb' 0 32 →
    GivesG (.addW d a b) s d 1 ((p + q).signExtend 64) ∧
    GivesG (.subW d a b) s d 1 ((p - q).signExtend 64) ∧
    GivesG (.shlW d a b) s d 1 ((BitVec.ofNat 32 (p.toNat * 2 ^ (y.toNat % 32))).signExtend 64) ∧
    GivesG (.shrW d a b) s d 1 ((BitVec.ofNat 32 (p.toNat / 2 ^ (y.toNat % 32))).signExtend 64) ∧
    GivesG (.sraW d a b) s d 1 (BitVec.ofInt 64 (p.toInt / 2 ^ (y.toNat % 32))) ∧
    GivesG (.mulW d a b) s d 3 ((p * q).signExtend 64) ∧
    GivesG (.addi d a i) s d 1 (x + n) ∧
    GivesG (.andi d a i) s d 1 (x &&& n) ∧
    GivesG (.ori d a i) s d 1 (x ||| n) ∧
    GivesG (.xori d a i) s d 1 (x ^^^ n) ∧
    (n.toNat < 64 →
      GivesG (.shli d a i) s d 1 (BitVec.ofNat 64 (x.toNat * 2 ^ n.toNat)) ∧
      GivesG (.shri d a i) s d 1 (BitVec.ofNat 64 (x.toNat / 2 ^ n.toNat)) ∧
      GivesG (.srai d a i) s d 1 (BitVec.ofInt 64 (x.toInt / 2 ^ n.toNat))) ∧
    GivesG (.muli d a i) s d 3 (x * n) ∧
    GivesG (.ceqi d a i) s d 1 (if x = n then 1 else 0) ∧
    GivesG (.clti d a i) s d 1 (if x.toInt < n.toInt then 1 else 0) ∧
    GivesG (.cltni d a i) s d 1 (if x.toNat < n.toNat then 1 else 0) ∧
    GivesG (.movhi d a i) s d 1 (n.extractLsb' 0 27 ++ x.extractLsb' 0 37) ∧
    GivesG (.addwi d a i) s d 1 ((p + n.extractLsb' 0 32).signExtend 64) ∧
    GivesG (.adpc d i) s d 1 (s.cx.pc + n)

/-- Table 8.3: where the branches and the jumps without a link send the bundle. -/
def Obligations.Branches : Prop :=
  ∀ (s : State) (a b : BitVec 6) (o : BitVec 11) (q : BitVec 17) (x y pc u : Word), s.inHand → x = s.cx.rg a → y = s.cx.rg b →
    pc = s.cx.pc → u = BitVec.ofInt 64 (pc.toInt + 4 * o.toInt) →
    Effect (.beq a b o) s (if x = y then s.sent (.jump u) else s) ∧
    Effect (.bne a b o) s (if x = y then s else s.sent (.jump u)) ∧
    Effect (.blt a b o) s (if x.toInt < y.toInt then s.sent (.jump u) else s) ∧
    Effect (.bge a b o) s (if x.toInt < y.toInt then s else s.sent (.jump u)) ∧
    Effect (.bltn a b o) s (if x.toNat < y.toNat then s.sent (.jump u) else s) ∧
    Effect (.bgen a b o) s (if x.toNat < y.toNat then s else s.sent (.jump u)) ∧
    Effect (.jmp q) s (s.sent (.jump (BitVec.ofInt 64 (pc.toInt + 4 * q.toInt)))) ∧
    Effect (.jr a o) s (s.sent (.jump (BitVec.ofInt 64 (x.toInt + 4 * o.toInt))))

/-- R168: JAL and JALR queue their link for one cycle after the issue; JALR takes its target from the base read at issue; a
target is checked when it is fetched; and which words of the control group do not decode. -/
def Obligations.Links : Prop :=
  (∀ (s : State) (a b d : BitVec 6) (o : BitVec 11) (q : BitVec 17) (next : Word), s.bundle = some next →
    (∃ w : RegWrite, w.Is s (.g d) 1 (next.setWidth 4096) ∧ Effect (.jal d q) s
      ((s.queued [w]).sent (.jump (BitVec.ofInt 64 (s.cx.pc.toInt + 4 * q.toInt))))) ∧
    ∃ w : RegWrite, w.Is s (.g b) 1 (next.setWidth 4096) ∧ Effect (.jalr a b o) s
      ((s.queued [w]).sent (.jump (BitVec.ofInt 64 ((s.cx.rg a).toInt + 4 * o.toInt))))) ∧
  (∀ (s : State) (c : Nat) (res : BitVec 1), let pc := (s.ctx c res).pc
    (pc.toNat % 4 ≠ 0 → ∃ t : Trap, s.fetch c res = .trap t ∧ t.code = 4 ∧ t.ret = pc ∧ t.arg = pc) ∧
    (pc.toNat % 4 = 0 → 0x20000 ≤ pc.toNat → ∃ t : Trap, s.fetch c res = .trap t ∧ t.code = 2 ∧ t.cause = 1 ∧ t.ret = pc)) ∧
  ∀ w : IWord, group w = 2 →
    (fld w 23 4 = 6 ∨ fld w 23 4 = 7 ∨ (fld w 23 4 = 8 ∧ fld w 17 6 ≠ 0) ∨ (fld w 23 4 = 10 ∧ fld w 11 6 ≠ 0)) →
    ∃ e, decodeWord w none = .error e

/-- R169: what LOOP does when no loop is active; for a count of 0 the body up to its last bundle of n words is skipped. -/
def Obligations.LoopBegins : Prop :=
  ∀ (s : State) (a : BitVec 6) (o : BitVec 11) (next last : Word) (n : Nat), s.bundle = some next →
    last = BitVec.ofInt 64 (s.cx.pc.toInt + 4 * o.toInt) →
    (s.cx.rg a ≠ 0 → Effect (.loop a o) s
      (s.modCx (fun x => { x with lact := true, lbeg := next, lend := last, lcnt := s.cx.rg a }))) ∧
    (s.cx.rg a = 0 → last.toNat % 4 = 0 → 0 < n → last.toNat % 64 + 4 * n ≤ 64 → last.toNat + 4 * n ≤ 0x20000 →
      (∀ j, j + 1 < n → (Memory.read s.mem (istoreKey s.me (last.toNat + 4 * j + 3))).getLsbD 7 = false) →
      (Memory.read s.mem (istoreKey s.me (last.toNat + 4 * n - 1))).getLsbD 7 = true →
      Effect (.loop a o) s (s.sent (.jump (last + BitVec.ofNat 64 (4 * n)))))

/-- R144, R169, R170, R172: where a context goes on after a bundle, what becomes of its loop, and its TRAP. The loop under a
handler is the model's reading, log 89. -/
def Obligations.BundleEnd : Prop :=
  ∀ (s : State) (next t : Word), s.bundle = some next →
    (∀ late : Bool, s.ctl = { Ctl.plain with refetch := late } →
      Same s.finish (s.modCx (fun x =>
        { x with
          barWait := x.barWait.filter (fun w => w.2.2 != x.pc)
          tlbiWait := if x.tlbiWait.any (fun w => w.pc == x.pc) then none else x.tlbiWait
          pc := if x.lact ∧ x.pc = x.lend ∧ 1 < x.lcnt.toNat then x.lbeg else next
          lcnt := if x.lact ∧ x.pc = x.lend ∧ 1 < x.lcnt.toNat then x.lcnt - 1 else x.lcnt
          lact := decide (x.lact ∧ (x.pc = x.lend → 1 < x.lcnt.toNat))
          gate := s.now s.me + (if late then 2 else 1) })).ended) ∧
    (∀ late : Bool, s.ctl = { Ctl.plain with go := .jump t, refetch := late } →
      Same s.finish (s.modCx (fun x =>
        { x with
          barWait := x.barWait.filter (fun w => w.2.2 != x.pc)
          tlbiWait := if x.tlbiWait.any (fun w => w.pc == x.pc) then none else x.tlbiWait
          pc := t
          lact := decide (x.lact ∧ (x.act ∨ (x.lbeg.toNat ≤ t.toNat ∧ t.toNat ≤ x.lend.toNat)))
          gate := s.now s.me + 2 })).ended) ∧
    ∀ code arg slot, s.ctl.trap = some (code, arg, slot) →
      ∃ q : Trap, s.finish = (State.finish { s with ctl := { s.ctl with trap := none } }).takeTrap s.me s.res (s.now s.me + 1) q ∧
        q.code = 10 ∧ q.cause = 0 ∧ q.ret = next ∧ q.arg = arg ∧ q.async = false ∧
        q.record.map (fun f => (f.pc, f.slot, f.aux0, f.aux1)) = some (s.cx.pc, slot, arg, code.setWidth 64)

/-- R173: what SRR, SRW, SRS and SRC queue for gd and for the system register. -/
def Obligations.SystemRegisters : Prop :=
  ∀ (s : State) (d a : BitVec 6) (n : BitVec 9) (old x m : Word), s.inHand → old = s.readSys s.me s.res n → x = s.cx.rg a →
    m = sysMask s.cx.lvl n →
    GivesG (.srr d n) s d 1 old ∧
    ∀ (i : Instr) (new : Word), (i, new) ∈ [(Instr.srw d a n, x), (.srs d a n, old ||| x), (.src d a n, old &&& ~~~x)] →
      ∃ p q : RegWrite, p.Is s (.g d) 1 (old.setWidth 4096) ∧
        q.Is s (.sys n) 1 (((old &&& ~~~m) ||| (new &&& m)).setWidth 4096) (m.setWidth 4096) ∧
        Effect i s (s.queued [p, q])

/-- R143, R171, R172, R176, R179, R181: the words that end or suspend a bundle, and NOP. -/
def Obligations.ControlWords : Prop :=
  ∀ (s : State) (d a : BitVec 6) (o : BitVec 17) (n : Nat), s.inHand → n = min (s.cx.rg a).toNat (2 ^ 32 - 1) →
    Effect .nop s s ∧
    Effect .knext s (s.sent .knext) ∧
    Effect .endTask s (s.sent .endTask) ∧
    Effect .eret s (s.turning { s.ctl with eret := true }) ∧
    Effect .flushi s (s.turning { s.ctl with refetch := true }) ∧
    Effect (.trap d o) s (s.turning { s.ctl with trap := s.ctl.trap.or (some (o, s.cx.rg d, s.wordIx)) }) ∧
    Effect .brk s (s.turning { s.ctl with trap := s.ctl.trap.or (some (0x1FFFF, 0, s.wordIx)) }) ∧
    Effect .swctx s (s.modCx (fun x => { x with held := (s.core s.me).slice s.res })) ∧
    (0 < n → s.cx.idleEvent = false → s.cx.trapPending = false →
      Effect (.idle d a) s (s.modCx (fun x => { x with idle := some (s.now s.me + n, d) }))) ∧
    ∀ v : Word, (n = 0 ∧ v = 0) ∨ (0 < n ∧ (s.cx.idleEvent ∨ s.cx.trapPending) ∧ v = 1) →
      ∃ w : RegWrite, w.Is s (.g d) 1 (v.setWidth 4096) ∧ Effect (.idle d a) s ((s.queued [w]).modCx (fun x =>
        { x with idle := none, gate := max x.gate (s.now s.me + 1) }))

/-- R178, R182, R183: what DIGEST begins, what TLBI drops, and what RETIME asks for. -/
def Obligations.DigestTlbiRetime : Prop :=
  ∀ (s : State) (d a : BitVec 6) (z : BitVec 1) (r : BitVec 5) (k : BitVec 3) (p : Nat) (ps : List (Part × Xlat)), s.inHand →
    (s.parts s.me s.cx (s.cx.rg a) (s.cx.rg d).toNat .load = .ok ps →
      Effect (.digest d a z) s ((s.digestReads (s.cx.rg a) ps 0).modCx (fun x =>
        { x with folding := some ⟨s.cx.pc, s.wordIx, s.now s.me, s.cx.rg a, (s.cx.rg d).toNat, z = 1, []⟩ }))) ∧
    (∃ w : RegWrite, w.Is s (.g d) 1 ((if s.retimeOk s.me (s.cx.rg a) r then 0 else 1 : Word).setWidth 4096) ∧
      Effect (.retime d a r) s (if s.retimeOk s.me (s.cx.rg a) r then
        (s.queued [w]).modRegion r.toNat (fun g =>
          { g with mbox := some ⟨(s.cx.rg a).extractLsb' 0 32, (s.cx.rg a).extractLsb' 32 16, (s.cx.rg a).extractLsb' 48 1,
                                 (s.cx.rg a).getLsbD 49⟩ })
        else s.queued [w])) ∧
    (s.partOf s.me = some p → k.toNat < 4 → ∃ t, exec (.tlbi a k) s = .next t ∧ Same t s ∧
      (∀ c e, e ∈ (t.core c).tlb ↔ e ∈ (s.core c).tlb ∧ ¬ ((k.toNat < 2 → c = s.me) ∧
        e.part.toNat = p ∧ e.asid = s.cx.asid ∧
        (k.toNat % 2 = 0 → e.va ≤ (s.cx.rg a).toNat ∧ (s.cx.rg a).toNat < e.va + e.size))) ∧
      ∀ n e, e ∈ Table.get [] t.ctlbs n ↔ e ∈ Table.get [] s.ctlbs n ∧ ¬ ((k.toNat < 2 → n = s.me / 8) ∧
        e.part.toNat = p ∧ e.asid = s.cx.asid ∧
        (k.toNat % 2 = 0 → e.va ≤ (s.cx.rg a).toNat ∧ (s.cx.rg a).toNat < e.va + e.size)))

/-- Table 9.3: the element-wise vector words, each with its latency and its operation on one lane of each source. -/
def Obligations.ElementWise : Prop :=
  ∀ (s : State) (f m : BitVec 3) (d a b : BitVec 5) (x y z : Nat → Nat) (r : Rnd), s.inHand → r = s.env.rnd →
    (∀ l, x l = lane (eb f) (s.cx.rv a) l) → (∀ l, y l = lane (eb f) (s.cx.rv b) l) →
    (∀ l, z l = lane (eb f) (s.cx.rv d) l) →
    (∀ e ∈ [(Instr.vadd f m d a b, 2, vadd f r), (.vsub f m d a b, 2, vsub f r), (.vmul f m d a b, 4, vmul f r),
        (.vmin f m d a b, 2, minmax f false), (.vmax f m d a b, 2, minmax f true),
        (.vand f m d a b, 2, fun p q => (p &&& q, 0)), (.vor f m d a b, 2, fun p q => (p ||| q, 0)),
        (.vxor f m d a b, 2, fun p q => (p ^^^ q, 0)), (.vshl f m d a b, 2, vshift f 0), (.vshr f m d a b, 2, vshift f 1),
        (.vsra f m d a b, 2, vshift f 2), (.vscaleb f m d a b, 2, vscaleb f r)],
      s.unbound e.1 → GivesV e.1 s d e.2.1 (each f (s.cx.rm m) (fun l => e.2.2 (x l) (y l)))) ∧
    (∀ e ∈ [(Instr.vabs f m d a, signOp f false), (.vneg f m d a, signOp f true),
        (.vnot f m d a, fun p => (2 ^ eb f - 1 - p, 0)), (.vmov f m d a, fun p => (p, 0)), (.vexpo f m d a, vexpo f)],
      s.unbound e.1 → GivesV e.1 s d 2 (each f (s.cx.rm m) (fun l => e.2 (x l)))) ∧
    (∀ e ∈ [(Instr.vfma f m d a b, false, false), (.vfms f m d a b, false, true), (.vfnma f m d a b, true, false)],
      s.unbound e.1 → GivesV e.1 s d 4 (each f (s.cx.rm m) (fun l => fused f r e.2.1 e.2.2 (x l) (y l) (z l)))) ∧
    (s.unbound (.vsel f m d a b) → GivesV (.vsel f m d a b) s d 2
      (each f (BitVec.allOnes 512) (fun l => (if (s.cx.rm m).getLsbD l then x l else y l, 0))).whole)

/-- Tables 9.4 and 9.5: the other vector words with a vector result, each with its latency. -/
def Obligations.VectorResults : Prop :=
  ∀ (s : State) (f fs m : BitVec 3) (p : BitVec 2) (d a b : BitVec 5) (e : Env) (k : BitVec 512) (x y : BitVec 4096)
    (g h : Word), s.inHand → e = s.env → k = s.cx.rm m → x = s.cx.rv a → y = s.cx.rv b → g = s.cx.rg (a.setWidth 6) →
    h = s.cx.rg (b.setWidth 6) →
    ∀ w ∈ [(Instr.vcvt f m d a p fs, 3, vcvt e f fs p.toNat k x), (.vcvts f m d a p fs, 3, vcvts e f fs p.toNat k x),
        (.vrmax f m d a, 6, vrext e f true false k x), (.vrmin f m d a, 6, vrext e f false false k x),
        (.vrsum f m d a, 6, vrsum e f k x), (.vrssq f m d a, 6, vrssq e f k x), (.vramax f m d a, 6, vrext e f true true k x),
        (.vrarg f m d a, 6, vrarg e f k x), (.vcsum f m d a, 6, vcsum e f k x), (.vscan f m d a, 6, vscan e f k x),
        (.vbrow f m d a, 4, vbrow e f k x), (.vbcol f m d a, 4, vbcol e f k x), (.vtrans f m d a, 4, vtrans e f k x),
        (.vperm f m d a b, 4, vperm f k x y), (.voxd f m d a b, 3, voxd e f k x b.toNat), (.voxe f d a b, 3, voxe f x b.toNat),
        (.vsplat f m d a, 4, vsplat f k g), (.vins f d a b, 4, vins f g h), (.viota f m d, 4, viota e f k),
        (.vrand f m d a, 4, vrand e f k g), (.vtree f m d a b, 6, vtree e f k x h)],
      s.unbound w.1 → GivesV w.1 s d w.2.1 w.2.2

/-- R191, R200, R204: the words that write a mask register or a scalar register from vector and mask registers. -/
def Obligations.Masks : Prop :=
  ∀ (s : State) (f m : BitVec 3) (d a b : BitVec 5) (x y : BitVec 4096) (p q : BitVec 512), s.inHand →
    x = s.cx.rv a → y = s.cx.rv b → p = s.cx.rm (a.setWidth 3) → q = s.cx.rm (b.setWidth 3) →
    (∀ e ∈ [(Instr.vceq f m d a b, 0), (.vcne f m d a b, 1), (.vclt f m d a b, 2), (.vcle f m d a b, 3)],
      s.unbound e.1 → ∃ w c : BitVec 512, GivesM e.1 s (d.setWidth 3) 2 w c ∧
        (∀ l < laneCount f, c.getLsbD l = (s.cx.rm m).getLsbD l ∧
          ((s.cx.rm m).getLsbD l → w.getLsbD l = vcmp f e.2 (lane (eb f) x l) (lane (eb f) y l))) ∧
        ∀ l, laneCount f ≤ l → l < 512 → c.getLsbD l = true ∧ w.getLsbD l = false) ∧
    GivesM (.mand d a b) s (d.setWidth 3) 2 (p &&& q) (BitVec.allOnes 512) ∧
    GivesM (.mor d a b) s (d.setWidth 3) 2 (p ||| q) (BitVec.allOnes 512) ∧
    GivesM (.mxor d a b) s (d.setWidth 3) 2 (p ^^^ q) (BitVec.allOnes 512) ∧
    GivesM (.mnot d a) s (d.setWidth 3) 2 (~~~p) (BitVec.allOnes 512) ∧
    GivesG (.mpopc f d a) s (d.setWidth 6) 2 (BitVec.ofNat 64 ((List.range (laneCount f)).countP (fun l => p.getLsbD l))) ∧
    (s.unbound (.vext f d a b) → GivesG (.vext f d a b) s (d.setWidth 6) 4
      (if isInt f then BitVec.ofInt 64 (sintOf (eb f) (lane (eb f) x ((s.cx.rg (b.setWidth 6)).toNat % laneCount f)))
       else BitVec.ofNat 64 (lane (eb f) x ((s.cx.rg (b.setWidth 6)).toNat % laneCount f))))

/-- R206: the special functions, ten cycles each. -/
def Obligations.SpecialFunctions : Prop :=
  ∀ (s : State) (f m : BitVec 3) (d a b : BitVec 5), s.inHand →
    (∀ w ∈ [(Instr.fexp2 f m d a, Fn.exp2), (.flog2 f m d a, .log2), (.frcp f m d a, .rcp), (.frsq f m d a, .rsq),
        (.fsqrt f m d a, .sqrt), (.fsin f m d a, .sin), (.fcos f m d a, .cos), (.ftanh f m d a, .tanh),
        (.fsigm f m d a, .sigm), (.ferf f m d a, .erf), (.fsilu f m d a, .silu)],
      s.unbound w.1 → GivesV w.1 s d 10 (vspecial s.env w.2 f (s.cx.rm m) (s.cx.rv a))) ∧
    (s.unbound (.fexp2m f m d a b) →
      GivesV (.fexp2m f m d a b) s d 10 (vexp2m s.env f (s.cx.rm m) (s.cx.rv a) (s.cx.rv b)))

/-- R267, R269 to R273: when the polynomial words perform and what they leave. -/
def Obligations.Polynomials : Prop :=
  ∀ (s : State) (f m q t : BitVec 3) (d a b : BitVec 5) (p : Poly) (g h : Word), s.inHand → q = d.setWidth 3 →
    t = a.setWidth 3 → p = s.cx.poly q.toNat → g = s.cx.rg (a.setWidth 6) → h = s.cx.rg (b.setWidth 6) →
    (∀ w ∈ [(Instr.ppinit d, ppInit p, 0), (.ppdeg d a, ppDeg p g), (.ppscale d a, ppScale p g)],
      Effect w.1 s (s.flying (s.flight w.1 1 .ld (.poly q w.2.1 w.2.2)))) ∧
    (∀ w ∈ [(Instr.ppmul f m d a b, (activeLanes f (s.cx.rm m)).length + 4, ppMul p f (s.cx.rm m) (s.cx.rv a) (s.cx.rv b)),
        (.ppdiv f m d a b, 5, ppDiv p f (s.cx.rm m) (s.cx.rv a) (s.cx.rv b))],
      s.unbound w.1 → Effect w.1 s ((s.flying (s.flight w.1 w.2.1 .ld (.poly q w.2.2.1 w.2.2.2))).modCx
        (fun x => { x with qbusy := Table.set x.qbusy q.toNat (s.now s.me + w.2.1) }))) ∧
    (s.unbound (.pprd f m d a b) →
      GivesV (.pprd f m d a b) s d 4 (ppRead s.env (s.cx.poly t.toNat) f (s.cx.rm m) h)) ∧
    GivesG (.ppstat d a) s (d.setWidth 6) 4 (s.cx.poly t.toNat).status

/-- R187: what the lanes of a register hold once a lane-wise result is written over it. -/
def Obligations.LanesWritten : Prop :=
  (∀ (f : BitVec 3) (m : BitVec 512) (op : Nat → Nat × Flags) (old : BitVec 4096) (l : Nat), l < laneCount f →
    lane (eb f) (merge 4096 old (each f m op).val (each f m op).mask) l =
      if m.getLsbD l then (op l).1 % 2 ^ eb f else lane (eb f) old l) ∧
  (∀ (w n : Nat) (act : Nat → Bool) (op : Nat → Nat × Flags) (old : BitVec 4096) (l : Nat), w * n ≤ 4096 → l < n →
    lane w (merge 4096 old (lanes w n act op).val (lanes w n act op).mask) l =
      if act l then (op l).1 % 2 ^ w else lane w old l) ∧
  ∀ (r : VRes) (old : BitVec 4096), merge 4096 old r.whole.val r.whole.mask = r.val

/-- R188, R189, R198: the lane operations on an integer format, as arithmetic on signed values. -/
def Obligations.IntegerLanes : Prop :=
  ∀ (f : BitVec 3) (r : Rnd) (w a b d : Nat) (x y z : Int), isInt f = true → w = eb f → a < 2 ^ w → b < 2 ^ w → d < 2 ^ w →
    x = (BitVec.ofNat w a).toInt → y = (BitVec.ofNat w b).toInt → z = (BitVec.ofNat w d).toInt →
    vadd f r a b = ((BitVec.ofInt w (x + y)).toNat, 0) ∧
    vsub f r a b = ((BitVec.ofInt w (x - y)).toNat, 0) ∧
    vmul f r a b = ((BitVec.ofInt w (x * y)).toNat, 0) ∧
    minmax f false a b = ((BitVec.ofInt w (min x y)).toNat, 0) ∧
    minmax f true a b = ((BitVec.ofInt w (max x y)).toNat, 0) ∧
    fused f r false false a b d = ((BitVec.ofInt w (x * y + z)).toNat, 0) ∧
    fused f r false true a b d = ((BitVec.ofInt w (x * y - z)).toNat, 0) ∧
    fused f r true false a b d = ((BitVec.ofInt w (z - x * y)).toNat, 0) ∧
    signOp f false a = ((BitVec.ofInt w x.natAbs).toNat, 0) ∧
    signOp f true a = ((BitVec.ofInt w (-x)).toNat, 0) ∧
    vshift f 0 a b = (((BitVec.ofNat w a) <<< (b % w)).toNat, 0) ∧
    vshift f 1 a b = (((BitVec.ofNat w a) >>> (b % w)).toNat, 0) ∧
    vshift f 2 a b = (((BitVec.ofNat w a).sshiftRight (b % w)).toNat, 0) ∧
    (∀ (k : Nat) (u : Int), k = eb f → 0 < k → ∀ xs : List Int, u = xs.sum →
      sumI k xs = ((BitVec.ofInt k (max (-2 ^ (k - 1)) (min (2 ^ (k - 1) - 1) u))).toNat,
        if -2 ^ (k - 1) ≤ u ∧ u ≤ 2 ^ (k - 1) - 1 then 0 else fSaturation))

/-- R208 to R213, R274: loads from the own vault that nothing holds back (`State.ungated`, log 26). -/
def Obligations.NearLoads : Prop :=
  ∀ (s : State) (d a : BitVec 6) (e : BitVec 5) (q sc : BitVec 3) (o : BitVec 10) (va : Nat → Word), s.inHand → s.ungated = true →
    (∀ n, va n = s.cx.rg a + BitVec.ofInt 64 (o.toInt * n)) →
    (∀ w ∈ [(Instr.ldb d a o, 1, 8), (.ldh d a o, 2, 16), (.ldw d a o, 4, 32), (.ldd d a o, 8, 0), (.ldbn d a o, 1, 0),
        (.ldhn d a o, 2, 0), (.ldwn d a o, 4, 0), (.ldf d a o, 8, 0)],
      isOwn s.me (va w.2.1) → isOwn s.me (va w.2.1 + BitVec.ofNat 64 (w.2.1 - 1)) →
      Effect w.1 s (s.flying (s.flight w.1 6 .ld (.load (.g d) [(vaultOffset (va w.2.1), w.2.1)] w.2.2)))) ∧
    (isOwn s.me (s.cx.rg a) → isOwn s.me (s.cx.rg a + 7) → Effect (.ldacq d a sc) s
      (s.flying (s.flight (.ldacq d a sc) 6 .acq (.load (.g d) [(vaultOffset (s.cx.rg a), 8)] 0)))) ∧
    (∀ (n : Nat) (ps : List Word), n = 2 ^ s.cx.seg.toNat →
      ps = (List.range n).map (fun k => va 512 + BitVec.ofNat 64 (k * s.cx.pitch.toNat * 64)) → s.unbound (.vld e a o) →
      (∀ p ∈ ps, isOwn s.me p ∧ isOwn s.me (p + BitVec.ofNat 64 (512 / n - 1))) →
      Effect (.vld e a o) s
        (s.flying (s.flight (.vld e a o) 6 .ld (.load (.v e) (ps.map (fun p => (vaultOffset p, 512 / n))) 0)))) ∧
    (∀ ps : List Word, ps = (List.range 8).map (fun k => va 512 + (s.cx.rv e).extractLsb' (64 * k) 64) →
      s.unbound (.vldx e a o) → (∀ p ∈ ps, isOwn s.me p ∧ isOwn s.me (p + 63)) →
      Effect (.vldx e a o) s
        (s.flying (s.flight (.vldx e a o) 6 .ld (.load (.v e) (ps.map (fun p => (vaultOffset p, 64))) 0)))) ∧
    (isOwn s.me (va 8) → isOwn s.me (va 8 + 519) → Effect (.ppload q a o) s
      ((s.flying (s.flight (.ppload q a o) 6 .ld (.polyLoad q (vaultOffset (va 8)) 0 []))).modCx
        (fun x => { x with qbusy := Table.set x.qbusy q.toNat (s.now s.me + 15) })))

/-- R208 to R210, R232, R274: stores to the own vault that nothing holds back (`State.ungated`, log 26), and to the own copy
aperture. -/
def Obligations.NearStores : Prop :=
  ∀ (s : State) (d a : BitVec 6) (e : BitVec 5) (q : BitVec 3) (o : BitVec 10) (va : Nat → Word), s.inHand → s.ungated = true →
    (∀ n, va n = s.cx.rg a + BitVec.ofInt 64 (o.toInt * n)) →
    (∀ w ∈ [(Instr.stb d a o, 1), (.sth d a o, 2), (.stw d a o, 4), (.std d a o, 8)],
      isOwn s.me (va w.2) → isOwn s.me (va w.2 + BitVec.ofNat 64 (w.2 - 1)) →
      Effect w.1 s (s.flying (s.flight w.1 6 .st (.store (vaultOffset (va w.2)) (numBytes w.2 (s.cx.rg d).toNat))))) ∧
    (∀ ch, s.channelOf s.me s.cx (.std d a o) = some ch →
      Effect (.std d a o) s (s.pushCopy ch 0 ((s.cx.rg d).extractLsb' 0 6) 0 0 0 0)) ∧
    (∀ (n : Nat) (p : Nat → Word), n = 2 ^ s.cx.seg.toNat →
      (∀ k, p k = va 512 + BitVec.ofNat 64 (k * s.cx.pitch.toNat * 64)) → s.unbound (.vst e a o) →
      (∀ k < n, isOwn s.me (p k) ∧ isOwn s.me (p k + BitVec.ofNat 64 (512 / n - 1))) →
      Effect (.vst e a o) s (s.modMe (fun c => { c with timed := c.timed ++ (List.range n).map (fun k =>
        { s.flight (.vst e a o) 6 .st (.store (vaultOffset (p k)) (((numBytes 512 (s.cx.rv e).toNat).drop (512 / n * k)).take (512 / n)))
          with seq := s.seq + k }) }))) ∧
    (isOwn s.me (va 8) → isOwn s.me (va 8 + 519) →
      Effect (.ppsave q a o) s (s.modMe (fun c => { c with timed := c.timed ++ (List.range 9).map (fun k =>
        { s.flight (.ppsave q a o) (6 + k) .st
            (.store (vaultOffset (va 8) + 64 * k) (((s.cx.poly q.toNat).image.drop (64 * k)).take 64)) with seq := s.seq + k }) })))

/-- R103, R132, R209 to R212, R274: loads and stores of which not every byte lies in the own vault, or that something holds
back (log 26). -/
def Obligations.FarAccesses : Prop :=
  ∀ (s : State) (i : Instr) (t : SlotAcc) (d a : BitVec 6) (e : BitVec 5) (q sc : BitVec 3) (o : BitVec 10), s.inHand →
    s.unbound i → slotAcc s.cx i = some t → t.near s.me = false ∨ s.ungated = false →
    let msg := fun (scope : BitVec 3) (ask : Ask) =>
      if t.near s.me then s.heldMsg 6 (s.accMsg t scope ask) else s.accMsg t scope ask
    (∀ w ∈ [(Instr.ldb d a o, BusyReg.g d, 8, (0 : BitVec 3)), (.ldh d a o, .g d, 16, 0), (.ldw d a o, .g d, 32, 0),
        (.ldd d a o, .g d, 0, 0), (.ldbn d a o, .g d, 0, 0), (.ldhn d a o, .g d, 0, 0), (.ldwn d a o, .g d, 0, 0),
        (.vld e a o, .v e, 0, 0), (.vldx e a o, .v e, 0, 0), (.ppload q a o, .q q, 0, 0), (.ldacq d a sc, .g d, 0, sc)],
      i = w.1 → Effect i s (s.sendInto (msg w.2.2.2 .read) w.2.1 w.2.2.1)) ∧
    (∀ w ∈ [(Instr.stb d a o, numBytes 1 (s.cx.rg d).toNat), (.sth d a o, numBytes 2 (s.cx.rg d).toNat),
        (.stw d a o, numBytes 4 (s.cx.rg d).toNat), (.vst e a o, numBytes 512 (s.cx.rv e).toNat),
        (.ppsave q a o, (s.cx.poly q.toNat).image)],
      i = w.1 → Effect i s (s.send (msg 0 (.write w.2)))) ∧
    (i = .std d a o → s.channelOf s.me s.cx i = none →
      Effect i s (s.send (msg 0 (.write (numBytes 8 (s.cx.rg d).toNat))))) ∧
    (i = .ldf d a o → ∀ ps, s.resolveSegs s.me s.cx t.acc t.segs = .ok ps →
      apertureBad s.me s.res i (ps.map (fun p => p.1)) = false →
      Effect i s (s.sendInto (msg 0 .read) (.g d) 0)) ∧
    (i = .ldf d a o → (∀ ps, s.resolveSegs s.me s.cx t.acc t.segs = .ok ps →
      apertureBad s.me s.res i (ps.map (fun p => p.1)) = true) →
      ∃ w : RegWrite, w.Is s (.g d) 6 0 (BitVec.allOnes 4096) fInvalid ∧ Effect i s (s.queued [w]))

/-- R122, R132, R214 to R216: what the atomics do at their issue. That one held as a release is a message of its own is the
model's reading (log entries 25 and 26). -/
def Obligations.AtomicsAtIssue : Prop :=
  ∀ (s : State) (d a b : BitVec 6) (sc : BitVec 3) (r : BitVec 1), s.inHand →
    ∀ w ∈ [(Instr.aadd d a b sc r, 0, 8, (0 : Word)), (.amin d a b sc r, 1, 8, 0), (.amax d a b sc r, 2, 8, 0),
        (.aminn d a b sc r, 3, 8, 0), (.amaxn d a b sc r, 4, 8, 0), (.aand d a b sc r, 5, 8, 0), (.aor d a b sc r, 6, 8, 0),
        (.axor d a b sc r, 7, 8, 0), (.aswap d a b sc r, 8, 8, 0), (.acas d a b sc r, 9, 8, s.cx.rg d),
        (.agts d a b sc r, 10, 8, 0), (.agtsn d a b sc r, 11, 8, 0), (.avswap d a b sc r, 12, 8, s.cx.rg d),
        (.atagswap d a b sc r, 13, 8, s.cx.rg d), (.afadd d a b sc r, 14, 4, 0)],
      ∀ (t : SlotAcc) (m : Msg) (y : Word), y = s.cx.rg b → t = .one (s.cx.rg a) w.2.2.1 w.2.2.1 .atomic (atCls r) →
        m = s.accMsg t sc (.atomic (BitVec.ofNat 5 w.2.1) y w.2.2.2) →
        (t.near s.me = true → (if r = 0 then s.ungated else s.nearBy s.me m.after (s.now s.me + 7)) = true →
          Effect w.1 s (s.flying (s.flight w.1 8 (atCls r)
            (.atomic (BitVec.ofNat 5 w.2.1) d (vaultOffset (s.cx.rg a)) y w.2.2.2)))) ∧
        (t.near s.me = true → (if r = 0 then s.ungated else s.nearBy s.me m.after (s.now s.me + 7)) = false →
          Effect w.1 s (s.sendInto (s.heldMsg 8 m) (.g d) 0)) ∧
        (t.near s.me = false → Effect w.1 s (s.sendInto m (.g d) 0))

/-- R132, R213, R231: STREL and PENN at their issue. That a held one is a message is the model's reading (log entry 25). -/
def Obligations.ReleasesAtIssue : Prop :=
  ∀ (s : State) (a b : BitVec 6) (sc : BitVec 3), s.inHand →
    ∀ w ∈ [(Instr.strel a b sc, Cls.rel), (.penn a b sc, Cls.pen)],
      ∀ (t : SlotAcc) (m : Msg), t = .one (s.cx.rg a) 8 8 .store w.2 →
        m = s.accMsg t sc (.write (numBytes 8 (s.cx.rg b).toNat)) →
        (t.near s.me = true → s.nearBy s.me m.after (s.now s.me + 5) = true →
          Effect w.1 s (s.flying (s.flight w.1 6 w.2 (.store (vaultOffset (s.cx.rg a)) (numBytes 8 (s.cx.rg b).toNat))))) ∧
        (t.near s.me = true → s.nearBy s.me m.after (s.now s.me + 5) = false →
          Effect w.1 s (s.send (s.heldMsg 6 m))) ∧
        (t.near s.me = false → Effect w.1 s (s.send m))

/-- R236, R239, R245, R246, R248: what the matrix words do at their issue. -/
def Obligations.MatrixAtIssue : Prop :=
  ∀ (s : State) (c f g h3 : BitVec 3) (h j : BitVec 4) (v n k j2 rn : BitVec 2) (v1 l z p q u w1 : BitVec 1) (d : BitVec 5)
    (tag : Tag), s.inHand → tag = (if f = 4 then .i else if s.cx.fx then .x else .f) →
    (∀ w ∈ [(Instr.mma c h j f g v l z p q, tag), (.mmas c h j f g v l z q, tag), (.mmag c h j2 f g v1 l z p q, tag),
        (.mhad c h3 n, .f), (.mzero c k, kindTag k), (.mload c h v1 k, kindTag k)],
      s.unbound w.1 → ∃ m : MxCmd, m.i = w.1 ∧ m.res = s.res ∧ m.issue = s.now s.me ∧ m.pc = s.cx.pc ∧ m.fxq = s.cx.fxq ∧
        m.satf = s.cx.satf ∧ m.fx = s.cx.fx ∧ m.start = none ∧ m.endAt = none ∧ m.row = 0 ∧
        Effect w.1 s ((s.modCx (fun x =>
          if w.2 = .x then (x.setTag c.toNat .x).setTag (c.toNat + 1) .x else x.setTag c.toNat w.2)).modMe
            (fun k => { k with mq := k.mq ++ [m] }))) ∧
    (∀ e : DrainEnv, e = ⟨⟨rn, s.cx.round.getLsbD 2⟩, u = 1, s.cx.key, s.cx.tile, (s.regOf s.me).period⟩ →
      s.unbound (.mdrain c h j f p u w1 rn d) →
      GivesV (.mdrain c h j f p u w1 rn d) s d 8 (drain e s.cx.vshape.toNat f (s.cx.tagOf c.toNat).num s.cx.fxq.toInt
        (s.cx.tile1 c.toNat) (s.cx.tile1 (c.toNat + 1)) (p ++ h).toNat
        (if w1 = 1 then some (s.cx.rv (BitVec.ofNat 5 (16 + j.toNat))) else none)) true)

/-- R244, R250, R254, R260, R261, R263, R276: the words that put a command in the queue of an engine. -/
def Obligations.EngineCommands : Prop :=
  ∀ (s : State) (a b : BitVec 6) (n c : BitVec 2) (k : BitVec 4) (h : BitVec 5) (md : BitVec 2) (x y : Word), s.inHand →
    x = s.cx.rg a → y = s.cx.rg b →
    (∀ w ∈ [(Instr.ecw a b, x, y), (.ecr a b, x, y), (.gcfg a n, x, 0), (.hcfg a h, x, 0), (.harm a h, x, 0)],
      ∃ m : SmallCmd, m.i = w.1 ∧ m.res = s.res ∧ m.issue = s.now s.me ∧ m.pc = s.cx.pc ∧ m.slot = s.wordIx ∧
        m.a = w.2.1 ∧ m.b = w.2.2 ∧ m.k = 0 ∧ m.shift = 0 ∧ m.gates = s.gates s.me s.res ∧
        Effect w.1 s (s.modMe (fun q => { q with small := q.small ++ [m] }))) ∧
    (∀ w ∈ [(Instr.ctblk a k, x, k.toNat), (.ctsnap a k, x, k.toNat), (.ctstep k, 0, k.toNat), (.ctclr a k, x, k.toNat),
        (.ctsave a, x, 0), (.ctload a, x, 0)],
      ∃ m : CtCmd, m.i = w.1 ∧ m.res = s.res ∧ m.issue = s.now s.me ∧ m.pc = s.cx.pc ∧ m.slot = s.wordIx ∧ m.a = w.2.1 ∧
        m.th = Table.get (0 : BitVec 32) s.cx.ctthr w.2.2 ∧ m.start = none ∧ m.k = 0 ∧ m.gates = s.gates s.me s.res ∧
        Effect w.1 s (s.modMe (fun q => { q with ct := q.ct ++ [m] }))) ∧
    (∀ w ∈ [(Instr.cpy a b md c, 0, x.extractLsb' 0 6, md, y, (0 : Word), (0 : Word)), (.kvcommit a b c, 1, 0, 0, 0, x, y),
        (.kvreset a b c, 2, 0, 0, y, x, 0)],
      ∃ m : CopyCmd, m.kind = BitVec.ofNat 2 w.2.1 ∧ m.tidx = w.2.2.1 ∧ m.mode = w.2.2.2.1 ∧ m.disp = w.2.2.2.2.1 ∧
        m.kvDesc = w.2.2.2.2.2.1 ∧ m.kvPath = w.2.2.2.2.2.2 ∧ m.res = s.res ∧ m.issue = s.now s.me ∧ m.pc = s.cx.pc ∧
        m.slot = s.wordIx ∧ m.sat = some (s.cx.round.getLsbD 2) ∧ m.after = (s.core s.me).openEcw s.res ∧
        m.aperture = false ∧ m.cursor0 = 0 ∧ m.gates = s.gates s.me s.res ∧
        Effect w.1 s (s.modMe (fun q => q.setChan c.toNat
          { q.chan c.toNat with queue := (q.chan c.toNat).queue ++ [m] })))

/-- R224, R226, R227, R258, R262, R263, R280, R284, R287: the words that wait for an answer, and those that take effect a
fixed time later. -/
def Obligations.AnswersAndSettings : Prop :=
  ∀ (s : State) (a b : BitVec 6) (c : BitVec 2) (k : BitVec 4) (h : BitVec 5) (n : BitVec 9) (x y : Word)
    (busy : BitVec 6 → List (BusyReg × Nat)), s.inHand → x = s.cx.rg a → y = s.cx.rg b →
    (∀ r, busy r = if r = 0 then [] else [(.g r, s.seq)]) →
    (∃ m : CtCmd, m.i = .ctqry a b k ∧ m.b = y ∧ m.issue = s.now s.me ∧ m.res = s.res ∧ m.start = none ∧
      Effect (.ctqry a b k) s ((s.modCx (fun z => { z with busy := z.busy ++ busy a })).modMe
        (fun q => { q with ct := q.ct ++ [m] }))) ∧
    (∃ m : SmallCmd, m.i = .hread a b h ∧ m.issue = s.now s.me ∧ m.res = s.res ∧ m.k = 0 ∧
      Effect (.hread a b h) s ((s.modCx (fun z => { z with busy := z.busy ++ busy a ++ busy b })).modMe
        (fun q => { q with small := q.small ++ [m] }))) ∧
    (∀ q q' : Chan, q = (s.core s.me).chan c.toNat →
      q' = { q with
        queue := [], cancel := q.cancel ++ [(s.seq, a, s.res, q.cur.isNone && q.st = .idle)]
        st := if q.st = .active then .cancelling else if q.st = .suspended then .idle else q.st
        cur := if q.st = .suspended then none else q.cur
        fault := if q.st = .suspended then none else q.fault } →
      Effect (.cpyx a c) s ((s.modCx (fun z => { z with busy := z.busy ++ busy a })).modMe
        (fun z => z.setChan c.toNat q'))) ∧
    (∀ w ∈ [(Instr.xbind a b, 1, Cls.ld, Act.xbind x y),
        (.rcfg a b k, 1, .st, .ringSet k { Ring.none with
          conf := true, base := x, slots := (y.extractLsb' 0 9).setWidth 16
          slotsize := (y.extractLsb' 16 16).setWidth 24 * 64 }),
        (.rrst k, 1, .st, .ringSet k Ring.none), (.radvp k n, 7, .st, .ring k true n), (.radvc k n, 7, .st, .ring k false n)],
      Effect w.1 s (s.flying (s.flight w.1 w.2.1 w.2.2.1 w.2.2.2))) ∧
    Effect (.deq a b) s (if s.ungated then s.flying (s.flight (.deq a b) 8 .at (.deq a x (vaultOffset y)))
      else s.sendInto (s.heldMsg 8 (s.message s.me s.res .at 0 y
        [⟨.mem (vaultKey s.me (vaultOffset y)), 64, .rc, true, 0, 0⟩] (.deq x) .none)) (.g a) 0) ∧
    (Effect (.enq a b) s ((s.modCx (fun z => { z with busy := z.busy ++ busy a })).flying
      (s.flight (.enq a b) 6 .st (.enqRead a y.toNat x)))) ∧
    Effect (.xstat a b) s (s.sendInto { s.message s.me s.res .ld 0 y [] .read .none with host := true, after := [] } (.g a) 0)

/-- R131, R133, R218 to R223, R227, R228, R230: what the words that order, wait and bind streams do once nothing stalls
them. -/
def Obligations.SyncAtIssue : Prop :=
  ∀ (s : State) (a : BitVec 6) (sc c : BitVec 3) (m : BitVec 4) (k h : BitVec 5) (r4 : BitVec 4) (f w1 : BitVec 1)
    (count : Word) (n : BitVec 16) (t : Stream), s.inHand → n = s.cx.fenceNo + 1 →
    (count = match s.domainOf s.cx.lid s.me sc with
      | some d => d.count.setWidth 64
      | none => BitVec.allOnes 64) →
    (∀ w ∈ [Instr.fwait a k, .hwait a h k, .rwait a r4 f k, .qwait a k], Effect w s s) ∧
    (∃ w : RegWrite, w.Is s (.g a) 1 ((((0 : BitVec 41) ++ sc ++ m ++ n) : Word).setWidth 4096) ∧
      Effect (.fence a m sc) s ((s.queued [w]).modCx (fun x =>
        { x with
          fenceNo := n
          fences := s.openFences s.me s.cx ++ [⟨n,
            s.accessIds s.me s.res m ++ (if m.getLsbD 2 then (s.core s.me).commandIds s.res else []),
            if m.getLsbD 3 then s.cx.streamMarks else []⟩] }))) ∧
    (∀ i ∈ [Instr.bar a sc k, .barw a sc k, .barq a sc],
      ∃ w : RegWrite, w.Is s (.g a) 1 (count.setWidth 4096) ∧ Effect i s (s.queued [w])) ∧
    (∃ w : RegWrite, w.Is s (.g a) 1 (count.setWidth 4096) ∧
      Effect (.bara a sc) s ((s.queued [w]).arrive s.me s.res sc)) ∧
    Effect (.sbar 0) s s ∧
    ((∃ u, exec (.sbar c) s = .next u) ∧ ∀ marks, c ≠ 0 →
      (∀ p ∈ s.cx.streams, p.2.bound = true → c.getLsbD p.2.classBit = true → p.2.write = true ∨ p.2.read = false) →
      marks = (s.cx.streams.filter (fun p => p.2.bound && c.getLsbD p.2.classBit && p.2.write)).map (fun p => (p.2.id, p.2.taken)) ++
        (s.cx.drains.filter (fun t => c.getLsbD t.classBit)).map (fun t => (t.id, t.taken)) →
      Effect (.sbar c) s (s.modCx (fun x =>
        { x with sbars := x.sbars.filter (fun b => b.2.any (fun m => !x.marked m)) ++ [(c, marks)] }))) ∧
    (t = { Stream.none with id := s.seq, reg := 24 + c.toNat, write := w1 = 1, addr := s.cx.rg a, bound := true } →
      Effect (.stbind a w1 c) s ((s.modCx (fun x => x.setStream (24 + c.toNat) t)).flying
        (s.flight (.stbind a w1 c) 6 .ld (.streamDesc c (vaultOffset (s.cx.rg a)))))) ∧
    (t = s.cx.stream (24 + c.toNat) → (∃ u, exec (.stunb c) s = .next u) ∧
      (t.bound = false → Effect (.stunb c) s s) ∧
      (t.bound = true → t.write = true → Effect (.stunb c) s (s.modCx (fun x =>
        { x.setStream (24 + c.toNat) Stream.none with
          drains := x.drains ++ (if t.moved < t.taken then [t] else []) }))))

/-- R176, R217, R324, R325, R391: the steps of a core's sequencer that no instruction names. -/
def Obligations.SequencerSteps : Prop :=
  ∀ (s : State) (core : BitVec 10) (c t : Nat) (k : Core), c = core.toNat → k = s.core c → t = s.now c →
    (∀ w ∈ [Instr.residencySwitch core, .idleCoreDispatch core, .idleTimeout core], s.sequences c = false → exec w s = .next s) ∧
    ((s.regOf c).runs = false → exec (.ballastPass core) s = .next s) ∧
    (∀ (out : BitVec 1) (u : State), out = k.holder → s.sequences c = true → k.switchWait = true → k.switchAt ≤ t → (k.ctx out).polyBusy t = false →
      u = (if (s.regOf c).hz < (t + 96 - k.switchFrom) * 1000000 then s.coreEvent c 0x13 else s) →
      exec (.residencySwitch core) s = .next (u.modCore c (fun k =>
        ({ k with holder := out ^^^ 1, switchWait := false, switch := some (t + 96) }).setCtx (out ^^^ 1)
          { k.ctx (out ^^^ 1) with gate := t + 96, heldRun := false }))) ∧
    (∀ u, s.sequences c = true → k.idle = true → s.dispatch c k.holder (t + 2) = (u, true) →
      exec (.idleCoreDispatch core) s = .next (u.modCore c (fun k => { k with idle := false }))) ∧
    (∀ u v p, s.sequences c = true → k.idle = true → s.dispatch c k.holder (t + 2) = (u, false) → u.decidePick c (k.holder ^^^ 1) = (v, p) →
      exec (.idleCoreDispatch core) s = .next (if p = .none then v else v.switchTo c k.holder t t)) ∧
    (∀ e d, s.sequences c = true → (k.ctx k.holder).idle = some (e, d) → e ≤ t →
      ∃ w : RegWrite, w.reg = .g d ∧ w.value = 0 ∧ w.mask = BitVec.allOnes 4096 ∧ w.flags = 0 ∧ w.due = t + 1 ∧
        exec (.idleTimeout core) s = .next { s.modCtx c k.holder (fun x =>
          { x with writes := x.writes ++ [w], idle := none, gate := max x.gate (t + 1) }) with seq := s.seq + 1 }) ∧
    (∀ (u : State) (is : List Instr) (w : Why), u = { s with cur := BitVec.ofNat 10 c } → u.sequences c = true → u.mayIssue c = true →
      u.cx.idle = none → u.cx.folding = none → u.fetch c u.res = .words is → u.check c u.res (mkBundle 0 is) = .ok →
      (u.holds c u.res (mkBundle 0 is) ++ u.lateWhy c u.res (mkBundle 0 is)).find? u.cx.expired = some w →
      exec (.waitLimitExpiry core) s = .next (u.waitLimit c u.res w)) ∧
    ((s.regOf c).runs = true → (∀ m ms, k.mq = m :: ms → m.start = none ∧ s.mxCanStart c m = false) →
      exec (.ballastPass core) s = .next (s.coreEvent c 0x17)) ∧
    ((s.regOf c).runs = true → ∀ m ms, k.mq = m :: ms → s.mxCanStart c m = true → exec (.ballastPass core) s = .next s)

/-- R70, R114, R119, R133, R134: the steps of hoists, rings and barrier instances complete in every state, each with the
effect that the state calls for. -/
def Obligations.HoistSteps : Prop :=
  ∀ (s : State) (core : BitVec 10) (res : BitVec 1) (k : BitVec 5) (r : BitVec 4) (sc : BitVec 3) (afar : List Afar) (c : Nat)
    (h : Hoist), c = core.toNat → h = (s.ctx c res).hoist k.toNat →
    (∀ u : State,
      u = ((((if h.auto && h.contig then s.clearW h.home h.length else s).modCtx c res (fun x =>
        (x.setHoist k.toNat { h with
          reach := h.reach + 1
          armed := h.auto
          count := if h.auto && !h.contig then h.count - BitVec.ofNat 40 h.total else h.count }).wake)).event c res 0x0F).detEmpty
            h.home h.length) →
      exec (.hoistReach core res k) s = .next (
        if ¬ (h.installed ∧ h.armed ∧ h.err = false ∧ h.total ≤ s.hoistValue h ∧ h.pend.length < 256 ∧ h.held = false) ∨ (s.ctx c res).saved then s
        else if h.action = 1 then u.modCtx c res (fun x => x.slotAction k.toNat (h.aop % 16) (u.now c))
        else if h.action = 2 then (if (u.ctx c res).dmem.getLsbD h.aop then u.arrive c res (BitVec.ofNat 3 h.aop) else u)
        else if h.action = 3 then u.modCtx c res (fun x => x.credit h.aop)
        else if h.action = 4 then u.pennant c res ⟨2, k.toNat, 0, 0⟩ 4 h.paddr h.pval []
        else u)) ∧
    (∀ g : Ring, g = (s.ctx c res).ring r.toNat →
      exec (.pendingSlotActionRelease core res r) s = .next (
        if (s.regOf c).runs = false ∨ g.relNow = 0 then s
        else s.modCtx c res (fun x => (x.setRing r.toNat { g with relNow := 0 }).release r.toNat g.relNow))) ∧
    (s.domainOf (s.ctx c res).lid c sc = none → exec (.barrierCompletion core res ⟨sc, afar⟩) s = .next s) ∧
    ∀ d : Domain, s.domainOf (s.ctx c res).lid c sc = some d →
      ((d.others ≠ afar.length ∨ s.domainReady d = false) → exec (.barrierCompletion core res ⟨sc, afar⟩) s = .next s) ∧
      (d.others = afar.length → s.domainReady d = true →
        exec (.barrierCompletion core res ⟨sc, afar⟩) s = .next (s.completeDomain d afar))

/-- R239 to R241, R277: what starts, ends and discards the commands of the matrix and contact engines. -/
def Obligations.EngineSteps : Prop :=
  ∀ (s : State) (core : BitVec 10) (c t : Nat) (k : Core), c = core.toNat → k = s.core c → t = s.now c →
    (∀ w ∈ [Instr.matrixCommandStart core, .matrixCommandEnd core, .matrixWaitLimitExpiry core, .contactCommandStart core],
      (s.regOf c).runs = false → exec w s = .next s) ∧
    (∀ (m : MxCmd) (ms : List MxCmd) (u : State), (s.regOf c).runs = true → k.mq = m :: ms → m.start = none →
      m.issue + 7 ≤ t → s.mxWaits c m = none → (∀ g ∈ m.gcfgAfter, ∀ n ∈ k.small, n.seq ≠ g) →
      (m.rows = 0 ∨ ∀ g ∈ m.gates, s.outstanding c g = false) →
      u = s.modCore c (fun k => { k with mq := { m with
        start := some t, aPend := true, bPend := true, endAt := if m.rows = 0 then some (t + m.time) else none } :: ms }) →
      ((∀ a b, m.i ≠ .mzero a b) → (∀ a b d e, m.i ≠ .mload a b d e) →
        exec (.matrixCommandStart core) s = .next (u.event c m.res 0x0A)) ∧
      (∀ a b, m.i = .mzero a b → exec (.matrixCommandStart core) s = .next u) ∧
      (∀ a b d e, m.i = .mload a b d e → exec (.matrixCommandStart core) s = .next u)) ∧
    (∀ (m : MxCmd) (ms : List MxCmd) (e : Nat) (w : List (Nat × BitVec 131072)) (fl : BitVec 8),
      (s.regOf c).runs = true → k.mq = m :: ms → m.endAt = some e → e ≤ t → (s.ctx c m.res).upsets = [] →
      m.result (s.ctx c m.res) (Memory.num s.mem (constKey (hadOff m.hadN)) (m.hadN * m.hadN / 8)) s.free = (w, fl) →
      m.satf = false →
      exec (.matrixCommandEnd core) s = .next ((s.modCore c (fun k => { k with mq := ms, mqEnd := t }.newHead t)).modCtx c m.res
        (fun x => { w.foldl (fun x p => x.setTile p.1 p.2) x with raisedMx := x.raisedMx ||| fl }))) ∧
    (∀ (m : MxCmd) (ms gone : List MxCmd) (h0 h : Nat) (r : Ring), (s.regOf c).runs = true → k.mq = m :: ms → m.start = none → m.head = some h0 →
      s.mxWaits c m = some h → m.issue + 7 ≤ t → h0 + 16777216 ≤ t → gone = k.mq.filter (fun n => n.res == m.res) →
      r = (s.ctx c m.res).ring h →
      exec (.matrixWaitLimitExpiry core) s = .next ((s.modCore c (fun k =>
        { k with mq := k.mq.filter (fun n => n.res != m.res) }.newHead t)).modCtx c m.res (fun x =>
          { gone.reverse.foldl (fun x n => n.tags.foldl (fun x p => x.setTag p.1 p.2) x) x with
            asyncWl := some (h, r.p.setWidth 64, r.q.setWidth 64, gone.length) }))) ∧
    (∀ (m : CtCmd) (ms : List CtCmd), (s.regOf c).runs = true → k.ct = m :: ms → m.start = none → m.issue + 7 ≤ t →
      (∀ g ∈ m.gates, s.outstanding c g = false) → m.void (s.ctx c m.res) = false →
      exec (.contactCommandStart core) s = .next ((s.modCt c (fun m => { m with start := some t })).ctFirst c m))

/-- R19, R232, R254 to R258, R352: the steps of a copy channel. -/
def Obligations.CopySteps : Prop :=
  ∀ (s : State) (core : BitVec 10) (ch : BitVec 2) (c n : Nat) (q : Chan) (m : CopyCmd), c = core.toNat → n = ch.toNat →
    q = (s.core c).chan n →
    ((s.regOf c).runs = true →
      (∀ t, s.copyCanBegin c n = some m → m.kind = 0 → t = m.tmpl.getD (Table.get 0 (s.ctx c m.res).tmpl m.tidx.toNat) →
        tmplOk t = true → ∃ q' : Chan, exec (.copyBegin core ch) s = .next (s.modChan c n (fun _ => q')) ∧
          q'.cur = some { m with tmpl := some t, sat := some (m.sat.getD ((s.ctx c m.res).round.getLsbD 2)) } ∧ q'.st = .active ∧
          q'.queue = q.queue.tail ∧ q'.cursor = m.cursor0 ∧ q'.beginAt = s.now c ∧ q'.out = [] ∧ q'.seq = q.seq) ∧
      (∀ t, s.copyCanBegin c n = some m → m.kind = 0 → t = m.tmpl.getD (Table.get 0 (s.ctx c m.res).tmpl m.tidx.toNat) →
        tmplOk t = false → exec (.copyBegin core ch) s = .next ((s.modChan c n (fun q =>
          { q with queue := q.queue.tail, terr := q.terr + 1, tlast := m.tidx.setWidth 8, cursor := m.cursor0 })).copyRecord c n m
            3 0 0 m.cursor0)) ∧
      (q.open = some m → q.timed c = true → q.chunkDone = true →
        (q.chunkOwn = true ∨ s.chunkHeld c q m q.cursor.toNat = false) →
        exec (.chunkCommit core (.commit ch)) s = .next (s.commitChunk c n m)) ∧
      (q.open = some m → q.timed c = false → q.ahead.contains q.cursor.toNat = true →
        exec (.chunkCommit core (.commit ch)) s = .next (s.commitChunk c n m)) ∧
      (q.open = some m → q.timed c = false → s.chunkMoves c q m q.cursor.toNat = true →
        exec (.chunkCommit core (.commit ch)) s =
          .next (((q.chunkPieces q.cursor.toNat).foldl (fun s p => s.moveCounted c n m p) s).commitChunk c n m)) ∧
      (∀ k, k ≤ 1 → q.open = some m → q.timed c = false → s.chunkMoves c q m (q.cursor.toNat + k) = true →
        exec (.chunkCommit core (if k = 0 then .move ch else .ahead ch)) s =
          .next (((q.chunkPieces (q.cursor.toNat + k)).foldl (fun s p => s.moveCounted c n m p) s).modChan c n
            (fun q0 => { q0 with ahead := q0.ahead ++ [q.cursor.toNat + k] }))) ∧
      (∀ (refused : Bool) cause sub va, q.open = some m → q.st = .active → q.timed c = false → q.ahead.contains q.cursor.toNat = false →
        s.snag c q m (q.chunkPieces q.cursor.toNat) = some (.fault cause sub va) →
        exec (.copyChunkFault core (if refused then .refused ch else .own ch)) s =
          .next ((s.copyRecord c n m cause sub va q.cursor).suspend c n (some (cause, sub, va)))) ∧
      (∀ va, q.open = some m → q.st = .active → q.timed c = false → q.ahead.contains q.cursor.toNat = false →
        s.snag c q m (q.chunkPieces q.cursor.toNat) = none → s.abroadIn c q m (q.chunkPieces q.cursor.toNat) = some va →
        exec (.copyChunkFault core (.refused ch)) s =
          .next ((s.copyRecord c n m 1 5 va q.cursor).suspend c n (some (1, 5, va)))) ∧
      (q.open = some m → q.st = .active → 16777216 ≤ q.wmWait → exec (.watermarkWaitLimitExpiry core ch) s =
        .next ((s.copyRecord c n m 4 0 0 q.cursor).suspend c n (some (4, 0, 0)))) ∧
      (q.cur = some m → m.kind = 0 → q.st = .active → q.moved = true → q.rdDone = true →
        exec (.copyCompletionAction core ch) s =
          .next ((s.copyAction c n m (q.tmpl.extractLsb' 448 32).toNat).copyEnd c n true)) ∧
      (q.cancel ≠ [] → q.st = .idle → exec (.copyCancelComplete core ch) s =
        .next (q.cancel.foldl (fun u e =>
          u.answerG c e.2.2.1 e.2.1 e.1 (if e.2.2.2 then BitVec.allOnes 64 else BitVec.ofNat 64 q.doneBytes))
          (s.modChan c n (fun q => { q with cancel := [] }))))) ∧
    ((s.regOf c).runs = false → ∀ (i : Instr) (k : ChunkStep) (d : ChunkStop), i ∈ [.copyBegin core ch, .chunkCommit core k,
      .copyChunkFault core d, .watermarkWaitLimitExpiry core ch, .copyCompletionAction core ch,
      .copyCancelComplete core ch] → exec i s = .next s) ∧
    (∀ (off : BitVec 12) (v : Word) (r : BitVec 1), off.toNat = 2048 * r.toNat + 64 * n →
      (64 ≤ v.toNat ∨ (s.ctx c r).owned = false → exec (.apertureCommandArrival core off v) s =
        .next (s.modChan c n (fun q => { q with aerr := q.aerr + 1 }))) ∧
      (v.toNat < 64 → (s.ctx c r).owned = true → (s.ctx c r).saved = false → (s.core c).preRes ≠ r →
        ∃ m' : CopyCmd, m'.kind = 0 ∧ m'.res = r ∧ m'.tidx = v.extractLsb' 0 6 ∧ m'.aperture = true ∧ m'.issue = s.now c ∧
          exec (.apertureCommandArrival core off v) s =
            .next { s.modChan c n (fun q => { q with queue := q.queue ++ [m'] }) with seq := s.seq + 1 }))

/-- R19, R101, R103, R110, R115, R216, R352: the steps of the fabric and of the stream units. -/
def Obligations.FabricSteps : Prop :=
  ∀ (s : State) (id : Nat) (adm : Bool) (m : Msg),
    (∀ w ∈ [(Instr.fabricWrite (.own id adm), Serve.write), (.fabricAtomic (.own id adm), .atomic), (.fabricRead (.own id adm), .read)],
      s.fabric.find? (fun m => m.id = id) = some m → m.ask.served w.2 = true → m.arrived = false →
      (m.own = false ∨ (s.regOf m.core).runs = false) →
      s.deliverable m = true →
      ((∃ p ∈ m.parts, p.device.isSome = true) → adm = false → exec w.1 s = .next (s.refuseMsg m)) ∧
      ((adm = true ∨ ∀ p ∈ m.parts, p.device.isSome = false) → (∀ c, m.vault = some c → (s.regOf c).runs = false) →
        exec w.1 s = .next (s.performMsg m)) ∧
      ((adm = true ∨ ∀ p ∈ m.parts, p.device.isSome = false) → ∀ c, m.vault = some c → (s.regOf c).runs = true →
        exec w.1 s = .next { s with fabric := s.fabric.map (fun n => if n.id = id then { n with arrived := true } else n) })) ∧
    (∀ (d : BitVec 19) (num : BitVec 10) (tag addr : Word) (op : BitVec 5) (data : List Byte) (p : Nat), s.ownerOf addr.toNat = some p →
      ((s.partition p).tag ≠ tag → ∀ i ∈ [Instr.fabricWrite (.remote d num tag addr op data), .fabricAtomic (.remote d num tag addr op data),
          .fabricRead (.remote d num tag addr op data)],
        exec i s = .next (s.modPartition p (fun x => { x with refused := x.refused + 1 }))) ∧
      ((s.partition p).tag = tag → (s.partition p).en = true → inDirectory addr.toNat = false →
        exec (.fabricWrite (.remote d num tag addr op data)) s = .next (s.put (paKey addr.toNat) data) ∧
        exec (.fabricRead (.remote d num tag addr op data)) s = .next s ∧
        exec (.fabricAtomic (.remote d num tag addr op data)) s = .next (s.atomicAt op (paKey addr.toNat)
          (BitVec.ofNat 64 (leNat (data.take 8))) (BitVec.ofNat 64 (leNat (data.drop 8)))).2)) ∧
    (∀ (r : BitVec 6) (n : Nat) (bs : List Byte), s.fabric.find? (fun m => m.id = id) = some m → m.answer = some bs →
      m.dest = .reg (.g r) n → (s.ctx m.core m.res).busy.contains (BusyReg.g r, m.id) = true →
      exec (.registerDataArrival id) s = .next ({ s with fabric := s.fabric.filter (fun n => n.id ≠ id) }.modCtx m.core m.res
        (fun x => { x.wg r (loadWord n bs) with busy := x.busy.filter (fun b => b != (BusyReg.g r, m.id)) }))) ∧
    (∀ (core : BitVec 10) (res : BitVec 1) (n : BitVec 3) (x : Ctx), x = s.ctx core.toNat res →
      ((s.regOf core.toNat).runs = false → exec (.streamTransfer core res ⟨n, adm⟩) s = .next s) ∧
      ∀ (u : State) (t' : Stream), (s.regOf core.toNat).runs = true →
      (∀ d ∈ x.drains, d.reg ≠ 24 + n.toNat) → (x.stream (24 + n.toNat)).bound = true → (s.core core.toNat).away res = false →
      s.streamMove core.toNat res adm (x.stream (24 + n.toNat)) = some (u, t') →
      exec (.streamTransfer core res ⟨n, adm⟩) s = .next (u.modCtx core.toNat res (fun x => x.setStream (24 + n.toNat) t')))

/-- R226, R307, R314, R315, R318: the steps of hardware queues and producer windows. -/
def Obligations.QueueSteps : Prop :=
  ∀ (s : State) (w : BitVec 6) (h word : Word) (q : BitVec 13) (n : Nat) (e : Queue) (x : Window), n = q.toNat → e = s.queue n →
    x = s.window w.toNat →
    (∀ (id : Nat) (m : Msg) (p : List Byte) (st : Nat) (last : BitVec 32) (u : State), s.fabric.find? (fun m => m.id = id) = some m →
      m.ask = .enq h p → s.deliverable m = true →
      ((s.enqRegion m).isSome = true → exec (.enqueueRequest id) s =
        .next { s with fabric := s.fabric.map (fun n => if n.id = id then { n with arrived := true } else n) }) ∧
      ((s.enqRegion m).isSome = false → exec (.enqueueRequest id) s = .next (s.enqAnswer m)) ∧
      (s.handleWaits (s.partOf m.core) h = true → s.enqAnswer m = s) ∧
      (s.handleWaits (s.partOf m.core) h = false →
        s.enqueue (s.partOf m.core) (some ⟨m.core, m.res, m.pc, m.slot⟩) h p = (st, last, u) → st ≠ 4 →
        s.enqAnswer m = u.answered m (numBytes 8 (last.toNat * 2 ^ 32 + st % 256)))) ∧
    (s.boot = .ready → x.pending = false → exec (.hostWindowSubmit w h) s =
      .next ((s.setWindow w.toNat { x with pending := true, handle := h }).windowAnswer w.toNat)) ∧
    (s.boot = .ready → x.pending = true → exec (.hostWindowSubmit w h) s = .next s) ∧
    (∀ (off : BitVec 6) (data : List Byte), s.boot = .ready → off.toNat + data.length ≤ 64 →
      ∃ v : BitVec 512, exec (.packetStagingWrite w off data) s = .next (s.setWindow w.toNat { x with staging := v }) ∧
        ∀ i < 64, v.extractLsb' (8 * i) 8 =
          if off.toNat ≤ i ∧ i < off.toNat + data.length then data.getD (i - off.toNat) 0 else x.staging.extractLsb' (8 * i) 8) ∧
    (∀ p ∈ [(Instr.queueEnable q word, !e.en && word.getLsbD 0), (.queueDisable q word, e.en && !word.getLsbD 0),
        (.queueSwapOut q word, e.en && !e.swap && word.getLsbD 6), (.queueSwapIn q word, e.en && e.swap && !word.getLsbD 6),
        (.queueGenerationChange q word, e.en && e.gen != word.extractLsb' 8 12)],
      s.boot = .ready → n < 6144 → p.2 = true → exec p.1 s = .next (s.commitQueue n word)) ∧
    (∀ (v : BitVec 256) (f : Queue), f = e.written v → queueBits v = true →
      (e.en = false ∧ s.queueOk n f = true ∨ e.en = true ∧ f.seq = e.seq ∧ f.log2n = e.log2n ∧ f.img = e.img ∧ f.moff = e.moff) →
      f.en = true → s.queueCommit n v =
        (((s.setQueue n { f with copying := e.copying || (e.en && e.swap && !f.swap) }).dirQueue n) |> (fun s => if e.en then s.mirrorHead n else s.mirrorAll n))) ∧
    (e.copying = true → exec (.swapInCopyComplete q) s =
      .next ((s.fillImage n ((s.stacksOf n).headD 0)).setQueue n { e with copying := false }).windowsTurn) ∧
    ∀ stack fresh : BitVec 4, s.failedStacks.getLsbD stack.toNat = true → fresh.toNat < 12 →
      s.failedStacks.getLsbD fresh.toNat = false →
      exec (.mirrorCopyComplete stack fresh) s = .next (s.mirrorCopied stack.toNat fresh.toNat).windowsTurn

/-- R306, R310, R312, R313, R328, R329, R335: the steps of the launch units and of the save units. -/
def Obligations.LaunchSteps : Prop :=
  ∀ (s : State) (r : BitVec 5) (core : BitVec 10) (c q part i : Nat) (e : Queue) (w : BitVec 512) (k : Core), c = core.toNat →
    k = s.core c → e = s.queue q →
    (∀ (u : State), s.launchQueue r.toNat = some q → s.partOf (q / 8) = some part → e.en = true → e.swap = false → e.copying = false →
      e.held.find? (fun i => !e.taken.contains i && !e.retired.contains i) = some i → e.again.contains i = false →
      w = BitVec.ofNat 512 (Memory.num s.mem (e.slotKey q i) 64) →
      u = s.setQueue q { e with taken := e.taken ++ [i], again := e.again.filter (fun j => j ≠ i) } →
      (∀ code, w.getLsbD 92 = false → s.refusalCode part w = code → code = 1 ∨ code = 2 ∨ code = 3 →
        exec (.launchPacketTake r) s = .next (u.refusePacket part q i w code)) ∧
      (∀ (m : Image) (box : List (Nat × Nat)), w.getLsbD 92 = false → s.refusalCode part w = 0 →
        (s.region (pfield w 80 5)).gated = false → s.imageOf part w = some m → packetBox w = some box →
        (∀ c ∈ launchCores w (boxCount box), (s.ctx c (packetRes w)).owned = false) →
        exec (.launchPacketTake r) s = .next (u.startLaunch part q i w m box)) ∧
      (w.getLsbD 92 = true → s.stopTarget part w = none → exec (.launchPacketTake r) s = .next (u.refusePacket part q i w 1)) ∧
      (∀ t : Launch, w.getLsbD 92 = true → s.stopTarget part w = some t →
        (∀ code, s.refusalCode part w = code → code ≠ 0 → exec (.launchPacketTake r) s = .next (u.refusePacket part q i w code)) ∧
        (s.refusalCode part w = 0 → exec (.launchPacketTake r) s = .next { u with launches := s.launches.map (fun l =>
          if l.lid == t.lid then { l with stop := true, stopSlots := l.stopSlots ++ [(q, i)] } else l) }))) ∧
    (∀ (lid : Word) (l : Launch) (ids : List Nat), s.launches.find? (fun l => l.lid == lid) = some l → l.ending = some ids →
      (∀ n ∈ ids, ∀ m ∈ s.fabric, m.id = n → m.performed = true) →
      exec (.launchCompletion lid) s = .next (s.retireLaunch l)) ∧
    (∀ (word : Word), k.preSt ≠ .pending → k.preSt ≠ .saving → k.preSt ≠ .restoring →
      (∀ cause i, i ∈ [(Instr.preemptSave core word, 1), (.preemptRestore core word, 2)] → word.toNat % 8 = i.2 →
        s.preRefusal c word = some cause →
        exec i.1 s = .next (s.modCore c (fun k => { k with preSt := .refused, preCause := cause }))) ∧
      (word.toNat % 8 = 1 → s.preRefusal c word = none → exec (.preemptSave core word) s = .next (s.modCore c (fun k =>
        { k with preSt := .pending, preCause := 0, preArea := word &&& 0xFFFFFFFFFFFFF000, preRes := word.extractLsb' 3 1 }))) ∧
      (∀ old, word.toNat % 8 = 2 → s.preRefusal c word = none →
        old = s.areaNow c (word.extractLsb' 3 1) (word &&& 0xFFFFFFFFFFFFF000) →
        exec (.preemptRestore core word) s = .next ((s.modCore c (fun k =>
          { k with
            preSt := .restoring, preCause := 0, preArea := word &&& 0xFFFFFFFFFFFFF000, preRes := word.extractLsb' 3 1
            preOld := sparse old })).modCtx c (word.extractLsb' 3 1) (fun x =>
              { x.setEnergy (BitVec.ofNat 64 (leNat ((old.drop 0x560).take 8))) with saved := false })))) ∧
    (k.preSt = .saving → k.prePhase = 6 → k.preEnergy.any (s.outstanding c) = false →
      exec (.saveComplete core) s = .next ((s.modCore c (fun k => { k with preSt := .saved, preEnergy := none })).modCtx c k.preRes
        (fun x => { x with savedOk := true }))) ∧
    (∀ (img : List Byte) (h : Nat) (u : State), k.preSt = .restoring → img = s.readImage c → h = imgNum img 0 256 →
      u = { s with free := s.free + areaBytes / 8 } →
      (∀ cause, (h / 2 ^ 432 % 65536 ≠ c ∧ cause = 6 ∨ h / 2 ^ 432 % 65536 = c ∧ headerOk h = false ∧ cause = 7) →
        exec (.restoreComplete core) s = .next ((u.modCore c (fun k =>
          { k with preSt := .refused, preCause := cause, preOld := [] })).modCtx c k.preRes (fun x => { x with saved := true }))) ∧
      (h / 2 ^ 432 % 65536 = c → headerOk h = true → exec (.restoreComplete core) s =
        .next (((u.takeImage c k.preRes img).modCore c (fun k => { k with preSt := .resumed, preOld := [] })).modCtx c k.preRes
          (fun x => { x with saved := false, savedOk := false }))))

/-- R108, R349, R373 to R375, R380, R381, R389, R399, R404, R405: what the host's commits do. -/
def Obligations.HostCommits : Prop :=
  ∀ (s : State) (w : Word), s.boot = .ready →
    (∀ (p : BitVec 3) (v : BitVec 512) (n : Partition), v = s.gather (offPartition p.toNat) (s.partition p.toNat).bits w →
      n = (s.partition p.toNat).written v →
      exec (.partitionEntryCommit p w) s = .next ((s.partitionCommit p.toNat v).unstage (offPartition p.toNat) 64) ∧
      (v.extractLsb' 1 31 ≠ 0 → n ≠ s.partition p.toNat → s.partitionCommit p.toNat v = s.cfgError none) ∧
      (v.extractLsb' 1 31 = 0 → v.extractLsb' 228 28 = 0 → v.extractLsb' 448 64 = 0 → n ≠ s.partition p.toNat →
        (∀ o ∈ s.partitions, o.1 = p.toNat ∨ o.2.en = false ∨ o.2.meets n = false) →
        (∀ r < 32, ((s.partition p.toNat).regions ||| n.regions).getLsbD r = true → s.regionIdle r = true) →
        (s.partitionCommit p.toNat v).partitions = Table.set s.partitions p.toNat n ∧
          (s.partitionCommit p.toNat v).cfgErr = s.cfgErr ∧ (s.partitionCommit p.toNat v).clusters = s.clusters)) ∧
    (∀ (k : BitVec 7) (old new : BitVec 6), k.toNat < 96 → old = Table.get 0 s.clusters k.toNat → new = w.extractLsb' 0 6 →
      (64 ≤ w.toNat ∨ new ≠ old ∧ s.clusterIdle k.toNat = false → exec (.clusterEntryCommit k w) s = .next (s.cfgError none)) ∧
      (∀ b ∈ [old, new], new ≠ old → b.getLsbD 5 = true →
        (s.regionIdle (b.toNat % 32) = false ∨ (s.region (b.toNat % 32)).en = true) →
        exec (.clusterEntryCommit k w) s = .next (s.cfgError none)) ∧
      (w.toNat < 64 → new ≠ old → s.clusterIdle k.toNat = true →
        (∀ b ∈ [old, new], b.getLsbD 5 = true → s.regionIdle (b.toNat % 32) = true ∧ (s.region (b.toNat % 32)).en = false) →
        (new.getLsbD 5 = false ∨ Table.find s.lqKept (new.toNat % 32) = none) →
        exec (.clusterEntryCommit k w) s = .next (({ s with clusters := Table.set s.clusters k.toNat new }).partTurn k.toNat))) ∧
    (∀ (r : BitVec 5) (v : BitVec 128) (g : Region) (f : Nat × Nat), g = s.region r.toNat → v = s.gather (offSource r.toNat) g.entry w →
      (g.en = false → w.getLsbD 9 = true → v.extractLsb' 10 5 = 0 → v.extractLsb' 18 62 = 0 → v.getLsbD 9 = true →
        s.fsrc (v.extractLsb' 0 9) = some f → lockOk (v.extractLsb' 0 9) (v.extractLsb' 96 32) (v.extractLsb' 80 16) (v.extractLsb' 15 1) (v.getLsbD 16) f = true →
        s.coresOf r.toNat ≠ [] →
        ∃ g' : Region, exec (.sourceEnable r w) s = .next ((s.setRegion r.toNat g').unstage (offSource r.toNat) 16) ∧
          g'.sel = v.extractLsb' 0 9 ∧ g'.en = true ∧ g'.st = .locking ∧ g'.rail = v.extractLsb' 15 1 ∧ g'.boost = v.getLsbD 16 ∧
          g'.s = v.extractLsb' 80 16 ∧ g'.c = v.extractLsb' 96 32 ∧ g'.cycle = 0 ∧ g'.period = 0 ∧ g'.gap = 0 ∧ g'.slip = 0 ∧
          g'.mbox = none ∧ g'.fastev = false ∧ g'.stopev = false ∧ g'.slowev = false ∧
          g'.boosted = (v.getLsbD 16 && s.grant)) ∧
      (g.en = true → w.getLsbD 9 = false → v = g.entry &&& ~~~(0x200 : BitVec 128) → s.regionIdle r.toNat = true →
        ∃ g' : Region, exec (.sourceDisable r w) s = .next ((s.setRegion r.toNat g').unstage (offSource r.toNat) 16) ∧
          g'.en = false ∧ g'.st = .off ∧ g'.sel = g.sel ∧ g'.c = g.c ∧ g'.s = g.s ∧ g'.cycle = g.cycle) ∧
      exec (.regionStatusClear r w) s = .next (s.modRegion r.toNat (fun g =>
        { g with
          fastev := g.fastev && !w.getLsbD 0, stopev := g.stopev && !w.getLsbD 1, slowev := g.slowev && !w.getLsbD 2 }))) ∧
    (∀ (k : BitVec 9) (v : BitVec 128) (n : Rate), k.toNat < 260 →
      v = s.gather (offRate k.toNat) (Table.get Rate.fresh s.rates k.toNat).entry w →
      n = ⟨v.getLsbD 0, v.extractLsb' 1 1, v.extractLsb' 32 32, v.extractLsb' 64 2, v.extractLsb' 80 16, v.extractLsb' 96 32⟩ →
      v.extractLsb' 2 30 = 0 → v.extractLsb' 66 14 = 0 → n.fill ≠ 3 → n.num ≠ 0 → n.den ≠ 0 → s.lockedTo k.toNat = false →
      exec (.rateEntryCommit k w) s = .next (({ s with rates := Table.set s.rates k.toNat n }).unstage (offRate k.toNat) 16)) ∧
    (∀ (u : BitVec 6) (v : BitVec 128) (x n : Crossing), x = s.crossing u.toNat → v = s.gather (offCrossing u.toNat) x.entry w →
      n = x.written v → v.extractLsb' 1 41 = 0 →
      (x.en = false → w.getLsbD 0 = true → n.en = true → x.bound = false → s.crossingOk u.toNat n = true →
        exec (.crossingEnable u w) s = .next ((s.setCrossing u.toNat { n with chans := [] }).unstage (offCrossing u.toNat) 16)) ∧
      (x.en = true → w.getLsbD 0 = false → { n with en := true } = x → n.en = false → x.bound = false →
        exec (.crossingDisable u w) s = .next ((s.setCrossing u.toNat { n with chans := [] }).unstage (offCrossing u.toNat) 16))) ∧
    ((w.extractLsb' 16 16).toNat ≤ 4800 → (w.extractLsb' 0 16).toNat < (w.extractLsb' 16 16).toNat →
      exec (.powerEntryCommit w) s = .next { s with low := w.extractLsb' 0 16, high := w.extractLsb' 16 16 }) ∧
    (∀ (p : BitVec 3) (e : Loader) (i : Instr), e = s.loader p.toNat →
      (e.status ≠ 0xFF → w.extractLsb' 8 8 = 0 → w.extractLsb' 32 8 = 0 → w.extractLsb' 48 16 = 0 →
        (i = .loaderLoad p w ∧ w.toNat % 4 = 1 ∨ i = .loaderUnload p w ∧ w.toNat % 4 = 2) →
        ∃ e' : Loader, exec i s = .next ((s.setLoader p.toNat e').unstage (offLoader p.toNat) 32) ∧ e'.status = 0xFF ∧
          e'.act.toNat = w.toNat % 4 ∧ e'.region = w.extractLsb' 3 5 ∧ e'.res = w.extractLsb' 2 1 ∧ e'.image = w.extractLsb' 16 16) ∧
      (e.status = 0xFF → (∀ t, (if e.act = 1 then s.loadImage p.toNat e else s.unload p.toNat e) = .ok t →
          exec (.loadDone p) s = .next (t.setLoader p.toNat { e with act := 0, status := 0 })) ∧
        (∀ n, (if e.act = 1 then s.loadImage p.toNat e else s.unload p.toNat e) = .error n →
          exec (.loadDone p) s = .next (s.setLoader p.toNat { e with act := 0, status := BitVec.ofNat 8 n })))) ∧
    ∀ off : BitVec 24, off.toNat % 8 = 0 →
      (∀ x ∈ s.crossings, x.2.en = false ∨ x.2.bound = false ∨ overlap off.toNat 8 (0x10000 + 1024 * x.2.table.toNat) 1024 = 0) →
      exec (.constantStoreWrite off w) s = .next (s.putRaw (constKey off.toNat) (numBytes 8 w.toNat))

/-- R318, R368, R398 to R401, R406 to R408: bring-up, reset, the host's windows and the failures of the package. That CXL
memory survives PERST# and a loss of power is the model's choice (log entry 63). -/
def Obligations.BringUp : Prop :=
  ∀ (s : State),
    (∀ (i : Instr) (wp : Wipe), (i = .perst true ∧ wp = .package ∨ i = .powerLoss ∧ wp = .supplies) →
      ∃ t, exec i s = .next t ∧ t.boot = .reset ∧ t.cores = State.reset.cores ∧ t.regions = State.reset.regions ∧
        t.launches = [] ∧ t.fabric = [] ∧ t.mem = s.mem ∧ t.wipe = wp ∧ t.inputs = s.inputs) ∧
    (s.boot = .reset → exec (.perst false) s = .next { s with boot := .firmware }) ∧
    (∀ (w : Word) (img : List Byte) (n : Nat), s.boot = .firmware → w.getLsbD 32 = true → n = w.toNat % 4294967296 →
      img = s.firmware n →
      (4 ≤ n → n ≤ 16777216 → crc32 (img.take (n - 4)) = rd img (n - 4) 4 →
        exec (.firmwareStart w) s = .next { s with fwLen := w.extractLsb' 0 32, boot := .training }) ∧
      (n < 4 ∨ 16777216 < n ∨ crc32 (img.take (n - 4)) ≠ rd img (n - 4) 4 →
        exec (.firmwareStart w) s = .next (({ s with fwLen := w.extractLsb' 0 32 }).bootFail 1))) ∧
    (∀ (m : BitVec 12) (cs : List (BitVec 43)), s.boot = .training →
      (m = BitVec.allOnes 12 → exec (.trainingDone m cs) s = .next { s with
        boot := .tags, cxlCap := (List.range 4).map (fun p => (p, installed (cs.getD p 0))) }) ∧
      (m ≠ BitVec.allOnes 12 → exec (.trainingDone m cs) s = .next (s.bootFail 2))) ∧
    (s.boot = .tags → exec .tagsDone s = .next { s with
      boot := .selftest, gtags := [], wipe := .vaults, ecc := s.ecc.filter (fun e => Wipe.vaults.keeps e.1) }) ∧
    (s.boot = .selftest → exec (.selftestDone true) s = .next { s with boot := .locking } ∧
      exec (.selftestDone false) s = .next (s.bootFail 3)) ∧
    (s.boot = .locking → exec (.lockingDone true) s = .next (({ ({ s with wall := 0 } : State).writeSigns.restoreQueues with
        boot := .ready }).hostPost (({ s with wall := 0 } : State).writeSigns.restoreQueues).readyAddr
          (0x0100000000000000 + (({ s with wall := 0 } : State).writeSigns.restoreQueues).devId.setWidth 64)) ∧
      exec (.lockingDone false) s = .next (s.bootFail 4)) ∧
    (∀ cause : BitVec 8, s.readyAddr = 0 → s.bootFail cause = { s with boot := .failed, bootCause := cause }) ∧
    (∀ (off : BitVec 40) (bs : List Byte) (pa : Nat), s.bar4Pa off.toNat = some pa →
      exec (.bar4Access off bs) s = .next (if bs = [] then s else s.put (paKey pa) bs)) ∧
    (∀ v : Word, exec (.registerWrite 0x018 v) s = .next { s with readyAddr := v } ∧
      (s.boot ≠ .ready → exec (.registerWrite 0x020 v) s = .next { s with devId := v.extractLsb' 0 19 }) ∧
      exec (.registerWrite 0x030 v) s = .next { s with wbase := v.extractLsb' 0 31 } ∧
      exec (.registerWrite 0x038 v) s = .next { s with offset := v } ∧
      ∀ off : BitVec 26, off.toNat % 8 ≠ 0 → exec (.registerWrite off v) s = .next s) ∧
    (∀ (p : BitVec 2) (lo : BitVec 42) (hi : BitVec 43), exec (.cxlExpanderLoss p lo hi) s = .next { s with
      cxlLost := s.cxlLost ++ [(0x100000000000 + p.toNat * 4398046511104 + lo.toNat,
        0x100000000000 + p.toNat * 4398046511104 + hi.toNat)] }) ∧
    (∀ p : BitVec 6, p.toNat < 36 →
      exec (.gxlPortFailure p) s = .next { s with gxlDown := s.gxlDown ||| BitVec.ofNat 36 (2 ^ p.toNat) }) ∧
    (∀ k : BitVec 4, k.toNat < 12 →
      exec (.hbmStackFailure k) s = .next { s with failedStacks := s.failedStacks ||| BitVec.ofNat 12 (2 ^ k.toNat) }) ∧
    ∀ (c : BitVec 10) (n : BitVec 19) (key p : Nat), key = vaultKey c.toNat (8 * n.toNat) →
      (s.ecc.find? (fun e => e.1 = key) = some (key, false) →
        (∀ w ∈ s.wlog, overlap w.key w.bytes.length (key / 64 * 64) 64 = 0) →
        exec (.scrubRead c n) s = .next { s with ecc := s.ecc.filter (fun e => e.1 ≠ key) }) ∧
      (s.ecc.find? (fun e => e.1 = key) = some (key, true) → s.partOf c.toNat = some p →
        exec (.scrubRead c n) s = .next (s.modPartition p (fun q => { q with scrubErr := q.scrubErr + 1 })))

/-- R12, R13, R16, R18 to R20, R229, R375, R376, R384, R388, R390: the steps of regions, their sources, and the power budget. -/
def Obligations.RegionSteps : Prop :=
  ∀ (s : State) (r : BitVec 5) (g : Region), g = s.region r.toNat →
    (g.boundaryDue = true → g.stop = true → exec (.periodBoundary r) s = .next (s.modRegion r.toNat (fun g =>
      { g with st := .frozen, wf := s.wall, cycle := g.cycle - 1, drain := true, good := 0, miss := 0, anchor := none, move := false }))) ∧
    (g.boundaryDue = true → g.stop = false → ∃ t, exec (.periodBoundary r) s = .next t ∧ (t.region r.toNat).period = g.period + 1 ∧
      (t.region r.toNat).into = 0 ∧ (t.region r.toNat).samp = 0 ∧ (t.region r.toNat).cycle = g.cycle ∧ t.mem = s.mem) ∧
    (∀ (sel : BitVec 9) (t time : Word) (f : Nat) (v : BitVec 32) (vs : List (BitVec 32)),
      (0x100 ≤ sel.toNat → exec (.sampleArrival (.edge sel) time f vs) s = .next ((s.regions.map (fun p => p.1)).foldl (fun u r =>
        if (u.region r).en && decide ((u.region r).sel.toNat = sel.toNat) then u.arrival r s.wall f 0 else u) s)) ∧
      (sel.toNat < 0x100 → exec (.sampleArrival (.edge sel) time f vs) s = .next s) ∧
      (g.st = .frozen → s.arrival r.toNat t f v = s.setRegion r.toNat
        { g with st := .relock, stop := false, good := 1, miss := 0, anchor := some (t, 0), elastic := [], freq := f }) ∧
      (g.st = .holdover → g.stop = true → s.arrival r.toNat t f v = s.setRegion r.toNat { g with ovr := g.ovr + 1 })) ∧
    (∀ (k : Nat) (e : Rate) (time : Word) (f : Nat) (vs : List (BitVec 32)) (ps : Table (List (Word × Nat × BitVec 32))),
      s.rates = [(k, e)] → k < 0x100 → e.en = true →
      ps = Table.set s.packets k (Table.get [] s.packets k ++ vs.zipIdx.map (fun v => (dueAt time s.offset e v.2, f, v.1))) →
      (∀ v ∈ vs.zipIdx, s.wallAt (dueAt time s.offset e v.2) = false) → (∀ p ∈ ps, ∀ x ∈ p.2, s.wallAt x.1 = false) →
      exec (.sampleArrival (.packet e.link e.stream) time f vs) s = .next { s with packets := ps } ∧
      ∀ link stream, (link ≠ e.link ∨ stream ≠ e.stream) → (∀ p ∈ s.packets, ∀ x ∈ p.2, s.wallAt x.1 = false) →
        exec (.sampleArrival (.packet link stream) time f vs) s = .next s) ∧
    (g.start = false → g.stop = false → g.st = .locked → g.isRef = false → g.hasPort = false → g.elastic = [] →
      g.boundaryDue = false → g.early = false → exec (.missedSampleTime r) s = .next (s.setRegion r.toNat
        { g with st := .holdover, miss := 1, missN := g.missN + 1, samp := g.samp + 1, outDue := false })) ∧
    (∀ (num den : Nat) (n : Word), g.st = .relock → 16 ≤ g.good → s.fsrc g.sel = some (num, den) →
      n = BitVec.ofNat 64 ((s.wall - g.wf).toNat * num / (den * max 1 g.s.toNat * 1000000000)) →
      exec (.regionResumption r) s = .next (((s.modRegion r.toNat (fun g =>
        { g.byRange with gap := g.gap + n, cycle := g.cycle + 1, drain := false, good := 0, miss := 0 })).newPeriod r.toNat
          (g.period + n + 1)).realignAll r.toNat)) ∧
    (∀ (k : Nat) (v : BitVec 32) (rest : List (Nat × BitVec 32)), g.hasPort = true → g.gated = false → g.outDue = true → g.outs = (k, v) :: rest →
      k < g.portNow → exec (.outputSampleTime r) s =
        .next (s.setRegion r.toNat { g with outDue := false, outs := rest, lastOut := v, sent := v :: g.sent })) ∧
    (g.hasPort = true → g.gated = false → g.outDue = true → (∀ p ∈ g.outs, g.portNow ≤ p.1) → exec (.outputSampleTime r) s =
      .next (s.setRegion r.toNat { g with
        outDue := false, sent := (if s.fillOf g = 1 then 0 else g.lastOut) :: g.sent, undr := g.undr + 1 })) ∧
    (g.hasPort = false ∨ g.gated = true ∨ g.outDue = false → exec (.outputSampleTime r) s = .next s) ∧
    exec (.railSwitchEnd r) s = .next (s.modRegion r.toNat (fun g => { g with move := false })) ∧
    ∀ (p : BitVec 16) (level : Nat) (fell rose : Bool), level = min 4800000000 (s.level + 3000 - p.toNat) →
      fell = decide (level < s.level ∧ level ≤ s.low.toNat * 1000000) → rose = decide (s.level < level ∧ s.high.toNat * 1000000 ≤ level) →
      ∃ t, exec (.energyBucketUpdate p) s = .next t ∧ t.level = level ∧ t.pwr = p ∧
        t.excess = s.excess + (p.toNat - (s.level + 3000)) ∧ t.grant = (if s.grant then !fell else rose) ∧ t.mem = s.mem

/-- R370 to R372: the steps of a replica entry. -/
def Obligations.ReplicaSteps : Prop :=
  ∀ (s : State) (p : BitVec 3) (e : Replica), e = s.replica p.toNat →
    (e.st ≠ .mismatch → exec (.replicaRelease p) s = .next s ∧ exec (.replicaDiscard p) s = .next s) ∧
    (e.st = .mismatch →
      (∃ t, exec (.replicaRelease p) s = .next t ∧ (t.replica p.toNat).st = .idle ∧ t.fabric.length = s.fabric.length ∧
        (∀ m ∈ t.fabric, ∀ h, m.heldRep = some h → h.1 ≠ p.toNat)) ∧
      exec (.replicaDiscard p) s = .next { s with
        fabric := s.fabric.filter (fun m => !m.heldRep.any (fun h => decide (h.1 = p.toNat)))
        launches := s.launches.map (fun l => if l.lid == e.lid then { l with drop := true } else l) }) ∧
    (∀ (d : BitVec 128) (k : BitVec 32), e.en = true → e.st ≠ .mismatch → e.steps = [] →
      exec (.replicaDigestArrival p d k) s = .next (s.modReplica p.toNat (fun e => { e with peers := e.peers ++ [(k, d)] }))) ∧
    (∀ (lid w : Word) (k : BitVec 32) (own : BitVec 128) (rest : List (Word × BitVec 32 × BitVec 128 × Word)),
      e.en = true → e.st ≠ .mismatch → e.steps = (lid, k, own, w) :: rest → w.toNat + e.wait ≤ s.wall.toNat →
      exec (.replicaDigestTimeout p) s = .next (s.stepFails p.toNat lid k own 0 2) ∧
      ((s.stepFails p.toNat lid k own 0 2).replica p.toNat).st = .mismatch)

/-- R99: the alignment of slot accesses, the trap of a misaligned one, and what alignment gives. -/
def Obligations.AccessesAreAligned : Prop :=
  (∀ (x : Ctx) (d a : BitVec 6) (v : BitVec 5) (o : BitVec 10),
    (∀ i ∈ [Instr.ldb d a o, .ldbn d a o, .stb d a o], (slotAcc x i).map (fun t => t.align) = some 1) ∧
    (∀ i ∈ [Instr.ldh d a o, .ldhn d a o, .sth d a o], (slotAcc x i).map (fun t => t.align) = some 2) ∧
    (∀ i ∈ [Instr.ldw d a o, .ldwn d a o, .stw d a o], (slotAcc x i).map (fun t => t.align) = some 4) ∧
    (∀ i ∈ [Instr.ldd d a o, .std d a o, .ldf d a o], (slotAcc x i).map (fun t => t.align) = some 8) ∧
    ∀ i ∈ [Instr.vld v a o, .vst v a o, .vldx v a o], (slotAcc x i).map (fun t => t.align) = some 64) ∧
  (∀ (s : State) (i : Instr) (t : SlotAcc) (va : Word), isEvent i = false → s.bundle = none → s.asyncTrap s.me s.res = none →
    s.steps57 s.me s.res (mkBundle 0 [i]) = none → s.cx.streams = [] → s.cx.detMode = false → s.cx.reportDue = false →
    slotAcc s.cx i = some t → (va ∈ t.segs.map (fun g => g.1) ∨ ∃ d a o, i = .vldx d a o ∧ va = s.cx.ea a o 512) →
    va.toNat % t.align ≠ 0 →
    ∃ (q : Trap) (u : State), exec i s = .next u ∧ q.code = 4 ∧ q.ret = s.cx.pc ∧ q.arg.toNat % t.align ≠ 0 ∧ q.async = false ∧
      u = ((s.modCtx s.me s.res Ctx.freshWaits).failMet s.me s.res [i] q).takeTrap s.me s.res (s.now s.me) q ∧ u.mem = s.mem ∧ u.wlog = s.wlog) ∧
  (∀ va n : Nat, n ∈ [1, 2, 4, 8] → va % n = 0 → va / 64 = (va + n - 1) / 64) ∧
  ∀ va : Nat, va % 64 = 0 → (granules va 512).length = 8

/-- R354: the order in which a context takes the events that fall on a bundle, and which of them stay pending. -/
def Obligations.EventsInOrder : Prop :=
  ∀ (s : State) (c : Nat) (res : BitVec 1) (is : List Instr),
    let x := s.ctx c res
    let ws := mkBundle 0 is
    (x.act = true → s.asyncTrap c res = none) ∧
    (x.act = false → 0 < x.overrun → ∃ (q : Trap) (u : State), q.code = 8 ∧ q.async = true ∧
      s.asyncTrap c res = some (u.takeTrap c res (s.now c) q) ∧ u = s.modCtx c res (fun y => { y with overrun := y.overrun - 1 })) ∧
    (∀ m, x.act = false → x.overrun = 0 → x.mismatch = some m → ∃ (q : Trap) (u : State), q.code = 11 ∧ q.async = true ∧
      s.asyncTrap c res = some (u.takeTrap c res (s.now c) q) ∧ u = s.modCtx c res (fun y => { y with mismatch := none })) ∧
    (x.act = false → x.overrun = 0 → x.mismatch = none → s.asyncTrap c res = none) ∧
    (∀ t, res = s.res → s.asyncTrap c res = some t → s.bundleTurn c = t) ∧
    (∀ q, res = s.res → s.asyncTrap c res = none → s.fetch c res = .trap q → s.bundleTurn c = s.takeTrap c res (s.now c) q) ∧
    (∀ q, s.steps57 c res ws = some q → s.check c res ws = .trap q) ∧
    (s.steps57 c res ws = none → x.reportDue = true → s.reportPoint c res ws = true → s.check c res ws = .report) ∧
    (∀ q, s.steps57 c res ws = none → ¬(x.reportDue = true ∧ s.reportPoint c res ws = true) →
      State.steps8 c res ws ws s = some q → s.check c res ws = .trap q) ∧
    let u := s.modCtx c res Ctx.freshWaits
    (∀ q, u.check c res ws = .trap q → s.clears c res is = ((u.failMet c res is q).takeTrap c res (s.now c) q, false)) ∧
    (u.check c res ws = .report → s.clears c res is = (u.report c res (s.now c), false)) ∧
    (∀ q d, u.check c res ws = .engine q d → s.clears c res is = ((u.takeTrap c res (s.now c) q).engineTrapped c res d, false)) ∧
    ∀ (w : Why) (v : State) (all : List Why), u.check c res ws = .ok → u.matrixLimit c res = none →
      u.abandonedTrap c res ws = none →
      v = (if (u.holds c res ws).isEmpty then (u.arriveAll c res is).tlbiAll c res is else u) →
      all = u.holds c res ws ++ v.lateWhy c res ws → all.find? (v.ctx c res).expired = some w →
      s.clears c res is = (v.waitLimit c res w, false)

/-- R367 for the register files: what a bundle that reads words in error raises, and what writes and upsets do. The
numbering of the words is the model's (log entry 83). -/
def Obligations.RegisterFileErrors : Prop :=
  (∀ (s : State) (c : Nat) (res : BitVec 1) (i : Instr) (is : List Instr) (e : Nat × Bool),
    ((s.ctx c res).upsets = [] → s.readFiles c res is = s) ∧
    ((s.ctx c res).upsets = [e] → (∀ p ∈ (s.ctx c res).fileReads i, e.1 < p.1 ∨ p.1 + p.2 ≤ e.1) → s.readFiles c res [i] = s) ∧
    (∀ p ∈ (s.ctx c res).fileReads i, (s.ctx c res).upsets = [e] → p.1 ≤ e.1 → e.1 < p.1 + p.2 →
      (e.2 = false → s.readFiles c res [i] = s.coreEvent c 0x15) ∧
      (e.2 = true → ∃ f : FaultRec, f.code = 18 ∧ f.cause = 2 ∧ f.aux0 = (s.ctx c res).fileWord e.1 ∧ f.slot = 0 ∧
        f.pc = (s.ctx c res).pc ∧ s.readFiles c res [i] = s.record c res f 0))) ∧
  (∀ (x : Ctx) (n : BitVec 6) (w : Word) (e : Nat × Bool), n ≠ 0 →
    (e ∈ (x.wg n w).upsets ↔ e ∈ x.upsets ∧ e.1 ≠ n.toNat)) ∧
  (∀ (x : Ctx) (n : BitVec 5) (w : BitVec 4096) (e : Nat × Bool),
    e ∈ (x.wv n w).upsets ↔ e ∈ x.upsets ∧ (e.1 < fileV n.toNat ∨ fileV n.toNat + 64 ≤ e.1)) ∧
  ∀ (s : State) (c : Nat) (res : BitVec 1) (w : Nat) (double : Bool), w < fileWords →
    let t := s.upset (fileKey c res w) double
    t.mem = s.mem ∧ t.ecc = s.ecc ∧ (w, double) ∈ (t.ctx c res).upsets ∧
    (∀ n, (t.ctx c res).rg n = (s.ctx c res).rg n) ∧ ∀ n, (t.ctx c res).rv0 n = (s.ctx c res).rv0 n
end

