-- ==== Sys2Proof/Laws/Table.lean ====
section
/-!
SUPPORT. Sparse tables: what is read after one write, and that a second write at an index replaces the first.
-/

namespace Sys2Proof

variable {α : Type}

@[simp] theorem Table.get_set_self (d : α) (t : Table α) (i : Nat) (x : α) : Table.get d (t.set i x) i = x := by
  induction t with
  | nil => simp [Table.set, Table.get]
  | cons p t ih =>
    obtain ⟨j, a⟩ := p
    unfold Table.set
    split
    · simp [Table.get]
    · split <;> simp [Table.get, *]

theorem Table.get_set_other (d : α) (t : Table α) {i j : Nat} (x : α) (h : j ≠ i) :
    Table.get d (t.set i x) j = Table.get d t j := by
  induction t with
  | nil => simp [Table.set, Table.get, h]
  | cons p t ih =>
    obtain ⟨k, a⟩ := p
    unfold Table.set
    split
    · subst_vars; simp [Table.get, h]
    · split
      · simp [Table.get, h]
      · simp [Table.get, ih]

/-- What a table holds after one write. -/
theorem Table.get_set (d : α) (t : Table α) (i j : Nat) (x : α) :
    Table.get d (t.set i x) j = if j = i then x else Table.get d t j := by
  split
  · subst_vars; exact Table.get_set_self ..
  · exact Table.get_set_other _ _ _ ‹_›

@[simp] theorem Table.set_set (t : Table α) (i : Nat) (x y : α) : (t.set i x).set i y = t.set i y := by
  induction t with
  | nil => simp [Table.set]
  | cons p t ih =>
    obtain ⟨j, a⟩ := p
    by_cases h : i = j
    · simp [Table.set, h]
    · by_cases h' : i < j
      · simp [Table.set, h, h']
      · simp [Table.set, h, h', ih]

end Sys2Proof
end

