-- ==== Sys2Proof/Laws/State.lean ====
section
/-!
SUPPORT. What the updates of a core, a context and a region leave: the part updated reads as written, every other part as
before.
-/

namespace Sys2Proof.Machine

/-! ### Contexts of a core -/

@[simp] theorem Core.ctx_setCtx_self (k : Core) (res : BitVec 1) (x : Ctx) : (k.setCtx res x).ctx res = x := by
  unfold Core.setCtx Core.ctx; split <;> simp [*]

theorem Core.ctx_setCtx_other (k : Core) {r r' : BitVec 1} (x : Ctx) (h : r' ≠ r) : (k.setCtx r x).ctx r' = k.ctx r' := by
  unfold Core.setCtx Core.ctx
  split <;> split <;> simp_all
  all_goals exact absurd (show r' = r by revert r r'; decide) h

@[simp] theorem Core.setCtx_setCtx (k : Core) (res : BitVec 1) (x y : Ctx) : (k.setCtx res x).setCtx res y = k.setCtx res y := by
  unfold Core.setCtx; split <;> rfl

@[simp] theorem Core.setCtx_holder (k : Core) (res : BitVec 1) (x : Ctx) : (k.setCtx res x).holder = k.holder := by
  unfold Core.setCtx; split <;> rfl

@[simp] theorem Core.setCtx_timed (k : Core) (res : BitVec 1) (x : Ctx) : (k.setCtx res x).timed = k.timed := by
  unfold Core.setCtx; split <;> rfl

@[simp] theorem Core.setCtx_mq (k : Core) (res : BitVec 1) (x : Ctx) : (k.setCtx res x).mq = k.mq := by
  unfold Core.setCtx; split <;> rfl

@[simp] theorem Core.setCtx_ct (k : Core) (res : BitVec 1) (x : Ctx) : (k.setCtx res x).ct = k.ct := by
  unfold Core.setCtx; split <;> rfl

@[simp] theorem Core.setCtx_small (k : Core) (res : BitVec 1) (x : Ctx) : (k.setCtx res x).small = k.small := by
  unfold Core.setCtx; split <;> rfl

@[simp] theorem Core.setCtx_chans (k : Core) (res : BitVec 1) (x : Ctx) : (k.setCtx res x).chans = k.chans := by
  unfold Core.setCtx; split <;> rfl

@[simp] theorem Core.setCtx_part (k : Core) (res : BitVec 1) (x : Ctx) : (k.setCtx res x).part = k.part := by
  unfold Core.setCtx; split <;> rfl

@[simp] theorem Core.setCtx_idle (k : Core) (res : BitVec 1) (x : Ctx) : (k.setCtx res x).idle = k.idle := by
  unfold Core.setCtx; split <;> rfl

/-! ### Cores of the device -/

@[simp] theorem State.core_setCore_self (s : State) (c : Nat) (k : Core) : (s.setCore c k).core c = k :=
  Table.get_set_self ..

theorem State.core_setCore_other (s : State) {c d : Nat} (k : Core) (h : d ≠ c) : (s.setCore c k).core d = s.core d :=
  Table.get_set_other _ _ _ h

@[simp] theorem State.setCore_setCore (s : State) (c : Nat) (k l : Core) : (s.setCore c k).setCore c l = s.setCore c l := by
  simp [State.setCore]

@[simp] theorem State.core_modCore_self (s : State) (c : Nat) (f : Core → Core) : (s.modCore c f).core c = f (s.core c) :=
  Table.get_set_self ..

@[simp] theorem State.modCore_modCore (s : State) (c : Nat) (f g : Core → Core) :
    (s.modCore c f).modCore c g = s.modCore c (fun k => g (f k)) := by
  simp [State.modCore]

@[simp] theorem State.ctx_setCtx_self (s : State) (c : Nat) (res : BitVec 1) (x : Ctx) : (s.setCtx c res x).ctx c res = x := by
  simp [State.ctx, State.setCtx]

theorem State.ctx_setCtx_core (s : State) {c d : Nat} (res r : BitVec 1) (x : Ctx) (h : d ≠ c) :
    (s.setCtx c res x).ctx d r = s.ctx d r := by
  unfold State.ctx State.setCtx; rw [State.core_setCore_other _ _ h]

theorem State.ctx_setCtx_res (s : State) (c : Nat) {res r : BitVec 1} (x : Ctx) (h : r ≠ res) :
    (s.setCtx c res x).ctx c r = s.ctx c r := by
  unfold State.ctx State.setCtx; rw [State.core_setCore_self, Core.ctx_setCtx_other _ _ h]

@[simp] theorem State.ctx_modCtx_self (s : State) (c : Nat) (res : BitVec 1) (f : Ctx → Ctx) :
    (s.modCtx c res f).ctx c res = f (s.ctx c res) := State.ctx_setCtx_self ..

theorem State.core_modCtx (s : State) (c : Nat) (res : BitVec 1) (f : Ctx → Ctx) :
    (s.modCtx c res f).core c = (s.core c).setCtx res (f (s.ctx c res)) := by
  simp [State.modCtx, State.setCtx]

@[simp] theorem State.modCtx_modCtx (s : State) (c : Nat) (res : BitVec 1) (f g : Ctx → Ctx) :
    (s.modCtx c res f).modCtx c res g = s.modCtx c res (fun x => g (f x)) := by
  unfold State.modCtx State.setCtx; simp [State.ctx]

/-! ### The context in hand -/

@[simp] theorem State.me_modCtx (s : State) (c : Nat) (res : BitVec 1) (f : Ctx → Ctx) : (s.modCtx c res f).me = s.me := rfl

@[simp] theorem State.res_modCtx (s : State) (c : Nat) (res : BitVec 1) (f : Ctx → Ctx) : (s.modCtx c res f).res = s.res := by
  unfold State.res
  rw [State.me_modCtx]
  by_cases h : s.me = c
  · subst h; rw [State.core_modCtx, Core.setCtx_holder]
  · unfold State.modCtx State.setCtx; rw [State.core_setCore_other _ _ h]

@[simp] theorem State.me_modCx (s : State) (f : Ctx → Ctx) : (s.modCx f).me = s.me := rfl

@[simp] theorem State.res_modCx (s : State) (f : Ctx → Ctx) : (s.modCx f).res = s.res := State.res_modCtx ..

@[simp] theorem State.cx_modCx (s : State) (f : Ctx → Ctx) : (s.modCx f).cx = f s.cx := by
  unfold State.cx; rw [State.me_modCx, State.res_modCx]; exact State.ctx_modCtx_self ..

@[simp] theorem State.modCx_modCx (s : State) (f g : Ctx → Ctx) : (s.modCx f).modCx g = s.modCx (fun x => g (f x)) := by
  unfold State.modCx; rw [State.me_modCtx, State.res_modCtx, State.modCtx_modCtx]

@[simp] theorem State.now_modCtx (s : State) (c d : Nat) (res : BitVec 1) (f : Ctx → Ctx) : (s.modCtx c res f).now d = s.now d :=
  rfl

@[simp] theorem State.now_modCx (s : State) (d : Nat) (f : Ctx → Ctx) : (s.modCx f).now d = s.now d := rfl

@[simp] theorem State.regOf_modCx (s : State) (d : Nat) (f : Ctx → Ctx) : (s.modCx f).regOf d = s.regOf d := rfl

/-- The context in hand is found from the cores and the number of the core in hand. -/
theorem State.cx_of {u v : State} (h : u.cores = v.cores) (hc : u.cur = v.cur) : u.cx = v.cx := by
  unfold State.cx State.ctx State.res State.me State.core; rw [h, hc]

/-- What a context update leaves: every field of the state but the cores. -/
theorem State.modCx_eq (s : State) (f : Ctx → Ctx) : s.modCx f = { s with cores := (s.modCx f).cores } := rfl

/-! ### Registers (R147, R148) -/

@[simp] theorem Ctx.rg_zero (x : Ctx) : x.rg 0 = 0 := rfl

@[simp] theorem Ctx.rm_zero (x : Ctx) : x.rm 0 = BitVec.allOnes 512 := rfl

@[simp] theorem Ctx.wg_zero (x : Ctx) (w : Word) : x.wg 0 w = x := rfl

@[simp] theorem Ctx.wm_zero (x : Ctx) (w : BitVec 512) : x.wm 0 w = x := rfl

theorem Ctx.rg_wg (x : Ctx) (n m : BitVec 6) (w : Word) :
    (x.wg n w).rg m = if m = n then (if n = 0 then 0 else w) else x.rg m := by
  unfold Ctx.wg
  by_cases hn : n = 0
  · rw [if_pos hn, if_pos hn]
    by_cases h : m = n
    · rw [if_pos h, h, hn]; rfl
    · rw [if_neg h]
  · rw [if_neg hn, if_neg hn]
    unfold Ctx.rg
    by_cases h : m = n
    · rw [if_pos h, h, if_neg hn]; exact Table.get_set_self ..
    · have : m.toNat ≠ n.toNat := fun e => h (BitVec.eq_of_toNat_eq e)
      rw [if_neg h]; simp only [Table.get_set_other _ _ _ this]

theorem Ctx.rv0_wv (x : Ctx) (n m : BitVec 5) (w : BitVec 4096) : (x.wv n w).rv0 m = if m = n then w else x.rv0 m := by
  unfold Ctx.wv Ctx.rv0
  by_cases h : m = n
  · subst h; simp
  · have : m.toNat ≠ n.toNat := fun e => h (BitVec.eq_of_toNat_eq e)
    simp [h, Table.get_set_other, this]

theorem Ctx.rm_wm (x : Ctx) (n m : BitVec 3) (w : BitVec 512) :
    (x.wm n w).rm m = if m = n then (if n = 0 then BitVec.allOnes 512 else w) else x.rm m := by
  unfold Ctx.wm
  by_cases hn : n = 0
  · rw [if_pos hn, if_pos hn]
    by_cases h : m = n
    · rw [if_pos h, h, hn]; rfl
    · rw [if_neg h]
  · rw [if_neg hn, if_neg hn]
    unfold Ctx.rm
    by_cases h : m = n
    · rw [if_pos h, h, if_neg hn]; exact Table.get_set_self ..
    · have : m.toNat ≠ n.toNat := fun e => h (BitVec.eq_of_toNat_eq e)
      rw [if_neg h]; simp only [Table.get_set_other _ _ _ this]

/-! ### Regions -/

@[simp] theorem State.region_modRegion_self (s : State) (r : Nat) (f : Region → Region) :
    (s.modRegion r f).region r = f (s.region r) := Table.get_set_self ..

theorem State.region_modRegion_other (s : State) {r q : Nat} (f : Region → Region) (h : q ≠ r) :
    (s.modRegion r f).region q = s.region q := Table.get_set_other _ _ _ h

end Sys2Proof.Machine
end

