-- ==== Sys2Proof/Laws/Issue.lean ====
section
/-!
SUPPORT. Words of a bundle in hand: what stands around the meaning of a word that makes no access, and that such a word
completes when its meaning queues one register write.
-/

namespace Sys2Proof.Machine

theorem issue_inHand {i : Instr} {s : State} (k : State → State) (h : s.inHand) : issue i s k = .next (s.word i k) := by
  unfold issue; rw [if_pos h]

theorem Ctx.boundIn_nil {x : Ctx} {w : Bool} {vs : List (BitVec 5)} (h : ∀ v ∈ vs, (x.stream v.toNat).bound = false) :
    x.boundIn w vs = [] := by
  have : (vs.map (fun v => v.toNat)).filter (fun n => (x.stream n).bound && (x.stream n).write == w) = [] := by
    rw [List.filter_eq_nil_iff]
    intro n hn
    obtain ⟨v, hv, rfl⟩ := List.mem_map.mp hn
    simp [h v hv]
  unfold Ctx.boundIn
  rw [this]; rfl

theorem State.unbound_read {s : State} {i : Instr} (h : s.unbound i) (w : Bool) : s.cx.boundIn w (uses i).vr = [] :=
  Ctx.boundIn_nil (fun v hv => h v (List.mem_append_left _ hv))

theorem State.unbound_write {s : State} {i : Instr} (h : s.unbound i) (w : Bool) : s.cx.boundIn w (uses i).vw = [] :=
  Ctx.boundIn_nil (fun v hv => h v (List.mem_append_right _ hv))

/-! ### Numbers and meters -/

@[simp] theorem State.cx_numbered (u : State) (a b c : Nat) : (u.numbered a b c).cx = u.cx := rfl

@[simp] theorem State.me_numbered (u : State) (a b c : Nat) : (u.numbered a b c).me = u.me := rfl

@[simp] theorem State.res_numbered (u : State) (a b c : Nat) : (u.numbered a b c).res = u.res := rfl

@[simp] theorem State.now_numbered (u : State) (a b c d : Nat) : (u.numbered a b c).now d = u.now d := rfl

@[simp] theorem State.numbered_numbered (u : State) (a b c d e f : Nat) :
    (u.numbered a b c).numbered d e f = u.numbered d e f := rfl

@[simp] theorem State.modCx_numbered (u : State) (f : Ctx → Ctx) (a b c : Nat) :
    (u.numbered a b c).modCx f = (u.modCx f).numbered a b c := rfl

theorem State.place_numbered (s : State) (i : Instr) : s.place i = s.numbered (s.place i).slotNo s.wordIx s.seq := rfl

theorem State.modCx_congr {u : State} {f g : Ctx → Ctx} (h : f u.cx = g u.cx) : u.modCx f = u.modCx g := by
  unfold State.modCx State.modCtx
  exact congrArg (u.setCtx u.me u.res) h

theorem Only.intro {f : Ctx → Ctx} {s t : State} {x : Ctx} {a b c : Nat} (h : t = (s.modCx (fun _ => x)).numbered a b c)
    (hx : x = (f s.cx).metered x.evs x.charge) : Only f s t :=
  ⟨x.evs, x.charge, a, b, c, h.trans (congrArg (fun u : State => u.numbered a b c) (State.modCx_congr hx))⟩

/-! ### Around a word without an access -/

/-- Before a word that makes no access and names no stream register: its slot and its charge. -/
theorem State.beforeWord_plain {s : State} {i : Instr} (he : ∀ s : State, s.accessEvent i = none) (hu : s.unbound i) :
    s.beforeWord i =
      (s.modCx (fun x => x.metered x.evs (x.charge + (s.place i).wordCharge i))).numbered (s.place i).slotNo s.wordIx s.seq := by
  have e : (s.place i).cx.boundIn false (uses i).vr = [] := State.unbound_read hu false
  unfold State.beforeWord
  simp only [e, List.foldl_nil, he]
  rfl

theorem State.cx_beforeWord {s : State} {i : Instr} (he : ∀ s : State, s.accessEvent i = none) (hu : s.unbound i) :
    (s.beforeWord i).cx = s.cx.metered s.cx.evs (s.cx.charge + (s.place i).wordCharge i) := by
  rw [State.beforeWord_plain he hu, State.cx_numbered, State.cx_modCx]

theorem Ctx.boundIn_same {x y : Ctx} (h : x.streams = y.streams) (w : Bool) (vs : List (BitVec 5)) :
    x.boundIn w vs = y.boundIn w vs := by
  unfold Ctx.boundIn Ctx.stream; rw [h]

/-- Nothing is checked or noted for an access of no bytes. -/
theorem State.detTouch_nil (s : State) (c : Nat) (r : BitVec 1) (wr : Bool) : s.detTouch c r wr [] = s := by
  have h : s.detScan c r wr [] = .ok s := by
    unfold State.detScan
    simp only []
    split <;> rfl
  unfold State.detTouch; rw [h]

/-- A word that makes no access leaves translations and DET records alone. -/
theorem State.useWord_plain {i : Instr} (ha : ∀ x : Ctx, slotRanges x i = (.load, [])) (s : State) : s.useWord i = s := by
  unfold State.useWord
  rw [ha]
  exact State.detTouch_nil s _ _ _

/-- After a word that makes no access and names no stream register: the next word index. -/
theorem State.afterWord_plain {s t : State} {i : Instr} (ha : ∀ x : Ctx, slotRanges x i = (.load, [])) (hu : s.unbound i)
    (hs : t.cx.streams = s.cx.streams) :
    t.afterWord i = (t.modCx id).numbered t.slotNo (t.wordIx + wordCount i) t.seq := by
  have e1 : t.cx.boundIn false (uses i).vr = [] := (Ctx.boundIn_same hs _ _).trans (State.unbound_read hu false)
  have e2 : t.cx.boundIn true (uses i).vw = [] := (Ctx.boundIn_same hs _ _).trans (State.unbound_write hu true)
  unfold State.afterWord
  simp only [State.useWord_plain ha, e1, e2, List.append_nil, List.foldl_nil]
  rfl

/-- A queued write is a change of the context in hand and the next number. -/
theorem State.queueWrite_eq (u : State) (lat : Nat) (r : Reg) (v m : BitVec 4096) (fl : Flags) (mx : Bool) :
    u.queueWrite lat r v m fl mx =
      (u.modCx (fun x => { x with
        writes := x.writes ++ [⟨r, v, m, fl, mx, u.now u.me + lat, u.seq, u.wordIx, u.now u.me⟩] })).numbered
        u.slotNo u.wordIx (u.seq + 1) := rfl

/-- The whole of a word that makes no access, names no stream register, and whose meaning changes the context in hand. -/
theorem word_of {i : Instr} {s : State} {k : State → State} {f : Ctx → Ctx} {n : Nat}
    (he : ∀ s : State, s.accessEvent i = none) (ha : ∀ x : Ctx, slotRanges x i = (.load, [])) (hu : s.unbound i)
    (hs : ∀ x : Ctx, (f x).streams = x.streams)
    (hf : ∀ evs ch, f (s.cx.metered evs ch) = (f s.cx).metered (f (s.cx.metered evs ch)).evs (f (s.cx.metered evs ch)).charge)
    (hk : k (s.beforeWord i) = ((s.beforeWord i).modCx f).numbered (s.place i).slotNo s.wordIx n) :
    Only f s (s.word i k) := by
  have hp := State.beforeWord_plain he hu
  unfold State.word
  rw [hk, State.afterWord_plain (s := s) ha hu (by
    rw [State.cx_numbered, State.cx_modCx, hs, State.cx_beforeWord he hu]; rfl)]
  rw [State.modCx_numbered, State.modCx_modCx, hp, State.modCx_numbered, State.modCx_modCx, State.numbered_numbered,
    State.numbered_numbered]
  refine Only.intro (x := f (s.cx.metered s.cx.evs (s.cx.charge + (s.place i).wordCharge i)))
    (congrArg (fun u : State => u.numbered _ _ _) (State.modCx_congr rfl)) (hf _ _)

/-- A word that makes no access, names no stream register and queues one register write. -/
theorem queues_of {i : Instr} {s : State} {k : State → State} {r : Reg} {lat : Nat} {v m : BitVec 4096} {fl : Flags}
    {mx : Bool} (hx : exec i s = issue i s k) (he : ∀ s : State, s.accessEvent i = none)
    (ha : ∀ x : Ctx, slotRanges x i = (.load, [])) (hb : s.inHand) (hu : s.unbound i)
    (hk : k (s.beforeWord i) = (s.beforeWord i).queueWrite lat r v m fl mx) : Queues i s r lat v m fl mx := by
  have hp := State.beforeWord_plain he hu
  refine ⟨s.word i k, ⟨r, v, m, fl, mx, s.now s.me + lat, s.seq, s.wordIx, s.now s.me⟩,
    hx.trans (issue_inHand k hb), ?_, rfl, rfl, rfl, rfl, rfl, rfl⟩
  refine word_of (n := s.seq + 1) he ha hu (fun _ => rfl) (fun _ _ => rfl) ?_
  rw [hk, State.queueWrite_eq, hp]
  rfl

/-! ### Results -/

@[simp] theorem Ctx.rg_metered (x : Ctx) (e : List (Nat × Bool)) (c : Nat) (n : BitVec 6) : (x.metered e c).rg n = x.rg n := rfl

@[simp] theorem Ctx.rm_metered (x : Ctx) (e : List (Nat × Bool)) (c : Nat) (n : BitVec 3) : (x.metered e c).rm n = x.rm n := rfl

@[simp] theorem Ctx.rv_metered (x : Ctx) (e : List (Nat × Bool)) (c : Nat) (n : BitVec 5) : (x.metered e c).rv n = x.rv n := rfl

@[simp] theorem Ctx.pc_metered (x : Ctx) (e : List (Nat × Bool)) (c : Nat) : (x.metered e c).pc = x.pc := rfl

theorem State.env_beforeWord {s : State} {i : Instr} (he : ∀ s : State, s.accessEvent i = none) (hu : s.unbound i) :
    (s.beforeWord i).env = s.env := by
  have hc := State.cx_beforeWord he hu
  unfold State.env
  rw [hc, State.beforeWord_plain he hu]
  rfl

theorem unbound_of_none {s : State} {i : Instr} (h : (uses i).vr ++ (uses i).vw = []) : s.unbound i := by
  intro v hv; rw [h] at hv; cases hv

/-- A word whose meaning writes one scalar register. -/
theorem givesG_of {i : Instr} {s : State} {k : State → State} {d : BitVec 6} {lat : Nat} (F : Ctx → Word) (fl : Ctx → Flags)
    (hx : exec i s = issue i s k) (he : ∀ s : State, s.accessEvent i = none) (ha : ∀ x : Ctx, slotRanges x i = (.load, []))
    (hb : s.inHand) (hu : s.unbound i) (hk : ∀ u : State, k u = u.writeG lat d (F u.cx) (fl u.cx))
    (hF : ∀ (x : Ctx) e c, F (x.metered e c) = F x) (hfl : ∀ (x : Ctx) e c, fl (x.metered e c) = fl x) :
    GivesG i s d lat (F s.cx) (fl s.cx) :=
  queues_of hx he ha hb hu (by rw [hk, State.cx_beforeWord he hu, hF, hfl]; rfl)

/-- A word whose meaning writes one vector register. -/
theorem givesV_of {i : Instr} {s : State} {k : State → State} {d : BitVec 5} {lat : Nat} (F : Env → Ctx → VRes)
    (hx : exec i s = issue i s k) (he : ∀ s : State, s.accessEvent i = none) (ha : ∀ x : Ctx, slotRanges x i = (.load, []))
    (hb : s.inHand) (hu : s.unbound i) (hk : ∀ u : State, k u = u.writeV lat d (F u.env u.cx))
    (hF : ∀ v (x : Ctx) e c, F v (x.metered e c) = F v x) : GivesV i s d lat (F s.env s.cx) :=
  queues_of hx he ha hb hu (by rw [hk, State.cx_beforeWord he hu, hF, State.env_beforeWord he hu]; rfl)

/-- A word whose meaning writes one mask register. -/
theorem givesM_of {i : Instr} {s : State} {k : State → State} {d : BitVec 3} {lat : Nat} (F M : Ctx → BitVec 512)
    (hx : exec i s = issue i s k) (he : ∀ s : State, s.accessEvent i = none) (ha : ∀ x : Ctx, slotRanges x i = (.load, []))
    (hb : s.inHand) (hu : s.unbound i) (hk : ∀ u : State, k u = u.writeM lat d (F u.cx) (M u.cx))
    (hF : ∀ (x : Ctx) e c, F (x.metered e c) = F x) (hM : ∀ (x : Ctx) e c, M (x.metered e c) = M x) :
    GivesM i s d lat (F s.cx) (M s.cx) :=
  queues_of hx he ha hb hu (by rw [hk, State.cx_beforeWord he hu, hF, hM]; rfl)

end Sys2Proof.Machine
end

