-- ==== Sys2Proof/Laws/Effect.lean ====
section
/-!
SUPPORT. States that differ only in what every word changes, and what stands around the meaning of a word that makes an
access, issues a command or turns the bundle elsewhere.
-/

namespace Sys2Proof.Machine

theorem Same.refl (s : State) : Same s s := ⟨rfl, fun _ => rfl⟩

theorem Same.symm {s t : State} (h : Same s t) : Same t s := ⟨h.1.symm, fun c => (h.2 c).symm⟩

theorem Same.trans {s t u : State} (h : Same s t) (k : Same t u) : Same s u :=
  ⟨h.1.trans k.1, fun c => (h.2 c).trans (k.2 c)⟩

/-! ### Bare cores -/

theorem Core.bare_setCtx (k : Core) (r : BitVec 1) (x : Ctx) : (k.setCtx r x).bare = k.bare.setCtx r (x.metered [] 0) := by
  unfold Core.setCtx; split <;> rfl

theorem Core.ctx_bare (k : Core) (r : BitVec 1) : k.bare.ctx r = (k.ctx r).metered [] 0 := by
  unfold Core.ctx; split <;> rfl

theorem Core.setCtx_ctx (k : Core) (r : BitVec 1) : k.setCtx r (k.ctx r) = k := by
  unfold Core.setCtx Core.ctx; split <;> rfl

theorem Core.ctx_eq_of_bare {k l : Core} (h : k.bare = l.bare) (r : BitVec 1) :
    (k.ctx r).metered [] 0 = (l.ctx r).metered [] 0 := by
  rw [← Core.ctx_bare, ← Core.ctx_bare, h]

theorem Core.setCtx_bare_congr {k l : Core} {r : BitVec 1} {x y : Ctx} (h : k.bare = l.bare)
    (hx : x.metered [] 0 = y.metered [] 0) : (k.setCtx r x).bare = (l.setCtx r y).bare := by
  rw [Core.bare_setCtx, Core.bare_setCtx, h, hx]

/-! ### The same states -/

theorem Same.numbered (s : State) (a b n : Nat) : Same (s.numbered a b n) s := ⟨rfl, fun _ => rfl⟩

theorem Same.me {s t : State} (h : Same s t) : s.me = t.me := by
  have := congrArg (fun u : State => u.cur.toNat) h.1; exact this

theorem Same.res {s t : State} (h : Same s t) : s.res = t.res := by
  have := congrArg (fun k : Core => k.holder) (h.2 s.me)
  unfold State.res; rw [← h.me]; exact this

/-- A core changed alike in two states that are the same. -/
theorem Same.setCore {s t : State} (h : Same s t) (c : Nat) {k l : Core} (hk : k.bare = l.bare) :
    Same (s.setCore c k) (t.setCore c l) := by
  refine ⟨h.1, fun d => ?_⟩
  by_cases hd : d = c
  · rw [hd, State.core_setCore_self, State.core_setCore_self, hk]
  · rw [State.core_setCore_other _ _ hd, State.core_setCore_other _ _ hd, h.2 d]

theorem Same.modCore_self (s : State) (c : Nat) {f : Core → Core} (hf : (f (s.core c)).bare = (s.core c).bare) :
    Same (s.modCore c f) s := by
  refine ⟨rfl, fun d => ?_⟩
  by_cases hd : d = c
  · rw [hd, State.core_modCore_self, hf]
  · unfold State.modCore; rw [State.core_setCore_other _ _ hd]

theorem Same.modCtx_self (s : State) (c : Nat) (r : BitVec 1) {f : Ctx → Ctx}
    (hf : (f (s.ctx c r)).metered [] 0 = (s.ctx c r).metered [] 0) : Same (s.modCtx c r f) s := by
  refine ⟨rfl, fun d => ?_⟩
  by_cases hd : d = c
  · rw [hd, State.core_modCtx, Core.bare_setCtx, hf, ← Core.bare_setCtx]
    unfold State.ctx; rw [Core.setCtx_ctx]
  · unfold State.modCtx State.setCtx; rw [State.core_setCore_other _ _ hd]

theorem Same.metered (s : State) (e : List (Nat × Bool)) (c : Nat) : Same (s.modCx (fun x => x.metered e c)) s :=
  Same.modCtx_self s _ _ rfl

/-- The context in hand changed alike in two states that are the same. -/
theorem Same.modCx {s t : State} (h : Same s t) {f g : Ctx → Ctx} (hf : (f s.cx).metered [] 0 = (g t.cx).metered [] 0) :
    Same (s.modCx f) (t.modCx g) := by
  have hm := h.me; have hr := h.res
  unfold State.modCx State.modCtx State.setCtx
  rw [hm, hr]
  refine Same.setCore h _ (Core.setCtx_bare_congr (h.2 _) ?_)
  unfold State.cx at hf; rw [hm, hr] at hf; exact hf

/-- The core in hand changed alike in two states that are the same. -/
theorem Same.modMe {s t : State} (h : Same s t) {f g : Core → Core} (hf : (f (s.core t.me)).bare = (g (t.core t.me)).bare) :
    Same (s.modMe f) (t.modMe g) := by
  unfold State.modMe State.modCore; rw [h.me]; exact Same.setCore h _ hf

theorem Same.turning {s t : State} (h : Same s t) (c : Ctl) : Same (s.turning c) (t.turning c) :=
  ⟨congrArg (fun u : State => u.turning c) h.1, h.2⟩

theorem Same.ctl {s t : State} (h : Same s t) : s.ctl = t.ctl := by have := congrArg (fun u : State => u.ctl) h.1; exact this

theorem Same.sent {s t : State} (h : Same s t) (g : Go) : Same (s.sent g) (t.sent g) := by
  unfold State.sent; rw [h.ctl]; exact h.turning _

theorem Same.tick1 (s : State) : Same s.tick1 s := ⟨rfl, fun _ => rfl⟩

theorem Only.same {f : Ctx → Ctx} {s t : State} (h : Only f s t) : Same t (s.modCx f) := by
  obtain ⟨e, c, a, b, n, rfl⟩ := h
  exact (Same.numbered _ _ _ _).trans (Same.modCx (Same.refl s) rfl)

/-! ### Translations and DET notes -/

theorem Same.tlbPut (s : State) (c : Nat) (t : Option TlbEnt) : Same (s.tlbPut c t) s := by
  cases t with
  | none => exact Same.refl s
  | some e =>
    have h : Same (s.tlbPut c (some e)) (s.modCore c (fun k => { k with tlb := lruPut 256 e k.tlb })) := by
      unfold State.tlbPut
      simp only
      split
      · exact Same.refl _
      · exact ⟨rfl, fun _ => rfl⟩
    exact h.trans (Same.modCore_self s c rfl)

theorem Same.detNote (s : State) (l : Word) (ph : BitVec 8) (m : Member) (w : Bool) (g : Nat) :
    Same (s.detNote l ph m w g) s := by
  unfold State.detNote
  split
  · exact ⟨rfl, fun _ => rfl⟩
  · exact ⟨rfl, fun _ => rfl⟩

theorem Same.foldl {α : Type} {f : State → α → State} (h : ∀ s a, Same (f s a) s) (l : List α) (s : State) :
    Same (l.foldl f s) s := by
  induction l generalizing s with
  | nil => exact Same.refl s
  | cons a l ih => exact (ih (f s a)).trans (h s a)

theorem Same.detWalk {s t : State} {l : Word} {ph : BitVec 8} {m : Member} {w : Bool} {gs : List Nat}
    (h : s.detWalk l ph m w gs = .ok t) : Same t s := by
  induction gs generalizing s with
  | nil => cases h; exact Same.refl _
  | cons g gs ih =>
    unfold State.detWalk at h
    split at h
    · cases h
    · exact (ih h).trans (Same.detNote ..)

theorem Same.detScan {s t : State} {c : Nat} {r : BitVec 1} {w : Bool} {rs : List (Nat × Nat)}
    (h : s.detScan c r w rs = .ok t) : Same t s := by
  unfold State.detScan at h
  simp only at h
  split at h
  · exact Same.detWalk h
  · cases h; exact Same.refl _

theorem Same.detTouch (s : State) (c : Nat) (r : BitVec 1) (w : Bool) (rs : List (Nat × Nat)) :
    Same (s.detTouch c r w rs) s := by
  unfold State.detTouch
  split
  · next h => exact Same.detScan h
  · exact Same.refl s

theorem Same.useWord (s : State) (i : Instr) : Same (s.useWord i) s := by
  unfold State.useWord
  simp only
  split
  · exact Same.refl s
  · exact (Same.detTouch ..).trans (Same.foldl (fun s p => Same.tlbPut s _ _) _ _)

/-! ### Around a word -/

/-- A state with another word index. -/
def State.indexed (s : State) (n : Nat) : State := { s with wordIx := n }

theorem Same.indexed (s : State) (n : Nat) : Same (s.indexed n) s := ⟨rfl, fun _ => rfl⟩

/-- Before a word that names no stream register. -/
theorem State.beforeWord_eq {s : State} {i : Instr} (hu : s.unbound i) :
    ∃ e c, s.beforeWord i = (s.modCx (fun x => x.metered e c)).numbered (s.place i).slotNo s.wordIx s.seq := by
  have e : (s.place i).cx.boundIn false (uses i).vr = [] := State.unbound_read hu false
  unfold State.beforeWord
  simp only [e, List.foldl_nil]
  have hc : (s.place i).charge (s.place i).me (s.place i).res ((s.place i).wordCharge i) =
      (s.modCx (fun x => x.metered x.evs (x.charge + (s.place i).wordCharge i))).numbered (s.place i).slotNo s.wordIx s.seq := rfl
  rw [hc]
  split
  · rename_i ev _
    by_cases hr : s.cx.resident = true
    · refine ⟨s.cx.evs ++ [(ev, s.cx.lvl == 0)], s.cx.charge + (s.place i).wordCharge i, ?_⟩
      change ((State.modCx _ _).numbered _ _ _).modCx _ = _
      rw [State.modCx_numbered, State.modCx_modCx]
      congr 1
      refine State.modCx_congr ?_
      exact if_pos hr
    · refine ⟨s.cx.evs, s.cx.charge + (s.place i).wordCharge i, ?_⟩
      change ((State.modCx _ _).numbered _ _ _).modCx _ = _
      rw [State.modCx_numbered, State.modCx_modCx]
      congr 1
      refine State.modCx_congr ?_
      exact if_neg hr
  · exact ⟨s.cx.evs, s.cx.charge + (s.place i).wordCharge i,
      congrArg (fun u : State => u.numbered (s.place i).slotNo s.wordIx s.seq) (State.modCx_congr rfl)⟩

theorem Same.beforeWord {s : State} {i : Instr} (hu : s.unbound i) : Same (s.beforeWord i) s := by
  obtain ⟨e, c, h⟩ := State.beforeWord_eq hu
  rw [h]; exact (Same.numbered _ _ _ _).trans (Same.metered s e c)

theorem Same.streams {s t : State} (h : Same s t) : s.cx.streams = t.cx.streams := by
  have := congrArg Ctx.streams (Core.ctx_eq_of_bare (h.2 s.me) s.res)
  unfold State.cx State.ctx
  rw [← h.me, ← h.res]; exact this

/-- After a word that names no stream register. -/
theorem Same.afterWord {s t : State} {i : Instr} (hu : s.unbound i) (hs : t.cx.streams = s.cx.streams) :
    Same (t.afterWord i) t := by
  have hw := Same.useWord t i
  have hs' : (t.useWord i).cx.streams = s.cx.streams := hw.streams.trans hs
  have e1 : (t.useWord i).cx.boundIn false (uses i).vr = [] := (Ctx.boundIn_same hs' _ _).trans (State.unbound_read hu false)
  have e2 : (t.useWord i).cx.boundIn true (uses i).vw = [] := (Ctx.boundIn_same hs' _ _).trans (State.unbound_write hu true)
  have h : t.afterWord i = State.indexed ((t.useWord i).modCx (fun y =>
      ((t.useWord i).cx.boundIn false (uses i).vr ++ (t.useWord i).cx.boundIn true (uses i).vw).foldl Ctx.taken1 y))
      ((t.useWord i).wordIx + wordCount i) := rfl
  rw [h, e1, e2]
  exact (Same.indexed _ _).trans ((Same.modCtx_self (t.useWord i) _ _ rfl).trans hw)

/-- The state that the meaning of a word sees: that of the bundle, with the word's slot, and meters. -/
structure Seen (i : Instr) (s v : State) : Prop where
  eq : ∃ e c, v = (s.modCx (fun x => x.metered e c)).numbered (s.place i).slotNo s.wordIx s.seq

namespace Seen

variable {i : Instr} {s v : State}

theorem same (h : Seen i s v) : Same v s := by
  obtain ⟨e, c, rfl⟩ := h.eq; exact (Same.numbered _ _ _ _).trans (Same.metered s e c)

theorem cx (h : Seen i s v) : ∃ e c, v.cx = s.cx.metered e c := by
  obtain ⟨e, c, rfl⟩ := h.eq; exact ⟨e, c, by rw [State.cx_numbered, State.cx_modCx]⟩

theorem me (h : Seen i s v) : v.me = s.me := h.same.me

theorem res (h : Seen i s v) : v.res = s.res := h.same.res

theorem seq (h : Seen i s v) : v.seq = s.seq := by obtain ⟨e, c, rfl⟩ := h.eq; rfl

theorem wordIx (h : Seen i s v) : v.wordIx = s.wordIx := by obtain ⟨e, c, rfl⟩ := h.eq; rfl

theorem rank (h : Seen i s v) : v.rank = (s.place i).rank := by obtain ⟨e, c, rfl⟩ := h.eq; rfl

theorem now (h : Seen i s v) (d : Nat) : v.now d = s.now d := by obtain ⟨e, c, rfl⟩ := h.eq; rfl

theorem rg (h : Seen i s v) (n : BitVec 6) : v.cx.rg n = s.cx.rg n := by
  obtain ⟨e, c, hc⟩ := h.cx; rw [hc]; rfl

theorem pc (h : Seen i s v) : v.cx.pc = s.cx.pc := by obtain ⟨e, c, hc⟩ := h.cx; rw [hc]; rfl

/-- The part of a core besides contexts and translations that the state seen has. -/
theorem core (h : Seen i s v) (d : Nat) : (v.core d).bare = (s.core d).bare := h.same.2 d

theorem fabric (h : Seen i s v) : v.fabric = s.fabric := by obtain ⟨e, c, rfl⟩ := h.eq; rfl

end Seen

/-- A word that names no stream register completes with the effect of its meaning. -/
theorem effect_of {i : Instr} {s u : State} {k : State → State} (hx : exec i s = issue i s k) (hb : s.inHand)
    (hu : s.unbound i) (hk : ∀ v, Seen i s v → Same (k v) u) (hs : u.cx.streams = s.cx.streams) : Effect i s u := by
  have hv : Seen i s (s.beforeWord i) := ⟨State.beforeWord_eq hu⟩
  have hk := hk _ hv
  exact ⟨s.word i k, hx.trans (issue_inHand k hb), (Same.afterWord hu (hk.streams.trans hs)).trans hk⟩

@[simp] theorem State.cx_turning (s : State) (c : Ctl) : (s.turning c).cx = s.cx := rfl

@[simp] theorem State.cx_sent (s : State) (g : Go) : (s.sent g).cx = s.cx := rfl

theorem Seen.core_eq {i : Instr} {s v : State} (h : Seen i s v) :
    ∃ e c, v.core s.me = (s.core s.me).setCtx s.res (s.cx.metered e c) := by
  obtain ⟨e, c, rfl⟩ := h.eq
  exact ⟨e, c, State.core_modCtx s s.me s.res (fun x => x.metered e c)⟩

/-- A system register reads the same to the word. -/
theorem Seen.readSys {i : Instr} {s v : State} (h : Seen i s v) (n : BitVec 9) :
    v.readSys v.me v.res n = s.readSys s.me s.res n := by
  have hm := h.me
  have hr := h.res
  obtain ⟨e, c, hc⟩ := h.core_eq
  have hx : v.ctx s.me s.res = s.cx.metered e c := by unfold State.ctx; rw [hc, Core.ctx_setCtx_self]
  have hk : ∀ {α : Type} (f : Core → α), (∀ (k : Core) r y, f (k.setCtx r y) = f k) → f (v.core s.me) = f (s.core s.me) := by
    intro α f hf; rw [hc, hf]
  have k1 := hk (fun k => k.sla) (fun k r y => by unfold Core.setCtx; split <;> rfl)
  have k2 := hk (fun k => k.slb) (fun k r y => by unfold Core.setCtx; split <;> rfl)
  have k3 := hk (fun k => k.part) (fun k r y => by unfold Core.setCtx; split <;> rfl)
  have k4 := hk (fun k => k.lq) (fun k r y => by unfold Core.setCtx; split <;> rfl)
  have k5 := hk (fun k => k.qmir) (fun k r y => by unfold Core.setCtx; split <;> rfl)
  have hg : v.regOf s.me = s.regOf s.me := by obtain ⟨e, c, rfl⟩ := h.eq; rfl
  have hd : v.dlevel s.me (s.cx.metered e c) = s.dlevel s.me s.cx := by obtain ⟨e, c, rfl⟩ := h.eq; rfl
  have hw : v.wall = s.wall := by obtain ⟨e, c, rfl⟩ := h.eq; rfl
  have hq : v.ctxWord s.me s.res (s.cx.metered e c) = s.ctxWord s.me s.res s.cx := by
    have : v.regionOf s.me = s.regionOf s.me := by obtain ⟨e, c, rfl⟩ := h.eq; rfl
    unfold State.ctxWord; rw [this, k3]; rfl
  rw [hm, hr]
  unfold State.readSys
  simp only [hx, k1, k2, k3, k4, k5, hg, hd, hw, hq]
  rfl

theorem Seen.mem {i : Instr} {s v : State} (h : Seen i s v) : v.mem = s.mem := by obtain ⟨e, c, rfl⟩ := h.eq; rfl

theorem Seen.nextAddr {i : Instr} {s v : State} (h : Seen i s v) : v.nextAddr = s.nextAddr := by
  obtain ⟨e, c, rfl⟩ := h.eq; rfl

/-- The context in hand changed by what a meaning reads of it. -/
theorem Seen.modCx {i : Instr} {s v : State} (h : Seen i s v) {f g : Ctx → Ctx}
    (hf : ∀ e c, (f (s.cx.metered e c)).metered [] 0 = (g s.cx).metered [] 0) : Same (v.modCx f) (s.modCx g) := by
  obtain ⟨e, c, hc⟩ := h.cx
  exact Same.modCx h.same (by rw [hc]; exact hf e c)

/-- A register write queued by the word in hand. -/
def State.wrote (s : State) (lat : Nat) (r : Reg) (v m : BitVec 4096) (fl : Flags) : RegWrite :=
  ⟨r, v, m, fl, false, s.now s.me + lat, s.seq, s.wordIx, s.now s.me⟩

theorem State.wrote_is (s : State) (lat : Nat) (r : Reg) (v m : BitVec 4096) (fl : Flags) :
    (s.wrote lat r v m fl).Is s r lat v m fl := ⟨rfl, rfl, rfl, rfl, rfl, rfl⟩

@[simp] theorem State.cx_queued (s : State) (ws : List RegWrite) :
    (s.queued ws).cx = { s.cx with writes := s.cx.writes ++ ws } := State.cx_modCx ..

@[simp] theorem State.queued_queued (s : State) (a b : List RegWrite) : (s.queued a).queued b = s.queued (a ++ b) := by
  unfold State.queued; rw [State.modCx_modCx]; simp only [List.append_assoc]

theorem State.queueWrite_queued (u : State) (lat : Nat) (r : Reg) (v m : BitVec 4096) (fl : Flags) :
    u.queueWrite lat r v m fl false = (u.queued [u.wrote lat r v m fl]).numbered u.slotNo u.wordIx (u.seq + 1) := rfl

@[simp] theorem State.queued_numbered (u : State) (ws : List RegWrite) (a b c : Nat) :
    (u.numbered a b c).queued ws = (u.queued ws).numbered a b c := rfl

theorem Seen.wrote {i : Instr} {s v : State} (h : Seen i s v) (lat : Nat) (r : Reg) (x m : BitVec 4096) (fl : Flags) :
    v.wrote lat r x m fl = s.wrote lat r x m fl := by
  unfold State.wrote; rw [h.seq, h.wordIx, h.now, h.me]

theorem Seen.queued {i : Instr} {s v : State} (h : Seen i s v) (ws : List RegWrite) : Same (v.queued ws) (s.queued ws) :=
  h.modCx (fun _ _ => rfl)

theorem Seen.writeG {i : Instr} {s v : State} (h : Seen i s v) (lat : Nat) (d : BitVec 6) (w : Word) (fl : Flags) :
    Same (v.writeG lat d w fl) (s.queued [s.wrote lat (.g d) (w.setWidth 4096) (BitVec.allOnes 4096) fl]) := by
  unfold State.writeG
  rw [State.queueWrite_queued, h.wrote]
  exact (Same.numbered _ _ _ _).trans (h.queued _)

/-- An effect put in flight. -/
theorem Seen.later {i : Instr} {s v : State} (h : Seen i s v) (lat : Nat) (cls : Cls) (a : Act) :
    Same (v.later lat cls a) (s.flying (s.flight i lat cls a)) := by
  refine (Same.tick1 _).trans (Same.modMe h.same ?_)
  have hb := h.core s.me
  have ht : (v.core s.me).timed = (s.core s.me).timed := by
    have := congrArg Core.timed hb; exact this
  have e : (⟨v.now v.me + lat, v.rank, v.seq, v.wordIx, v.res, v.cx.pc, cls, .no, a⟩ : Timed) = s.flight i lat cls a := by
    unfold State.flight
    rw [h.now, h.me, h.rank, h.seq, h.wordIx, h.res, h.pc]
  rw [e]
  have : ∀ k : Core, ({ k with timed := k.timed ++ [s.flight i lat cls a] } : Core).bare =
      { k.bare with timed := k.timed ++ [s.flight i lat cls a] } := fun _ => rfl
  rw [this, this, hb, ht]

theorem State.streams_modMe {s : State} {f : Core → Core} (hf : ∀ k, (f k).a = k.a ∧ (f k).b = k.b ∧ (f k).holder = k.holder) :
    (s.modMe f).cx = s.cx := by
  obtain ⟨h1, h2, h3⟩ := hf (s.core s.me)
  have hm : (s.modMe f).me = s.me := rfl
  have hc : (s.modMe f).core s.me = f (s.core s.me) := State.core_modCore_self ..
  unfold State.cx State.ctx State.res
  rw [hm, hc, h3]
  unfold Core.ctx
  rw [h1, h2]

@[simp] theorem State.cx_flying (s : State) (t : Timed) : (s.flying t).cx = s.cx :=
  State.streams_modMe (fun _ => ⟨rfl, rfl, rfl⟩)

end Sys2Proof.Machine
end

