-- ==== Sys2Proof/Laws/Access.lean ====
section
/-!
SUPPORT. What an access resolves to, the message it sends and the order it keeps do not see what every word changes: the
state that the meaning of a word sees gives the same as the state of the bundle.
-/

namespace Sys2Proof.Machine

/-- Two states that are the same, with the same numbers for what is sent, and the same translations. -/
structure Twin (v s : State) : Prop where
  same : Same v s
  seq : v.seq = s.seq
  wordIx : v.wordIx = s.wordIx
  tlb : ∀ c, (v.core c).tlb = (s.core c).tlb
  ctlbs : v.ctlbs = s.ctlbs

/-- What two states that are the same differ in. -/
theorem Same.fields {v s : State} (h : Same v s) :
    v = { s with cores := v.cores, ctlbs := v.ctlbs, dets := v.dets, gtags := v.gtags, slotNo := v.slotNo, wordIx := v.wordIx,
                 seq := v.seq } := by
  have := h.1
  cases v; cases s
  simp only [State.rest, State.mk.injEq] at this ⊢
  simp only [this, and_self]

theorem Same.now {v s : State} (h : Same v s) (c : Nat) : v.now c = s.now c := by rw [h.fields]; rfl

theorem Same.modRegion {v s : State} (h : Same v s) (r : Nat) (f : Region → Region) :
    Same (v.modRegion r f) (s.modRegion r f) := by
  refine ⟨?_, h.2⟩
  have := congrArg (fun u : State => u.modRegion r f) h.1
  exact this

theorem Seen.twin {i : Instr} {s v : State} (h : Seen i s v) : Twin v s where
  same := h.same
  seq := h.seq
  wordIx := h.wordIx
  tlb c := by
    obtain ⟨e, n, rfl⟩ := h.eq
    by_cases hc : c = s.me
    · subst hc
      have : ((s.modCx (fun x => x.metered e n)).core s.me).tlb = (s.core s.me).tlb := by
        unfold State.modCx; rw [State.core_modCtx]; unfold Core.setCtx; split <;> rfl
      exact this
    · have : (s.modCx (fun x => x.metered e n)).core c = s.core c := State.core_setCore_other _ _ hc
      exact congrArg Core.tlb this
  ctlbs := by obtain ⟨e, n, rfl⟩ := h.eq; rfl

namespace Twin

variable {v s : State}

theorem refl (s : State) : Twin s s := ⟨Same.refl s, rfl, rfl, fun _ => rfl, rfl⟩

/-- A part of a context that meters do not change. -/
theorem ctx (h : Same v s) {α : Type} (f : Ctx → α) (hf : ∀ (x : Ctx) e c, f (x.metered e c) = f x) (c : Nat)
    (r : BitVec 1) : f (v.ctx c r) = f (s.ctx c r) := by
  have := congrArg f (Core.ctx_eq_of_bare (h.2 c) r)
  rw [hf, hf] at this; exact this

theorem timed (h : Same v s) (c : Nat) : (v.core c).timed = (s.core c).timed := by have := congrArg (fun k : Core => k.timed) (h.2 c); exact this

theorem partOf (h : Same v s) (c : Nat) : v.partOf c = s.partOf c := by rw [h.fields]; rfl

theorem partition (h : Same v s) (p : Nat) : v.partition p = s.partition p := by rw [h.fields]; rfl

theorem pte (h : Same v s) (p : Partition) (t i : Nat) : v.pte p t i = s.pte p t i := by rw [h.fields]; rfl

theorem walkFrom (h : Same v s) (p : Partition) (va n t : Nat) : v.walkFrom p va n t = s.walkFrom p va n t := by
  induction n generalizing t with
  | zero => rfl
  | succ n ih =>
    unfold State.walkFrom
    simp only [pte h, ih]

theorem walk (h : Same v s) (p : Partition) (root : BitVec 40) (en : Bool) (va : Word) : v.walk p root en va = s.walk p root en va := by
  unfold State.walk; rw [walkFrom h]

theorem leafPlace (h : Same v s) (pn : Nat) (p : Partition) (l : Leaf) (va : Word) (acc : Acc) :
    v.leafPlace pn p l va acc = s.leafPlace pn p l va acc := by rw [h.fields]; rfl

theorem tlbFind (h : Twin v s) (c pn : Nat) (asid : BitVec 16) (va : Word) : v.tlbFind c pn asid va = s.tlbFind c pn asid va := by
  unfold State.tlbFind; rw [h.tlb, h.ctlbs]

theorem xlat (h : Twin v s) (c : Nat) {x y : Ctx} (hx : x.metered [] 0 = y.metered [] 0) (va : Word) (acc : Acc) :
    v.xlat c x va acc = s.xlat c y va acc := by
  have a1 : x.pten = y.pten := by have := congrArg Ctx.pten hx; exact this
  have a2 : x.asid = y.asid := by have := congrArg Ctx.asid hx; exact this
  have a3 : x.ptroot = y.ptroot := by have := congrArg Ctx.ptroot hx; exact this
  unfold State.xlat
  simp only [partOf h.same, partition h.same, tlbFind h, leafPlace h.same, walk h.same, a1, a2, a3]

theorem vaultOk (h : Same v s) (c f : Nat) : v.vaultOk c f = s.vaultOk c f := by
  unfold State.vaultOk; rw [partOf h, partOf h]

theorem parts (h : Twin v s) (c : Nat) {x y : Ctx} (hx : x.metered [] 0 = y.metered [] 0) (va : Word) (len : Nat)
    (acc : Acc) : v.parts c x va len acc = s.parts c y va len acc := by
  unfold State.parts State.resolve
  simp only [vaultOk h.same, xlat h c hx]

theorem resolveSegs (h : Twin v s) (c : Nat) {x y : Ctx} (hx : x.metered [] 0 = y.metered [] 0) (acc : Acc)
    (gs : List (Word × Nat)) : v.resolveSegs c x acc gs = s.resolveSegs c y acc gs := by
  induction gs with
  | nil => rfl
  | cons g gs ih => unfold State.resolveSegs; rw [parts h c hx, ih]

theorem cx (h : Same v s) : v.cx.metered [] 0 = s.cx.metered [] 0 := by
  unfold State.cx State.ctx
  rw [h.me, h.res]
  exact Core.ctx_eq_of_bare (h.2 _) _

/-- The parts of an access. -/
theorem accParts (h : Twin v s) (t : SlotAcc) : v.accParts t = s.accParts t := by
  unfold State.accParts
  rw [h.same.me, h.resolveSegs s.me (cx h.same)]

theorem before (h : Same v s) (c : Nat) (r : BitVec 1) (cls : Cls) (ps : List Part) : v.before c r cls ps = s.before c r cls ps := by
  have hf : v.fabric = s.fabric := by have := congrArg (fun u : State => u.fabric) h.1; exact this
  unfold State.before Core.nearOps State.msgOps
  rw [timed h c, hf]

/-- The message of an access. -/
theorem message (h : Twin v s) (c : Nat) (r : BitVec 1) (cls : Cls) (sc : BitVec 3) (va : Word) (ps : List Part) (ask : Ask)
    (dest : Dest) : v.message c r cls sc va ps ask dest = s.message c r cls sc va ps ask dest := by
  have h1 : (v.ctx c r).pc = (s.ctx c r).pc := ctx h.same (fun x => x.pc) (fun _ _ _ => rfl) c r
  have h2 : (v.ctx c r).detMode = (s.ctx c r).detMode := ctx h.same (fun x => x.detMode) (fun _ _ _ => rfl) c r
  unfold State.message
  rw [h.seq, h.wordIx, before h.same, h1, h2]

theorem accMsg (h : Twin v s) (t : SlotAcc) (sc : BitVec 3) (ask : Ask) : v.accMsg t sc ask = s.accMsg t sc ask := by
  unfold State.accMsg
  rw [h.same.me, h.same.res, h.accParts, h.message, h.wordIx]

/-- What holds back a near access. -/
theorem gates (h : Same v s) (c : Nat) (r : BitVec 1) : v.gates c r = s.gates c r := by rw [h.fields]; rfl

theorem ungated (h : Same v s) : v.ungated = s.ungated := by unfold State.ungated; rw [h.me, h.res, gates h]

theorem heldMsg (h : Same v s) (n : Nat) (m : Msg) : v.heldMsg n m = s.heldMsg n m := by
  unfold State.heldMsg; rw [h.me, h.res, h.now, gates h]

theorem heldBy (h : Same v s) (m : Msg) : v.heldBy m = s.heldBy m := by
  have h1 : v.launchOf (v.ctx m.core m.res) = s.launchOf (s.ctx m.core m.res) := by
    have hl : (v.ctx m.core m.res).lid = (s.ctx m.core m.res).lid := ctx h (fun x => x.lid) (fun _ _ _ => rfl) _ _
    have hs : v.launches = s.launches := by have := congrArg (fun u : State => u.launches) h.1; exact this
    unfold State.launchOf; rw [hl, hs]
  have h2 : ∀ l, v.replicated l = s.replicated l := by
    intro l
    have hs : v.replicas = s.replicas := by have := congrArg (fun u : State => u.replicas) h.1; exact this
    unfold State.replicated; rw [hs]
  unfold State.heldBy
  simp only [h1, h2]

end Twin

/-- A message put on the fabric. -/
def State.posted (s : State) (m : Msg) : State := { s with fabric := s.fabric ++ [m], seq := s.seq + 1 }

theorem Twin.posted {v s : State} (h : Twin v s) (m : Msg) : Twin (v.posted m) (s.posted m) where
  same := by
    have hf : v.fabric = s.fabric := by have := congrArg (fun u : State => u.fabric) h.same.1; exact this
    refine ⟨?_, h.same.2⟩
    have := by have := congrArg (fun u : State => { u with fabric := u.fabric ++ [m] }) h.same.1; exact this
    exact this
  seq := congrArg (· + 1) h.seq
  wordIx := h.wordIx
  tlb := h.tlb
  ctlbs := h.ctlbs

theorem Twin.tick1 {v s : State} (h : Twin v s) : Twin v.tick1 s.tick1 where
  same := (Same.tick1 v).trans (h.same.trans (Same.tick1 s).symm)
  seq := congrArg (· + 1) h.seq
  wordIx := h.wordIx
  tlb := h.tlb
  ctlbs := h.ctlbs

theorem Twin.send {v s : State} (h : Twin v s) (m : Msg) : Twin (v.send m) (s.send m) := by
  unfold State.send
  rw [Twin.heldBy h.same, h.seq]
  cases s.heldBy m with
  | none =>
    have := h.posted { m with id := s.seq }
    unfold State.posted at this; rw [h.seq] at this; exact this
  | some l =>
    simp only
    split
    · exact h.tick1
    · have := h.posted { m with id := s.seq, step := l.step, heldRep := some (l.part.toNat, l.lid) }
      unfold State.posted at this; rw [h.seq] at this; exact this

theorem Twin.setBusy {v s : State} (h : Twin v s) (r : BusyReg) (n : Nat) : Twin (v.setBusy r n) (s.setBusy r n) where
  same := Same.modCx h.same (congrArg (fun x : Ctx => { x with busy := x.busy ++ [(r, n)] }) (Twin.cx h.same))
  seq := h.seq
  wordIx := h.wordIx
  tlb c := by
    have e : ∀ u : State, ((u.setBusy r n).core c).tlb = (u.core c).tlb := by
      intro u
      unfold State.setBusy State.modCx
      by_cases hc : c = u.me
      · subst hc; rw [State.core_modCtx]; unfold Core.setCtx; split <;> rfl
      · unfold State.modCtx State.setCtx; rw [State.core_setCore_other _ _ hc]
    rw [e, e, h.tlb]
  ctlbs := h.ctlbs

theorem Twin.sendInto {v s : State} (h : Twin v s) (m : Msg) (r : BusyReg) (n : Nat) :
    Twin (v.sendInto m r n) (s.sendInto m r n) := by
  unfold State.sendInto
  split
  · exact h.send _
  · rw [h.seq]; exact (h.setBusy r s.seq).send _

theorem State.cx_send (s : State) (m : Msg) : (s.send m).cx = s.cx := by
  unfold State.send
  split
  · rfl
  · split <;> rfl

theorem State.streams_sendInto (s : State) (m : Msg) (r : BusyReg) (n : Nat) : (s.sendInto m r n).cx.streams = s.cx.streams := by
  unfold State.sendInto
  split
  · rw [State.cx_send]
  · rw [State.cx_send]; unfold State.setBusy; rw [State.cx_modCx]

/-! ### Addresses of the own vault -/

/-- An address of the own vault resolves to its byte there (R97, R98). -/
theorem resolve_own (s : State) {c : Nat} (x : Ctx) {va : Word} (acc : Acc) (h : isOwn c va = true) :
    s.resolve c x va acc = .ok ⟨.mem (vaultKey c (vaultOffset va)), .rc, true, none⟩ := by
  unfold isOwn at h
  simp only [Bool.and_eq_true, Bool.or_eq_true, decide_eq_true_eq] at h
  have hf : (if coreField va = 1023 then c else coreField va) = c := by
    split
    · rfl
    · rcases h.2 with h2 | h2
      · contradiction
      · exact h2
  unfold State.resolve
  rw [if_pos h.1]
  simp only [hf]
  have : s.vaultOk c c = true := by unfold State.vaultOk; simp
  rw [if_pos this]

/-- The second page of an access of up to 64 bytes from the own vault to the own vault lies there too. -/
theorem isOwn_mid {c : Nat} {va : Word} {n m : Nat} (h1 : isOwn c va = true)
    (h2 : isOwn c (va + BitVec.ofNat 64 (n - 1)) = true) (hm : m = 4096 - va.toNat % 4096) (hn : m < n) (h64 : n ≤ 4096) :
    isOwn c (va + BitVec.ofNat 64 m) = true := by
  unfold isOwn inWindow coreField at *
  simp only [Bool.and_eq_true, Bool.or_eq_true, decide_eq_true_eq, BitVec.toNat_add, BitVec.toNat_ofNat] at *
  have := va.isLt
  omega

/-- The part and the translation of a piece of the own vault. -/
def ownPart (c : Nat) (va : Word) (n : Nat) : Part × Xlat :=
  let t : Xlat := ⟨.mem (vaultKey c (vaultOffset va)), .rc, true, none⟩
  (⟨t.place, n, t.kind, t.det, t.page va, 0⟩, t)

/-- An access within a page and a half of the own vault resolves, to its bytes there. -/
theorem parts_own (s : State) {c : Nat} (x : Ctx) {va : Word} {n : Nat} (acc : Acc) (h0 : 0 < n) (hn : n < 4096)
    (h1 : isOwn c va = true) (h2 : isOwn c (va + BitVec.ofNat 64 (n - 1)) = true) :
    ∃ ps, s.parts c x va n acc = .ok ps ∧ ∀ p ∈ ps, ∃ k, p.1.place = .mem k := by
  have hd : n / 4096 + 2 = 2 := by omega
  by_cases h : n ≤ 4096 - va.toNat % 4096
  · have hp : pieces va 2 n = [(va, n)] := by
      obtain ⟨k, rfl⟩ : ∃ k, n = k + 1 := ⟨n - 1, by omega⟩
      simp only [pieces, Nat.min_eq_left h, Nat.sub_self]
    refine ⟨[ownPart c va n], ?_, fun p hp => ?_⟩
    · unfold State.parts
      rw [hd, hp]
      simp only [List.mapM_cons, List.mapM_nil, resolve_own s x acc h1]; rfl
    · simp only [List.mem_cons, List.mem_nil_iff, or_false] at hp; rw [hp]; exact ⟨_, rfl⟩
  · obtain ⟨m, hm⟩ : ∃ m, m = 4096 - va.toNat % 4096 := ⟨_, rfl⟩
    have hmn : m < n := by omega
    have hmid := isOwn_mid h1 h2 hm hmn (by omega)
    have hlow : (va + BitVec.ofNat 64 m).toNat % 4096 = 0 := by
      rw [BitVec.toNat_add, BitVec.toNat_ofNat]; omega
    have hp : pieces va 2 n = [(va, m), (va + BitVec.ofNat 64 m, n - m)] := by
      obtain ⟨k, hk⟩ : ∃ k, n = k + 1 := ⟨n - 1, by omega⟩
      have e1 : pieces va 2 n = (va, min n (4096 - va.toNat % 4096)) ::
          pieces (va + BitVec.ofNat 64 (min n (4096 - va.toNat % 4096))) 1 (n - min n (4096 - va.toNat % 4096)) := by
        rw [hk]; rfl
      rw [e1, Nat.min_eq_right (by omega), ← hm]
      obtain ⟨j, hj⟩ : ∃ j, n - m = j + 1 := ⟨n - m - 1, by omega⟩
      have e2 : pieces (va + BitVec.ofNat 64 m) 1 (n - m) =
          [(va + BitVec.ofNat 64 m, min (n - m) (4096 - (va + BitVec.ofNat 64 m).toNat % 4096))] := by
        rw [hj]; simp only [pieces]
      rw [e2, hlow, Nat.min_eq_left (by omega)]
    refine ⟨[ownPart c va m, ownPart c (va + BitVec.ofNat 64 m) (n - m)], ?_, fun p hp => ?_⟩
    · unfold State.parts
      rw [hd, hp]
      simp only [List.mapM_cons, List.mapM_nil, resolve_own s x acc h1, resolve_own s x acc hmid]; rfl
    · simp only [List.mem_cons, List.mem_nil_iff, or_false] at hp
      rcases hp with rfl | rfl <;> exact ⟨_, rfl⟩

/-! ### Words with an access -/

theorem slotAcc_metered (x : Ctx) (e : List (Nat × Bool)) (c : Nat) (i : Instr) : slotAcc (x.metered e c) i = slotAcc x i := by
  cases i <;> rfl

theorem Seen.slotAcc {i : Instr} {s v : State} (h : Seen i s v) (j : Instr) : slotAcc v.cx j = slotAcc s.cx j := by
  obtain ⟨e, c, hc⟩ := h.cx; rw [hc, slotAcc_metered]

/-- A word of which the access is known completes with the effect of its meaning on that access. -/
theorem effect_acc {i : Instr} {s u : State} {t : SlotAcc} {k : State → SlotAcc → State}
    (hx : exec i s = issue i s (fun s => s.withAcc i (k s))) (hb : s.inHand) (hu : s.unbound i)
    (ht : Machine.slotAcc s.cx i = some t) (hk : ∀ v, Seen i s v → Same (k v t) u) (hs : u.cx.streams = s.cx.streams) :
    Effect i s u :=
  effect_of hx hb hu (fun v h => by unfold State.withAcc; rw [h.slotAcc, ht]; exact hk v h) hs

/-- A near load that nothing holds back is put in flight (R209). -/
theorem load_near {i : Instr} {s : State} {t : SlotAcc} {r : Reg} {b : BusyReg} {n : Nat} {sc : BitVec 3}
    (hx : exec i s = issue i s (fun s => s.withAcc i (fun t => s.load t r b n sc))) (hb : s.inHand) (hu : s.unbound i)
    (ht : Machine.slotAcc s.cx i = some t) (hn : t.near s.me = true)
    (hg : s.ungated = true) :
    Effect i s (s.flying (s.flight i 6 t.cls (.load r (t.segs.map (fun g => (vaultOffset g.1, g.2))) n))) :=
  effect_acc hx hb hu ht (fun v h => by
    unfold State.load; rw [h.me, Twin.ungated h.same, if_neg (by simp [hn]), if_pos hg]; exact h.later _ _ _) (by rw [State.cx_flying])

/-- A near load behind an acquire or a held access waits for it, with its register busy (R124, R132). -/
theorem load_held {i : Instr} {s : State} {t : SlotAcc} {r : Reg} {b : BusyReg} {n : Nat} {sc : BitVec 3}
    (hx : exec i s = issue i s (fun s => s.withAcc i (fun t => s.load t r b n sc))) (hb : s.inHand) (hu : s.unbound i)
    (ht : Machine.slotAcc s.cx i = some t) (hn : t.near s.me = true) (hg : s.ungated = false) :
    Effect i s (s.sendInto (s.heldMsg 6 (s.accMsg t sc .read)) b n) :=
  effect_acc hx hb hu ht (fun v h => by
    unfold State.load
    rw [h.me, Twin.ungated h.same, if_neg (by simp [hn]), if_neg (by simp [hg]), h.twin.accMsg, Twin.heldMsg h.same]
    exact (h.twin.sendInto _ _ _).same)
    (State.streams_sendInto ..)

/-- A load that is not near is sent, and its register becomes busy (R103). -/
theorem load_far {i : Instr} {s : State} {t : SlotAcc} {r : Reg} {b : BusyReg} {n : Nat} {sc : BitVec 3}
    (hx : exec i s = issue i s (fun s => s.withAcc i (fun t => s.load t r b n sc))) (hb : s.inHand) (hu : s.unbound i)
    (ht : Machine.slotAcc s.cx i = some t) (hn : t.near s.me = false) :
    Effect i s (s.sendInto (s.accMsg t sc .read) b n) :=
  effect_acc hx hb hu ht (fun v h => by
    unfold State.load; rw [h.me, if_pos (by simp [hn]), h.twin.accMsg]; exact (h.twin.sendInto _ _ _).same)
    (State.streams_sendInto ..)

/-- A load that is not near, or is held back, is sent with its register busy. -/
theorem load_msg {i : Instr} {s : State} {t : SlotAcc} {r : Reg} {b : BusyReg} {n : Nat} {sc : BitVec 3}
    (hx : exec i s = issue i s (fun s => s.withAcc i (fun t => s.load t r b n sc))) (hb : s.inHand) (hu : s.unbound i)
    (ht : Machine.slotAcc s.cx i = some t) (hn : t.near s.me = false ∨ s.ungated = false) :
    Effect i s (s.sendInto (if t.near s.me then s.heldMsg 6 (s.accMsg t sc .read) else s.accMsg t sc .read) b n) := by
  cases h : t.near s.me with
  | false => exact load_far hx hb hu ht h
  | true => exact load_held hx hb hu ht h (hn.resolve_left (by simp [h]))

/-! ### Several effects in flight -/

/-- Effects in flight of one word, numbered in order. -/
def State.flights (s : State) (ts : List Timed) : State := s.modMe (fun k => { k with timed := k.timed ++ ts })

theorem State.flights_flights (s : State) (a b : List Timed) : (s.flights a).flights b = s.flights (a ++ b) := by
  unfold State.flights State.modMe
  have hm : ∀ f, (s.modCore s.me f).me = s.me := fun _ => rfl
  rw [hm, State.modCore_modCore]
  simp only [List.append_assoc]

theorem State.cx_flights (s : State) (a : List Timed) : (s.flights a).cx = s.cx :=
  State.streams_modMe (fun _ => ⟨rfl, rfl, rfl⟩)

theorem State.later_flights (v : State) (lat : Nat) (cls : Cls) (a : Act) :
    v.later lat cls a = (v.flights [⟨v.now v.me + lat, v.rank, v.seq, v.wordIx, v.res, v.cx.pc, cls, .no, a⟩]).tick1 := rfl

theorem Same.flights {v s : State} (h : Same v s) (ts : List Timed) : Same (v.flights ts) (s.flights ts) := by
  refine Same.modMe h ?_
  have := congrArg (fun k : Core => { k with timed := k.timed ++ ts }) (h.2 s.me)
  exact this

/-- A state that the effects of a word have left so far: `n` of them are in flight. -/
structure Flown (i : Instr) (s v : State) (ts : List Timed) : Prop where
  same : Same v (s.flights ts)
  seq : v.seq = s.seq + ts.length
  wordIx : v.wordIx = s.wordIx
  rank : v.rank = (s.place i).rank

theorem Seen.flown {i : Instr} {s v : State} (h : Seen i s v) : Flown i s v [] where
  same := h.same.trans (Same.modCore_self s s.me (by simp)).symm
  seq := h.seq
  wordIx := h.wordIx
  rank := h.rank

theorem Flown.later {i : Instr} {s v : State} {ts : List Timed} (h : Flown i s v ts) (lat : Nat) (cls : Cls) (a : Act) :
    Flown i s (v.later lat cls a) (ts ++ [{ s.flight i lat cls a with seq := s.seq + ts.length }]) where
  same := by
    have hc : v.cx.pc = s.cx.pc := by
      have := congrArg Ctx.pc (Twin.cx h.same)
      rw [State.cx_flights] at this; exact this
    have hr : v.res = s.res := by
      rw [h.same.res]
      unfold State.res
      have hm : (s.flights ts).me = s.me := rfl
      rw [hm]
      have : (s.flights ts).core s.me = { s.core s.me with timed := (s.core s.me).timed ++ ts } := State.core_modCore_self ..
      rw [this]
    have hm : v.me = s.me := h.same.me
    have hn : v.now v.me = s.now s.me := by rw [h.same.now, hm]; rfl
    rw [State.later_flights, hn, h.rank, h.seq, h.wordIx, hr, hc]
    refine (Same.tick1 _).trans ((h.same.flights _).trans ?_)
    rw [State.flights_flights]
    exact Same.refl _
  seq := by
    have : (v.later lat cls a).seq = v.seq + 1 := rfl
    rw [this, h.seq]; simp; omega
  wordIx := h.wordIx
  rank := h.rank

theorem Flown.storeNear {i : Instr} {s : State} (cls : Cls) (gs : List (Word × Nat)) :
    ∀ {v : State} {ts : List Timed} (_ : Flown i s v ts) (bs : List Byte),
    ∃ ls : List Timed, Flown i s (v.storeNear cls gs bs) (ts ++ ls) ∧ ls.length = gs.length ∧
      ∀ j (hj : j < gs.length), ls[j]? = some { s.flight i 6 cls (.store (vaultOffset gs[j].1)
        ((bs.drop ((gs.take j).map (fun g => g.2)).sum).take gs[j].2)) with seq := s.seq + ts.length + j } := by
  induction gs with
  | nil => intro v ts h bs; exact ⟨[], by simpa [State.storeNear] using h, rfl, by intro j hj; simp at hj⟩
  | cons g gs ih =>
    intro v ts h bs
    have h1 := h.later 6 cls (.store (vaultOffset g.1) (bs.take g.2))
    obtain ⟨ls, h2, h3, h4⟩ := ih h1 (bs.drop g.2)
    refine ⟨_ :: ls, by rw [List.append_cons]; exact h2, by simp [h3], fun j hj => ?_⟩
    cases j with
    | zero => simp
    | succ j =>
      simp only [List.getElem?_cons_succ]
      rw [h4 j (by simpa using hj)]
      simp only [List.getElem_cons_succ, List.take_succ_cons, List.map_cons, List.sum_cons, List.drop_drop, List.length_append,
        List.length_cons, List.length_nil]
      congr 2
      omega

end Sys2Proof.Machine
end

