-- ==== Sys2Proof/Laws/Commands.lean ====
section
/-!
SUPPORT. Words that change one list of their core: commands for the engines, and effects in flight with what they latch.
-/

namespace Sys2Proof.Machine

/-- A word that changes its core completes with that change. -/
theorem effect_me {i : Instr} {s : State} {F : State → Core → Core} (hx : exec i s = issue i s (fun v => (v.modMe (F v)).tick1))
    (hb : s.inHand) (hu : s.unbound i) (hF : ∀ v, Seen i s v → (F v (v.core s.me)).bare = (F s (s.core s.me)).bare)
    (hk : ∀ k, (F s k).a = k.a ∧ (F s k).b = k.b ∧ (F s k).holder = k.holder) : Effect i s (s.modMe (F s)) :=
  effect_of hx hb hu (fun v h => (Same.tick1 _).trans (Same.modMe h.same (hF v h))) (by rw [State.streams_modMe hk])

/-- After a word that names no vector register at all. -/
theorem Same.afterNone {t : State} {i : Instr} (h : (uses i).vr ++ (uses i).vw = []) : Same (t.afterWord i) t := by
  have h1 : (uses i).vr = [] := (List.append_eq_nil_iff.mp h).1
  have h2 : (uses i).vw = [] := (List.append_eq_nil_iff.mp h).2
  have e : ∀ (x : Ctx) (w : Bool), x.boundIn w [] = [] := fun _ _ => rfl
  have h : t.afterWord i = State.indexed ((t.useWord i).modCx (fun y =>
      ((t.useWord i).cx.boundIn false (uses i).vr ++ (t.useWord i).cx.boundIn true (uses i).vw).foldl Ctx.taken1 y))
      ((t.useWord i).wordIx + wordCount i) := rfl
  rw [h, h1, h2, e, e]
  exact (Same.indexed _ _).trans ((Same.modCtx_self (t.useWord i) _ _ rfl).trans (Same.useWord t i))

/-- A word that names no vector register at all completes with the effect of its meaning. -/
theorem effect_nil {i : Instr} {s u : State} {k : State → State} (hx : exec i s = issue i s k) (hb : s.inHand)
    (hn : (uses i).vr ++ (uses i).vw = []) (hk : ∀ v, Seen i s v → Same (k v) u) : Effect i s u :=
  ⟨s.word i k, hx.trans (issue_inHand k hb),
    (Same.afterNone hn).trans (hk _ ⟨State.beforeWord_eq (unbound_of_none hn)⟩)⟩

/-- The stored value of a vector register, and what a word reads of it, are seen alike. -/
theorem Seen.rv {i : Instr} {s v : State} (h : Seen i s v) (n : BitVec 5) : v.cx.rv n = s.cx.rv n := by
  obtain ⟨e, c, hc⟩ := h.cx; rw [hc]; rfl

/-- A field of the context in hand that the meters leave alone. -/
theorem Seen.ofCx {i : Instr} {s v : State} (h : Seen i s v) {α : Type} (f : Ctx → α)
    (hf : ∀ (x : Ctx) e c, f (x.metered e c) = f x) : f v.cx = f s.cx := by
  obtain ⟨e, c, hc⟩ := h.cx; rw [hc, hf]

/-- A field of the core in hand that is neither a context nor its translations. -/
theorem Seen.ofCore {i : Instr} {s v : State} (h : Seen i s v) {α : Type} (f : Core → α) (hf : ∀ k : Core, f k.bare = f k) :
    f (v.core s.me) = f (s.core s.me) := by
  rw [← hf, h.core, hf]

theorem Twin.resolve {v s : State} (h : Twin v s) (c : Nat) {x y : Ctx} (hx : x.metered [] 0 = y.metered [] 0) (va : Word)
    (acc : Acc) : v.resolve c x va acc = s.resolve c y va acc := by
  unfold State.resolve
  simp only [Twin.vaultOk h.same, Twin.xlat h c hx]

/-- The own copy aperture that a store names is seen alike. -/
theorem Seen.channelOf {i : Instr} {s v : State} (h : Seen i s v) (d a : BitVec 6) (o : BitVec 10) :
    v.channelOf v.me v.cx (.std d a o) = s.channelOf s.me s.cx (.std d a o) := by
  have he : v.cx.ea a o 8 = s.cx.ea a o 8 := h.ofCx (fun x => x.ea a o 8) (fun _ _ _ => rfl)
  unfold State.channelOf
  simp only [h.me, he, h.twin.resolve s.me (Twin.cx h.same)]

theorem Core.bare_setChan (k : Core) (ch : Nat) (x : Chan) : (k.setChan ch x).bare = k.bare.setChan ch x := rfl

/-- A command put behind its channel. -/
theorem Seen.pushCopy {i : Instr} {s v : State} (h : Seen i s v) (ch : Nat) (kind : BitVec 2) (t : BitVec 6) (m : BitVec 2)
    (d kd kp : Word) : Same (v.pushCopy ch kind t m d kd kp) (s.pushCopy ch kind t m d kd kp) := by
  have hs : (v.core s.me).small = (s.core s.me).small := h.ofCore (fun k => k.small) (fun _ => rfl)
  have hr : v.cx.round = s.cx.round := h.ofCx (fun x => x.round) (fun _ _ _ => rfl)
  have hc : (v.core s.me).chan ch = (s.core s.me).chan ch := h.ofCore (fun k => k.chan ch) (fun _ => rfl)
  unfold State.pushCopy
  refine (Same.tick1 _).trans ((Same.modMe h.same ?_).trans (Same.tick1 _).symm)
  simp only [h.res, h.seq, h.pc, h.wordIx, h.now, h.me, Twin.gates h.same, Core.openEcw, hs, hr, hc]
  rw [Core.bare_setChan, Core.bare_setChan, h.core]

theorem State.cx_pushCopy (s : State) (ch : Nat) (kind : BitVec 2) (t : BitVec 6) (m : BitVec 2) (d kd kp : Word) :
    (s.pushCopy ch kind t m d kd kp).cx = s.cx := by
  unfold State.pushCopy
  have : ∀ u : State, u.tick1.cx = u.cx := fun _ => rfl
  simp only [this]
  exact State.streams_modMe (fun _ => ⟨rfl, rfl, rfl⟩)

/-- A command with a fixed script issued by the word. -/
theorem Seen.pushSmall {i : Instr} {s v : State} (h : Seen i s v) (j : Instr) (a b : Word) :
    Same (v.pushSmall j a b) (s.pushSmall j a b) := by
  unfold State.pushSmall
  refine (Same.tick1 _).trans ((Same.modMe h.same ?_).trans (Same.tick1 _).symm)
  simp only [h.res, h.seq, h.pc, h.wordIx, h.now, h.me, Twin.gates h.same]
  have hc := h.core s.me
  have := congrArg (fun k : Core => { k with small := k.small ++ [(⟨j, s.res, s.now s.me, s.seq, s.cx.pc, s.wordIx, a, b, s.gates s.me s.res, 0, 0, []⟩ : SmallCmd)] }) hc
  exact this

theorem State.cx_pushSmall (s : State) (j : Instr) (a b : Word) : (s.pushSmall j a b).cx = s.cx :=
  State.streams_modMe (s := s) (f := fun k => { k with small := k.small ++ [⟨j, s.res, s.now s.me, s.seq, s.cx.pc, s.wordIx, a, b, s.gates s.me s.res, 0, 0, []⟩] })
    (fun _ => ⟨rfl, rfl, rfl⟩)

/-- A contact command issued by the word. -/
theorem Seen.pushContact {i : Instr} {s v : State} (h : Seen i s v) (j : Instr) (a b : Word) (t : BitVec 32) :
    Same (v.pushContact j a b t) (s.pushContact j a b t) := by
  unfold State.pushContact
  refine (Same.tick1 _).trans ((Same.modMe h.same ?_).trans (Same.tick1 _).symm)
  simp only [h.res, h.seq, h.pc, h.wordIx, h.now, h.me, Twin.gates h.same]
  have hc := h.core s.me
  have := congrArg (fun k : Core => { k with ct := k.ct ++ [(⟨j, s.res, s.now s.me, s.seq, s.cx.pc, s.wordIx, a, b, s.gates s.me s.res, t, none, 0, 0, []⟩ : CtCmd)] }) hc
  exact this

theorem State.cx_pushContact (s : State) (j : Instr) (a b : Word) (t : BitVec 32) : (s.pushContact j a b t).cx = s.cx :=
  State.streams_modMe (s := s) (f := fun k => { k with ct := k.ct ++ [⟨j, s.res, s.now s.me, s.seq, s.cx.pc, s.wordIx, a, b, s.gates s.me s.res, t, none, 0, 0, []⟩] })
    (fun _ => ⟨rfl, rfl, rfl⟩)

/-- The matrix command of a word, as it enters the queue. -/
def State.mxCmd (s : State) (i : Instr) : MxCmd :=
  let m0 : MxCmd :=
    { i := i, res := s.res, issue := s.now s.me, seq := s.seq, pc := s.cx.pc, slot := s.wordIx, fxq := s.cx.fxq,
      satf := s.cx.satf, fx := s.cx.fx, tags := [], gates := s.gates s.me s.res, gcfgAfter := match i with
        | .mmag _ _ j _ _ _ _ _ _ _ => ((s.core s.me).small.filter (fun m => m.res == s.res && (match m.i with
            | .gcfg _ n => n == j
            | _ => false))).map (fun m => m.seq)
        | _ => [],
      cfg := s.cx.gather i, head := if (s.core s.me).mq.isEmpty then some (s.now s.me) else none, start := none, shift := 0,
      row := 0, aPend := false, bPend := false, aRows := [], bRows := [], endAt := none }
  { m0 with tags := m0.tiles.map (fun t => (t, s.cx.tagOf t)) }

theorem State.pushMatrix_eq (s : State) (i : Instr) : s.pushMatrix i =
    ((s.modCx (fun _ => s.cx.mxTags i)).modMe (fun k => { k with mq := k.mq ++ [s.mxCmd i] })).tick1 := rfl

theorem Ctx.setTag_metered (x : Ctx) (e : List (Nat × Bool)) (c n : Nat) (t : Tag) :
    (x.metered e c).setTag n t = (x.setTag n t).metered e c := rfl

theorem Seen.mxCmd {i : Instr} {s v : State} (h : Seen i s v) (j : Instr) : v.mxCmd j = s.mxCmd j := by
  have h1 : v.cx.fxq = s.cx.fxq := h.ofCx (fun x => x.fxq) (fun _ _ _ => rfl)
  have h2 : v.cx.satf = s.cx.satf := h.ofCx (fun x => x.satf) (fun _ _ _ => rfl)
  have h3 : v.cx.fx = s.cx.fx := h.ofCx (fun x => x.fx) (fun _ _ _ => rfl)
  have h4 : v.cx.gather j = s.cx.gather j := h.ofCx (fun x => x.gather j) (fun x e n => by cases j <;> rfl)
  have h5 : ∀ t, v.cx.tagOf t = s.cx.tagOf t := fun t => h.ofCx (fun x => x.tagOf t) (fun _ _ _ => rfl)
  have h6 : (v.core s.me).small = (s.core s.me).small := h.ofCore (fun k => k.small) (fun _ => rfl)
  have h7 : (v.core s.me).mq = (s.core s.me).mq := h.ofCore (fun k => k.mq) (fun _ => rfl)
  unfold State.mxCmd
  simp only [h1, h2, h3, h4, h5, h6, h7, Twin.gates h.same, h.res, h.me, h.now, h.seq, h.pc, h.wordIx]

/-- A matrix command issued by the word. -/
theorem Seen.pushMatrix {i : Instr} {s v : State} (h : Seen i s v) (j : Instr) {g : Ctx → Ctx}
    (hg : ∀ e c, ((s.cx.metered e c).mxTags j).metered [] 0 = (g s.cx).metered [] 0) :
    Same (v.pushMatrix j) ((s.modCx g).modMe (fun k => { k with mq := k.mq ++ [s.mxCmd j] })) := by
  rw [State.pushMatrix_eq, h.mxCmd]
  obtain ⟨e, c, hc⟩ := h.cx
  have hs : Same (v.modCx (fun _ => v.cx.mxTags j)) (s.modCx g) := Same.modCx h.same (by rw [hc]; exact hg e c)
  refine (Same.tick1 _).trans (Same.modMe hs ?_)
  have := congrArg (fun k : Core => { k with mq := k.mq ++ [s.mxCmd j] }) (hs.2 (s.modCx g).me)
  exact this

theorem Twin.pc {v s : State} (h : Same v s) : v.cx.pc = s.cx.pc := by have := congrArg Ctx.pc (Twin.cx h); exact this

/-- Commands issued by states alike. -/
theorem Twin.pushSmall {v s : State} (h : Twin v s) (j : Instr) (a b : Word) :
    Same (v.pushSmall j a b) (s.pushSmall j a b) := by
  unfold State.pushSmall
  refine (Same.tick1 _).trans ((Same.modMe h.same ?_).trans (Same.tick1 _).symm)
  simp only [h.same.res, h.seq, Twin.pc h.same, h.wordIx, h.same.now, h.same.me, Twin.gates h.same]
  have hc := h.same.2 s.me
  have := congrArg (fun k : Core => { k with small := k.small ++ [(⟨j, s.res, s.now s.me, s.seq, s.cx.pc, s.wordIx, a, b, s.gates s.me s.res, 0, 0, []⟩ : SmallCmd)] }) hc
  exact this

theorem Twin.pushContact {v s : State} (h : Twin v s) (j : Instr) (a b : Word) (t : BitVec 32) :
    Same (v.pushContact j a b t) (s.pushContact j a b t) := by
  unfold State.pushContact
  refine (Same.tick1 _).trans ((Same.modMe h.same ?_).trans (Same.tick1 _).symm)
  simp only [h.same.res, h.seq, Twin.pc h.same, h.wordIx, h.same.now, h.same.me, Twin.gates h.same]
  have hc := h.same.2 s.me
  have := congrArg (fun k : Core => { k with ct := k.ct ++ [(⟨j, s.res, s.now s.me, s.seq, s.cx.pc, s.wordIx, a, b, s.gates s.me s.res, t, none, 0, 0, []⟩ : CtCmd)] }) hc
  exact this

/-- An effect put in flight by states alike. -/
theorem Twin.later {v s : State} (h : Twin v s) (hr : v.rank = s.rank) (lat : Nat) (cls : Cls) (a : Act) :
    Same (v.later lat cls a) (s.later lat cls a) := by
  unfold State.later
  refine (Same.tick1 _).trans ((Same.modMe h.same ?_).trans (Same.tick1 _).symm)
  simp only [h.same.res, h.seq, Twin.pc h.same, h.wordIx, h.same.now, h.same.me, hr]
  have hc := h.same.2 s.me
  have := congrArg (fun k : Core => { k with timed := k.timed ++ [(⟨s.now s.me + lat, s.rank, s.seq, s.wordIx, s.res, s.cx.pc, cls, .no, a⟩ : Timed)] }) hc
  exact this

/-- A state with one more context change than another. -/
theorem State.cx_setBusy (s : State) (r : BusyReg) (n : Nat) : (s.setBusy r n).cx.streams = s.cx.streams := by
  unfold State.setBusy; rw [State.cx_modCx]

end Sys2Proof.Machine
end

