-- ==== Sys2Proof/Laws/Far.lean ====
section
/-!
SUPPORT. Accesses that are not near, atomics and releases: each word completes with the message it sends or the effect it
puts in flight.
-/

namespace Sys2Proof.Machine

theorem wordBytes_eq (v : Word) : wordBytes v = numBytes 8 v.toNat := by
  unfold wordBytes numBytes
  refine List.map_congr_left (fun i _ => ?_)
  rw [BitVec.extractLsb', Nat.shiftRight_eq_div_pow, Nat.pow_mul]

theorem Twin.nearBy {v s : State} (h : Same v s) (c : Nat) (ids : List Nat) (n : Nat) : v.nearBy c ids n = s.nearBy c ids n := by
  unfold State.nearBy; rw [Twin.timed h]

/-- A near store behind an acquire or a held access waits for it (R124, R132). -/
theorem Seen.storeHeld {i : Instr} {s v : State} (h : Seen i s v) {t : SlotAcc} (hn : t.near s.me = true)
    (hg : s.ungated = false) (bs : List Byte) :
    Same (v.store t bs) (s.send (s.heldMsg 6 (s.accMsg t 0 (.write bs)))) := by
  unfold State.store
  rw [h.me, Twin.ungated h.same, if_neg (by simp [hn]), if_neg (by simp [hg]), h.twin.accMsg, Twin.heldMsg h.same]
  exact (h.twin.send _).same

/-- A store that is not near is counted (R209). -/
theorem Seen.storeFar {i : Instr} {s v : State} (h : Seen i s v) {t : SlotAcc} (hn : t.near s.me = false) (bs : List Byte) :
    Same (v.store t bs) (s.send (s.accMsg t 0 (.write bs))) := by
  unfold State.store
  rw [h.me, if_pos (by simp [hn]), h.twin.accMsg]
  exact (h.twin.send _).same

/-- A store that is not near, or is held back, is sent. -/
theorem Seen.storeMsg {i : Instr} {s v : State} (h : Seen i s v) {t : SlotAcc} (hn : t.near s.me = false ∨ s.ungated = false)
    (bs : List Byte) :
    Same (v.store t bs) (s.send (if t.near s.me then s.heldMsg 6 (s.accMsg t 0 (.write bs)) else s.accMsg t 0 (.write bs))) := by
  cases hc : t.near s.me with
  | false => exact h.storeFar hc bs
  | true => exact h.storeHeld hc (hn.resolve_left (by simp [hc])) bs

/-- A load that is not near (R103). -/
theorem Seen.loadFar {i : Instr} {s v : State} (h : Seen i s v) {t : SlotAcc} (hn : t.near s.me = false) (r : Reg) (b : BusyReg)
    (n : Nat) (sc : BitVec 3) : Same (v.load t r b n sc) (s.sendInto (s.accMsg t sc .read) b n) := by
  unfold State.load
  rw [h.me, if_pos (by simp [hn]), h.twin.accMsg]
  exact (h.twin.sendInto _ _ _).same

theorem Twin.atomicFree {v s : State} (h : Same v s) (t : SlotAcc) (m : Msg) : v.atomicFree t m = s.atomicFree t m := by
  unfold State.atomicFree; rw [Twin.ungated h, h.me, Twin.nearBy h, h.now]

/-- An atomic in the own vault that need not wait (R216). -/
theorem Seen.atomicNear {i : Instr} {s v : State} (h : Seen i s v) {t : SlotAcc} (hn : t.near s.me = true) (op : BitVec 5)
    (d : BitVec 6) (sc : BitVec 3) (y c : Word)
    (hw : s.atomicFree t (s.accMsg t sc (.atomic op y c)) = true) :
    Same (v.atomic t op d sc y c) (s.flying (s.flight i 8 t.cls (.atomic op d (vaultOffset t.va) y c))) := by
  unfold State.atomic
  simp only [h.me, hn, h.twin.accMsg, Twin.atomicFree h.same]
  rw [if_neg (by decide), if_pos hw]
  exact h.later _ _ _

/-- An atomic in the own vault held back (R132, R216). -/
theorem Seen.atomicHeld {i : Instr} {s v : State} (h : Seen i s v) {t : SlotAcc} (hn : t.near s.me = true) (op : BitVec 5)
    (d : BitVec 6) (sc : BitVec 3) (y c : Word)
    (hw : s.atomicFree t (s.accMsg t sc (.atomic op y c)) = false) :
    Same (v.atomic t op d sc y c)
      (s.sendInto (s.heldMsg 8 (s.accMsg t sc (.atomic op y c))) (.g d) 0) := by
  unfold State.atomic
  simp only [h.me, hn, h.twin.accMsg, Twin.atomicFree h.same, Twin.heldMsg h.same]
  rw [if_neg (by decide), if_neg (by simp [hw])]
  exact (h.twin.sendInto _ _ _).same

/-- An atomic that is not near (R216). -/
theorem Seen.atomicFar {i : Instr} {s v : State} (h : Seen i s v) {t : SlotAcc} (hn : t.near s.me = false) (op : BitVec 5)
    (d : BitVec 6) (sc : BitVec 3) (y c : Word) :
    Same (v.atomic t op d sc y c) (s.sendInto (s.accMsg t sc (.atomic op y c)) (.g d) 0) := by
  unfold State.atomic
  simp only [h.me, hn, h.twin.accMsg]
  rw [if_pos (by decide)]
  exact (h.twin.sendInto _ _ _).same

/-- A release in the own vault with nothing later to wait for (R213). -/
theorem Seen.releaseNear {i : Instr} {s v : State} (h : Seen i s v) {va : Word} {n m : Nat} {a : Acc} {c : Cls} {t : SlotAcc}
    (ht : t = .one va n m a c) (hn : t.near s.me = true) (sc : BitVec 3) (y : Word)
    (hw : s.nearBy s.me (s.accMsg t sc (.write (wordBytes y))).after (s.now s.me + 5) = true) :
    Same (v.release8 t sc y) (s.flying (s.flight i 6 c (.store (vaultOffset va) ((wordBytes y).take n)))) := by
  unfold State.release8
  simp only [h.me, hn, h.twin.accMsg, Twin.nearBy h.same, h.now]
  rw [if_neg (by decide), if_pos (by rw [show s.now s.me + 6 - 1 = s.now s.me + 5 from rfl, hw]), ht]
  exact h.later _ _ _

/-- A release in the own vault that must wait (R132). -/
theorem Seen.releaseHeld {i : Instr} {s v : State} (h : Seen i s v) {t : SlotAcc} (hn : t.near s.me = true) (sc : BitVec 3)
    (y : Word) (hw : s.nearBy s.me (s.accMsg t sc (.write (wordBytes y))).after (s.now s.me + 5) = false) :
    Same (v.release8 t sc y) (s.send (s.heldMsg 6 (s.accMsg t sc (.write (wordBytes y))))) := by
  unfold State.release8
  simp only [h.me, hn, h.twin.accMsg, Twin.nearBy h.same, Twin.heldMsg h.same, h.now]
  rw [if_neg (by decide), if_neg (by rw [show s.now s.me + 6 - 1 = s.now s.me + 5 from rfl, hw]; decide)]
  exact (h.twin.send _).same

/-- A release that is not near. -/
theorem Seen.releaseFar {i : Instr} {s v : State} (h : Seen i s v) {t : SlotAcc} (hn : t.near s.me = false) (sc : BitVec 3)
    (y : Word) : Same (v.release8 t sc y) (s.send (s.accMsg t sc (.write (wordBytes y)))) := by
  unfold State.release8
  simp only [h.me, hn, h.twin.accMsg]
  rw [if_pos (by decide)]
  exact (h.twin.send _).same

end Sys2Proof.Machine
end

