-- ==== Sys2Proof/Laws/Fields.lean ====
section
/-!
SUPPORT. Fields of an instruction word given as a number: what `fld` reads from a word that the encoder adds up, and that
the end mark is no part of any other field.
-/

namespace Sys2Proof

theorem fld_toNat (n lo len : Nat) (h : lo + len ≤ 32) : (fld (iw n) lo len).toNat = n / 2 ^ lo % 2 ^ len := by
  have h1 : (2 : Nat) ^ 32 = 2 ^ lo * 2 ^ (32 - lo) := by rw [← Nat.pow_add]; congr 1; omega
  have h2 : (2 : Nat) ^ len ∣ 2 ^ (32 - lo) := Nat.pow_dvd_pow 2 (by omega)
  simp only [fld, iw, BitVec.extractLsb'_toNat, BitVec.toNat_ofNat, Nat.shiftRight_eq_div_pow]
  rw [h1, Nat.mod_mul_right_div_self, Nat.mod_mod_of_dvd _ h2]

/-- A field is x when its bits of the number are. -/
theorem fld_eq {n lo len : Nat} (x : BitVec len) (hl : lo + len ≤ 32) (h : n / 2 ^ lo % 2 ^ len = x.toNat) :
    fld (iw n) lo len = x :=
  BitVec.eq_of_toNat_eq ((fld_toNat n lo len hl).trans h)

/-- A field is x when the number is what stands above it, then x, then what stands below. -/
theorem fld_at {n lo len : Nat} (x : BitVec len) (hi low : Nat) (hl : lo + len ≤ 32)
    (hn : n = (hi * 2 ^ len + x.toNat) * 2 ^ lo + low) (h : low < 2 ^ lo) : fld (iw n) lo len = x := by
  apply fld_eq x hl
  rw [hn, Nat.mul_comm _ (2 ^ lo), Nat.mul_add_div (Nat.two_pow_pos lo), Nat.div_eq_of_lt h, Nat.add_zero,
    Nat.mul_comm hi, Nat.mul_add_mod, Nat.mod_eq_of_lt x.isLt]

/-- The same of a field of zeros. -/
theorem fld_nil {n lo len : Nat} (hi low : Nat) (hl : lo + len ≤ 32) (hn : n = hi * 2 ^ len * 2 ^ lo + low)
    (h : low < 2 ^ lo) : fld (iw n) lo len = 0#len :=
  fld_at 0#len hi low hl (by rw [BitVec.toNat_ofNat, Nat.zero_mod, Nat.add_zero]; exact hn) h

/-- The same of the value of a field. -/
theorem fld_num {n lo len : Nat} (x hi low : Nat) (hx : x < 2 ^ len) (hl : lo + len ≤ 32)
    (hn : n = (hi * 2 ^ len + x) * 2 ^ lo + low) (h : low < 2 ^ lo) : (fld (iw n) lo len).toNat = x := by
  have e : (BitVec.ofNat len x).toNat = x := by rw [BitVec.toNat_ofNat, Nat.mod_eq_of_lt hx]
  rw [fld_at (BitVec.ofNat len x) hi low hl (by rw [e]; exact hn) h, e]

theorem group_iw (n : Nat) : group (iw n) = n / 134217728 % 16 := fld_toNat n 27 4 (by decide)

theorem endMark_iw {n : Nat} (h : n < 2147483648) : endMark (iw n) = false := by
  have : fld (iw n) 31 1 = 0#1 := fld_eq 0#1 (by decide) (by simp; omega)
  simp [endMark, this]

/-- The end mark added to a word changes no other field. -/
theorem fld_marked (n lo len : Nat) (h : lo + len ≤ 31) : fld (iw (n + 2147483648)) lo len = fld (iw n) lo len := by
  apply BitVec.eq_of_toNat_eq
  rw [fld_toNat _ _ _ (by omega), fld_toNat _ _ _ (by omega)]
  have h1 : (2147483648 : Nat) = 2 ^ lo * (2 ^ len * 2 ^ (31 - lo - len)) := by
    rw [← Nat.pow_add, ← Nat.pow_add]
    exact congrArg (fun k => 2 ^ k) (show 31 = lo + (len + (31 - lo - len)) by omega)
  rw [h1, Nat.add_mul_div_left _ _ (Nat.two_pow_pos lo), Nat.add_mul_mod_self_left]

theorem iw_toNat (n : Nat) : (iw n).toNat = n % 4294967296 := BitVec.toNat_ofNat n 32

end Sys2Proof
end

