-- ==== Sys2Proof/Laws/Lanes.lean ====
section
/-!
SUPPORT. The lanes of a vector result: which bits a lane-wise operation writes, and what each lane of the register holds
once it is written.
-/

namespace Sys2Proof.Machine

/-- The lanes computed one by one, bit by bit: value, written bits, and that nothing lies above. -/
theorem lanesNat_spec (w : Nat) (act : Nat → Bool) (f : Nat → Nat × Flags) : ∀ n,
    (lanesNat w act f n).1 < 2 ^ (w * n) ∧ (lanesNat w act f n).2.1 < 2 ^ (w * n) ∧
    ∀ l < n, ∀ j < w, (lanesNat w act f n).2.1.testBit (w * l + j) = act l ∧
      (lanesNat w act f n).1.testBit (w * l + j) = (act l && (f l).1.testBit j)
  | 0 => by refine ⟨?_, ?_, fun l h => by omega⟩ <;> simp [lanesNat]
  | n + 1 => by
    obtain ⟨h1, h2, h3⟩ := lanesNat_spec w act f n
    unfold lanesNat
    generalize lanesNat w act f n = r at *
    obtain ⟨v, m, g⟩ := r
    simp only at h1 h2 h3 ⊢
    have hp : 2 ^ (w * (n + 1)) = 2 ^ (w * n) * 2 ^ w := by rw [← pow_add]; congr 1
    have hw : 0 < 2 ^ w := by positivity
    have step : ∀ (x b : Nat), x < 2 ^ w → b < 2 ^ (w * n) → b + x * 2 ^ (w * n) < 2 ^ (w * (n + 1)) := by
      intro x b hx hb
      rw [hp]
      calc b + x * 2 ^ (w * n) < 2 ^ (w * n) + x * 2 ^ (w * n) := by omega
        _ = 2 ^ (w * n) * (x + 1) := by ring
        _ ≤ 2 ^ (w * n) * 2 ^ w := Nat.mul_le_mul_left _ hx
    have bits : ∀ (x b l j : Nat), b < 2 ^ (w * n) → l < n + 1 → j < w →
        (b + x * 2 ^ (w * n)).testBit (w * l + j) = if l < n then b.testBit (w * l + j) else x.testBit j := by
      intro x b l j hb hl hj
      rw [add_comm, mul_comm x, Nat.testBit_two_pow_mul_add _ hb]
      by_cases h : l < n
      · have : w * l + j < w * n := by
          calc w * l + j < w * l + w := by omega
            _ = w * (l + 1) := by ring
            _ ≤ w * n := Nat.mul_le_mul_left _ h
        rw [if_pos this, if_pos h]
      · obtain rfl : l = n := by omega
        rw [if_neg (by omega), if_neg h]; congr 1; omega
    by_cases ha : act n = true
    · rw [if_pos ha]
      simp only
      refine ⟨step _ _ (Nat.mod_lt _ hw) h1, step _ _ (by omega) h2, fun l hl j hj => ?_⟩
      rw [bits _ _ l j h2 hl hj, bits _ _ l j h1 hl hj]
      by_cases h : l < n
      · rw [if_pos h, if_pos h]; exact h3 l h j hj
      · obtain rfl : l = n := by omega
        rw [if_neg h, if_neg h, Nat.testBit_two_pow_sub_one, Nat.testBit_mod_two_pow, ha]
        simp [hj]
    · rw [if_neg ha]
      simp only
      have hle : 2 ^ (w * n) ≤ 2 ^ (w * (n + 1)) := by rw [hp]; exact Nat.le_mul_of_pos_right _ hw
      refine ⟨lt_of_lt_of_le h1 hle, lt_of_lt_of_le h2 hle, fun l hl j hj => ?_⟩
      by_cases h : l < n
      · exact h3 l h j hj
      · obtain rfl : l = n := by omega
        have e : 2 ^ (w * l) ≤ 2 ^ (w * l + j) := Nat.pow_le_pow_right (by decide) (by omega)
        rw [Nat.testBit_lt_two_pow (lt_of_lt_of_le h1 e), Nat.testBit_lt_two_pow (lt_of_lt_of_le h2 e)]
        simp only [Bool.not_eq_true] at ha
        rw [ha]; simp

/-- The bits of a lane. -/
theorem testBit_lane {w : Nat} (x : BitVec 4096) (l j : Nat) (hj : j < w) : (lane w x l).testBit j = x.getLsbD (w * l + j) := by
  unfold lane BitVec.getLsbD
  rw [Nat.testBit_mod_two_pow, Nat.testBit_div_two_pow, add_comm]
  simp [hj]

theorem lane_lt {w : Nat} (x : BitVec 4096) (l : Nat) : lane w x l < 2 ^ w := Nat.mod_lt _ (by positivity)

/-- Bits of a register after a write under a mask (R148, R187). -/
theorem getLsbD_merge {n : Nat} (old new mask : BitVec n) (i : Nat) :
    (merge n old new mask).getLsbD i = if mask.getLsbD i then new.getLsbD i else old.getLsbD i := by
  unfold merge
  rw [BitVec.getLsbD_or, BitVec.getLsbD_and, BitVec.getLsbD_and, BitVec.getLsbD_not]
  by_cases hi : i < n
  · cases mask.getLsbD i <;> simp [hi]
  · rw [BitVec.getLsbD_of_ge old i (by omega), BitVec.getLsbD_of_ge new i (by omega)]; simp

/-- Each lane of a register after a lane-wise result is written: computed where active, and else as before. -/
theorem lane_merge_lanes {w n : Nat} (act : Nat → Bool) (f : Nat → Nat × Flags) (old : BitVec 4096) (hwn : w * n ≤ 4096)
    {l : Nat} (hl : l < n) :
    lane w (merge 4096 old (lanes w n act f).val (lanes w n act f).mask) l = if act l then (f l).1 % 2 ^ w else lane w old l := by
  apply Nat.eq_of_testBit_eq
  intro j
  by_cases hj : j < w
  · have h3 := (lanesNat_spec w act f n).2.2 l hl j hj
    have hlt : w * l + j < 4096 := by
      calc w * l + j < w * l + w := by omega
        _ = w * (l + 1) := by ring
        _ ≤ w * n := Nat.mul_le_mul_left _ hl
        _ ≤ 4096 := hwn
    rw [testBit_lane _ _ _ hj, getLsbD_merge]
    have hm : (lanes w n act f).mask.getLsbD (w * l + j) = act l := by
      change (BitVec.ofNat 4096 (lanesNat w act f n).2.1).getLsbD _ = _
      rw [BitVec.getLsbD_ofNat, h3.1]; simp [hlt]
    have hv : (lanes w n act f).val.getLsbD (w * l + j) = (act l && (f l).1.testBit j) := by
      change (BitVec.ofNat 4096 (lanesNat w act f n).1).getLsbD _ = _
      rw [BitVec.getLsbD_ofNat, h3.2]; simp [hlt]
    rw [hm, hv]
    cases act l
    · simp [testBit_lane _ _ _ hj]
    · simp [Nat.testBit_mod_two_pow, hj]
  · have e : 2 ^ w ≤ 2 ^ j := Nat.pow_le_pow_right (by decide) (by omega)
    rw [Nat.testBit_lt_two_pow (lt_of_lt_of_le (lane_lt _ _) e)]
    split
    · rw [Nat.testBit_lt_two_pow (lt_of_lt_of_le (Nat.mod_lt _ (by positivity)) e)]
    · rw [Nat.testBit_lt_two_pow (lt_of_lt_of_le (lane_lt _ _) e)]

theorem laneCount_le (f : BitVec 3) : laneCount f ≤ 512 := Nat.div_le_self _ _

theorem eb_mul_laneCount (f : BitVec 3) : eb f * laneCount f ≤ 4096 := by
  unfold eb laneCount
  rw [mul_assoc]
  exact Nat.mul_le_mul_left 8 (Nat.mul_div_le 512 _)

/-- The mask bits that a compare writes (R191). -/
theorem compareLanes_spec (f : BitVec 3) (m : BitVec 512) (k : Nat) (x y : BitVec 4096) :
    (∀ l < laneCount f, (compareLanes f m k x y).2.getLsbD l = m.getLsbD l ∧
      (m.getLsbD l → (compareLanes f m k x y).1.getLsbD l = vcmp f k (lane (eb f) x l) (lane (eb f) y l))) ∧
    ∀ l, laneCount f ≤ l → l < 512 →
      (compareLanes f m k x y).2.getLsbD l = true ∧ (compareLanes f m k x y).1.getLsbD l = false := by
  have h0 := lanesNat_spec 1 (bitOf m) (fun l => (if vcmp f k (lane (eb f) x l) (lane (eb f) y l) then 1 else 0, 0)) (laneCount f)
  have e : compareLanes f m k x y = (BitVec.ofNat 512 (lanesNat 1 (bitOf m)
      (fun l => (if vcmp f k (lane (eb f) x l) (lane (eb f) y l) then 1 else 0, 0)) (laneCount f)).1,
    BitVec.ofNat 512 ((lanesNat 1 (bitOf m)
      (fun l => (if vcmp f k (lane (eb f) x l) (lane (eb f) y l) then 1 else 0, 0)) (laneCount f)).2.1 +
        (2 ^ 512 - 2 ^ laneCount f))) := rfl
  rw [e]
  generalize lanesNat 1 (bitOf m) (fun l => (if vcmp f k (lane (eb f) x l) (lane (eb f) y l) then 1 else 0, 0)) (laneCount f) = r at *
  obtain ⟨v, w, g⟩ := r
  have hN := laneCount_le f
  generalize hn : laneCount f = n at *
  obtain ⟨h1, h2, h3⟩ := h0
  simp only [one_mul] at h1 h2 h3 ⊢
  have hsum : w + (2 ^ 512 - 2 ^ n) = 2 ^ n * (2 ^ (512 - n) - 1) + w := by
    have : 2 ^ n * 2 ^ (512 - n) = 2 ^ 512 := by rw [← pow_add]; congr 1; omega
    rw [Nat.mul_sub, this]; omega
  refine ⟨fun l hl => ?_, fun l hl h5 => ?_⟩
  · obtain ⟨e1, e2⟩ := h3 l hl 0 (by omega)
    simp only [add_zero] at e1 e2
    have hl5 : l < 512 := by omega
    rw [BitVec.getLsbD_ofNat, BitVec.getLsbD_ofNat, hsum, Nat.testBit_two_pow_mul_add _ h2]
    simp only [hl, hl5, e1, e2, if_true, decide_true, Bool.true_and]
    refine ⟨rfl, fun hm => ?_⟩
    have hm' : bitOf m l = true := hm
    rw [hm']
    cases vcmp f k (lane (eb f) x l) (lane (eb f) y l) <;> rfl
  · rw [BitVec.getLsbD_ofNat, BitVec.getLsbD_ofNat, hsum, Nat.testBit_two_pow_mul_add _ h2]
    have hl' : ¬ l < n := by omega
    rw [Nat.testBit_lt_two_pow (lt_of_lt_of_le h1 (Nat.pow_le_pow_right (by decide) hl))]
    simp only [hl', h5, if_false, decide_true, Bool.true_and, Bool.and_false, and_true, Nat.testBit_two_pow_sub_one]
    simp; omega

end Sys2Proof.Machine
end

