-- ==== Sys2Proof/Laws/Memory.lean ====
section
/-!
SUPPORT. Memory: every operation keeps the canonical form, and what is read after a write (R101).
-/

namespace Sys2Proof.Machine

/-! ### The canonical form -/

theorem Memory.wfFrom_le {m : Memory} {lo hi : Nat} (h : lo ≤ hi) (w : Memory.wfFrom hi m = true) :
    Memory.wfFrom lo m = true := by
  cases m with
  | nil => rfl
  | cons c t =>
    simp only [Memory.wfFrom, Bool.and_eq_true, decide_eq_true_eq] at w ⊢
    exact ⟨⟨by omega, w.1.2⟩, w.2⟩

/-- A memory whose cells all stand below `mid`, then one from `mid` on. -/
theorem Memory.wfFrom_append {a b : Memory} {lo mid : Nat} (ha : Memory.wfFrom lo a = true)
    (hb : Memory.wfFrom mid b = true) (h : ∀ c ∈ a, c.1 < mid) (hl : lo ≤ mid) :
    Memory.wfFrom lo (a ++ b) = true := by
  induction a generalizing lo with
  | nil => exact Memory.wfFrom_le hl hb
  | cons c t ih =>
    obtain ⟨k, v⟩ := c
    simp only [Memory.wfFrom, Bool.and_eq_true, decide_eq_true_eq, List.cons_append] at ha ⊢
    exact ⟨ha.1, ih ha.2 (fun c hc => h c (List.mem_cons_of_mem _ hc)) (h (k, v) List.mem_cons_self)⟩

theorem Memory.below_lt {m : Memory} {a : Nat} : ∀ c ∈ m.below a, c.1 < a := by
  induction m with
  | nil => simp [Memory.below]
  | cons c t ih =>
    obtain ⟨k, v⟩ := c
    unfold Memory.below
    split
    · intro c hc
      rcases List.mem_cons.mp hc with rfl | hc
      · assumption
      · exact ih c hc
    · simp

theorem Memory.below_wf {m : Memory} {lo : Nat} (a : Nat) (w : Memory.wfFrom lo m = true) :
    Memory.wfFrom lo (m.below a) = true := by
  induction m generalizing lo with
  | nil => rfl
  | cons c t ih =>
    obtain ⟨k, v⟩ := c
    simp only [Memory.wfFrom, Bool.and_eq_true, decide_eq_true_eq] at w
    unfold Memory.below
    split
    · simp only [Memory.wfFrom, Bool.and_eq_true, decide_eq_true_eq]; exact ⟨w.1, ih w.2⟩
    · rfl

theorem Memory.onward_wf {m : Memory} {lo : Nat} (a : Nat) (w : Memory.wfFrom lo m = true) :
    Memory.wfFrom a (m.onward a) = true := by
  induction m generalizing lo with
  | nil => rfl
  | cons c t ih =>
    obtain ⟨k, v⟩ := c
    simp only [Memory.wfFrom, Bool.and_eq_true, decide_eq_true_eq] at w
    unfold Memory.onward
    split
    · exact ih w.2
    · simp only [Memory.wfFrom, Bool.and_eq_true, decide_eq_true_eq]
      exact ⟨⟨by omega, w.1.2⟩, w.2⟩

theorem Memory.cells_wf (a : Nat) (bs : List Byte) : Memory.wfFrom a (Memory.cells a bs) = true := by
  induction bs generalizing a with
  | nil => rfl
  | cons b bs ih =>
    unfold Memory.cells
    split
    · exact Memory.wfFrom_le (by omega) (ih (a + 1))
    · simp only [Memory.wfFrom, Bool.and_eq_true, decide_eq_true_eq]
      exact ⟨⟨Nat.le_refl a, ‹_›⟩, ih (a + 1)⟩

theorem Memory.cells_lt {a : Nat} {bs : List Byte} : ∀ c ∈ Memory.cells a bs, c.1 < a + bs.length := by
  induction bs generalizing a with
  | nil => simp [Memory.cells]
  | cons b bs ih =>
    intro c hc
    unfold Memory.cells at hc
    rw [List.length_cons]
    split at hc
    · have := ih c hc; omega
    · rcases List.mem_cons.mp hc with rfl | hc
      · show a < _; omega
      · have := ih c hc; omega

/-- Writing consecutive bytes keeps the canonical form. -/
theorem Memory.writeList_wf {m : Memory} (a : Nat) (bs : List Byte) (w : m.wf = true) : (m.writeList a bs).wf = true := by
  unfold Memory.writeList Memory.wf
  refine Memory.wfFrom_append (mid := a) (Memory.below_wf a w) ?_ Memory.below_lt (Nat.zero_le a)
  exact Memory.wfFrom_append (Memory.cells_wf a bs) (Memory.onward_wf _ w) Memory.cells_lt (by omega)

/-- The writes of a cycle keep the canonical form. -/
theorem Memory.apply_wf {m : Memory} (ws : List Write) (w : m.wf = true) : (m.apply ws).wf = true := by
  unfold Memory.apply
  induction ws generalizing m with
  | nil => exact w
  | cons x ws ih => exact ih (Memory.writeList_wf x.key x.bytes w)

theorem Memory.filter_wf {m : Memory} {lo : Nat} (p : Host.Cell → Bool) (w : Memory.wfFrom lo m = true) :
    Memory.wfFrom lo (m.filter p) = true := by
  induction m generalizing lo with
  | nil => rfl
  | cons c t ih =>
    obtain ⟨k, v⟩ := c
    simp only [Memory.wfFrom, Bool.and_eq_true, decide_eq_true_eq] at w
    rw [List.filter_cons]
    split
    · simp only [Memory.wfFrom, Bool.and_eq_true, decide_eq_true_eq]; exact ⟨w.1, ih w.2⟩
    · exact Memory.wfFrom_le (by omega) (ih w.2)

/-- A loss of contents keeps the canonical form. -/
theorem Memory.lose_wf {m : Memory} (k : Wipe) (w : m.wf = true) : (m.lose k).wf = true := by
  cases k <;> first | exact w | exact Memory.filter_wf _ w

/-! ### What is read -/

theorem Memory.read_below_lo {m : Memory} {lo k : Nat} (w : Memory.wfFrom lo m = true) (h : k < lo) :
    m.read k = Memory.blank := by
  cases m with
  | nil => rfl
  | cons c t =>
    obtain ⟨j, v⟩ := c
    simp only [Memory.wfFrom, Bool.and_eq_true, decide_eq_true_eq] at w
    simp only [Memory.read]
    rw [if_neg (by omega), if_pos (by omega)]

theorem Memory.read_append {a b : Memory} {lo mid k : Nat} (ha : Memory.wfFrom lo a = true)
    (hb : Memory.wfFrom mid b = true) (h : ∀ c ∈ a, c.1 < mid) :
    Memory.read (a ++ b) k = if k < mid then a.read k else b.read k := by
  induction a generalizing lo with
  | nil =>
    simp only [List.nil_append, Memory.read]
    split
    · exact Memory.read_below_lo hb ‹_›
    · rfl
  | cons c t ih =>
    obtain ⟨j, v⟩ := c
    simp only [Memory.wfFrom, Bool.and_eq_true, decide_eq_true_eq] at ha
    have hj : j < mid := h (j, v) List.mem_cons_self
    have := ih ha.2 (fun c hc => h c (List.mem_cons_of_mem _ hc))
    simp only [List.cons_append, Memory.read, this]
    by_cases h1 : k = j
    · rw [if_pos h1, if_pos h1, if_pos (by omega)]
    · rw [if_neg h1, if_neg h1]
      by_cases h2 : k < j
      · rw [if_pos h2, if_pos h2, if_pos (by omega)]
      · rw [if_neg h2, if_neg h2]

theorem Memory.read_below {m : Memory} {lo k a : Nat} (w : Memory.wfFrom lo m = true) (h : k < a) :
    (m.below a).read k = m.read k := by
  induction m generalizing lo with
  | nil => rfl
  | cons c t ih =>
    obtain ⟨j, v⟩ := c
    simp only [Memory.wfFrom, Bool.and_eq_true, decide_eq_true_eq] at w
    unfold Memory.below
    split
    · simp only [Memory.read, ih w.2]
    · simp only [Memory.read]
      rw [if_neg (by omega), if_pos (by omega)]

theorem Memory.read_onward {m : Memory} {lo k a : Nat} (w : Memory.wfFrom lo m = true) (h : a ≤ k) :
    (m.onward a).read k = m.read k := by
  induction m generalizing lo with
  | nil => rfl
  | cons c t ih =>
    obtain ⟨j, v⟩ := c
    simp only [Memory.wfFrom, Bool.and_eq_true, decide_eq_true_eq] at w
    unfold Memory.onward
    split
    · rw [ih w.2]
      simp only [Memory.read]
      rw [if_neg (by omega), if_neg (by omega)]
    · rfl

theorem Memory.read_cells {a k : Nat} {bs : List Byte} (h : a ≤ k) (h' : k < a + bs.length) :
    (Memory.cells a bs).read k = bs.getD (k - a) 0 := by
  induction bs generalizing a with
  | nil => simp at h'; omega
  | cons b bs ih =>
    rw [List.length_cons] at h'
    unfold Memory.cells
    by_cases e : k = a
    · subst e
      rw [Nat.sub_self, List.getD_cons_zero]
      split
      · rw [Memory.read_below_lo (Memory.cells_wf (k + 1) bs) (by omega)]; exact Eq.symm ‹_›
      · simp [Memory.read]
    · have hs : k - a = k - (a + 1) + 1 := by omega
      rw [hs, List.getD_cons_succ, ← ih (by omega) (by omega)]
      split
      · rfl
      · simp only [Memory.read]
        rw [if_neg e, if_neg (by omega)]

/-- Read after a write: the bytes written where they stand, the old ones elsewhere. -/
theorem Memory.read_writeList {m : Memory} (a k : Nat) (bs : List Byte) (w : m.wf = true) :
    (m.writeList a bs).read k = if a ≤ k ∧ k < a + bs.length then bs.getD (k - a) 0 else m.read k := by
  have wc := Memory.wfFrom_append (Memory.cells_wf a bs) (Memory.onward_wf (a + bs.length) w) Memory.cells_lt (by omega)
  unfold Memory.writeList
  rw [Memory.read_append (Memory.below_wf a w) wc Memory.below_lt,
    Memory.read_append (Memory.cells_wf a bs) (Memory.onward_wf (a + bs.length) w) Memory.cells_lt]
  by_cases h1 : k < a
  · rw [if_pos h1, if_neg (by omega), Memory.read_below w h1]
  · rw [if_neg h1]
    by_cases h2 : k < a + bs.length
    · rw [if_pos h2, if_pos ⟨by omega, h2⟩, Memory.read_cells (by omega) h2]
    · rw [if_neg h2, if_neg (by omega), Memory.read_onward w (by omega)]

/-- Bytes outside every write of a cycle read as before it. -/
theorem Memory.read_apply_outside {m : Memory} {ws : List Write} {k : Nat} (w : m.wf = true)
    (h : ∀ x ∈ ws, k < x.key ∨ x.key + x.bytes.length ≤ k) : (m.apply ws).read k = m.read k := by
  unfold Memory.apply
  induction ws generalizing m with
  | nil => rfl
  | cons x ws ih =>
    have hx := h x List.mem_cons_self
    refine (ih (Memory.writeList_wf x.key x.bytes w) (fun y hy => h y (List.mem_cons_of_mem _ hy))).trans ?_
    rw [Memory.read_writeList _ _ _ w, if_neg (by omega)]

/-- Consecutive bytes are the bytes read one by one. -/
theorem Memory.leading_read {m : Memory} {a n : Nat} (w : Memory.wfFrom a m = true) :
    Memory.leading n m a = (List.range n).map (fun i => m.read (a + i)) := by
  induction n generalizing m a with
  | zero => cases m <;> rfl
  | succ n ih =>
    rw [List.range_succ_eq_map, List.map_cons, List.map_map]
    have shift : ∀ t : Memory, (List.range n).map (fun i => t.read (a + 1 + i)) =
        (List.range n).map ((fun i => t.read (a + i)) ∘ Nat.succ) := by
      intro t; exact List.map_congr_left (fun i _ => congrArg (Memory.read t) (by show _ = a + (i + 1); omega))
    cases m with
    | nil => unfold Memory.leading; rw [ih rfl, shift]; rfl
    | cons c t =>
      obtain ⟨k, v⟩ := c
      have w' := w
      simp only [Memory.wfFrom, Bool.and_eq_true, decide_eq_true_eq] at w
      unfold Memory.leading
      split
      · subst_vars
        rw [ih w.2]
        refine List.cons_eq_cons.mpr ⟨by simp [Memory.read], List.map_congr_left (fun i _ => ?_)⟩
        show Memory.read t (k + 1 + i) = Memory.read ((k, v) :: t) (k + (i + 1))
        simp only [Memory.read]
        rw [if_neg (by omega), if_neg (by omega)]
        exact congrArg (Memory.read t) (by omega)
      · rw [ih (Memory.wfFrom_le (Nat.le_refl _) (by
          simp only [Memory.wfFrom, Bool.and_eq_true, decide_eq_true_eq]; exact ⟨⟨by omega, w.1.2⟩, w.2⟩)), shift]
        refine List.cons_eq_cons.mpr ⟨?_, rfl⟩
        simp only [Memory.read, Nat.add_zero]
        rw [if_neg (by omega), if_pos (by omega)]

/-- `bytes` reads what `read` reads. -/
theorem Memory.bytes_read {m : Memory} (a n : Nat) (w : m.wf = true) :
    m.bytes a n = (List.range n).map (fun i => m.read (a + i)) := by
  unfold Memory.bytes
  rw [Memory.leading_read (Memory.onward_wf a w)]
  exact List.map_congr_left (fun i _ => Memory.read_onward w (by omega))

end Sys2Proof.Machine
end

