-- ==== Sys2Proof/Laws/PerInstr.lean ====
section
/-!
SUPPORT. The encoding family, one lemma per constructor: the words that `encode` writes decode to the instruction they
were written from, carry no end mark, and have an extension only in the SI group.
-/

namespace Sys2Proof.Laws

/-- What the encoder and the decoder say of one instruction. -/
def RoundTrip.Statement (i : Instr) : Prop :=
  ∀ w lx, encode i = some (w, lx) →
    decodeWord w lx = .ok i ∧ endMark w = false ∧ group w ≠ 13 ∧ (lx.isSome = true → group w = 1)

theorem Imm.low_lt (i : Imm) : i.low < 1024 := by
  cases i with
  | short v => exact v.isLt
  | long v => exact Nat.mod_lt _ (by decide)

theorem immOf_low (i : Imm) (n : Nat) (h : n % 1024 = i.low) : immOf (iw n) i.ext = i := by
  cases i with
  | short v => simp only [Imm.ext, immOf]; rw [fld_eq v (by decide) (by simpa [Imm.low] using h)]
  | long v =>
    simp only [Imm.ext, immOf, Imm.long.injEq]
    apply BitVec.eq_of_toNat_eq
    have hv := v.isLt
    have hf : (fld (iw n) 0 10).toNat = v.toNat % 1024 := by
      rw [fld_toNat _ _ _ (by decide)]; simpa [Imm.low] using h
    rw [BitVec.toNat_append, Nat.shiftLeft_eq, Nat.mul_comm, ← Nat.two_pow_add_eq_or_of_lt (by omega), hf,
      BitVec.toNat_ofNat]
    omega

/-! ### The fields of a word, by layout -/

theorem layout1 {w : IWord} {base g op : Nat} (hg : g < 16) (ho : op < 512)
    (hb : base = g * 134217728 + op * 262144)
    (hw : iw (base) = w) :
    group w = g ∧
    (fld w 18 9).toNat = op ∧
    fld w 0 18 = 0#18 ∧
    endMark w = false := by
  subst hb hw
  exact ⟨fld_num g 0 (op * 262144) (by omega) (by decide) (by omega) (by omega),
    fld_num op g (0) (by omega) (by decide) (by omega) (by omega),
    fld_nil (g * 512 + op) (0) (by decide) (by omega) (by omega),
    endMark_iw (by omega)⟩

theorem layout2 {w : IWord} {base g op : Nat} (a : BitVec 6) (b : BitVec 6) (c : BitVec 6) (hg : g < 16) (ho : op <
      512)
    (hb : base = g * 134217728 + op * 262144)
    (hw : iw (base + a.toNat * 4096 + b.toNat * 64 + c.toNat) = w) :
    group w = g ∧
    (fld w 18 9).toNat = op ∧
    fld w 12 6 = a ∧
    fld w 6 6 = b ∧
    fld w 0 6 = c ∧
    endMark w = false := by
  have h0 := a.isLt
  have h1 := b.isLt
  have h2 := c.isLt
  subst hb hw
  exact ⟨fld_num g 0 (op * 262144 + a.toNat * 4096 + b.toNat * 64 + c.toNat) (by omega) (by decide) (by omega) (by
      omega),
    fld_num op g (a.toNat * 4096 + b.toNat * 64 + c.toNat) (by omega) (by decide) (by omega) (by omega),
    fld_at a (g * 512 + op) (b.toNat * 64 + c.toNat) (by decide) (by omega) (by omega),
    fld_at b (g * 32768 + op * 64 + a.toNat) (c.toNat) (by decide) (by omega) (by omega),
    fld_at c (g * 2097152 + op * 4096 + a.toNat * 64 + b.toNat) (0) (by decide) (by omega) (by omega),
    endMark_iw (by omega)⟩

theorem layout3 {w : IWord} {base g op : Nat} (a : BitVec 6) (b : BitVec 6) (hg : g < 16) (ho : op < 512)
    (hb : base = g * 134217728 + op * 262144)
    (hw : iw (base + a.toNat * 4096 + b.toNat * 64) = w) :
    group w = g ∧
    (fld w 18 9).toNat = op ∧
    fld w 12 6 = a ∧
    fld w 6 6 = b ∧
    fld w 0 6 = 0#6 ∧
    endMark w = false := by
  have h0 := a.isLt
  have h1 := b.isLt
  subst hb hw
  exact ⟨fld_num g 0 (op * 262144 + a.toNat * 4096 + b.toNat * 64) (by omega) (by decide) (by omega) (by omega),
    fld_num op g (a.toNat * 4096 + b.toNat * 64) (by omega) (by decide) (by omega) (by omega),
    fld_at a (g * 512 + op) (b.toNat * 64) (by decide) (by omega) (by omega),
    fld_at b (g * 32768 + op * 64 + a.toNat) (0) (by decide) (by omega) (by omega),
    fld_nil (g * 2097152 + op * 4096 + a.toNat * 64 + b.toNat) (0) (by decide) (by omega) (by omega),
    endMark_iw (by omega)⟩

theorem layout4 {w : IWord} {base g op : Nat} (a : BitVec 6) (b : BitVec 6) (c : Imm) (hg : g < 16) (ho : op < 32)
    (hb : base = g * 134217728 + op * 4194304)
    (hw : iw (base + a.toNat * 65536 + b.toNat * 1024 + c.low) = w) :
    group w = g ∧
    (fld w 22 5).toNat = op ∧
    fld w 16 6 = a ∧
    fld w 10 6 = b ∧
    immOf w c.ext = c ∧
    endMark w = false := by
  have h0 := a.isLt
  have h1 := b.isLt
  have h2 := Imm.low_lt c
  subst hb hw
  exact ⟨fld_num g 0 (op * 4194304 + a.toNat * 65536 + b.toNat * 1024 + c.low) (by omega) (by decide) (by omega) (by
      omega),
    fld_num op g (a.toNat * 65536 + b.toNat * 1024 + c.low) (by omega) (by decide) (by omega) (by omega),
    fld_at a (g * 32 + op) (b.toNat * 1024 + c.low) (by decide) (by omega) (by omega),
    fld_at b (g * 2048 + op * 64 + a.toNat) (c.low) (by decide) (by omega) (by omega),
    immOf_low _ _ (by omega),
    endMark_iw (by omega)⟩

theorem layout5 {w : IWord} {base g op : Nat} (a : BitVec 6) (b : Imm) (hg : g < 16) (ho : op < 32)
    (hb : base = g * 134217728 + op * 4194304)
    (hw : iw (base + a.toNat * 65536 + b.low) = w) :
    group w = g ∧
    (fld w 22 5).toNat = op ∧
    fld w 16 6 = a ∧
    immOf w b.ext = b ∧
    fld w 10 6 = 0#6 ∧
    endMark w = false := by
  have h0 := a.isLt
  have h1 := Imm.low_lt b
  subst hb hw
  exact ⟨fld_num g 0 (op * 4194304 + a.toNat * 65536 + b.low) (by omega) (by decide) (by omega) (by omega),
    fld_num op g (a.toNat * 65536 + b.low) (by omega) (by decide) (by omega) (by omega),
    fld_at a (g * 32 + op) (b.low) (by decide) (by omega) (by omega),
    immOf_low _ _ (by omega),
    fld_nil (g * 2048 + op * 64 + a.toNat) (b.low) (by decide) (by omega) (by omega),
    endMark_iw (by omega)⟩

theorem layout6 {w : IWord} {base g op : Nat} (a : BitVec 6) (b : BitVec 6) (c : BitVec 11) (hg : g < 16) (ho : op <
      16)
    (hb : base = g * 134217728 + op * 8388608)
    (hw : iw (base + a.toNat * 131072 + b.toNat * 2048 + c.toNat) = w) :
    group w = g ∧
    (fld w 23 4).toNat = op ∧
    fld w 17 6 = a ∧
    fld w 11 6 = b ∧
    fld w 0 11 = c ∧
    endMark w = false := by
  have h0 := a.isLt
  have h1 := b.isLt
  have h2 := c.isLt
  subst hb hw
  exact ⟨fld_num g 0 (op * 8388608 + a.toNat * 131072 + b.toNat * 2048 + c.toNat) (by omega) (by decide) (by omega)
      (by omega),
    fld_num op g (a.toNat * 131072 + b.toNat * 2048 + c.toNat) (by omega) (by decide) (by omega) (by omega),
    fld_at a (g * 16 + op) (b.toNat * 2048 + c.toNat) (by decide) (by omega) (by omega),
    fld_at b (g * 1024 + op * 64 + a.toNat) (c.toNat) (by decide) (by omega) (by omega),
    fld_at c (g * 65536 + op * 4096 + a.toNat * 64 + b.toNat) (0) (by decide) (by omega) (by omega),
    endMark_iw (by omega)⟩

theorem layout7 {w : IWord} {base g op : Nat} (a : BitVec 17) (hg : g < 16) (ho : op < 16)
    (hb : base = g * 134217728 + op * 8388608)
    (hw : iw (base + a.toNat) = w) :
    group w = g ∧
    (fld w 23 4).toNat = op ∧
    fld w 0 17 = a ∧
    fld w 17 6 = 0#6 ∧
    endMark w = false := by
  have h0 := a.isLt
  subst hb hw
  exact ⟨fld_num g 0 (op * 8388608 + a.toNat) (by omega) (by decide) (by omega) (by omega),
    fld_num op g (a.toNat) (by omega) (by decide) (by omega) (by omega),
    fld_at a (g * 1024 + op * 64) (0) (by decide) (by omega) (by omega),
    fld_nil (g * 16 + op) (a.toNat) (by decide) (by omega) (by omega),
    endMark_iw (by omega)⟩

theorem layout8 {w : IWord} {base g op : Nat} (a : BitVec 6) (b : BitVec 17) (hg : g < 16) (ho : op < 16)
    (hb : base = g * 134217728 + op * 8388608)
    (hw : iw (base + a.toNat * 131072 + b.toNat) = w) :
    group w = g ∧
    (fld w 23 4).toNat = op ∧
    fld w 17 6 = a ∧
    fld w 0 17 = b ∧
    endMark w = false := by
  have h0 := a.isLt
  have h1 := b.isLt
  subst hb hw
  exact ⟨fld_num g 0 (op * 8388608 + a.toNat * 131072 + b.toNat) (by omega) (by decide) (by omega) (by omega),
    fld_num op g (a.toNat * 131072 + b.toNat) (by omega) (by decide) (by omega) (by omega),
    fld_at a (g * 16 + op) (b.toNat) (by decide) (by omega) (by omega),
    fld_at b (g * 1024 + op * 64 + a.toNat) (0) (by decide) (by omega) (by omega),
    endMark_iw (by omega)⟩

theorem layout9 {w : IWord} {base g op : Nat} (a : BitVec 6) (b : BitVec 11) (hg : g < 16) (ho : op < 16)
    (hb : base = g * 134217728 + op * 8388608)
    (hw : iw (base + a.toNat * 131072 + b.toNat) = w) :
    group w = g ∧
    (fld w 23 4).toNat = op ∧
    fld w 17 6 = a ∧
    fld w 0 11 = b ∧
    fld w 11 6 = 0#6 ∧
    endMark w = false := by
  have h0 := a.isLt
  have h1 := b.isLt
  subst hb hw
  exact ⟨fld_num g 0 (op * 8388608 + a.toNat * 131072 + b.toNat) (by omega) (by decide) (by omega) (by omega),
    fld_num op g (a.toNat * 131072 + b.toNat) (by omega) (by decide) (by omega) (by omega),
    fld_at a (g * 16 + op) (b.toNat) (by decide) (by omega) (by omega),
    fld_at b (g * 65536 + op * 4096 + a.toNat * 64) (0) (by decide) (by omega) (by omega),
    fld_nil (g * 1024 + op * 64 + a.toNat) (b.toNat) (by decide) (by omega) (by omega),
    endMark_iw (by omega)⟩

theorem layout10 {w : IWord} {base g op : Nat} (hg : g < 16) (ho : op < 16)
    (hb : base = g * 134217728 + op * 8388608)
    (hw : iw (base) = w) :
    group w = g ∧
    (fld w 23 4).toNat = op ∧
    fld w 0 23 = 0#23 ∧
    endMark w = false := by
  subst hb hw
  exact ⟨fld_num g 0 (op * 8388608) (by omega) (by decide) (by omega) (by omega),
    fld_num op g (0) (by omega) (by decide) (by omega) (by omega),
    fld_nil (g * 16 + op) (0) (by decide) (by omega) (by omega),
    endMark_iw (by omega)⟩

theorem layout11 {w : IWord} {base g op : Nat} (a : BitVec 6) (b : BitVec 9) (hg : g < 16) (ho : op < 64)
    (hb : base = g * 134217728 + op * 2097152)
    (hw : iw (base + a.toNat * 32768 + b.toNat) = w) :
    group w = g ∧
    (fld w 21 6).toNat = op ∧
    fld w 15 6 = a ∧
    fld w 0 9 = b ∧
    fld w 9 6 = 0#6 ∧
    endMark w = false := by
  have h0 := a.isLt
  have h1 := b.isLt
  subst hb hw
  exact ⟨fld_num g 0 (op * 2097152 + a.toNat * 32768 + b.toNat) (by omega) (by decide) (by omega) (by omega),
    fld_num op g (a.toNat * 32768 + b.toNat) (by omega) (by decide) (by omega) (by omega),
    fld_at a (g * 64 + op) (b.toNat) (by decide) (by omega) (by omega),
    fld_at b (g * 262144 + op * 4096 + a.toNat * 64) (0) (by decide) (by omega) (by omega),
    fld_nil (g * 4096 + op * 64 + a.toNat) (b.toNat) (by decide) (by omega) (by omega),
    endMark_iw (by omega)⟩

theorem layout12 {w : IWord} {base g op : Nat} (a : BitVec 6) (b : BitVec 6) (c : BitVec 9) (hg : g < 16) (ho : op <
      64)
    (hb : base = g * 134217728 + op * 2097152)
    (hw : iw (base + a.toNat * 32768 + b.toNat * 512 + c.toNat) = w) :
    group w = g ∧
    (fld w 21 6).toNat = op ∧
    fld w 15 6 = a ∧
    fld w 9 6 = b ∧
    fld w 0 9 = c ∧
    endMark w = false := by
  have h0 := a.isLt
  have h1 := b.isLt
  have h2 := c.isLt
  subst hb hw
  exact ⟨fld_num g 0 (op * 2097152 + a.toNat * 32768 + b.toNat * 512 + c.toNat) (by omega) (by decide) (by omega) (by
      omega),
    fld_num op g (a.toNat * 32768 + b.toNat * 512 + c.toNat) (by omega) (by decide) (by omega) (by omega),
    fld_at a (g * 64 + op) (b.toNat * 512 + c.toNat) (by decide) (by omega) (by omega),
    fld_at b (g * 4096 + op * 64 + a.toNat) (c.toNat) (by decide) (by omega) (by omega),
    fld_at c (g * 262144 + op * 4096 + a.toNat * 64 + b.toNat) (0) (by decide) (by omega) (by omega),
    endMark_iw (by omega)⟩

theorem layout13 {w : IWord} {base g op : Nat} (a : BitVec 6) (b : BitVec 6) (hg : g < 16) (ho : op < 64)
    (hb : base = g * 134217728 + op * 2097152)
    (hw : iw (base + a.toNat * 32768 + b.toNat * 512) = w) :
    group w = g ∧
    (fld w 21 6).toNat = op ∧
    fld w 15 6 = a ∧
    fld w 9 6 = b ∧
    fld w 0 9 = 0#9 ∧
    endMark w = false := by
  have h0 := a.isLt
  have h1 := b.isLt
  subst hb hw
  exact ⟨fld_num g 0 (op * 2097152 + a.toNat * 32768 + b.toNat * 512) (by omega) (by decide) (by omega) (by omega),
    fld_num op g (a.toNat * 32768 + b.toNat * 512) (by omega) (by decide) (by omega) (by omega),
    fld_at a (g * 64 + op) (b.toNat * 512) (by decide) (by omega) (by omega),
    fld_at b (g * 4096 + op * 64 + a.toNat) (0) (by decide) (by omega) (by omega),
    fld_nil (g * 262144 + op * 4096 + a.toNat * 64 + b.toNat) (0) (by decide) (by omega) (by omega),
    endMark_iw (by omega)⟩

theorem layout14 {w : IWord} {base g op : Nat} (a : BitVec 6) (b : BitVec 6) (c : BitVec 1) (hg : g < 16) (ho : op <
      64)
    (hb : base = g * 134217728 + op * 2097152)
    (hw : iw (base + a.toNat * 32768 + b.toNat * 512 + c.toNat) = w) :
    group w = g ∧
    (fld w 21 6).toNat = op ∧
    fld w 15 6 = a ∧
    fld w 9 6 = b ∧
    fld w 0 1 = c ∧
    fld w 1 8 = 0#8 ∧
    endMark w = false := by
  have h0 := a.isLt
  have h1 := b.isLt
  have h2 := c.isLt
  subst hb hw
  exact ⟨fld_num g 0 (op * 2097152 + a.toNat * 32768 + b.toNat * 512 + c.toNat) (by omega) (by decide) (by omega) (by
      omega),
    fld_num op g (a.toNat * 32768 + b.toNat * 512 + c.toNat) (by omega) (by decide) (by omega) (by omega),
    fld_at a (g * 64 + op) (b.toNat * 512 + c.toNat) (by decide) (by omega) (by omega),
    fld_at b (g * 4096 + op * 64 + a.toNat) (c.toNat) (by decide) (by omega) (by omega),
    fld_at c (g * 67108864 + op * 1048576 + a.toNat * 16384 + b.toNat * 256) (0) (by decide) (by omega) (by omega),
    fld_nil (g * 262144 + op * 4096 + a.toNat * 64 + b.toNat) (c.toNat) (by decide) (by omega) (by omega),
    endMark_iw (by omega)⟩

theorem layout15 {w : IWord} {base g op : Nat} (hg : g < 16) (ho : op < 64)
    (hb : base = g * 134217728 + op * 2097152)
    (hw : iw (base) = w) :
    group w = g ∧
    (fld w 21 6).toNat = op ∧
    fld w 0 21 = 0#21 ∧
    endMark w = false := by
  subst hb hw
  exact ⟨fld_num g 0 (op * 2097152) (by omega) (by decide) (by omega) (by omega),
    fld_num op g (0) (by omega) (by decide) (by omega) (by omega),
    fld_nil (g * 64 + op) (0) (by decide) (by omega) (by omega),
    endMark_iw (by omega)⟩

theorem layout16 {w : IWord} {base g op : Nat} (a : BitVec 6) (b : BitVec 3) (hg : g < 16) (ho : op < 64)
    (hb : base = g * 134217728 + op * 2097152)
    (hw : iw (base + a.toNat * 512 + b.toNat) = w) :
    group w = g ∧
    (fld w 21 6).toNat = op ∧
    fld w 9 6 = a ∧
    fld w 0 3 = b ∧
    fld w 3 6 = 0#6 ∧
    fld w 15 6 = 0#6 ∧
    endMark w = false := by
  have h0 := a.isLt
  have h1 := b.isLt
  subst hb hw
  exact ⟨fld_num g 0 (op * 2097152 + a.toNat * 512 + b.toNat) (by omega) (by decide) (by omega) (by omega),
    fld_num op g (a.toNat * 512 + b.toNat) (by omega) (by decide) (by omega) (by omega),
    fld_at a (g * 4096 + op * 64) (b.toNat) (by decide) (by omega) (by omega),
    fld_at b (g * 16777216 + op * 262144 + a.toNat * 64) (0) (by decide) (by omega) (by omega),
    fld_nil (g * 262144 + op * 4096 + a.toNat) (b.toNat) (by decide) (by omega) (by omega),
    fld_nil (g * 64 + op) (a.toNat * 512 + b.toNat) (by decide) (by omega) (by omega),
    endMark_iw (by omega)⟩

theorem layout17 {w : IWord} {base g op : Nat} (a : BitVec 6) (b : BitVec 6) (c : BitVec 5) (hg : g < 16) (ho : op <
      64)
    (hb : base = g * 134217728 + op * 2097152)
    (hw : iw (base + a.toNat * 32768 + b.toNat * 512 + c.toNat) = w) :
    group w = g ∧
    (fld w 21 6).toNat = op ∧
    fld w 15 6 = a ∧
    fld w 9 6 = b ∧
    fld w 0 5 = c ∧
    fld w 5 4 = 0#4 ∧
    endMark w = false := by
  have h0 := a.isLt
  have h1 := b.isLt
  have h2 := c.isLt
  subst hb hw
  exact ⟨fld_num g 0 (op * 2097152 + a.toNat * 32768 + b.toNat * 512 + c.toNat) (by omega) (by decide) (by omega) (by
      omega),
    fld_num op g (a.toNat * 32768 + b.toNat * 512 + c.toNat) (by omega) (by decide) (by omega) (by omega),
    fld_at a (g * 64 + op) (b.toNat * 512 + c.toNat) (by decide) (by omega) (by omega),
    fld_at b (g * 4096 + op * 64 + a.toNat) (c.toNat) (by decide) (by omega) (by omega),
    fld_at c (g * 4194304 + op * 65536 + a.toNat * 1024 + b.toNat * 16) (0) (by decide) (by omega) (by omega),
    fld_nil (g * 262144 + op * 4096 + a.toNat * 64 + b.toNat) (c.toNat) (by decide) (by omega) (by omega),
    endMark_iw (by omega)⟩

theorem layout18 {w : IWord} {base g op : Nat} (a : BitVec 3) (b : BitVec 4) (c : BitVec 4) (d : BitVec 3) (e :
      BitVec 3) (f : BitVec 2) (h : BitVec 1) (j : BitVec 1) (k : BitVec 1) (m : BitVec 1) (hg : g < 16) (ho : op < 8)
    (hb : base = g * 134217728 + op * 16777216)
    (hw : iw (base + a.toNat * 2097152 + b.toNat * 131072 + c.toNat * 8192 + d.toNat * 1024 + e.toNat * 128 + f.toNat
      * 32 + h.toNat * 16 + j.toNat * 8 + k.toNat * 4 + m.toNat * 2) = w) :
    group w = g ∧
    (fld w 24 3).toNat = op ∧
    fld w 21 3 = a ∧
    fld w 17 4 = b ∧
    fld w 13 4 = c ∧
    fld w 10 3 = d ∧
    fld w 7 3 = e ∧
    fld w 5 2 = f ∧
    fld w 4 1 = h ∧
    fld w 3 1 = j ∧
    fld w 2 1 = k ∧
    fld w 1 1 = m ∧
    fld w 0 1 = 0#1 ∧
    endMark w = false := by
  have h0 := a.isLt
  have h1 := b.isLt
  have h2 := c.isLt
  have h3 := d.isLt
  have h4 := e.isLt
  have h5 := f.isLt
  have h6 := h.isLt
  have h7 := j.isLt
  have h8 := k.isLt
  have h9 := m.isLt
  subst hb hw
  exact ⟨fld_num g 0 (op * 16777216 + a.toNat * 2097152 + b.toNat * 131072 + c.toNat * 8192 + d.toNat * 1024 +
      e.toNat * 128 + f.toNat * 32 + h.toNat * 16 + j.toNat * 8 + k.toNat * 4 + m.toNat * 2) (by omega) (by decide)
      (by omega) (by omega),
    fld_num op g (a.toNat * 2097152 + b.toNat * 131072 + c.toNat * 8192 + d.toNat * 1024 + e.toNat * 128 + f.toNat *
      32 + h.toNat * 16 + j.toNat * 8 + k.toNat * 4 + m.toNat * 2) (by omega) (by decide) (by omega) (by omega),
    fld_at a (g * 8 + op) (b.toNat * 131072 + c.toNat * 8192 + d.toNat * 1024 + e.toNat * 128 + f.toNat * 32 +
      h.toNat * 16 + j.toNat * 8 + k.toNat * 4 + m.toNat * 2) (by decide) (by omega) (by omega),
    fld_at b (g * 64 + op * 8 + a.toNat) (c.toNat * 8192 + d.toNat * 1024 + e.toNat * 128 + f.toNat * 32 + h.toNat *
      16 + j.toNat * 8 + k.toNat * 4 + m.toNat * 2) (by decide) (by omega) (by omega),
    fld_at c (g * 1024 + op * 128 + a.toNat * 16 + b.toNat) (d.toNat * 1024 + e.toNat * 128 + f.toNat * 32 + h.toNat
      * 16 + j.toNat * 8 + k.toNat * 4 + m.toNat * 2) (by decide) (by omega) (by omega),
    fld_at d (g * 16384 + op * 2048 + a.toNat * 256 + b.toNat * 16 + c.toNat) (e.toNat * 128 + f.toNat * 32 + h.toNat
      * 16 + j.toNat * 8 + k.toNat * 4 + m.toNat * 2) (by decide) (by omega) (by omega),
    fld_at e (g * 131072 + op * 16384 + a.toNat * 2048 + b.toNat * 128 + c.toNat * 8 + d.toNat) (f.toNat * 32 +
      h.toNat * 16 + j.toNat * 8 + k.toNat * 4 + m.toNat * 2) (by decide) (by omega) (by omega),
    fld_at f (g * 1048576 + op * 131072 + a.toNat * 16384 + b.toNat * 1024 + c.toNat * 64 + d.toNat * 8 + e.toNat)
      (h.toNat * 16 + j.toNat * 8 + k.toNat * 4 + m.toNat * 2) (by decide) (by omega) (by omega),
    fld_at h (g * 4194304 + op * 524288 + a.toNat * 65536 + b.toNat * 4096 + c.toNat * 256 + d.toNat * 32 + e.toNat *
      4 + f.toNat) (j.toNat * 8 + k.toNat * 4 + m.toNat * 2) (by decide) (by omega) (by omega),
    fld_at j (g * 8388608 + op * 1048576 + a.toNat * 131072 + b.toNat * 8192 + c.toNat * 512 + d.toNat * 64 + e.toNat
      * 8 + f.toNat * 2 + h.toNat) (k.toNat * 4 + m.toNat * 2) (by decide) (by omega) (by omega),
    fld_at k (g * 16777216 + op * 2097152 + a.toNat * 262144 + b.toNat * 16384 + c.toNat * 1024 + d.toNat * 128 +
      e.toNat * 16 + f.toNat * 4 + h.toNat * 2 + j.toNat) (m.toNat * 2) (by decide) (by omega) (by omega),
    fld_at m (g * 33554432 + op * 4194304 + a.toNat * 524288 + b.toNat * 32768 + c.toNat * 2048 + d.toNat * 256 +
      e.toNat * 32 + f.toNat * 8 + h.toNat * 4 + j.toNat * 2 + k.toNat) (0) (by decide) (by omega) (by omega),
    fld_nil (g * 67108864 + op * 8388608 + a.toNat * 1048576 + b.toNat * 65536 + c.toNat * 4096 + d.toNat * 512 +
      e.toNat * 64 + f.toNat * 16 + h.toNat * 8 + j.toNat * 4 + k.toNat * 2 + m.toNat) (0) (by decide) (by omega) (by
      omega),
    endMark_iw (by omega)⟩

theorem layout19 {w : IWord} {base g op : Nat} (a : BitVec 3) (b : BitVec 4) (c : BitVec 4) (d : BitVec 3) (e :
      BitVec 3) (f : BitVec 2) (h : BitVec 1) (j : BitVec 1) (k : BitVec 1) (hg : g < 16) (ho : op < 8)
    (hb : base = g * 134217728 + op * 16777216)
    (hw : iw (base + a.toNat * 2097152 + b.toNat * 131072 + c.toNat * 8192 + d.toNat * 1024 + e.toNat * 128 + f.toNat
      * 32 + h.toNat * 16 + j.toNat * 8 + k.toNat * 2) = w) :
    group w = g ∧
    (fld w 24 3).toNat = op ∧
    fld w 21 3 = a ∧
    fld w 17 4 = b ∧
    fld w 13 4 = c ∧
    fld w 10 3 = d ∧
    fld w 7 3 = e ∧
    fld w 5 2 = f ∧
    fld w 4 1 = h ∧
    fld w 3 1 = j ∧
    fld w 1 1 = k ∧
    fld w 0 1 = 0#1 ∧
    fld w 2 1 = 0#1 ∧
    endMark w = false := by
  have h0 := a.isLt
  have h1 := b.isLt
  have h2 := c.isLt
  have h3 := d.isLt
  have h4 := e.isLt
  have h5 := f.isLt
  have h6 := h.isLt
  have h7 := j.isLt
  have h8 := k.isLt
  subst hb hw
  exact ⟨fld_num g 0 (op * 16777216 + a.toNat * 2097152 + b.toNat * 131072 + c.toNat * 8192 + d.toNat * 1024 +
      e.toNat * 128 + f.toNat * 32 + h.toNat * 16 + j.toNat * 8 + k.toNat * 2) (by omega) (by decide) (by omega) (by
      omega),
    fld_num op g (a.toNat * 2097152 + b.toNat * 131072 + c.toNat * 8192 + d.toNat * 1024 + e.toNat * 128 + f.toNat *
      32 + h.toNat * 16 + j.toNat * 8 + k.toNat * 2) (by omega) (by decide) (by omega) (by omega),
    fld_at a (g * 8 + op) (b.toNat * 131072 + c.toNat * 8192 + d.toNat * 1024 + e.toNat * 128 + f.toNat * 32 +
      h.toNat * 16 + j.toNat * 8 + k.toNat * 2) (by decide) (by omega) (by omega),
    fld_at b (g * 64 + op * 8 + a.toNat) (c.toNat * 8192 + d.toNat * 1024 + e.toNat * 128 + f.toNat * 32 + h.toNat *
      16 + j.toNat * 8 + k.toNat * 2) (by decide) (by omega) (by omega),
    fld_at c (g * 1024 + op * 128 + a.toNat * 16 + b.toNat) (d.toNat * 1024 + e.toNat * 128 + f.toNat * 32 + h.toNat
      * 16 + j.toNat * 8 + k.toNat * 2) (by decide) (by omega) (by omega),
    fld_at d (g * 16384 + op * 2048 + a.toNat * 256 + b.toNat * 16 + c.toNat) (e.toNat * 128 + f.toNat * 32 + h.toNat
      * 16 + j.toNat * 8 + k.toNat * 2) (by decide) (by omega) (by omega),
    fld_at e (g * 131072 + op * 16384 + a.toNat * 2048 + b.toNat * 128 + c.toNat * 8 + d.toNat) (f.toNat * 32 +
      h.toNat * 16 + j.toNat * 8 + k.toNat * 2) (by decide) (by omega) (by omega),
    fld_at f (g * 1048576 + op * 131072 + a.toNat * 16384 + b.toNat * 1024 + c.toNat * 64 + d.toNat * 8 + e.toNat)
      (h.toNat * 16 + j.toNat * 8 + k.toNat * 2) (by decide) (by omega) (by omega),
    fld_at h (g * 4194304 + op * 524288 + a.toNat * 65536 + b.toNat * 4096 + c.toNat * 256 + d.toNat * 32 + e.toNat *
      4 + f.toNat) (j.toNat * 8 + k.toNat * 2) (by decide) (by omega) (by omega),
    fld_at j (g * 8388608 + op * 1048576 + a.toNat * 131072 + b.toNat * 8192 + c.toNat * 512 + d.toNat * 64 + e.toNat
      * 8 + f.toNat * 2 + h.toNat) (k.toNat * 2) (by decide) (by omega) (by omega),
    fld_at k (g * 33554432 + op * 4194304 + a.toNat * 524288 + b.toNat * 32768 + c.toNat * 2048 + d.toNat * 256 +
      e.toNat * 32 + f.toNat * 8 + h.toNat * 4 + j.toNat * 2) (0) (by decide) (by omega) (by omega),
    fld_nil (g * 67108864 + op * 8388608 + a.toNat * 1048576 + b.toNat * 65536 + c.toNat * 4096 + d.toNat * 512 +
      e.toNat * 64 + f.toNat * 16 + h.toNat * 8 + j.toNat * 4 + k.toNat) (0) (by decide) (by omega) (by omega),
    fld_nil (g * 16777216 + op * 2097152 + a.toNat * 262144 + b.toNat * 16384 + c.toNat * 1024 + d.toNat * 128 +
      e.toNat * 16 + f.toNat * 4 + h.toNat * 2 + j.toNat) (k.toNat * 2) (by decide) (by omega) (by omega),
    endMark_iw (by omega)⟩

theorem layout20 {w : IWord} {base g op : Nat} (a : BitVec 3) (b : BitVec 4) (c : BitVec 2) (d : BitVec 3) (e :
      BitVec 3) (f : BitVec 1) (h : BitVec 1) (j : BitVec 1) (k : BitVec 1) (m : BitVec 1) (hg : g < 16) (ho : op < 8)
    (hb : base = g * 134217728 + op * 16777216)
    (hw : iw (base + a.toNat * 2097152 + b.toNat * 131072 + c.toNat * 8192 + d.toNat * 1024 + e.toNat * 128 + f.toNat
      * 32 + h.toNat * 16 + j.toNat * 8 + k.toNat * 4 + m.toNat * 2) = w) :
    group w = g ∧
    (fld w 24 3).toNat = op ∧
    fld w 21 3 = a ∧
    fld w 17 4 = b ∧
    fld w 13 2 = c ∧
    fld w 10 3 = d ∧
    fld w 7 3 = e ∧
    fld w 5 1 = f ∧
    fld w 4 1 = h ∧
    fld w 3 1 = j ∧
    fld w 2 1 = k ∧
    fld w 1 1 = m ∧
    fld w 0 1 = 0#1 ∧
    fld w 6 1 = 0#1 ∧
    fld w 15 2 = 0#2 ∧
    endMark w = false := by
  have h0 := a.isLt
  have h1 := b.isLt
  have h2 := c.isLt
  have h3 := d.isLt
  have h4 := e.isLt
  have h5 := f.isLt
  have h6 := h.isLt
  have h7 := j.isLt
  have h8 := k.isLt
  have h9 := m.isLt
  subst hb hw
  exact ⟨fld_num g 0 (op * 16777216 + a.toNat * 2097152 + b.toNat * 131072 + c.toNat * 8192 + d.toNat * 1024 +
      e.toNat * 128 + f.toNat * 32 + h.toNat * 16 + j.toNat * 8 + k.toNat * 4 + m.toNat * 2) (by omega) (by decide)
      (by omega) (by omega),
    fld_num op g (a.toNat * 2097152 + b.toNat * 131072 + c.toNat * 8192 + d.toNat * 1024 + e.toNat * 128 + f.toNat *
      32 + h.toNat * 16 + j.toNat * 8 + k.toNat * 4 + m.toNat * 2) (by omega) (by decide) (by omega) (by omega),
    fld_at a (g * 8 + op) (b.toNat * 131072 + c.toNat * 8192 + d.toNat * 1024 + e.toNat * 128 + f.toNat * 32 +
      h.toNat * 16 + j.toNat * 8 + k.toNat * 4 + m.toNat * 2) (by decide) (by omega) (by omega),
    fld_at b (g * 64 + op * 8 + a.toNat) (c.toNat * 8192 + d.toNat * 1024 + e.toNat * 128 + f.toNat * 32 + h.toNat *
      16 + j.toNat * 8 + k.toNat * 4 + m.toNat * 2) (by decide) (by omega) (by omega),
    fld_at c (g * 4096 + op * 512 + a.toNat * 64 + b.toNat * 4) (d.toNat * 1024 + e.toNat * 128 + f.toNat * 32 +
      h.toNat * 16 + j.toNat * 8 + k.toNat * 4 + m.toNat * 2) (by decide) (by omega) (by omega),
    fld_at d (g * 16384 + op * 2048 + a.toNat * 256 + b.toNat * 16 + c.toNat) (e.toNat * 128 + f.toNat * 32 + h.toNat
      * 16 + j.toNat * 8 + k.toNat * 4 + m.toNat * 2) (by decide) (by omega) (by omega),
    fld_at e (g * 131072 + op * 16384 + a.toNat * 2048 + b.toNat * 128 + c.toNat * 8 + d.toNat) (f.toNat * 32 +
      h.toNat * 16 + j.toNat * 8 + k.toNat * 4 + m.toNat * 2) (by decide) (by omega) (by omega),
    fld_at f (g * 2097152 + op * 262144 + a.toNat * 32768 + b.toNat * 2048 + c.toNat * 128 + d.toNat * 16 + e.toNat *
      2) (h.toNat * 16 + j.toNat * 8 + k.toNat * 4 + m.toNat * 2) (by decide) (by omega) (by omega),
    fld_at h (g * 4194304 + op * 524288 + a.toNat * 65536 + b.toNat * 4096 + c.toNat * 256 + d.toNat * 32 + e.toNat *
      4 + f.toNat) (j.toNat * 8 + k.toNat * 4 + m.toNat * 2) (by decide) (by omega) (by omega),
    fld_at j (g * 8388608 + op * 1048576 + a.toNat * 131072 + b.toNat * 8192 + c.toNat * 512 + d.toNat * 64 + e.toNat
      * 8 + f.toNat * 2 + h.toNat) (k.toNat * 4 + m.toNat * 2) (by decide) (by omega) (by omega),
    fld_at k (g * 16777216 + op * 2097152 + a.toNat * 262144 + b.toNat * 16384 + c.toNat * 1024 + d.toNat * 128 +
      e.toNat * 16 + f.toNat * 4 + h.toNat * 2 + j.toNat) (m.toNat * 2) (by decide) (by omega) (by omega),
    fld_at m (g * 33554432 + op * 4194304 + a.toNat * 524288 + b.toNat * 32768 + c.toNat * 2048 + d.toNat * 256 +
      e.toNat * 32 + f.toNat * 8 + h.toNat * 4 + j.toNat * 2 + k.toNat) (0) (by decide) (by omega) (by omega),
    fld_nil (g * 67108864 + op * 8388608 + a.toNat * 1048576 + b.toNat * 65536 + c.toNat * 4096 + d.toNat * 512 +
      e.toNat * 64 + f.toNat * 16 + h.toNat * 8 + j.toNat * 4 + k.toNat * 2 + m.toNat) (0) (by decide) (by omega) (by
      omega),
    fld_nil (g * 1048576 + op * 131072 + a.toNat * 16384 + b.toNat * 1024 + c.toNat * 64 + d.toNat * 8 + e.toNat)
      (f.toNat * 32 + h.toNat * 16 + j.toNat * 8 + k.toNat * 4 + m.toNat * 2) (by decide) (by omega) (by omega),
    fld_nil (g * 1024 + op * 128 + a.toNat * 16 + b.toNat) (c.toNat * 8192 + d.toNat * 1024 + e.toNat * 128 + f.toNat
      * 32 + h.toNat * 16 + j.toNat * 8 + k.toNat * 4 + m.toNat * 2) (by decide) (by omega) (by omega),
    endMark_iw (by omega)⟩

theorem layout21 {w : IWord} {base g op : Nat} (a : BitVec 3) (b : BitVec 3) (c : BitVec 2) (hg : g < 16) (ho : op <
      8)
    (hb : base = g * 134217728 + op * 16777216)
    (hw : iw (base + a.toNat * 2097152 + b.toNat * 131072 + c.toNat) = w) :
    group w = g ∧
    (fld w 24 3).toNat = op ∧
    fld w 21 3 = a ∧
    fld w 17 3 = b ∧
    fld w 0 2 = c ∧
    fld w 2 15 = 0#15 ∧
    fld w 20 1 = 0#1 ∧
    endMark w = false := by
  have h0 := a.isLt
  have h1 := b.isLt
  have h2 := c.isLt
  subst hb hw
  exact ⟨fld_num g 0 (op * 16777216 + a.toNat * 2097152 + b.toNat * 131072 + c.toNat) (by omega) (by decide) (by
      omega) (by omega),
    fld_num op g (a.toNat * 2097152 + b.toNat * 131072 + c.toNat) (by omega) (by decide) (by omega) (by omega),
    fld_at a (g * 8 + op) (b.toNat * 131072 + c.toNat) (by decide) (by omega) (by omega),
    fld_at b (g * 128 + op * 16 + a.toNat * 2) (c.toNat) (by decide) (by omega) (by omega),
    fld_at c (g * 33554432 + op * 4194304 + a.toNat * 524288 + b.toNat * 32768) (0) (by decide) (by omega) (by omega),
    fld_nil (g * 1024 + op * 128 + a.toNat * 16 + b.toNat) (c.toNat) (by decide) (by omega) (by omega),
    fld_nil (g * 64 + op * 8 + a.toNat) (b.toNat * 131072 + c.toNat) (by decide) (by omega) (by omega),
    endMark_iw (by omega)⟩

theorem layout22 {w : IWord} {base g op : Nat} (a : BitVec 3) (b : BitVec 2) (hg : g < 16) (ho : op < 8)
    (hb : base = g * 134217728 + op * 16777216)
    (hw : iw (base + a.toNat * 2097152 + b.toNat) = w) :
    group w = g ∧
    (fld w 24 3).toNat = op ∧
    fld w 21 3 = a ∧
    fld w 0 2 = b ∧
    fld w 2 19 = 0#19 ∧
    endMark w = false := by
  have h0 := a.isLt
  have h1 := b.isLt
  subst hb hw
  exact ⟨fld_num g 0 (op * 16777216 + a.toNat * 2097152 + b.toNat) (by omega) (by decide) (by omega) (by omega),
    fld_num op g (a.toNat * 2097152 + b.toNat) (by omega) (by decide) (by omega) (by omega),
    fld_at a (g * 8 + op) (b.toNat) (by decide) (by omega) (by omega),
    fld_at b (g * 33554432 + op * 4194304 + a.toNat * 524288) (0) (by decide) (by omega) (by omega),
    fld_nil (g * 64 + op * 8 + a.toNat) (b.toNat) (by decide) (by omega) (by omega),
    endMark_iw (by omega)⟩

theorem layout23 {w : IWord} {base g op : Nat} (a : BitVec 3) (b : BitVec 4) (c : BitVec 4) (d : BitVec 3) (e :
      BitVec 1) (f : BitVec 1) (h : BitVec 1) (j : BitVec 2) (k : BitVec 5) (hg : g < 16) (ho : op < 8)
    (hb : base = g * 134217728 + op * 16777216)
    (hw : iw (base + a.toNat * 2097152 + b.toNat * 131072 + c.toNat * 8192 + d.toNat * 1024 + e.toNat * 512 + f.toNat
      * 256 + h.toNat * 128 + j.toNat * 32 + k.toNat) = w) :
    group w = g ∧
    (fld w 24 3).toNat = op ∧
    fld w 21 3 = a ∧
    fld w 17 4 = b ∧
    fld w 13 4 = c ∧
    fld w 10 3 = d ∧
    fld w 9 1 = e ∧
    fld w 8 1 = f ∧
    fld w 7 1 = h ∧
    fld w 5 2 = j ∧
    fld w 0 5 = k ∧
    endMark w = false := by
  have h0 := a.isLt
  have h1 := b.isLt
  have h2 := c.isLt
  have h3 := d.isLt
  have h4 := e.isLt
  have h5 := f.isLt
  have h6 := h.isLt
  have h7 := j.isLt
  have h8 := k.isLt
  subst hb hw
  exact ⟨fld_num g 0 (op * 16777216 + a.toNat * 2097152 + b.toNat * 131072 + c.toNat * 8192 + d.toNat * 1024 +
      e.toNat * 512 + f.toNat * 256 + h.toNat * 128 + j.toNat * 32 + k.toNat) (by omega) (by decide) (by omega) (by
      omega),
    fld_num op g (a.toNat * 2097152 + b.toNat * 131072 + c.toNat * 8192 + d.toNat * 1024 + e.toNat * 512 + f.toNat *
      256 + h.toNat * 128 + j.toNat * 32 + k.toNat) (by omega) (by decide) (by omega) (by omega),
    fld_at a (g * 8 + op) (b.toNat * 131072 + c.toNat * 8192 + d.toNat * 1024 + e.toNat * 512 + f.toNat * 256 +
      h.toNat * 128 + j.toNat * 32 + k.toNat) (by decide) (by omega) (by omega),
    fld_at b (g * 64 + op * 8 + a.toNat) (c.toNat * 8192 + d.toNat * 1024 + e.toNat * 512 + f.toNat * 256 + h.toNat *
      128 + j.toNat * 32 + k.toNat) (by decide) (by omega) (by omega),
    fld_at c (g * 1024 + op * 128 + a.toNat * 16 + b.toNat) (d.toNat * 1024 + e.toNat * 512 + f.toNat * 256 + h.toNat
      * 128 + j.toNat * 32 + k.toNat) (by decide) (by omega) (by omega),
    fld_at d (g * 16384 + op * 2048 + a.toNat * 256 + b.toNat * 16 + c.toNat) (e.toNat * 512 + f.toNat * 256 +
      h.toNat * 128 + j.toNat * 32 + k.toNat) (by decide) (by omega) (by omega),
    fld_at e (g * 131072 + op * 16384 + a.toNat * 2048 + b.toNat * 128 + c.toNat * 8 + d.toNat) (f.toNat * 256 +
      h.toNat * 128 + j.toNat * 32 + k.toNat) (by decide) (by omega) (by omega),
    fld_at f (g * 262144 + op * 32768 + a.toNat * 4096 + b.toNat * 256 + c.toNat * 16 + d.toNat * 2 + e.toNat)
      (h.toNat * 128 + j.toNat * 32 + k.toNat) (by decide) (by omega) (by omega),
    fld_at h (g * 524288 + op * 65536 + a.toNat * 8192 + b.toNat * 512 + c.toNat * 32 + d.toNat * 4 + e.toNat * 2 +
      f.toNat) (j.toNat * 32 + k.toNat) (by decide) (by omega) (by omega),
    fld_at j (g * 1048576 + op * 131072 + a.toNat * 16384 + b.toNat * 1024 + c.toNat * 64 + d.toNat * 8 + e.toNat * 4
      + f.toNat * 2 + h.toNat) (k.toNat) (by decide) (by omega) (by omega),
    fld_at k (g * 4194304 + op * 524288 + a.toNat * 65536 + b.toNat * 4096 + c.toNat * 256 + d.toNat * 32 + e.toNat *
      16 + f.toNat * 8 + h.toNat * 4 + j.toNat) (0) (by decide) (by omega) (by omega),
    endMark_iw (by omega)⟩

theorem layout24 {w : IWord} {base g op : Nat} (a : BitVec 3) (b : BitVec 4) (c : BitVec 1) (d : BitVec 2) (hg : g <
      16) (ho : op < 8)
    (hb : base = g * 134217728 + op * 16777216)
    (hw : iw (base + a.toNat * 2097152 + b.toNat * 131072 + c.toNat * 32 + d.toNat) = w) :
    group w = g ∧
    (fld w 24 3).toNat = op ∧
    fld w 21 3 = a ∧
    fld w 17 4 = b ∧
    fld w 5 1 = c ∧
    fld w 0 2 = d ∧
    fld w 2 3 = 0#3 ∧
    fld w 6 11 = 0#11 ∧
    endMark w = false := by
  have h0 := a.isLt
  have h1 := b.isLt
  have h2 := c.isLt
  have h3 := d.isLt
  subst hb hw
  exact ⟨fld_num g 0 (op * 16777216 + a.toNat * 2097152 + b.toNat * 131072 + c.toNat * 32 + d.toNat) (by omega) (by
      decide) (by omega) (by omega),
    fld_num op g (a.toNat * 2097152 + b.toNat * 131072 + c.toNat * 32 + d.toNat) (by omega) (by decide) (by omega)
      (by omega),
    fld_at a (g * 8 + op) (b.toNat * 131072 + c.toNat * 32 + d.toNat) (by decide) (by omega) (by omega),
    fld_at b (g * 64 + op * 8 + a.toNat) (c.toNat * 32 + d.toNat) (by decide) (by omega) (by omega),
    fld_at c (g * 2097152 + op * 262144 + a.toNat * 32768 + b.toNat * 2048) (d.toNat) (by decide) (by omega) (by
      omega),
    fld_at d (g * 33554432 + op * 4194304 + a.toNat * 524288 + b.toNat * 32768 + c.toNat * 8) (0) (by decide) (by
      omega) (by omega),
    fld_nil (g * 4194304 + op * 524288 + a.toNat * 65536 + b.toNat * 4096 + c.toNat) (d.toNat) (by decide) (by omega)
      (by omega),
    fld_nil (g * 1024 + op * 128 + a.toNat * 16 + b.toNat) (c.toNat * 32 + d.toNat) (by decide) (by omega) (by omega),
    endMark_iw (by omega)⟩

theorem layout25 {w : IWord} {base g op : Nat} (a : BitVec 6) (b : BitVec 6) (c : BitVec 2) (d : BitVec 2) (hg : g <
      16) (ho : op < 512)
    (hb : base = g * 134217728 + op * 262144)
    (hw : iw (base + a.toNat * 4096 + b.toNat * 64 + c.toNat * 4 + d.toNat) = w) :
    group w = g ∧
    (fld w 18 9).toNat = op ∧
    fld w 12 6 = a ∧
    fld w 6 6 = b ∧
    fld w 2 2 = c ∧
    fld w 0 2 = d ∧
    fld w 4 2 = 0#2 ∧
    endMark w = false := by
  have h0 := a.isLt
  have h1 := b.isLt
  have h2 := c.isLt
  have h3 := d.isLt
  subst hb hw
  exact ⟨fld_num g 0 (op * 262144 + a.toNat * 4096 + b.toNat * 64 + c.toNat * 4 + d.toNat) (by omega) (by decide) (by
      omega) (by omega),
    fld_num op g (a.toNat * 4096 + b.toNat * 64 + c.toNat * 4 + d.toNat) (by omega) (by decide) (by omega) (by omega),
    fld_at a (g * 512 + op) (b.toNat * 64 + c.toNat * 4 + d.toNat) (by decide) (by omega) (by omega),
    fld_at b (g * 32768 + op * 64 + a.toNat) (c.toNat * 4 + d.toNat) (by decide) (by omega) (by omega),
    fld_at c (g * 8388608 + op * 16384 + a.toNat * 256 + b.toNat * 4) (d.toNat) (by decide) (by omega) (by omega),
    fld_at d (g * 33554432 + op * 65536 + a.toNat * 1024 + b.toNat * 16 + c.toNat) (0) (by decide) (by omega) (by
      omega),
    fld_nil (g * 2097152 + op * 4096 + a.toNat * 64 + b.toNat) (c.toNat * 4 + d.toNat) (by decide) (by omega) (by
      omega),
    endMark_iw (by omega)⟩

theorem layout26 {w : IWord} {base g op : Nat} (a : BitVec 6) (b : BitVec 2) (hg : g < 16) (ho : op < 512)
    (hb : base = g * 134217728 + op * 262144)
    (hw : iw (base + a.toNat * 4096 + b.toNat) = w) :
    group w = g ∧
    (fld w 18 9).toNat = op ∧
    fld w 12 6 = a ∧
    fld w 0 2 = b ∧
    fld w 2 10 = 0#10 ∧
    endMark w = false := by
  have h0 := a.isLt
  have h1 := b.isLt
  subst hb hw
  exact ⟨fld_num g 0 (op * 262144 + a.toNat * 4096 + b.toNat) (by omega) (by decide) (by omega) (by omega),
    fld_num op g (a.toNat * 4096 + b.toNat) (by omega) (by decide) (by omega) (by omega),
    fld_at a (g * 512 + op) (b.toNat) (by decide) (by omega) (by omega),
    fld_at b (g * 33554432 + op * 65536 + a.toNat * 1024) (0) (by decide) (by omega) (by omega),
    fld_nil (g * 32768 + op * 64 + a.toNat) (b.toNat) (by decide) (by omega) (by omega),
    endMark_iw (by omega)⟩

theorem layout27 {w : IWord} {base g op : Nat} (a : BitVec 6) (b : BitVec 4) (hg : g < 16) (ho : op < 512)
    (hb : base = g * 134217728 + op * 262144)
    (hw : iw (base + a.toNat * 4096 + b.toNat) = w) :
    group w = g ∧
    (fld w 18 9).toNat = op ∧
    fld w 12 6 = a ∧
    fld w 0 4 = b ∧
    fld w 4 8 = 0#8 ∧
    endMark w = false := by
  have h0 := a.isLt
  have h1 := b.isLt
  subst hb hw
  exact ⟨fld_num g 0 (op * 262144 + a.toNat * 4096 + b.toNat) (by omega) (by decide) (by omega) (by omega),
    fld_num op g (a.toNat * 4096 + b.toNat) (by omega) (by decide) (by omega) (by omega),
    fld_at a (g * 512 + op) (b.toNat) (by decide) (by omega) (by omega),
    fld_at b (g * 8388608 + op * 16384 + a.toNat * 256) (0) (by decide) (by omega) (by omega),
    fld_nil (g * 32768 + op * 64 + a.toNat) (b.toNat) (by decide) (by omega) (by omega),
    endMark_iw (by omega)⟩

theorem layout28 {w : IWord} {base g op : Nat} (a : BitVec 6) (b : BitVec 6) (c : BitVec 4) (hg : g < 16) (ho : op <
      512)
    (hb : base = g * 134217728 + op * 262144)
    (hw : iw (base + a.toNat * 4096 + b.toNat * 64 + c.toNat) = w) :
    group w = g ∧
    (fld w 18 9).toNat = op ∧
    fld w 12 6 = a ∧
    fld w 6 6 = b ∧
    fld w 0 4 = c ∧
    fld w 4 2 = 0#2 ∧
    endMark w = false := by
  have h0 := a.isLt
  have h1 := b.isLt
  have h2 := c.isLt
  subst hb hw
  exact ⟨fld_num g 0 (op * 262144 + a.toNat * 4096 + b.toNat * 64 + c.toNat) (by omega) (by decide) (by omega) (by
      omega),
    fld_num op g (a.toNat * 4096 + b.toNat * 64 + c.toNat) (by omega) (by decide) (by omega) (by omega),
    fld_at a (g * 512 + op) (b.toNat * 64 + c.toNat) (by decide) (by omega) (by omega),
    fld_at b (g * 32768 + op * 64 + a.toNat) (c.toNat) (by decide) (by omega) (by omega),
    fld_at c (g * 8388608 + op * 16384 + a.toNat * 256 + b.toNat * 4) (0) (by decide) (by omega) (by omega),
    fld_nil (g * 2097152 + op * 4096 + a.toNat * 64 + b.toNat) (c.toNat) (by decide) (by omega) (by omega),
    endMark_iw (by omega)⟩

theorem layout29 {w : IWord} {base g op : Nat} (a : BitVec 4) (hg : g < 16) (ho : op < 512)
    (hb : base = g * 134217728 + op * 262144)
    (hw : iw (base + a.toNat) = w) :
    group w = g ∧
    (fld w 18 9).toNat = op ∧
    fld w 0 4 = a ∧
    fld w 4 14 = 0#14 ∧
    endMark w = false := by
  have h0 := a.isLt
  subst hb hw
  exact ⟨fld_num g 0 (op * 262144 + a.toNat) (by omega) (by decide) (by omega) (by omega),
    fld_num op g (a.toNat) (by omega) (by decide) (by omega) (by omega),
    fld_at a (g * 8388608 + op * 16384) (0) (by decide) (by omega) (by omega),
    fld_nil (g * 512 + op) (a.toNat) (by decide) (by omega) (by omega),
    endMark_iw (by omega)⟩

theorem layout30 {w : IWord} {base g op : Nat} (a : BitVec 6) (hg : g < 16) (ho : op < 512)
    (hb : base = g * 134217728 + op * 262144)
    (hw : iw (base + a.toNat * 4096) = w) :
    group w = g ∧
    (fld w 18 9).toNat = op ∧
    fld w 12 6 = a ∧
    fld w 0 12 = 0#12 ∧
    endMark w = false := by
  have h0 := a.isLt
  subst hb hw
  exact ⟨fld_num g 0 (op * 262144 + a.toNat * 4096) (by omega) (by decide) (by omega) (by omega),
    fld_num op g (a.toNat * 4096) (by omega) (by decide) (by omega) (by omega),
    fld_at a (g * 512 + op) (0) (by decide) (by omega) (by omega),
    fld_nil (g * 32768 + op * 64 + a.toNat) (0) (by decide) (by omega) (by omega),
    endMark_iw (by omega)⟩

theorem layout31 {w : IWord} {base g op : Nat} (a : BitVec 6) (b : BitVec 6) (c : BitVec 2) (hg : g < 16) (ho : op <
      512)
    (hb : base = g * 134217728 + op * 262144)
    (hw : iw (base + a.toNat * 4096 + b.toNat * 64 + c.toNat) = w) :
    group w = g ∧
    (fld w 18 9).toNat = op ∧
    fld w 12 6 = a ∧
    fld w 6 6 = b ∧
    fld w 0 2 = c ∧
    fld w 2 4 = 0#4 ∧
    endMark w = false := by
  have h0 := a.isLt
  have h1 := b.isLt
  have h2 := c.isLt
  subst hb hw
  exact ⟨fld_num g 0 (op * 262144 + a.toNat * 4096 + b.toNat * 64 + c.toNat) (by omega) (by decide) (by omega) (by
      omega),
    fld_num op g (a.toNat * 4096 + b.toNat * 64 + c.toNat) (by omega) (by decide) (by omega) (by omega),
    fld_at a (g * 512 + op) (b.toNat * 64 + c.toNat) (by decide) (by omega) (by omega),
    fld_at b (g * 32768 + op * 64 + a.toNat) (c.toNat) (by decide) (by omega) (by omega),
    fld_at c (g * 33554432 + op * 65536 + a.toNat * 1024 + b.toNat * 16) (0) (by decide) (by omega) (by omega),
    fld_nil (g * 2097152 + op * 4096 + a.toNat * 64 + b.toNat) (c.toNat) (by decide) (by omega) (by omega),
    endMark_iw (by omega)⟩

theorem layout32 {w : IWord} {base g op : Nat} (a : BitVec 6) (b : BitVec 5) (hg : g < 16) (ho : op < 512)
    (hb : base = g * 134217728 + op * 262144)
    (hw : iw (base + a.toNat * 4096 + b.toNat) = w) :
    group w = g ∧
    (fld w 18 9).toNat = op ∧
    fld w 12 6 = a ∧
    fld w 0 5 = b ∧
    fld w 5 7 = 0#7 ∧
    endMark w = false := by
  have h0 := a.isLt
  have h1 := b.isLt
  subst hb hw
  exact ⟨fld_num g 0 (op * 262144 + a.toNat * 4096 + b.toNat) (by omega) (by decide) (by omega) (by omega),
    fld_num op g (a.toNat * 4096 + b.toNat) (by omega) (by decide) (by omega) (by omega),
    fld_at a (g * 512 + op) (b.toNat) (by decide) (by omega) (by omega),
    fld_at b (g * 4194304 + op * 8192 + a.toNat * 128) (0) (by decide) (by omega) (by omega),
    fld_nil (g * 32768 + op * 64 + a.toNat) (b.toNat) (by decide) (by omega) (by omega),
    endMark_iw (by omega)⟩

theorem layout33 {w : IWord} {base g op : Nat} (a : BitVec 6) (b : BitVec 6) (c : BitVec 5) (hg : g < 16) (ho : op <
      512)
    (hb : base = g * 134217728 + op * 262144)
    (hw : iw (base + a.toNat * 4096 + b.toNat * 64 + c.toNat) = w) :
    group w = g ∧
    (fld w 18 9).toNat = op ∧
    fld w 12 6 = a ∧
    fld w 6 6 = b ∧
    fld w 0 5 = c ∧
    fld w 5 1 = 0#1 ∧
    endMark w = false := by
  have h0 := a.isLt
  have h1 := b.isLt
  have h2 := c.isLt
  subst hb hw
  exact ⟨fld_num g 0 (op * 262144 + a.toNat * 4096 + b.toNat * 64 + c.toNat) (by omega) (by decide) (by omega) (by
      omega),
    fld_num op g (a.toNat * 4096 + b.toNat * 64 + c.toNat) (by omega) (by decide) (by omega) (by omega),
    fld_at a (g * 512 + op) (b.toNat * 64 + c.toNat) (by decide) (by omega) (by omega),
    fld_at b (g * 32768 + op * 64 + a.toNat) (c.toNat) (by decide) (by omega) (by omega),
    fld_at c (g * 4194304 + op * 8192 + a.toNat * 128 + b.toNat * 2) (0) (by decide) (by omega) (by omega),
    fld_nil (g * 2097152 + op * 4096 + a.toNat * 64 + b.toNat) (c.toNat) (by decide) (by omega) (by omega),
    endMark_iw (by omega)⟩

theorem layout34 {w : IWord} {base g op : Nat} (a : BitVec 3) (b : BitVec 3) (c : BitVec 5) (d : BitVec 5) (e :
      BitVec 5) (hg : g < 16) (ho : op < 64)
    (hb : base = g * 134217728 + op * 2097152)
    (hw : iw (base + a.toNat * 262144 + b.toNat * 32768 + c.toNat * 1024 + d.toNat * 32 + e.toNat) = w) :
    group w = g ∧
    (fld w 21 6).toNat = op ∧
    fld w 18 3 = a ∧
    fld w 15 3 = b ∧
    fld w 10 5 = c ∧
    fld w 5 5 = d ∧
    fld w 0 5 = e ∧
    endMark w = false := by
  have h0 := a.isLt
  have h1 := b.isLt
  have h2 := c.isLt
  have h3 := d.isLt
  have h4 := e.isLt
  subst hb hw
  exact ⟨fld_num g 0 (op * 2097152 + a.toNat * 262144 + b.toNat * 32768 + c.toNat * 1024 + d.toNat * 32 + e.toNat)
      (by omega) (by decide) (by omega) (by omega),
    fld_num op g (a.toNat * 262144 + b.toNat * 32768 + c.toNat * 1024 + d.toNat * 32 + e.toNat) (by omega) (by
      decide) (by omega) (by omega),
    fld_at a (g * 64 + op) (b.toNat * 32768 + c.toNat * 1024 + d.toNat * 32 + e.toNat) (by decide) (by omega) (by
      omega),
    fld_at b (g * 512 + op * 8 + a.toNat) (c.toNat * 1024 + d.toNat * 32 + e.toNat) (by decide) (by omega) (by omega),
    fld_at c (g * 4096 + op * 64 + a.toNat * 8 + b.toNat) (d.toNat * 32 + e.toNat) (by decide) (by omega) (by omega),
    fld_at d (g * 131072 + op * 2048 + a.toNat * 256 + b.toNat * 32 + c.toNat) (e.toNat) (by decide) (by omega) (by
      omega),
    fld_at e (g * 4194304 + op * 65536 + a.toNat * 8192 + b.toNat * 1024 + c.toNat * 32 + d.toNat) (0) (by decide)
      (by omega) (by omega),
    endMark_iw (by omega)⟩

theorem layout35 {w : IWord} {base g op : Nat} (a : BitVec 3) (b : BitVec 3) (c : BitVec 5) (d : BitVec 5) (hg : g <
      16) (ho : op < 64)
    (hb : base = g * 134217728 + op * 2097152)
    (hw : iw (base + a.toNat * 262144 + b.toNat * 32768 + c.toNat * 1024 + d.toNat * 32) = w) :
    group w = g ∧
    (fld w 21 6).toNat = op ∧
    fld w 18 3 = a ∧
    fld w 15 3 = b ∧
    fld w 10 5 = c ∧
    fld w 5 5 = d ∧
    fld w 0 5 = 0#5 ∧
    endMark w = false := by
  have h0 := a.isLt
  have h1 := b.isLt
  have h2 := c.isLt
  have h3 := d.isLt
  subst hb hw
  exact ⟨fld_num g 0 (op * 2097152 + a.toNat * 262144 + b.toNat * 32768 + c.toNat * 1024 + d.toNat * 32) (by omega)
      (by decide) (by omega) (by omega),
    fld_num op g (a.toNat * 262144 + b.toNat * 32768 + c.toNat * 1024 + d.toNat * 32) (by omega) (by decide) (by
      omega) (by omega),
    fld_at a (g * 64 + op) (b.toNat * 32768 + c.toNat * 1024 + d.toNat * 32) (by decide) (by omega) (by omega),
    fld_at b (g * 512 + op * 8 + a.toNat) (c.toNat * 1024 + d.toNat * 32) (by decide) (by omega) (by omega),
    fld_at c (g * 4096 + op * 64 + a.toNat * 8 + b.toNat) (d.toNat * 32) (by decide) (by omega) (by omega),
    fld_at d (g * 131072 + op * 2048 + a.toNat * 256 + b.toNat * 32 + c.toNat) (0) (by decide) (by omega) (by omega),
    fld_nil (g * 4194304 + op * 65536 + a.toNat * 8192 + b.toNat * 1024 + c.toNat * 32 + d.toNat) (0) (by decide) (by
      omega) (by omega),
    endMark_iw (by omega)⟩

theorem layout36 {w : IWord} {base g op : Nat} (a : BitVec 3) (b : BitVec 3) (c : BitVec 5) (d : BitVec 5) (e :
      BitVec 2) (f : BitVec 3) (hg : g < 16) (ho : op < 64)
    (hb : base = g * 134217728 + op * 2097152)
    (hw : iw (base + a.toNat * 262144 + b.toNat * 32768 + c.toNat * 1024 + d.toNat * 32 + e.toNat * 8 + f.toNat) = w)
      :
    group w = g ∧
    (fld w 21 6).toNat = op ∧
    fld w 18 3 = a ∧
    fld w 15 3 = b ∧
    fld w 10 5 = c ∧
    fld w 5 5 = d ∧
    fld w 3 2 = e ∧
    fld w 0 3 = f ∧
    endMark w = false := by
  have h0 := a.isLt
  have h1 := b.isLt
  have h2 := c.isLt
  have h3 := d.isLt
  have h4 := e.isLt
  have h5 := f.isLt
  subst hb hw
  exact ⟨fld_num g 0 (op * 2097152 + a.toNat * 262144 + b.toNat * 32768 + c.toNat * 1024 + d.toNat * 32 + e.toNat * 8
      + f.toNat) (by omega) (by decide) (by omega) (by omega),
    fld_num op g (a.toNat * 262144 + b.toNat * 32768 + c.toNat * 1024 + d.toNat * 32 + e.toNat * 8 + f.toNat) (by
      omega) (by decide) (by omega) (by omega),
    fld_at a (g * 64 + op) (b.toNat * 32768 + c.toNat * 1024 + d.toNat * 32 + e.toNat * 8 + f.toNat) (by decide) (by
      omega) (by omega),
    fld_at b (g * 512 + op * 8 + a.toNat) (c.toNat * 1024 + d.toNat * 32 + e.toNat * 8 + f.toNat) (by decide) (by
      omega) (by omega),
    fld_at c (g * 4096 + op * 64 + a.toNat * 8 + b.toNat) (d.toNat * 32 + e.toNat * 8 + f.toNat) (by decide) (by
      omega) (by omega),
    fld_at d (g * 131072 + op * 2048 + a.toNat * 256 + b.toNat * 32 + c.toNat) (e.toNat * 8 + f.toNat) (by decide)
      (by omega) (by omega),
    fld_at e (g * 4194304 + op * 65536 + a.toNat * 8192 + b.toNat * 1024 + c.toNat * 32 + d.toNat) (f.toNat) (by
      decide) (by omega) (by omega),
    fld_at f (g * 16777216 + op * 262144 + a.toNat * 32768 + b.toNat * 4096 + c.toNat * 128 + d.toNat * 4 + e.toNat)
      (0) (by decide) (by omega) (by omega),
    endMark_iw (by omega)⟩

theorem layout37 {w : IWord} {base g op : Nat} (a : BitVec 3) (b : BitVec 5) (c : BitVec 5) (d : BitVec 5) (hg : g <
      16) (ho : op < 64)
    (hb : base = g * 134217728 + op * 2097152)
    (hw : iw (base + a.toNat * 262144 + b.toNat * 1024 + c.toNat * 32 + d.toNat) = w) :
    group w = g ∧
    (fld w 21 6).toNat = op ∧
    fld w 18 3 = a ∧
    fld w 10 5 = b ∧
    fld w 5 5 = c ∧
    fld w 0 5 = d ∧
    fld w 15 3 = 0#3 ∧
    endMark w = false := by
  have h0 := a.isLt
  have h1 := b.isLt
  have h2 := c.isLt
  have h3 := d.isLt
  subst hb hw
  exact ⟨fld_num g 0 (op * 2097152 + a.toNat * 262144 + b.toNat * 1024 + c.toNat * 32 + d.toNat) (by omega) (by
      decide) (by omega) (by omega),
    fld_num op g (a.toNat * 262144 + b.toNat * 1024 + c.toNat * 32 + d.toNat) (by omega) (by decide) (by omega) (by
      omega),
    fld_at a (g * 64 + op) (b.toNat * 1024 + c.toNat * 32 + d.toNat) (by decide) (by omega) (by omega),
    fld_at b (g * 4096 + op * 64 + a.toNat * 8) (c.toNat * 32 + d.toNat) (by decide) (by omega) (by omega),
    fld_at c (g * 131072 + op * 2048 + a.toNat * 256 + b.toNat) (d.toNat) (by decide) (by omega) (by omega),
    fld_at d (g * 4194304 + op * 65536 + a.toNat * 8192 + b.toNat * 32 + c.toNat) (0) (by decide) (by omega) (by
      omega),
    fld_nil (g * 512 + op * 8 + a.toNat) (b.toNat * 1024 + c.toNat * 32 + d.toNat) (by decide) (by omega) (by omega),
    endMark_iw (by omega)⟩

theorem layout38 {w : IWord} {base g op : Nat} (a : BitVec 3) (b : BitVec 3) (c : BitVec 5) (hg : g < 16) (ho : op <
      64)
    (hb : base = g * 134217728 + op * 2097152)
    (hw : iw (base + a.toNat * 262144 + b.toNat * 32768 + c.toNat * 1024) = w) :
    group w = g ∧
    (fld w 21 6).toNat = op ∧
    fld w 18 3 = a ∧
    fld w 15 3 = b ∧
    fld w 10 5 = c ∧
    fld w 0 10 = 0#10 ∧
    endMark w = false := by
  have h0 := a.isLt
  have h1 := b.isLt
  have h2 := c.isLt
  subst hb hw
  exact ⟨fld_num g 0 (op * 2097152 + a.toNat * 262144 + b.toNat * 32768 + c.toNat * 1024) (by omega) (by decide) (by
      omega) (by omega),
    fld_num op g (a.toNat * 262144 + b.toNat * 32768 + c.toNat * 1024) (by omega) (by decide) (by omega) (by omega),
    fld_at a (g * 64 + op) (b.toNat * 32768 + c.toNat * 1024) (by decide) (by omega) (by omega),
    fld_at b (g * 512 + op * 8 + a.toNat) (c.toNat * 1024) (by decide) (by omega) (by omega),
    fld_at c (g * 4096 + op * 64 + a.toNat * 8 + b.toNat) (0) (by decide) (by omega) (by omega),
    fld_nil (g * 131072 + op * 2048 + a.toNat * 256 + b.toNat * 32 + c.toNat) (0) (by decide) (by omega) (by omega),
    endMark_iw (by omega)⟩

theorem layout39 {w : IWord} {base g op : Nat} (a : BitVec 5) (b : BitVec 5) (c : BitVec 5) (hg : g < 16) (ho : op <
      64)
    (hb : base = g * 134217728 + op * 2097152)
    (hw : iw (base + a.toNat * 1024 + b.toNat * 32 + c.toNat) = w) :
    group w = g ∧
    (fld w 21 6).toNat = op ∧
    fld w 10 5 = a ∧
    fld w 5 5 = b ∧
    fld w 0 5 = c ∧
    fld w 15 6 = 0#6 ∧
    endMark w = false := by
  have h0 := a.isLt
  have h1 := b.isLt
  have h2 := c.isLt
  subst hb hw
  exact ⟨fld_num g 0 (op * 2097152 + a.toNat * 1024 + b.toNat * 32 + c.toNat) (by omega) (by decide) (by omega) (by
      omega),
    fld_num op g (a.toNat * 1024 + b.toNat * 32 + c.toNat) (by omega) (by decide) (by omega) (by omega),
    fld_at a (g * 4096 + op * 64) (b.toNat * 32 + c.toNat) (by decide) (by omega) (by omega),
    fld_at b (g * 131072 + op * 2048 + a.toNat) (c.toNat) (by decide) (by omega) (by omega),
    fld_at c (g * 4194304 + op * 65536 + a.toNat * 32 + b.toNat) (0) (by decide) (by omega) (by omega),
    fld_nil (g * 64 + op) (a.toNat * 1024 + b.toNat * 32 + c.toNat) (by decide) (by omega) (by omega),
    endMark_iw (by omega)⟩

theorem layout40 {w : IWord} {base g op : Nat} (a : BitVec 5) (b : BitVec 5) (hg : g < 16) (ho : op < 64)
    (hb : base = g * 134217728 + op * 2097152)
    (hw : iw (base + a.toNat * 1024 + b.toNat * 32) = w) :
    group w = g ∧
    (fld w 21 6).toNat = op ∧
    fld w 10 5 = a ∧
    fld w 5 5 = b ∧
    fld w 0 5 = 0#5 ∧
    fld w 15 6 = 0#6 ∧
    endMark w = false := by
  have h0 := a.isLt
  have h1 := b.isLt
  subst hb hw
  exact ⟨fld_num g 0 (op * 2097152 + a.toNat * 1024 + b.toNat * 32) (by omega) (by decide) (by omega) (by omega),
    fld_num op g (a.toNat * 1024 + b.toNat * 32) (by omega) (by decide) (by omega) (by omega),
    fld_at a (g * 4096 + op * 64) (b.toNat * 32) (by decide) (by omega) (by omega),
    fld_at b (g * 131072 + op * 2048 + a.toNat) (0) (by decide) (by omega) (by omega),
    fld_nil (g * 4194304 + op * 65536 + a.toNat * 32 + b.toNat) (0) (by decide) (by omega) (by omega),
    fld_nil (g * 64 + op) (a.toNat * 1024 + b.toNat * 32) (by decide) (by omega) (by omega),
    endMark_iw (by omega)⟩

theorem layout41 {w : IWord} {base g op : Nat} (a : BitVec 3) (b : BitVec 5) (c : BitVec 5) (hg : g < 16) (ho : op <
      64)
    (hb : base = g * 134217728 + op * 2097152)
    (hw : iw (base + a.toNat * 262144 + b.toNat * 1024 + c.toNat * 32) = w) :
    group w = g ∧
    (fld w 21 6).toNat = op ∧
    fld w 18 3 = a ∧
    fld w 10 5 = b ∧
    fld w 5 5 = c ∧
    fld w 0 5 = 0#5 ∧
    fld w 15 3 = 0#3 ∧
    endMark w = false := by
  have h0 := a.isLt
  have h1 := b.isLt
  have h2 := c.isLt
  subst hb hw
  exact ⟨fld_num g 0 (op * 2097152 + a.toNat * 262144 + b.toNat * 1024 + c.toNat * 32) (by omega) (by decide) (by
      omega) (by omega),
    fld_num op g (a.toNat * 262144 + b.toNat * 1024 + c.toNat * 32) (by omega) (by decide) (by omega) (by omega),
    fld_at a (g * 64 + op) (b.toNat * 1024 + c.toNat * 32) (by decide) (by omega) (by omega),
    fld_at b (g * 4096 + op * 64 + a.toNat * 8) (c.toNat * 32) (by decide) (by omega) (by omega),
    fld_at c (g * 131072 + op * 2048 + a.toNat * 256 + b.toNat) (0) (by decide) (by omega) (by omega),
    fld_nil (g * 4194304 + op * 65536 + a.toNat * 8192 + b.toNat * 32 + c.toNat) (0) (by decide) (by omega) (by
      omega),
    fld_nil (g * 512 + op * 8 + a.toNat) (b.toNat * 1024 + c.toNat * 32) (by decide) (by omega) (by omega),
    endMark_iw (by omega)⟩

theorem layout42 {w : IWord} {base g op : Nat} (a : BitVec 5) (hg : g < 16) (ho : op < 64)
    (hb : base = g * 134217728 + op * 2097152)
    (hw : iw (base + a.toNat * 1024) = w) :
    group w = g ∧
    (fld w 21 6).toNat = op ∧
    fld w 10 5 = a ∧
    fld w 0 10 = 0#10 ∧
    fld w 15 6 = 0#6 ∧
    endMark w = false := by
  have h0 := a.isLt
  subst hb hw
  exact ⟨fld_num g 0 (op * 2097152 + a.toNat * 1024) (by omega) (by decide) (by omega) (by omega),
    fld_num op g (a.toNat * 1024) (by omega) (by decide) (by omega) (by omega),
    fld_at a (g * 4096 + op * 64) (0) (by decide) (by omega) (by omega),
    fld_nil (g * 131072 + op * 2048 + a.toNat) (0) (by decide) (by omega) (by omega),
    fld_nil (g * 64 + op) (a.toNat * 1024) (by decide) (by omega) (by omega),
    endMark_iw (by omega)⟩

theorem layout43 {w : IWord} {base g op : Nat} (a : BitVec 3) (b : BitVec 3) (c : BitVec 5) (d : BitVec 5) (hg : g <
      16) (ho : op < 32)
    (hb : base = g * 134217728 + op * 4194304)
    (hw : iw (base + a.toNat * 524288 + b.toNat * 65536 + c.toNat * 2048 + d.toNat * 64) = w) :
    group w = g ∧
    (fld w 22 5).toNat = op ∧
    fld w 19 3 = a ∧
    fld w 16 3 = b ∧
    fld w 11 5 = c ∧
    fld w 6 5 = d ∧
    fld w 0 6 = 0#6 ∧
    endMark w = false := by
  have h0 := a.isLt
  have h1 := b.isLt
  have h2 := c.isLt
  have h3 := d.isLt
  subst hb hw
  exact ⟨fld_num g 0 (op * 4194304 + a.toNat * 524288 + b.toNat * 65536 + c.toNat * 2048 + d.toNat * 64) (by omega)
      (by decide) (by omega) (by omega),
    fld_num op g (a.toNat * 524288 + b.toNat * 65536 + c.toNat * 2048 + d.toNat * 64) (by omega) (by decide) (by
      omega) (by omega),
    fld_at a (g * 32 + op) (b.toNat * 65536 + c.toNat * 2048 + d.toNat * 64) (by decide) (by omega) (by omega),
    fld_at b (g * 256 + op * 8 + a.toNat) (c.toNat * 2048 + d.toNat * 64) (by decide) (by omega) (by omega),
    fld_at c (g * 2048 + op * 64 + a.toNat * 8 + b.toNat) (d.toNat * 64) (by decide) (by omega) (by omega),
    fld_at d (g * 65536 + op * 2048 + a.toNat * 256 + b.toNat * 32 + c.toNat) (0) (by decide) (by omega) (by omega),
    fld_nil (g * 2097152 + op * 65536 + a.toNat * 8192 + b.toNat * 1024 + c.toNat * 32 + d.toNat) (0) (by decide) (by
      omega) (by omega),
    endMark_iw (by omega)⟩

theorem layout44 {w : IWord} {base g op : Nat} (a : BitVec 3) (b : BitVec 3) (c : BitVec 5) (d : BitVec 5) (e :
      BitVec 5) (hg : g < 16) (ho : op < 32)
    (hb : base = g * 134217728 + op * 4194304)
    (hw : iw (base + a.toNat * 524288 + b.toNat * 65536 + c.toNat * 2048 + d.toNat * 64 + e.toNat * 2) = w) :
    group w = g ∧
    (fld w 22 5).toNat = op ∧
    fld w 19 3 = a ∧
    fld w 16 3 = b ∧
    fld w 11 5 = c ∧
    fld w 6 5 = d ∧
    fld w 1 5 = e ∧
    fld w 0 1 = 0#1 ∧
    endMark w = false := by
  have h0 := a.isLt
  have h1 := b.isLt
  have h2 := c.isLt
  have h3 := d.isLt
  have h4 := e.isLt
  subst hb hw
  exact ⟨fld_num g 0 (op * 4194304 + a.toNat * 524288 + b.toNat * 65536 + c.toNat * 2048 + d.toNat * 64 + e.toNat *
      2) (by omega) (by decide) (by omega) (by omega),
    fld_num op g (a.toNat * 524288 + b.toNat * 65536 + c.toNat * 2048 + d.toNat * 64 + e.toNat * 2) (by omega) (by
      decide) (by omega) (by omega),
    fld_at a (g * 32 + op) (b.toNat * 65536 + c.toNat * 2048 + d.toNat * 64 + e.toNat * 2) (by decide) (by omega) (by
      omega),
    fld_at b (g * 256 + op * 8 + a.toNat) (c.toNat * 2048 + d.toNat * 64 + e.toNat * 2) (by decide) (by omega) (by
      omega),
    fld_at c (g * 2048 + op * 64 + a.toNat * 8 + b.toNat) (d.toNat * 64 + e.toNat * 2) (by decide) (by omega) (by
      omega),
    fld_at d (g * 65536 + op * 2048 + a.toNat * 256 + b.toNat * 32 + c.toNat) (e.toNat * 2) (by decide) (by omega)
      (by omega),
    fld_at e (g * 2097152 + op * 65536 + a.toNat * 8192 + b.toNat * 1024 + c.toNat * 32 + d.toNat) (0) (by decide)
      (by omega) (by omega),
    fld_nil (g * 67108864 + op * 2097152 + a.toNat * 262144 + b.toNat * 32768 + c.toNat * 1024 + d.toNat * 32 +
      e.toNat) (0) (by decide) (by omega) (by omega),
    endMark_iw (by omega)⟩

theorem layout45 {w : IWord} {base g op : Nat} (a : BitVec 6) (b : BitVec 6) (c : BitVec 10) (hg : g < 16) (ho : op <
      32)
    (hb : base = g * 134217728 + op * 4194304)
    (hw : iw (base + a.toNat * 65536 + b.toNat * 1024 + c.toNat) = w) :
    group w = g ∧
    (fld w 22 5).toNat = op ∧
    fld w 16 6 = a ∧
    fld w 10 6 = b ∧
    fld w 0 10 = c ∧
    endMark w = false := by
  have h0 := a.isLt
  have h1 := b.isLt
  have h2 := c.isLt
  subst hb hw
  exact ⟨fld_num g 0 (op * 4194304 + a.toNat * 65536 + b.toNat * 1024 + c.toNat) (by omega) (by decide) (by omega)
      (by omega),
    fld_num op g (a.toNat * 65536 + b.toNat * 1024 + c.toNat) (by omega) (by decide) (by omega) (by omega),
    fld_at a (g * 32 + op) (b.toNat * 1024 + c.toNat) (by decide) (by omega) (by omega),
    fld_at b (g * 2048 + op * 64 + a.toNat) (c.toNat) (by decide) (by omega) (by omega),
    fld_at c (g * 131072 + op * 4096 + a.toNat * 64 + b.toNat) (0) (by decide) (by omega) (by omega),
    endMark_iw (by omega)⟩

theorem layout46 {w : IWord} {base g op : Nat} (a : BitVec 5) (b : BitVec 6) (c : BitVec 10) (hg : g < 16) (ho : op <
      32)
    (hb : base = g * 134217728 + op * 4194304)
    (hw : iw (base + a.toNat * 65536 + b.toNat * 1024 + c.toNat) = w) :
    group w = g ∧
    (fld w 22 5).toNat = op ∧
    fld w 16 5 = a ∧
    fld w 10 6 = b ∧
    fld w 0 10 = c ∧
    fld w 21 1 = 0#1 ∧
    endMark w = false := by
  have h0 := a.isLt
  have h1 := b.isLt
  have h2 := c.isLt
  subst hb hw
  exact ⟨fld_num g 0 (op * 4194304 + a.toNat * 65536 + b.toNat * 1024 + c.toNat) (by omega) (by decide) (by omega)
      (by omega),
    fld_num op g (a.toNat * 65536 + b.toNat * 1024 + c.toNat) (by omega) (by decide) (by omega) (by omega),
    fld_at a (g * 64 + op * 2) (b.toNat * 1024 + c.toNat) (by decide) (by omega) (by omega),
    fld_at b (g * 2048 + op * 64 + a.toNat) (c.toNat) (by decide) (by omega) (by omega),
    fld_at c (g * 131072 + op * 4096 + a.toNat * 64 + b.toNat) (0) (by decide) (by omega) (by omega),
    fld_nil (g * 32 + op) (a.toNat * 65536 + b.toNat * 1024 + c.toNat) (by decide) (by omega) (by omega),
    endMark_iw (by omega)⟩

theorem layout47 {w : IWord} {base g op : Nat} (a : BitVec 3) (b : BitVec 6) (c : BitVec 10) (hg : g < 16) (ho : op <
      32)
    (hb : base = g * 134217728 + op * 4194304)
    (hw : iw (base + a.toNat * 65536 + b.toNat * 1024 + c.toNat) = w) :
    group w = g ∧
    (fld w 22 5).toNat = op ∧
    fld w 16 3 = a ∧
    fld w 10 6 = b ∧
    fld w 0 10 = c ∧
    fld w 19 3 = 0#3 ∧
    endMark w = false := by
  have h0 := a.isLt
  have h1 := b.isLt
  have h2 := c.isLt
  subst hb hw
  exact ⟨fld_num g 0 (op * 4194304 + a.toNat * 65536 + b.toNat * 1024 + c.toNat) (by omega) (by decide) (by omega)
      (by omega),
    fld_num op g (a.toNat * 65536 + b.toNat * 1024 + c.toNat) (by omega) (by decide) (by omega) (by omega),
    fld_at a (g * 256 + op * 8) (b.toNat * 1024 + c.toNat) (by decide) (by omega) (by omega),
    fld_at b (g * 2048 + op * 64 + a.toNat) (c.toNat) (by decide) (by omega) (by omega),
    fld_at c (g * 131072 + op * 4096 + a.toNat * 64 + b.toNat) (0) (by decide) (by omega) (by omega),
    fld_nil (g * 32 + op) (a.toNat * 65536 + b.toNat * 1024 + c.toNat) (by decide) (by omega) (by omega),
    endMark_iw (by omega)⟩

theorem layout48 {w : IWord} {base g op : Nat} (a : BitVec 6) (b : BitVec 6) (c : BitVec 6) (d : BitVec 3) (e :
      BitVec 1) (hg : g < 16) (ho : op < 32)
    (hb : base = g * 134217728 + op * 4194304)
    (hw : iw (base + a.toNat * 65536 + b.toNat * 1024 + c.toNat * 16 + d.toNat * 2 + e.toNat) = w) :
    group w = g ∧
    (fld w 22 5).toNat = op ∧
    fld w 16 6 = a ∧
    fld w 10 6 = b ∧
    fld w 4 6 = c ∧
    fld w 1 3 = d ∧
    fld w 0 1 = e ∧
    endMark w = false := by
  have h0 := a.isLt
  have h1 := b.isLt
  have h2 := c.isLt
  have h3 := d.isLt
  have h4 := e.isLt
  subst hb hw
  exact ⟨fld_num g 0 (op * 4194304 + a.toNat * 65536 + b.toNat * 1024 + c.toNat * 16 + d.toNat * 2 + e.toNat) (by
      omega) (by decide) (by omega) (by omega),
    fld_num op g (a.toNat * 65536 + b.toNat * 1024 + c.toNat * 16 + d.toNat * 2 + e.toNat) (by omega) (by decide) (by
      omega) (by omega),
    fld_at a (g * 32 + op) (b.toNat * 1024 + c.toNat * 16 + d.toNat * 2 + e.toNat) (by decide) (by omega) (by omega),
    fld_at b (g * 2048 + op * 64 + a.toNat) (c.toNat * 16 + d.toNat * 2 + e.toNat) (by decide) (by omega) (by omega),
    fld_at c (g * 131072 + op * 4096 + a.toNat * 64 + b.toNat) (d.toNat * 2 + e.toNat) (by decide) (by omega) (by
      omega),
    fld_at d (g * 8388608 + op * 262144 + a.toNat * 4096 + b.toNat * 64 + c.toNat) (e.toNat) (by decide) (by omega)
      (by omega),
    fld_at e (g * 67108864 + op * 2097152 + a.toNat * 32768 + b.toNat * 512 + c.toNat * 8 + d.toNat) (0) (by decide)
      (by omega) (by omega),
    endMark_iw (by omega)⟩

theorem layout49 {w : IWord} {base g op : Nat} (a : BitVec 6) (b : BitVec 6) (c : BitVec 3) (hg : g < 16) (ho : op <
      32)
    (hb : base = g * 134217728 + op * 4194304)
    (hw : iw (base + a.toNat * 65536 + b.toNat * 1024 + c.toNat * 2) = w) :
    group w = g ∧
    (fld w 22 5).toNat = op ∧
    fld w 16 6 = a ∧
    fld w 10 6 = b ∧
    fld w 1 3 = c ∧
    fld w 0 1 = 0#1 ∧
    fld w 4 6 = 0#6 ∧
    endMark w = false := by
  have h0 := a.isLt
  have h1 := b.isLt
  have h2 := c.isLt
  subst hb hw
  exact ⟨fld_num g 0 (op * 4194304 + a.toNat * 65536 + b.toNat * 1024 + c.toNat * 2) (by omega) (by decide) (by
      omega) (by omega),
    fld_num op g (a.toNat * 65536 + b.toNat * 1024 + c.toNat * 2) (by omega) (by decide) (by omega) (by omega),
    fld_at a (g * 32 + op) (b.toNat * 1024 + c.toNat * 2) (by decide) (by omega) (by omega),
    fld_at b (g * 2048 + op * 64 + a.toNat) (c.toNat * 2) (by decide) (by omega) (by omega),
    fld_at c (g * 8388608 + op * 262144 + a.toNat * 4096 + b.toNat * 64) (0) (by decide) (by omega) (by omega),
    fld_nil (g * 67108864 + op * 2097152 + a.toNat * 32768 + b.toNat * 512 + c.toNat) (0) (by decide) (by omega) (by
      omega),
    fld_nil (g * 131072 + op * 4096 + a.toNat * 64 + b.toNat) (c.toNat * 2) (by decide) (by omega) (by omega),
    endMark_iw (by omega)⟩

theorem layout50 {w : IWord} {base g op : Nat} (a : BitVec 6) (b : BitVec 6) (c : BitVec 3) (hg : g < 16) (ho : op <
      32)
    (hb : base = g * 134217728 + op * 4194304)
    (hw : iw (base + a.toNat * 1024 + b.toNat * 16 + c.toNat * 2) = w) :
    group w = g ∧
    (fld w 22 5).toNat = op ∧
    fld w 10 6 = a ∧
    fld w 4 6 = b ∧
    fld w 1 3 = c ∧
    fld w 0 1 = 0#1 ∧
    fld w 16 6 = 0#6 ∧
    endMark w = false := by
  have h0 := a.isLt
  have h1 := b.isLt
  have h2 := c.isLt
  subst hb hw
  exact ⟨fld_num g 0 (op * 4194304 + a.toNat * 1024 + b.toNat * 16 + c.toNat * 2) (by omega) (by decide) (by omega)
      (by omega),
    fld_num op g (a.toNat * 1024 + b.toNat * 16 + c.toNat * 2) (by omega) (by decide) (by omega) (by omega),
    fld_at a (g * 2048 + op * 64) (b.toNat * 16 + c.toNat * 2) (by decide) (by omega) (by omega),
    fld_at b (g * 131072 + op * 4096 + a.toNat) (c.toNat * 2) (by decide) (by omega) (by omega),
    fld_at c (g * 8388608 + op * 262144 + a.toNat * 64 + b.toNat) (0) (by decide) (by omega) (by omega),
    fld_nil (g * 67108864 + op * 2097152 + a.toNat * 512 + b.toNat * 8 + c.toNat) (0) (by decide) (by omega) (by
      omega),
    fld_nil (g * 32 + op) (a.toNat * 1024 + b.toNat * 16 + c.toNat * 2) (by decide) (by omega) (by omega),
    endMark_iw (by omega)⟩

theorem layout51 {w : IWord} {base g op : Nat} (a : BitVec 6) (b : BitVec 4) (c : BitVec 3) (hg : g < 16) (ho : op <
      64)
    (hb : base = g * 134217728 + op * 2097152)
    (hw : iw (base + a.toNat * 32768 + b.toNat * 8 + c.toNat) = w) :
    group w = g ∧
    (fld w 21 6).toNat = op ∧
    fld w 15 6 = a ∧
    fld w 3 4 = b ∧
    fld w 0 3 = c ∧
    fld w 7 8 = 0#8 ∧
    endMark w = false := by
  have h0 := a.isLt
  have h1 := b.isLt
  have h2 := c.isLt
  subst hb hw
  exact ⟨fld_num g 0 (op * 2097152 + a.toNat * 32768 + b.toNat * 8 + c.toNat) (by omega) (by decide) (by omega) (by
      omega),
    fld_num op g (a.toNat * 32768 + b.toNat * 8 + c.toNat) (by omega) (by decide) (by omega) (by omega),
    fld_at a (g * 64 + op) (b.toNat * 8 + c.toNat) (by decide) (by omega) (by omega),
    fld_at b (g * 1048576 + op * 16384 + a.toNat * 256) (c.toNat) (by decide) (by omega) (by omega),
    fld_at c (g * 16777216 + op * 262144 + a.toNat * 4096 + b.toNat) (0) (by decide) (by omega) (by omega),
    fld_nil (g * 4096 + op * 64 + a.toNat) (b.toNat * 8 + c.toNat) (by decide) (by omega) (by omega),
    endMark_iw (by omega)⟩

theorem layout52 {w : IWord} {base g op : Nat} (a : BitVec 6) (b : BitVec 5) (hg : g < 16) (ho : op < 64)
    (hb : base = g * 134217728 + op * 2097152)
    (hw : iw (base + a.toNat * 32768 + b.toNat) = w) :
    group w = g ∧
    (fld w 21 6).toNat = op ∧
    fld w 15 6 = a ∧
    fld w 0 5 = b ∧
    fld w 5 10 = 0#10 ∧
    endMark w = false := by
  have h0 := a.isLt
  have h1 := b.isLt
  subst hb hw
  exact ⟨fld_num g 0 (op * 2097152 + a.toNat * 32768 + b.toNat) (by omega) (by decide) (by omega) (by omega),
    fld_num op g (a.toNat * 32768 + b.toNat) (by omega) (by decide) (by omega) (by omega),
    fld_at a (g * 64 + op) (b.toNat) (by decide) (by omega) (by omega),
    fld_at b (g * 4194304 + op * 65536 + a.toNat * 1024) (0) (by decide) (by omega) (by omega),
    fld_nil (g * 4096 + op * 64 + a.toNat) (b.toNat) (by decide) (by omega) (by omega),
    endMark_iw (by omega)⟩

theorem layout53 {w : IWord} {base g op : Nat} (a : BitVec 6) (b : BitVec 3) (c : BitVec 5) (hg : g < 16) (ho : op <
      64)
    (hb : base = g * 134217728 + op * 2097152)
    (hw : iw (base + a.toNat * 32768 + b.toNat * 32 + c.toNat) = w) :
    group w = g ∧
    (fld w 21 6).toNat = op ∧
    fld w 15 6 = a ∧
    fld w 5 3 = b ∧
    fld w 0 5 = c ∧
    fld w 8 7 = 0#7 ∧
    endMark w = false := by
  have h0 := a.isLt
  have h1 := b.isLt
  have h2 := c.isLt
  subst hb hw
  exact ⟨fld_num g 0 (op * 2097152 + a.toNat * 32768 + b.toNat * 32 + c.toNat) (by omega) (by decide) (by omega) (by
      omega),
    fld_num op g (a.toNat * 32768 + b.toNat * 32 + c.toNat) (by omega) (by decide) (by omega) (by omega),
    fld_at a (g * 64 + op) (b.toNat * 32 + c.toNat) (by decide) (by omega) (by omega),
    fld_at b (g * 524288 + op * 8192 + a.toNat * 128) (c.toNat) (by decide) (by omega) (by omega),
    fld_at c (g * 4194304 + op * 65536 + a.toNat * 1024 + b.toNat) (0) (by decide) (by omega) (by omega),
    fld_nil (g * 4096 + op * 64 + a.toNat) (b.toNat * 32 + c.toNat) (by decide) (by omega) (by omega),
    endMark_iw (by omega)⟩

theorem layout54 {w : IWord} {base g op : Nat} (a : BitVec 6) (b : BitVec 3) (hg : g < 16) (ho : op < 64)
    (hb : base = g * 134217728 + op * 2097152)
    (hw : iw (base + a.toNat * 32768 + b.toNat * 32) = w) :
    group w = g ∧
    (fld w 21 6).toNat = op ∧
    fld w 15 6 = a ∧
    fld w 5 3 = b ∧
    fld w 0 5 = 0#5 ∧
    fld w 8 7 = 0#7 ∧
    endMark w = false := by
  have h0 := a.isLt
  have h1 := b.isLt
  subst hb hw
  exact ⟨fld_num g 0 (op * 2097152 + a.toNat * 32768 + b.toNat * 32) (by omega) (by decide) (by omega) (by omega),
    fld_num op g (a.toNat * 32768 + b.toNat * 32) (by omega) (by decide) (by omega) (by omega),
    fld_at a (g * 64 + op) (b.toNat * 32) (by decide) (by omega) (by omega),
    fld_at b (g * 524288 + op * 8192 + a.toNat * 128) (0) (by decide) (by omega) (by omega),
    fld_nil (g * 4194304 + op * 65536 + a.toNat * 1024 + b.toNat) (0) (by decide) (by omega) (by omega),
    fld_nil (g * 4096 + op * 64 + a.toNat) (b.toNat * 32) (by decide) (by omega) (by omega),
    endMark_iw (by omega)⟩

theorem layout55 {w : IWord} {base g op : Nat} (a : BitVec 3) (hg : g < 16) (ho : op < 64)
    (hb : base = g * 134217728 + op * 2097152)
    (hw : iw (base + a.toNat) = w) :
    group w = g ∧
    (fld w 21 6).toNat = op ∧
    fld w 0 3 = a ∧
    fld w 3 18 = 0#18 ∧
    endMark w = false := by
  have h0 := a.isLt
  subst hb hw
  exact ⟨fld_num g 0 (op * 2097152 + a.toNat) (by omega) (by decide) (by omega) (by omega),
    fld_num op g (a.toNat) (by omega) (by decide) (by omega) (by omega),
    fld_at a (g * 16777216 + op * 262144) (0) (by decide) (by omega) (by omega),
    fld_nil (g * 64 + op) (a.toNat) (by decide) (by omega) (by omega),
    endMark_iw (by omega)⟩

theorem layout56 {w : IWord} {base g op : Nat} (a : BitVec 6) (b : BitVec 5) (c : BitVec 5) (hg : g < 16) (ho : op <
      64)
    (hb : base = g * 134217728 + op * 2097152)
    (hw : iw (base + a.toNat * 32768 + b.toNat * 512 + c.toNat) = w) :
    group w = g ∧
    (fld w 21 6).toNat = op ∧
    fld w 15 6 = a ∧
    fld w 9 5 = b ∧
    fld w 0 5 = c ∧
    fld w 5 4 = 0#4 ∧
    fld w 14 1 = 0#1 ∧
    endMark w = false := by
  have h0 := a.isLt
  have h1 := b.isLt
  have h2 := c.isLt
  subst hb hw
  exact ⟨fld_num g 0 (op * 2097152 + a.toNat * 32768 + b.toNat * 512 + c.toNat) (by omega) (by decide) (by omega) (by
      omega),
    fld_num op g (a.toNat * 32768 + b.toNat * 512 + c.toNat) (by omega) (by decide) (by omega) (by omega),
    fld_at a (g * 64 + op) (b.toNat * 512 + c.toNat) (by decide) (by omega) (by omega),
    fld_at b (g * 8192 + op * 128 + a.toNat * 2) (c.toNat) (by decide) (by omega) (by omega),
    fld_at c (g * 4194304 + op * 65536 + a.toNat * 1024 + b.toNat * 16) (0) (by decide) (by omega) (by omega),
    fld_nil (g * 262144 + op * 4096 + a.toNat * 64 + b.toNat) (c.toNat) (by decide) (by omega) (by omega),
    fld_nil (g * 4096 + op * 64 + a.toNat) (b.toNat * 512 + c.toNat) (by decide) (by omega) (by omega),
    endMark_iw (by omega)⟩

theorem layout57 {w : IWord} {base g op : Nat} (a : BitVec 6) (b : BitVec 4) (c : BitVec 1) (d : BitVec 5) (hg : g <
      16) (ho : op < 64)
    (hb : base = g * 134217728 + op * 2097152)
    (hw : iw (base + a.toNat * 32768 + b.toNat * 512 + c.toNat * 32 + d.toNat) = w) :
    group w = g ∧
    (fld w 21 6).toNat = op ∧
    fld w 15 6 = a ∧
    fld w 9 4 = b ∧
    fld w 5 1 = c ∧
    fld w 0 5 = d ∧
    fld w 6 3 = 0#3 ∧
    fld w 13 2 = 0#2 ∧
    endMark w = false := by
  have h0 := a.isLt
  have h1 := b.isLt
  have h2 := c.isLt
  have h3 := d.isLt
  subst hb hw
  exact ⟨fld_num g 0 (op * 2097152 + a.toNat * 32768 + b.toNat * 512 + c.toNat * 32 + d.toNat) (by omega) (by decide)
      (by omega) (by omega),
    fld_num op g (a.toNat * 32768 + b.toNat * 512 + c.toNat * 32 + d.toNat) (by omega) (by decide) (by omega) (by
      omega),
    fld_at a (g * 64 + op) (b.toNat * 512 + c.toNat * 32 + d.toNat) (by decide) (by omega) (by omega),
    fld_at b (g * 16384 + op * 256 + a.toNat * 4) (c.toNat * 32 + d.toNat) (by decide) (by omega) (by omega),
    fld_at c (g * 2097152 + op * 32768 + a.toNat * 512 + b.toNat * 8) (d.toNat) (by decide) (by omega) (by omega),
    fld_at d (g * 4194304 + op * 65536 + a.toNat * 1024 + b.toNat * 16 + c.toNat) (0) (by decide) (by omega) (by
      omega),
    fld_nil (g * 262144 + op * 4096 + a.toNat * 64 + b.toNat) (c.toNat * 32 + d.toNat) (by decide) (by omega) (by
      omega),
    fld_nil (g * 4096 + op * 64 + a.toNat) (b.toNat * 512 + c.toNat * 32 + d.toNat) (by decide) (by omega) (by omega),
    endMark_iw (by omega)⟩

theorem layout58 {w : IWord} {base g op : Nat} (a : BitVec 4) (b : BitVec 9) (hg : g < 16) (ho : op < 64)
    (hb : base = g * 134217728 + op * 2097152)
    (hw : iw (base + a.toNat * 512 + b.toNat) = w) :
    group w = g ∧
    (fld w 21 6).toNat = op ∧
    fld w 9 4 = a ∧
    fld w 0 9 = b ∧
    fld w 13 8 = 0#8 ∧
    endMark w = false := by
  have h0 := a.isLt
  have h1 := b.isLt
  subst hb hw
  exact ⟨fld_num g 0 (op * 2097152 + a.toNat * 512 + b.toNat) (by omega) (by decide) (by omega) (by omega),
    fld_num op g (a.toNat * 512 + b.toNat) (by omega) (by decide) (by omega) (by omega),
    fld_at a (g * 16384 + op * 256) (b.toNat) (by decide) (by omega) (by omega),
    fld_at b (g * 262144 + op * 4096 + a.toNat) (0) (by decide) (by omega) (by omega),
    fld_nil (g * 64 + op) (a.toNat * 512 + b.toNat) (by decide) (by omega) (by omega),
    endMark_iw (by omega)⟩

theorem layout59 {w : IWord} {base g op : Nat} (a : BitVec 6) (b : BitVec 1) (c : BitVec 3) (hg : g < 16) (ho : op <
      64)
    (hb : base = g * 134217728 + op * 2097152)
    (hw : iw (base + a.toNat * 32768 + b.toNat * 8 + c.toNat) = w) :
    group w = g ∧
    (fld w 21 6).toNat = op ∧
    fld w 15 6 = a ∧
    fld w 3 1 = b ∧
    fld w 0 3 = c ∧
    fld w 4 11 = 0#11 ∧
    endMark w = false := by
  have h0 := a.isLt
  have h1 := b.isLt
  have h2 := c.isLt
  subst hb hw
  exact ⟨fld_num g 0 (op * 2097152 + a.toNat * 32768 + b.toNat * 8 + c.toNat) (by omega) (by decide) (by omega) (by
      omega),
    fld_num op g (a.toNat * 32768 + b.toNat * 8 + c.toNat) (by omega) (by decide) (by omega) (by omega),
    fld_at a (g * 64 + op) (b.toNat * 8 + c.toNat) (by decide) (by omega) (by omega),
    fld_at b (g * 8388608 + op * 131072 + a.toNat * 2048) (c.toNat) (by decide) (by omega) (by omega),
    fld_at c (g * 16777216 + op * 262144 + a.toNat * 4096 + b.toNat) (0) (by decide) (by omega) (by omega),
    fld_nil (g * 4096 + op * 64 + a.toNat) (b.toNat * 8 + c.toNat) (by decide) (by omega) (by omega),
    endMark_iw (by omega)⟩

theorem layout60 {w : IWord} {base g op : Nat} (a : BitVec 6) (b : BitVec 6) (c : BitVec 3) (hg : g < 16) (ho : op <
      64)
    (hb : base = g * 134217728 + op * 2097152)
    (hw : iw (base + a.toNat * 32768 + b.toNat * 512 + c.toNat) = w) :
    group w = g ∧
    (fld w 21 6).toNat = op ∧
    fld w 15 6 = a ∧
    fld w 9 6 = b ∧
    fld w 0 3 = c ∧
    fld w 3 6 = 0#6 ∧
    endMark w = false := by
  have h0 := a.isLt
  have h1 := b.isLt
  have h2 := c.isLt
  subst hb hw
  exact ⟨fld_num g 0 (op * 2097152 + a.toNat * 32768 + b.toNat * 512 + c.toNat) (by omega) (by decide) (by omega) (by
      omega),
    fld_num op g (a.toNat * 32768 + b.toNat * 512 + c.toNat) (by omega) (by decide) (by omega) (by omega),
    fld_at a (g * 64 + op) (b.toNat * 512 + c.toNat) (by decide) (by omega) (by omega),
    fld_at b (g * 4096 + op * 64 + a.toNat) (c.toNat) (by decide) (by omega) (by omega),
    fld_at c (g * 16777216 + op * 262144 + a.toNat * 4096 + b.toNat * 64) (0) (by decide) (by omega) (by omega),
    fld_nil (g * 262144 + op * 4096 + a.toNat * 64 + b.toNat) (c.toNat) (by decide) (by omega) (by omega),
    endMark_iw (by omega)⟩

theorem decodeWord_SR {w : IWord} {lx : Option (BitVec 27)} (h : group w = 0) :
    decodeWord w lx = decodeSR w := by unfold decodeWord; rw [h]; rfl

theorem decodeWord_SI {w : IWord} {lx : Option (BitVec 27)} (h : group w = 1) :
    decodeWord w lx = decodeSI w lx := by unfold decodeWord; rw [h]; rfl

theorem decodeWord_Control {w : IWord} {lx : Option (BitVec 27)} (h : group w = 2) :
    decodeWord w lx = decodeControl w := by unfold decodeWord; rw [h]; rfl

theorem decodeWord_SY {w : IWord} {lx : Option (BitVec 27)} (h : group w = 3) :
    decodeWord w lx = decodeSY w := by unfold decodeWord; rw [h]; rfl

theorem decodeWord_MX {w : IWord} {lx : Option (BitVec 27)} (h : group w = 4) :
    decodeWord w lx = decodeMX w := by unfold decodeWord; rw [h]; rfl

theorem decodeWord_CX {w : IWord} {lx : Option (BitVec 27)} (h : group w = 5) :
    decodeWord w lx = decodeCX w := by unfold decodeWord; rw [h]; rfl

theorem decodeWord_VV {w : IWord} {lx : Option (BitVec 27)} (h : group w = 6) :
    decodeWord w lx = decodeVV w := by unfold decodeWord; rw [h]; rfl

theorem decodeWord_VR {w : IWord} {lx : Option (BitVec 27)} (h : group w = 7) :
    decodeWord w lx = decodeVR w := by unfold decodeWord; rw [h]; rfl

theorem decodeWord_VM {w : IWord} {lx : Option (BitVec 27)} (h : group w = 8) :
    decodeWord w lx = decodeVM w := by unfold decodeWord; rw [h]; rfl

theorem decodeWord_FS {w : IWord} {lx : Option (BitVec 27)} (h : group w = 9) :
    decodeWord w lx = decodeFS w := by unfold decodeWord; rw [h]; rfl

theorem decodeWord_ML {w : IWord} {lx : Option (BitVec 27)} (h : group w = 10) :
    decodeWord w lx = decodeML w := by unfold decodeWord; rw [h]; rfl

theorem decodeWord_MA {w : IWord} {lx : Option (BitVec 27)} (h : group w = 11) :
    decodeWord w lx = decodeMA w := by unfold decodeWord; rw [h]; rfl

theorem decodeWord_MS {w : IWord} {lx : Option (BitVec 27)} (h : group w = 12) :
    decodeWord w lx = decodeMS w := by unfold decodeWord; rw [h]; rfl

theorem clear_ok {n : String} {b : Bool} {i : Instr} (h : b = true) : clear n b i = .ok i := by rw [h]; rfl

/-! ### The instructions -/

theorem RoundTrip.nop : RoundTrip.Statement (.nop) := by
  intro w lx h
  obtain ⟨hw, hl⟩ := Prod.ext_iff.mp (Option.some.inj h)
  subst hl
  obtain ⟨hg, ho, z0, hm⟩ := layout1 (g := 0) (op := 0) (by decide) (by decide) rfl hw
  refine ⟨?_, hm, by rw [hg]; decide, nofun⟩
  rw [decodeWord_SR hg]
  unfold decodeSR
  rw [ho]
  show clear "NOP" (fld _ 0 18 = 0#18) Instr.nop = _
  rw [clear_ok (by simp only [z0, decide_true])]

theorem RoundTrip.add (d : BitVec 6) (a : BitVec 6) (b : BitVec 6) : RoundTrip.Statement (.add d a b) := by
  intro w lx h
  obtain ⟨hw, hl⟩ := Prod.ext_iff.mp (Option.some.inj h)
  subst hl
  obtain ⟨hg, ho, h0, h1, h2, hm⟩ := layout2 (g := 0) (op := 1) d a b (by decide) (by decide) rfl hw
  refine ⟨?_, hm, by rw [hg]; decide, nofun⟩
  rw [decodeWord_SR hg]
  unfold decodeSR
  rw [ho]
  show Except.ok (Instr.add (fld _ 12 6) (fld _ 6 6) (fld _ 0 6)) = _
  rw [h0, h1, h2]

theorem RoundTrip.sub (d : BitVec 6) (a : BitVec 6) (b : BitVec 6) : RoundTrip.Statement (.sub d a b) := by
  intro w lx h
  obtain ⟨hw, hl⟩ := Prod.ext_iff.mp (Option.some.inj h)
  subst hl
  obtain ⟨hg, ho, h0, h1, h2, hm⟩ := layout2 (g := 0) (op := 2) d a b (by decide) (by decide) rfl hw
  refine ⟨?_, hm, by rw [hg]; decide, nofun⟩
  rw [decodeWord_SR hg]
  unfold decodeSR
  rw [ho]
  show Except.ok (Instr.sub (fld _ 12 6) (fld _ 6 6) (fld _ 0 6)) = _
  rw [h0, h1, h2]

theorem RoundTrip.and (d : BitVec 6) (a : BitVec 6) (b : BitVec 6) : RoundTrip.Statement (.and d a b) := by
  intro w lx h
  obtain ⟨hw, hl⟩ := Prod.ext_iff.mp (Option.some.inj h)
  subst hl
  obtain ⟨hg, ho, h0, h1, h2, hm⟩ := layout2 (g := 0) (op := 3) d a b (by decide) (by decide) rfl hw
  refine ⟨?_, hm, by rw [hg]; decide, nofun⟩
  rw [decodeWord_SR hg]
  unfold decodeSR
  rw [ho]
  show Except.ok (Instr.and (fld _ 12 6) (fld _ 6 6) (fld _ 0 6)) = _
  rw [h0, h1, h2]

theorem RoundTrip.or (d : BitVec 6) (a : BitVec 6) (b : BitVec 6) : RoundTrip.Statement (.or d a b) := by
  intro w lx h
  obtain ⟨hw, hl⟩ := Prod.ext_iff.mp (Option.some.inj h)
  subst hl
  obtain ⟨hg, ho, h0, h1, h2, hm⟩ := layout2 (g := 0) (op := 4) d a b (by decide) (by decide) rfl hw
  refine ⟨?_, hm, by rw [hg]; decide, nofun⟩
  rw [decodeWord_SR hg]
  unfold decodeSR
  rw [ho]
  show Except.ok (Instr.or (fld _ 12 6) (fld _ 6 6) (fld _ 0 6)) = _
  rw [h0, h1, h2]

theorem RoundTrip.xor (d : BitVec 6) (a : BitVec 6) (b : BitVec 6) : RoundTrip.Statement (.xor d a b) := by
  intro w lx h
  obtain ⟨hw, hl⟩ := Prod.ext_iff.mp (Option.some.inj h)
  subst hl
  obtain ⟨hg, ho, h0, h1, h2, hm⟩ := layout2 (g := 0) (op := 5) d a b (by decide) (by decide) rfl hw
  refine ⟨?_, hm, by rw [hg]; decide, nofun⟩
  rw [decodeWord_SR hg]
  unfold decodeSR
  rw [ho]
  show Except.ok (Instr.xor (fld _ 12 6) (fld _ 6 6) (fld _ 0 6)) = _
  rw [h0, h1, h2]

theorem RoundTrip.andn (d : BitVec 6) (a : BitVec 6) (b : BitVec 6) : RoundTrip.Statement (.andn d a b) := by
  intro w lx h
  obtain ⟨hw, hl⟩ := Prod.ext_iff.mp (Option.some.inj h)
  subst hl
  obtain ⟨hg, ho, h0, h1, h2, hm⟩ := layout2 (g := 0) (op := 6) d a b (by decide) (by decide) rfl hw
  refine ⟨?_, hm, by rw [hg]; decide, nofun⟩
  rw [decodeWord_SR hg]
  unfold decodeSR
  rw [ho]
  show Except.ok (Instr.andn (fld _ 12 6) (fld _ 6 6) (fld _ 0 6)) = _
  rw [h0, h1, h2]

theorem RoundTrip.shl (d : BitVec 6) (a : BitVec 6) (b : BitVec 6) : RoundTrip.Statement (.shl d a b) := by
  intro w lx h
  obtain ⟨hw, hl⟩ := Prod.ext_iff.mp (Option.some.inj h)
  subst hl
  obtain ⟨hg, ho, h0, h1, h2, hm⟩ := layout2 (g := 0) (op := 7) d a b (by decide) (by decide) rfl hw
  refine ⟨?_, hm, by rw [hg]; decide, nofun⟩
  rw [decodeWord_SR hg]
  unfold decodeSR
  rw [ho]
  show Except.ok (Instr.shl (fld _ 12 6) (fld _ 6 6) (fld _ 0 6)) = _
  rw [h0, h1, h2]

theorem RoundTrip.shr (d : BitVec 6) (a : BitVec 6) (b : BitVec 6) : RoundTrip.Statement (.shr d a b) := by
  intro w lx h
  obtain ⟨hw, hl⟩ := Prod.ext_iff.mp (Option.some.inj h)
  subst hl
  obtain ⟨hg, ho, h0, h1, h2, hm⟩ := layout2 (g := 0) (op := 8) d a b (by decide) (by decide) rfl hw
  refine ⟨?_, hm, by rw [hg]; decide, nofun⟩
  rw [decodeWord_SR hg]
  unfold decodeSR
  rw [ho]
  show Except.ok (Instr.shr (fld _ 12 6) (fld _ 6 6) (fld _ 0 6)) = _
  rw [h0, h1, h2]

theorem RoundTrip.sra (d : BitVec 6) (a : BitVec 6) (b : BitVec 6) : RoundTrip.Statement (.sra d a b) := by
  intro w lx h
  obtain ⟨hw, hl⟩ := Prod.ext_iff.mp (Option.some.inj h)
  subst hl
  obtain ⟨hg, ho, h0, h1, h2, hm⟩ := layout2 (g := 0) (op := 9) d a b (by decide) (by decide) rfl hw
  refine ⟨?_, hm, by rw [hg]; decide, nofun⟩
  rw [decodeWord_SR hg]
  unfold decodeSR
  rw [ho]
  show Except.ok (Instr.sra (fld _ 12 6) (fld _ 6 6) (fld _ 0 6)) = _
  rw [h0, h1, h2]

theorem RoundTrip.rol (d : BitVec 6) (a : BitVec 6) (b : BitVec 6) : RoundTrip.Statement (.rol d a b) := by
  intro w lx h
  obtain ⟨hw, hl⟩ := Prod.ext_iff.mp (Option.some.inj h)
  subst hl
  obtain ⟨hg, ho, h0, h1, h2, hm⟩ := layout2 (g := 0) (op := 10) d a b (by decide) (by decide) rfl hw
  refine ⟨?_, hm, by rw [hg]; decide, nofun⟩
  rw [decodeWord_SR hg]
  unfold decodeSR
  rw [ho]
  show Except.ok (Instr.rol (fld _ 12 6) (fld _ 6 6) (fld _ 0 6)) = _
  rw [h0, h1, h2]

theorem RoundTrip.ror (d : BitVec 6) (a : BitVec 6) (b : BitVec 6) : RoundTrip.Statement (.ror d a b) := by
  intro w lx h
  obtain ⟨hw, hl⟩ := Prod.ext_iff.mp (Option.some.inj h)
  subst hl
  obtain ⟨hg, ho, h0, h1, h2, hm⟩ := layout2 (g := 0) (op := 11) d a b (by decide) (by decide) rfl hw
  refine ⟨?_, hm, by rw [hg]; decide, nofun⟩
  rw [decodeWord_SR hg]
  unfold decodeSR
  rw [ho]
  show Except.ok (Instr.ror (fld _ 12 6) (fld _ 6 6) (fld _ 0 6)) = _
  rw [h0, h1, h2]

theorem RoundTrip.mul (d : BitVec 6) (a : BitVec 6) (b : BitVec 6) : RoundTrip.Statement (.mul d a b) := by
  intro w lx h
  obtain ⟨hw, hl⟩ := Prod.ext_iff.mp (Option.some.inj h)
  subst hl
  obtain ⟨hg, ho, h0, h1, h2, hm⟩ := layout2 (g := 0) (op := 12) d a b (by decide) (by decide) rfl hw
  refine ⟨?_, hm, by rw [hg]; decide, nofun⟩
  rw [decodeWord_SR hg]
  unfold decodeSR
  rw [ho]
  show Except.ok (Instr.mul (fld _ 12 6) (fld _ 6 6) (fld _ 0 6)) = _
  rw [h0, h1, h2]

theorem RoundTrip.mulh (d : BitVec 6) (a : BitVec 6) (b : BitVec 6) : RoundTrip.Statement (.mulh d a b) := by
  intro w lx h
  obtain ⟨hw, hl⟩ := Prod.ext_iff.mp (Option.some.inj h)
  subst hl
  obtain ⟨hg, ho, h0, h1, h2, hm⟩ := layout2 (g := 0) (op := 13) d a b (by decide) (by decide) rfl hw
  refine ⟨?_, hm, by rw [hg]; decide, nofun⟩
  rw [decodeWord_SR hg]
  unfold decodeSR
  rw [ho]
  show Except.ok (Instr.mulh (fld _ 12 6) (fld _ 6 6) (fld _ 0 6)) = _
  rw [h0, h1, h2]

theorem RoundTrip.mulhn (d : BitVec 6) (a : BitVec 6) (b : BitVec 6) : RoundTrip.Statement (.mulhn d a b) := by
  intro w lx h
  obtain ⟨hw, hl⟩ := Prod.ext_iff.mp (Option.some.inj h)
  subst hl
  obtain ⟨hg, ho, h0, h1, h2, hm⟩ := layout2 (g := 0) (op := 14) d a b (by decide) (by decide) rfl hw
  refine ⟨?_, hm, by rw [hg]; decide, nofun⟩
  rw [decodeWord_SR hg]
  unfold decodeSR
  rw [ho]
  show Except.ok (Instr.mulhn (fld _ 12 6) (fld _ 6 6) (fld _ 0 6)) = _
  rw [h0, h1, h2]

theorem RoundTrip.div (d : BitVec 6) (a : BitVec 6) (b : BitVec 6) : RoundTrip.Statement (.div d a b) := by
  intro w lx h
  obtain ⟨hw, hl⟩ := Prod.ext_iff.mp (Option.some.inj h)
  subst hl
  obtain ⟨hg, ho, h0, h1, h2, hm⟩ := layout2 (g := 0) (op := 15) d a b (by decide) (by decide) rfl hw
  refine ⟨?_, hm, by rw [hg]; decide, nofun⟩
  rw [decodeWord_SR hg]
  unfold decodeSR
  rw [ho]
  show Except.ok (Instr.div (fld _ 12 6) (fld _ 6 6) (fld _ 0 6)) = _
  rw [h0, h1, h2]

theorem RoundTrip.divn (d : BitVec 6) (a : BitVec 6) (b : BitVec 6) : RoundTrip.Statement (.divn d a b) := by
  intro w lx h
  obtain ⟨hw, hl⟩ := Prod.ext_iff.mp (Option.some.inj h)
  subst hl
  obtain ⟨hg, ho, h0, h1, h2, hm⟩ := layout2 (g := 0) (op := 16) d a b (by decide) (by decide) rfl hw
  refine ⟨?_, hm, by rw [hg]; decide, nofun⟩
  rw [decodeWord_SR hg]
  unfold decodeSR
  rw [ho]
  show Except.ok (Instr.divn (fld _ 12 6) (fld _ 6 6) (fld _ 0 6)) = _
  rw [h0, h1, h2]

theorem RoundTrip.rem (d : BitVec 6) (a : BitVec 6) (b : BitVec 6) : RoundTrip.Statement (.rem d a b) := by
  intro w lx h
  obtain ⟨hw, hl⟩ := Prod.ext_iff.mp (Option.some.inj h)
  subst hl
  obtain ⟨hg, ho, h0, h1, h2, hm⟩ := layout2 (g := 0) (op := 17) d a b (by decide) (by decide) rfl hw
  refine ⟨?_, hm, by rw [hg]; decide, nofun⟩
  rw [decodeWord_SR hg]
  unfold decodeSR
  rw [ho]
  show Except.ok (Instr.rem (fld _ 12 6) (fld _ 6 6) (fld _ 0 6)) = _
  rw [h0, h1, h2]

theorem RoundTrip.remn (d : BitVec 6) (a : BitVec 6) (b : BitVec 6) : RoundTrip.Statement (.remn d a b) := by
  intro w lx h
  obtain ⟨hw, hl⟩ := Prod.ext_iff.mp (Option.some.inj h)
  subst hl
  obtain ⟨hg, ho, h0, h1, h2, hm⟩ := layout2 (g := 0) (op := 18) d a b (by decide) (by decide) rfl hw
  refine ⟨?_, hm, by rw [hg]; decide, nofun⟩
  rw [decodeWord_SR hg]
  unfold decodeSR
  rw [ho]
  show Except.ok (Instr.remn (fld _ 12 6) (fld _ 6 6) (fld _ 0 6)) = _
  rw [h0, h1, h2]

theorem RoundTrip.min (d : BitVec 6) (a : BitVec 6) (b : BitVec 6) : RoundTrip.Statement (.min d a b) := by
  intro w lx h
  obtain ⟨hw, hl⟩ := Prod.ext_iff.mp (Option.some.inj h)
  subst hl
  obtain ⟨hg, ho, h0, h1, h2, hm⟩ := layout2 (g := 0) (op := 19) d a b (by decide) (by decide) rfl hw
  refine ⟨?_, hm, by rw [hg]; decide, nofun⟩
  rw [decodeWord_SR hg]
  unfold decodeSR
  rw [ho]
  show Except.ok (Instr.min (fld _ 12 6) (fld _ 6 6) (fld _ 0 6)) = _
  rw [h0, h1, h2]

theorem RoundTrip.max (d : BitVec 6) (a : BitVec 6) (b : BitVec 6) : RoundTrip.Statement (.max d a b) := by
  intro w lx h
  obtain ⟨hw, hl⟩ := Prod.ext_iff.mp (Option.some.inj h)
  subst hl
  obtain ⟨hg, ho, h0, h1, h2, hm⟩ := layout2 (g := 0) (op := 20) d a b (by decide) (by decide) rfl hw
  refine ⟨?_, hm, by rw [hg]; decide, nofun⟩
  rw [decodeWord_SR hg]
  unfold decodeSR
  rw [ho]
  show Except.ok (Instr.max (fld _ 12 6) (fld _ 6 6) (fld _ 0 6)) = _
  rw [h0, h1, h2]

theorem RoundTrip.minn (d : BitVec 6) (a : BitVec 6) (b : BitVec 6) : RoundTrip.Statement (.minn d a b) := by
  intro w lx h
  obtain ⟨hw, hl⟩ := Prod.ext_iff.mp (Option.some.inj h)
  subst hl
  obtain ⟨hg, ho, h0, h1, h2, hm⟩ := layout2 (g := 0) (op := 21) d a b (by decide) (by decide) rfl hw
  refine ⟨?_, hm, by rw [hg]; decide, nofun⟩
  rw [decodeWord_SR hg]
  unfold decodeSR
  rw [ho]
  show Except.ok (Instr.minn (fld _ 12 6) (fld _ 6 6) (fld _ 0 6)) = _
  rw [h0, h1, h2]

theorem RoundTrip.maxn (d : BitVec 6) (a : BitVec 6) (b : BitVec 6) : RoundTrip.Statement (.maxn d a b) := by
  intro w lx h
  obtain ⟨hw, hl⟩ := Prod.ext_iff.mp (Option.some.inj h)
  subst hl
  obtain ⟨hg, ho, h0, h1, h2, hm⟩ := layout2 (g := 0) (op := 22) d a b (by decide) (by decide) rfl hw
  refine ⟨?_, hm, by rw [hg]; decide, nofun⟩
  rw [decodeWord_SR hg]
  unfold decodeSR
  rw [ho]
  show Except.ok (Instr.maxn (fld _ 12 6) (fld _ 6 6) (fld _ 0 6)) = _
  rw [h0, h1, h2]

theorem RoundTrip.ceq (d : BitVec 6) (a : BitVec 6) (b : BitVec 6) : RoundTrip.Statement (.ceq d a b) := by
  intro w lx h
  obtain ⟨hw, hl⟩ := Prod.ext_iff.mp (Option.some.inj h)
  subst hl
  obtain ⟨hg, ho, h0, h1, h2, hm⟩ := layout2 (g := 0) (op := 23) d a b (by decide) (by decide) rfl hw
  refine ⟨?_, hm, by rw [hg]; decide, nofun⟩
  rw [decodeWord_SR hg]
  unfold decodeSR
  rw [ho]
  show Except.ok (Instr.ceq (fld _ 12 6) (fld _ 6 6) (fld _ 0 6)) = _
  rw [h0, h1, h2]

theorem RoundTrip.cne (d : BitVec 6) (a : BitVec 6) (b : BitVec 6) : RoundTrip.Statement (.cne d a b) := by
  intro w lx h
  obtain ⟨hw, hl⟩ := Prod.ext_iff.mp (Option.some.inj h)
  subst hl
  obtain ⟨hg, ho, h0, h1, h2, hm⟩ := layout2 (g := 0) (op := 24) d a b (by decide) (by decide) rfl hw
  refine ⟨?_, hm, by rw [hg]; decide, nofun⟩
  rw [decodeWord_SR hg]
  unfold decodeSR
  rw [ho]
  show Except.ok (Instr.cne (fld _ 12 6) (fld _ 6 6) (fld _ 0 6)) = _
  rw [h0, h1, h2]

theorem RoundTrip.clt (d : BitVec 6) (a : BitVec 6) (b : BitVec 6) : RoundTrip.Statement (.clt d a b) := by
  intro w lx h
  obtain ⟨hw, hl⟩ := Prod.ext_iff.mp (Option.some.inj h)
  subst hl
  obtain ⟨hg, ho, h0, h1, h2, hm⟩ := layout2 (g := 0) (op := 25) d a b (by decide) (by decide) rfl hw
  refine ⟨?_, hm, by rw [hg]; decide, nofun⟩
  rw [decodeWord_SR hg]
  unfold decodeSR
  rw [ho]
  show Except.ok (Instr.clt (fld _ 12 6) (fld _ 6 6) (fld _ 0 6)) = _
  rw [h0, h1, h2]

theorem RoundTrip.cle (d : BitVec 6) (a : BitVec 6) (b : BitVec 6) : RoundTrip.Statement (.cle d a b) := by
  intro w lx h
  obtain ⟨hw, hl⟩ := Prod.ext_iff.mp (Option.some.inj h)
  subst hl
  obtain ⟨hg, ho, h0, h1, h2, hm⟩ := layout2 (g := 0) (op := 26) d a b (by decide) (by decide) rfl hw
  refine ⟨?_, hm, by rw [hg]; decide, nofun⟩
  rw [decodeWord_SR hg]
  unfold decodeSR
  rw [ho]
  show Except.ok (Instr.cle (fld _ 12 6) (fld _ 6 6) (fld _ 0 6)) = _
  rw [h0, h1, h2]

theorem RoundTrip.cltn (d : BitVec 6) (a : BitVec 6) (b : BitVec 6) : RoundTrip.Statement (.cltn d a b) := by
  intro w lx h
  obtain ⟨hw, hl⟩ := Prod.ext_iff.mp (Option.some.inj h)
  subst hl
  obtain ⟨hg, ho, h0, h1, h2, hm⟩ := layout2 (g := 0) (op := 27) d a b (by decide) (by decide) rfl hw
  refine ⟨?_, hm, by rw [hg]; decide, nofun⟩
  rw [decodeWord_SR hg]
  unfold decodeSR
  rw [ho]
  show Except.ok (Instr.cltn (fld _ 12 6) (fld _ 6 6) (fld _ 0 6)) = _
  rw [h0, h1, h2]

theorem RoundTrip.clen (d : BitVec 6) (a : BitVec 6) (b : BitVec 6) : RoundTrip.Statement (.clen d a b) := by
  intro w lx h
  obtain ⟨hw, hl⟩ := Prod.ext_iff.mp (Option.some.inj h)
  subst hl
  obtain ⟨hg, ho, h0, h1, h2, hm⟩ := layout2 (g := 0) (op := 28) d a b (by decide) (by decide) rfl hw
  refine ⟨?_, hm, by rw [hg]; decide, nofun⟩
  rw [decodeWord_SR hg]
  unfold decodeSR
  rw [ho]
  show Except.ok (Instr.clen (fld _ 12 6) (fld _ 6 6) (fld _ 0 6)) = _
  rw [h0, h1, h2]

theorem RoundTrip.sel (d : BitVec 6) (a : BitVec 6) (b : BitVec 6) : RoundTrip.Statement (.sel d a b) := by
  intro w lx h
  obtain ⟨hw, hl⟩ := Prod.ext_iff.mp (Option.some.inj h)
  subst hl
  obtain ⟨hg, ho, h0, h1, h2, hm⟩ := layout2 (g := 0) (op := 29) d a b (by decide) (by decide) rfl hw
  refine ⟨?_, hm, by rw [hg]; decide, nofun⟩
  rw [decodeWord_SR hg]
  unfold decodeSR
  rw [ho]
  show Except.ok (Instr.sel (fld _ 12 6) (fld _ 6 6) (fld _ 0 6)) = _
  rw [h0, h1, h2]

theorem RoundTrip.clz (d : BitVec 6) (a : BitVec 6) : RoundTrip.Statement (.clz d a) := by
  intro w lx h
  obtain ⟨hw, hl⟩ := Prod.ext_iff.mp (Option.some.inj h)
  subst hl
  obtain ⟨hg, ho, h0, h1, z0, hm⟩ := layout3 (g := 0) (op := 30) d a (by decide) (by decide) rfl hw
  refine ⟨?_, hm, by rw [hg]; decide, nofun⟩
  rw [decodeWord_SR hg]
  unfold decodeSR
  rw [ho]
  show clear "CLZ" (fld _ 0 6 = 0#6) (Instr.clz (fld _ 12 6) (fld _ 6 6)) = _
  rw [clear_ok (by simp only [z0, decide_true]), h0, h1]

theorem RoundTrip.ctz (d : BitVec 6) (a : BitVec 6) : RoundTrip.Statement (.ctz d a) := by
  intro w lx h
  obtain ⟨hw, hl⟩ := Prod.ext_iff.mp (Option.some.inj h)
  subst hl
  obtain ⟨hg, ho, h0, h1, z0, hm⟩ := layout3 (g := 0) (op := 31) d a (by decide) (by decide) rfl hw
  refine ⟨?_, hm, by rw [hg]; decide, nofun⟩
  rw [decodeWord_SR hg]
  unfold decodeSR
  rw [ho]
  show clear "CTZ" (fld _ 0 6 = 0#6) (Instr.ctz (fld _ 12 6) (fld _ 6 6)) = _
  rw [clear_ok (by simp only [z0, decide_true]), h0, h1]

theorem RoundTrip.popc (d : BitVec 6) (a : BitVec 6) : RoundTrip.Statement (.popc d a) := by
  intro w lx h
  obtain ⟨hw, hl⟩ := Prod.ext_iff.mp (Option.some.inj h)
  subst hl
  obtain ⟨hg, ho, h0, h1, z0, hm⟩ := layout3 (g := 0) (op := 32) d a (by decide) (by decide) rfl hw
  refine ⟨?_, hm, by rw [hg]; decide, nofun⟩
  rw [decodeWord_SR hg]
  unfold decodeSR
  rw [ho]
  show clear "POPC" (fld _ 0 6 = 0#6) (Instr.popc (fld _ 12 6) (fld _ 6 6)) = _
  rw [clear_ok (by simp only [z0, decide_true]), h0, h1]

theorem RoundTrip.brev (d : BitVec 6) (a : BitVec 6) : RoundTrip.Statement (.brev d a) := by
  intro w lx h
  obtain ⟨hw, hl⟩ := Prod.ext_iff.mp (Option.some.inj h)
  subst hl
  obtain ⟨hg, ho, h0, h1, z0, hm⟩ := layout3 (g := 0) (op := 33) d a (by decide) (by decide) rfl hw
  refine ⟨?_, hm, by rw [hg]; decide, nofun⟩
  rw [decodeWord_SR hg]
  unfold decodeSR
  rw [ho]
  show clear "BREV" (fld _ 0 6 = 0#6) (Instr.brev (fld _ 12 6) (fld _ 6 6)) = _
  rw [clear_ok (by simp only [z0, decide_true]), h0, h1]

theorem RoundTrip.bswap (d : BitVec 6) (a : BitVec 6) : RoundTrip.Statement (.bswap d a) := by
  intro w lx h
  obtain ⟨hw, hl⟩ := Prod.ext_iff.mp (Option.some.inj h)
  subst hl
  obtain ⟨hg, ho, h0, h1, z0, hm⟩ := layout3 (g := 0) (op := 34) d a (by decide) (by decide) rfl hw
  refine ⟨?_, hm, by rw [hg]; decide, nofun⟩
  rw [decodeWord_SR hg]
  unfold decodeSR
  rw [ho]
  show clear "BSWAP" (fld _ 0 6 = 0#6) (Instr.bswap (fld _ 12 6) (fld _ 6 6)) = _
  rw [clear_ok (by simp only [z0, decide_true]), h0, h1]

theorem RoundTrip.exts (x_d : BitVec 6) (x_a : BitVec 6) (x_w : BitVec 6) :
    RoundTrip.Statement (.exts x_d x_a x_w) := by
  intro w lx h
  obtain ⟨hw, hl⟩ := Prod.ext_iff.mp (Option.some.inj h)
  subst hl
  obtain ⟨hg, ho, h0, h1, h2, hm⟩ := layout2 (g := 0) (op := 35) x_d x_a x_w (by decide) (by decide) rfl hw
  refine ⟨?_, hm, by rw [hg]; decide, nofun⟩
  rw [decodeWord_SR hg]
  unfold decodeSR
  rw [ho]
  show Except.ok (Instr.exts (fld _ 12 6) (fld _ 6 6) (fld _ 0 6)) = _
  rw [h0, h1, h2]

theorem RoundTrip.extz (x_d : BitVec 6) (x_a : BitVec 6) (x_w : BitVec 6) :
    RoundTrip.Statement (.extz x_d x_a x_w) := by
  intro w lx h
  obtain ⟨hw, hl⟩ := Prod.ext_iff.mp (Option.some.inj h)
  subst hl
  obtain ⟨hg, ho, h0, h1, h2, hm⟩ := layout2 (g := 0) (op := 36) x_d x_a x_w (by decide) (by decide) rfl hw
  refine ⟨?_, hm, by rw [hg]; decide, nofun⟩
  rw [decodeWord_SR hg]
  unfold decodeSR
  rw [ho]
  show Except.ok (Instr.extz (fld _ 12 6) (fld _ 6 6) (fld _ 0 6)) = _
  rw [h0, h1, h2]

theorem RoundTrip.addW (d : BitVec 6) (a : BitVec 6) (b : BitVec 6) : RoundTrip.Statement (.addW d a b) := by
  intro w lx h
  obtain ⟨hw, hl⟩ := Prod.ext_iff.mp (Option.some.inj h)
  subst hl
  obtain ⟨hg, ho, h0, h1, h2, hm⟩ := layout2 (g := 0) (op := 257) d a b (by decide) (by decide) rfl hw
  refine ⟨?_, hm, by rw [hg]; decide, nofun⟩
  rw [decodeWord_SR hg]
  unfold decodeSR
  rw [ho]
  show Except.ok (Instr.addW (fld _ 12 6) (fld _ 6 6) (fld _ 0 6)) = _
  rw [h0, h1, h2]

theorem RoundTrip.subW (d : BitVec 6) (a : BitVec 6) (b : BitVec 6) : RoundTrip.Statement (.subW d a b) := by
  intro w lx h
  obtain ⟨hw, hl⟩ := Prod.ext_iff.mp (Option.some.inj h)
  subst hl
  obtain ⟨hg, ho, h0, h1, h2, hm⟩ := layout2 (g := 0) (op := 258) d a b (by decide) (by decide) rfl hw
  refine ⟨?_, hm, by rw [hg]; decide, nofun⟩
  rw [decodeWord_SR hg]
  unfold decodeSR
  rw [ho]
  show Except.ok (Instr.subW (fld _ 12 6) (fld _ 6 6) (fld _ 0 6)) = _
  rw [h0, h1, h2]

theorem RoundTrip.shlW (d : BitVec 6) (a : BitVec 6) (b : BitVec 6) : RoundTrip.Statement (.shlW d a b) := by
  intro w lx h
  obtain ⟨hw, hl⟩ := Prod.ext_iff.mp (Option.some.inj h)
  subst hl
  obtain ⟨hg, ho, h0, h1, h2, hm⟩ := layout2 (g := 0) (op := 263) d a b (by decide) (by decide) rfl hw
  refine ⟨?_, hm, by rw [hg]; decide, nofun⟩
  rw [decodeWord_SR hg]
  unfold decodeSR
  rw [ho]
  show Except.ok (Instr.shlW (fld _ 12 6) (fld _ 6 6) (fld _ 0 6)) = _
  rw [h0, h1, h2]

theorem RoundTrip.shrW (d : BitVec 6) (a : BitVec 6) (b : BitVec 6) : RoundTrip.Statement (.shrW d a b) := by
  intro w lx h
  obtain ⟨hw, hl⟩ := Prod.ext_iff.mp (Option.some.inj h)
  subst hl
  obtain ⟨hg, ho, h0, h1, h2, hm⟩ := layout2 (g := 0) (op := 264) d a b (by decide) (by decide) rfl hw
  refine ⟨?_, hm, by rw [hg]; decide, nofun⟩
  rw [decodeWord_SR hg]
  unfold decodeSR
  rw [ho]
  show Except.ok (Instr.shrW (fld _ 12 6) (fld _ 6 6) (fld _ 0 6)) = _
  rw [h0, h1, h2]

theorem RoundTrip.sraW (d : BitVec 6) (a : BitVec 6) (b : BitVec 6) : RoundTrip.Statement (.sraW d a b) := by
  intro w lx h
  obtain ⟨hw, hl⟩ := Prod.ext_iff.mp (Option.some.inj h)
  subst hl
  obtain ⟨hg, ho, h0, h1, h2, hm⟩ := layout2 (g := 0) (op := 265) d a b (by decide) (by decide) rfl hw
  refine ⟨?_, hm, by rw [hg]; decide, nofun⟩
  rw [decodeWord_SR hg]
  unfold decodeSR
  rw [ho]
  show Except.ok (Instr.sraW (fld _ 12 6) (fld _ 6 6) (fld _ 0 6)) = _
  rw [h0, h1, h2]

theorem RoundTrip.mulW (d : BitVec 6) (a : BitVec 6) (b : BitVec 6) : RoundTrip.Statement (.mulW d a b) := by
  intro w lx h
  obtain ⟨hw, hl⟩ := Prod.ext_iff.mp (Option.some.inj h)
  subst hl
  obtain ⟨hg, ho, h0, h1, h2, hm⟩ := layout2 (g := 0) (op := 268) d a b (by decide) (by decide) rfl hw
  refine ⟨?_, hm, by rw [hg]; decide, nofun⟩
  rw [decodeWord_SR hg]
  unfold decodeSR
  rw [ho]
  show Except.ok (Instr.mulW (fld _ 12 6) (fld _ 6 6) (fld _ 0 6)) = _
  rw [h0, h1, h2]

theorem RoundTrip.divW (d : BitVec 6) (a : BitVec 6) (b : BitVec 6) : RoundTrip.Statement (.divW d a b) := by
  intro w lx h
  obtain ⟨hw, hl⟩ := Prod.ext_iff.mp (Option.some.inj h)
  subst hl
  obtain ⟨hg, ho, h0, h1, h2, hm⟩ := layout2 (g := 0) (op := 271) d a b (by decide) (by decide) rfl hw
  refine ⟨?_, hm, by rw [hg]; decide, nofun⟩
  rw [decodeWord_SR hg]
  unfold decodeSR
  rw [ho]
  show Except.ok (Instr.divW (fld _ 12 6) (fld _ 6 6) (fld _ 0 6)) = _
  rw [h0, h1, h2]

theorem RoundTrip.divnW (d : BitVec 6) (a : BitVec 6) (b : BitVec 6) : RoundTrip.Statement (.divnW d a b) := by
  intro w lx h
  obtain ⟨hw, hl⟩ := Prod.ext_iff.mp (Option.some.inj h)
  subst hl
  obtain ⟨hg, ho, h0, h1, h2, hm⟩ := layout2 (g := 0) (op := 272) d a b (by decide) (by decide) rfl hw
  refine ⟨?_, hm, by rw [hg]; decide, nofun⟩
  rw [decodeWord_SR hg]
  unfold decodeSR
  rw [ho]
  show Except.ok (Instr.divnW (fld _ 12 6) (fld _ 6 6) (fld _ 0 6)) = _
  rw [h0, h1, h2]

theorem RoundTrip.remW (d : BitVec 6) (a : BitVec 6) (b : BitVec 6) : RoundTrip.Statement (.remW d a b) := by
  intro w lx h
  obtain ⟨hw, hl⟩ := Prod.ext_iff.mp (Option.some.inj h)
  subst hl
  obtain ⟨hg, ho, h0, h1, h2, hm⟩ := layout2 (g := 0) (op := 273) d a b (by decide) (by decide) rfl hw
  refine ⟨?_, hm, by rw [hg]; decide, nofun⟩
  rw [decodeWord_SR hg]
  unfold decodeSR
  rw [ho]
  show Except.ok (Instr.remW (fld _ 12 6) (fld _ 6 6) (fld _ 0 6)) = _
  rw [h0, h1, h2]

theorem RoundTrip.remnW (d : BitVec 6) (a : BitVec 6) (b : BitVec 6) : RoundTrip.Statement (.remnW d a b) := by
  intro w lx h
  obtain ⟨hw, hl⟩ := Prod.ext_iff.mp (Option.some.inj h)
  subst hl
  obtain ⟨hg, ho, h0, h1, h2, hm⟩ := layout2 (g := 0) (op := 274) d a b (by decide) (by decide) rfl hw
  refine ⟨?_, hm, by rw [hg]; decide, nofun⟩
  rw [decodeWord_SR hg]
  unfold decodeSR
  rw [ho]
  show Except.ok (Instr.remnW (fld _ 12 6) (fld _ 6 6) (fld _ 0 6)) = _
  rw [h0, h1, h2]

theorem RoundTrip.addi (d : BitVec 6) (a : BitVec 6) (i : Imm) : RoundTrip.Statement (.addi d a i) := by
  intro w lx h
  obtain ⟨hw, hl⟩ := Prod.ext_iff.mp (Option.some.inj h)
  subst hl
  obtain ⟨hg, ho, h0, h1, h2, hm⟩ := layout4 (g := 1) (op := 0) d a i (by decide) (by decide) rfl hw
  refine ⟨?_, hm, by rw [hg]; decide, fun _ => hg⟩
  rw [decodeWord_SI hg]
  unfold decodeSI
  rw [ho]
  show Except.ok (Instr.addi (fld _ 16 6) (fld _ 10 6) (immOf _ _)) = _
  rw [h0, h1, h2]

theorem RoundTrip.andi (d : BitVec 6) (a : BitVec 6) (i : Imm) : RoundTrip.Statement (.andi d a i) := by
  intro w lx h
  obtain ⟨hw, hl⟩ := Prod.ext_iff.mp (Option.some.inj h)
  subst hl
  obtain ⟨hg, ho, h0, h1, h2, hm⟩ := layout4 (g := 1) (op := 1) d a i (by decide) (by decide) rfl hw
  refine ⟨?_, hm, by rw [hg]; decide, fun _ => hg⟩
  rw [decodeWord_SI hg]
  unfold decodeSI
  rw [ho]
  show Except.ok (Instr.andi (fld _ 16 6) (fld _ 10 6) (immOf _ _)) = _
  rw [h0, h1, h2]

theorem RoundTrip.ori (d : BitVec 6) (a : BitVec 6) (i : Imm) : RoundTrip.Statement (.ori d a i) := by
  intro w lx h
  obtain ⟨hw, hl⟩ := Prod.ext_iff.mp (Option.some.inj h)
  subst hl
  obtain ⟨hg, ho, h0, h1, h2, hm⟩ := layout4 (g := 1) (op := 2) d a i (by decide) (by decide) rfl hw
  refine ⟨?_, hm, by rw [hg]; decide, fun _ => hg⟩
  rw [decodeWord_SI hg]
  unfold decodeSI
  rw [ho]
  show Except.ok (Instr.ori (fld _ 16 6) (fld _ 10 6) (immOf _ _)) = _
  rw [h0, h1, h2]

theorem RoundTrip.xori (d : BitVec 6) (a : BitVec 6) (i : Imm) : RoundTrip.Statement (.xori d a i) := by
  intro w lx h
  obtain ⟨hw, hl⟩ := Prod.ext_iff.mp (Option.some.inj h)
  subst hl
  obtain ⟨hg, ho, h0, h1, h2, hm⟩ := layout4 (g := 1) (op := 3) d a i (by decide) (by decide) rfl hw
  refine ⟨?_, hm, by rw [hg]; decide, fun _ => hg⟩
  rw [decodeWord_SI hg]
  unfold decodeSI
  rw [ho]
  show Except.ok (Instr.xori (fld _ 16 6) (fld _ 10 6) (immOf _ _)) = _
  rw [h0, h1, h2]

theorem RoundTrip.shli (d : BitVec 6) (a : BitVec 6) (i : Imm) : RoundTrip.Statement (.shli d a i) := by
  intro w lx h
  obtain ⟨hw, hl⟩ := Prod.ext_iff.mp (Option.some.inj h)
  subst hl
  obtain ⟨hg, ho, h0, h1, h2, hm⟩ := layout4 (g := 1) (op := 4) d a i (by decide) (by decide) rfl hw
  refine ⟨?_, hm, by rw [hg]; decide, fun _ => hg⟩
  rw [decodeWord_SI hg]
  unfold decodeSI
  rw [ho]
  show Except.ok (Instr.shli (fld _ 16 6) (fld _ 10 6) (immOf _ _)) = _
  rw [h0, h1, h2]

theorem RoundTrip.shri (d : BitVec 6) (a : BitVec 6) (i : Imm) : RoundTrip.Statement (.shri d a i) := by
  intro w lx h
  obtain ⟨hw, hl⟩ := Prod.ext_iff.mp (Option.some.inj h)
  subst hl
  obtain ⟨hg, ho, h0, h1, h2, hm⟩ := layout4 (g := 1) (op := 5) d a i (by decide) (by decide) rfl hw
  refine ⟨?_, hm, by rw [hg]; decide, fun _ => hg⟩
  rw [decodeWord_SI hg]
  unfold decodeSI
  rw [ho]
  show Except.ok (Instr.shri (fld _ 16 6) (fld _ 10 6) (immOf _ _)) = _
  rw [h0, h1, h2]

theorem RoundTrip.srai (d : BitVec 6) (a : BitVec 6) (i : Imm) : RoundTrip.Statement (.srai d a i) := by
  intro w lx h
  obtain ⟨hw, hl⟩ := Prod.ext_iff.mp (Option.some.inj h)
  subst hl
  obtain ⟨hg, ho, h0, h1, h2, hm⟩ := layout4 (g := 1) (op := 6) d a i (by decide) (by decide) rfl hw
  refine ⟨?_, hm, by rw [hg]; decide, fun _ => hg⟩
  rw [decodeWord_SI hg]
  unfold decodeSI
  rw [ho]
  show Except.ok (Instr.srai (fld _ 16 6) (fld _ 10 6) (immOf _ _)) = _
  rw [h0, h1, h2]

theorem RoundTrip.muli (d : BitVec 6) (a : BitVec 6) (i : Imm) : RoundTrip.Statement (.muli d a i) := by
  intro w lx h
  obtain ⟨hw, hl⟩ := Prod.ext_iff.mp (Option.some.inj h)
  subst hl
  obtain ⟨hg, ho, h0, h1, h2, hm⟩ := layout4 (g := 1) (op := 7) d a i (by decide) (by decide) rfl hw
  refine ⟨?_, hm, by rw [hg]; decide, fun _ => hg⟩
  rw [decodeWord_SI hg]
  unfold decodeSI
  rw [ho]
  show Except.ok (Instr.muli (fld _ 16 6) (fld _ 10 6) (immOf _ _)) = _
  rw [h0, h1, h2]

theorem RoundTrip.ceqi (d : BitVec 6) (a : BitVec 6) (i : Imm) : RoundTrip.Statement (.ceqi d a i) := by
  intro w lx h
  obtain ⟨hw, hl⟩ := Prod.ext_iff.mp (Option.some.inj h)
  subst hl
  obtain ⟨hg, ho, h0, h1, h2, hm⟩ := layout4 (g := 1) (op := 8) d a i (by decide) (by decide) rfl hw
  refine ⟨?_, hm, by rw [hg]; decide, fun _ => hg⟩
  rw [decodeWord_SI hg]
  unfold decodeSI
  rw [ho]
  show Except.ok (Instr.ceqi (fld _ 16 6) (fld _ 10 6) (immOf _ _)) = _
  rw [h0, h1, h2]

theorem RoundTrip.clti (d : BitVec 6) (a : BitVec 6) (i : Imm) : RoundTrip.Statement (.clti d a i) := by
  intro w lx h
  obtain ⟨hw, hl⟩ := Prod.ext_iff.mp (Option.some.inj h)
  subst hl
  obtain ⟨hg, ho, h0, h1, h2, hm⟩ := layout4 (g := 1) (op := 9) d a i (by decide) (by decide) rfl hw
  refine ⟨?_, hm, by rw [hg]; decide, fun _ => hg⟩
  rw [decodeWord_SI hg]
  unfold decodeSI
  rw [ho]
  show Except.ok (Instr.clti (fld _ 16 6) (fld _ 10 6) (immOf _ _)) = _
  rw [h0, h1, h2]

theorem RoundTrip.cltni (d : BitVec 6) (a : BitVec 6) (i : Imm) : RoundTrip.Statement (.cltni d a i) := by
  intro w lx h
  obtain ⟨hw, hl⟩ := Prod.ext_iff.mp (Option.some.inj h)
  subst hl
  obtain ⟨hg, ho, h0, h1, h2, hm⟩ := layout4 (g := 1) (op := 10) d a i (by decide) (by decide) rfl hw
  refine ⟨?_, hm, by rw [hg]; decide, fun _ => hg⟩
  rw [decodeWord_SI hg]
  unfold decodeSI
  rw [ho]
  show Except.ok (Instr.cltni (fld _ 16 6) (fld _ 10 6) (immOf _ _)) = _
  rw [h0, h1, h2]

theorem RoundTrip.movhi (d : BitVec 6) (a : BitVec 6) (i : Imm) : RoundTrip.Statement (.movhi d a i) := by
  intro w lx h
  obtain ⟨hw, hl⟩ := Prod.ext_iff.mp (Option.some.inj h)
  subst hl
  obtain ⟨hg, ho, h0, h1, h2, hm⟩ := layout4 (g := 1) (op := 11) d a i (by decide) (by decide) rfl hw
  refine ⟨?_, hm, by rw [hg]; decide, fun _ => hg⟩
  rw [decodeWord_SI hg]
  unfold decodeSI
  rw [ho]
  show Except.ok (Instr.movhi (fld _ 16 6) (fld _ 10 6) (immOf _ _)) = _
  rw [h0, h1, h2]

theorem RoundTrip.adpc (d : BitVec 6) (i : Imm) : RoundTrip.Statement (.adpc d i) := by
  intro w lx h
  obtain ⟨hw, hl⟩ := Prod.ext_iff.mp (Option.some.inj h)
  subst hl
  obtain ⟨hg, ho, h0, h1, z0, hm⟩ := layout5 (g := 1) (op := 12) d i (by decide) (by decide) rfl hw
  refine ⟨?_, hm, by rw [hg]; decide, fun _ => hg⟩
  rw [decodeWord_SI hg]
  unfold decodeSI
  rw [ho]
  show clear "ADPC" (fld _ 10 6 = 0#6) (Instr.adpc (fld _ 16 6) (immOf _ _)) = _
  rw [clear_ok (by simp only [z0, decide_true]), h0, h1]

theorem RoundTrip.addwi (d : BitVec 6) (a : BitVec 6) (i : Imm) : RoundTrip.Statement (.addwi d a i) := by
  intro w lx h
  obtain ⟨hw, hl⟩ := Prod.ext_iff.mp (Option.some.inj h)
  subst hl
  obtain ⟨hg, ho, h0, h1, h2, hm⟩ := layout4 (g := 1) (op := 13) d a i (by decide) (by decide) rfl hw
  refine ⟨?_, hm, by rw [hg]; decide, fun _ => hg⟩
  rw [decodeWord_SI hg]
  unfold decodeSI
  rw [ho]
  show Except.ok (Instr.addwi (fld _ 16 6) (fld _ 10 6) (immOf _ _)) = _
  rw [h0, h1, h2]

theorem RoundTrip.beq (a : BitVec 6) (b : BitVec 6) (o : BitVec 11) : RoundTrip.Statement (.beq a b o) := by
  intro w lx h
  obtain ⟨hw, hl⟩ := Prod.ext_iff.mp (Option.some.inj h)
  subst hl
  obtain ⟨hg, ho, h0, h1, h2, hm⟩ := layout6 (g := 2) (op := 0) a b o (by decide) (by decide) rfl hw
  refine ⟨?_, hm, by rw [hg]; decide, nofun⟩
  rw [decodeWord_Control hg]
  unfold decodeControl
  rw [ho]
  show Except.ok (Instr.beq (fld _ 17 6) (fld _ 11 6) (fld _ 0 11)) = _
  rw [h0, h1, h2]

theorem RoundTrip.bne (a : BitVec 6) (b : BitVec 6) (o : BitVec 11) : RoundTrip.Statement (.bne a b o) := by
  intro w lx h
  obtain ⟨hw, hl⟩ := Prod.ext_iff.mp (Option.some.inj h)
  subst hl
  obtain ⟨hg, ho, h0, h1, h2, hm⟩ := layout6 (g := 2) (op := 1) a b o (by decide) (by decide) rfl hw
  refine ⟨?_, hm, by rw [hg]; decide, nofun⟩
  rw [decodeWord_Control hg]
  unfold decodeControl
  rw [ho]
  show Except.ok (Instr.bne (fld _ 17 6) (fld _ 11 6) (fld _ 0 11)) = _
  rw [h0, h1, h2]

theorem RoundTrip.blt (a : BitVec 6) (b : BitVec 6) (o : BitVec 11) : RoundTrip.Statement (.blt a b o) := by
  intro w lx h
  obtain ⟨hw, hl⟩ := Prod.ext_iff.mp (Option.some.inj h)
  subst hl
  obtain ⟨hg, ho, h0, h1, h2, hm⟩ := layout6 (g := 2) (op := 2) a b o (by decide) (by decide) rfl hw
  refine ⟨?_, hm, by rw [hg]; decide, nofun⟩
  rw [decodeWord_Control hg]
  unfold decodeControl
  rw [ho]
  show Except.ok (Instr.blt (fld _ 17 6) (fld _ 11 6) (fld _ 0 11)) = _
  rw [h0, h1, h2]

theorem RoundTrip.bge (a : BitVec 6) (b : BitVec 6) (o : BitVec 11) : RoundTrip.Statement (.bge a b o) := by
  intro w lx h
  obtain ⟨hw, hl⟩ := Prod.ext_iff.mp (Option.some.inj h)
  subst hl
  obtain ⟨hg, ho, h0, h1, h2, hm⟩ := layout6 (g := 2) (op := 3) a b o (by decide) (by decide) rfl hw
  refine ⟨?_, hm, by rw [hg]; decide, nofun⟩
  rw [decodeWord_Control hg]
  unfold decodeControl
  rw [ho]
  show Except.ok (Instr.bge (fld _ 17 6) (fld _ 11 6) (fld _ 0 11)) = _
  rw [h0, h1, h2]

theorem RoundTrip.bltn (a : BitVec 6) (b : BitVec 6) (o : BitVec 11) : RoundTrip.Statement (.bltn a b o) := by
  intro w lx h
  obtain ⟨hw, hl⟩ := Prod.ext_iff.mp (Option.some.inj h)
  subst hl
  obtain ⟨hg, ho, h0, h1, h2, hm⟩ := layout6 (g := 2) (op := 4) a b o (by decide) (by decide) rfl hw
  refine ⟨?_, hm, by rw [hg]; decide, nofun⟩
  rw [decodeWord_Control hg]
  unfold decodeControl
  rw [ho]
  show Except.ok (Instr.bltn (fld _ 17 6) (fld _ 11 6) (fld _ 0 11)) = _
  rw [h0, h1, h2]

theorem RoundTrip.bgen (a : BitVec 6) (b : BitVec 6) (o : BitVec 11) : RoundTrip.Statement (.bgen a b o) := by
  intro w lx h
  obtain ⟨hw, hl⟩ := Prod.ext_iff.mp (Option.some.inj h)
  subst hl
  obtain ⟨hg, ho, h0, h1, h2, hm⟩ := layout6 (g := 2) (op := 5) a b o (by decide) (by decide) rfl hw
  refine ⟨?_, hm, by rw [hg]; decide, nofun⟩
  rw [decodeWord_Control hg]
  unfold decodeControl
  rw [ho]
  show Except.ok (Instr.bgen (fld _ 17 6) (fld _ 11 6) (fld _ 0 11)) = _
  rw [h0, h1, h2]

theorem RoundTrip.jmp (o : BitVec 17) : RoundTrip.Statement (.jmp o) := by
  intro w lx h
  obtain ⟨hw, hl⟩ := Prod.ext_iff.mp (Option.some.inj h)
  subst hl
  obtain ⟨hg, ho, h0, z0, hm⟩ := layout7 (g := 2) (op := 8) o (by decide) (by decide) rfl hw
  refine ⟨?_, hm, by rw [hg]; decide, nofun⟩
  rw [decodeWord_Control hg]
  unfold decodeControl
  rw [ho]
  show clear "JMP" (fld _ 17 6 = 0#6) (Instr.jmp (fld _ 0 17)) = _
  rw [clear_ok (by simp only [z0, decide_true]), h0]

theorem RoundTrip.jal (d : BitVec 6) (o : BitVec 17) : RoundTrip.Statement (.jal d o) := by
  intro w lx h
  obtain ⟨hw, hl⟩ := Prod.ext_iff.mp (Option.some.inj h)
  subst hl
  obtain ⟨hg, ho, h0, h1, hm⟩ := layout8 (g := 2) (op := 9) d o (by decide) (by decide) rfl hw
  refine ⟨?_, hm, by rw [hg]; decide, nofun⟩
  rw [decodeWord_Control hg]
  unfold decodeControl
  rw [ho]
  show Except.ok (Instr.jal (fld _ 17 6) (fld _ 0 17)) = _
  rw [h0, h1]

theorem RoundTrip.jr (a : BitVec 6) (o : BitVec 11) : RoundTrip.Statement (.jr a o) := by
  intro w lx h
  obtain ⟨hw, hl⟩ := Prod.ext_iff.mp (Option.some.inj h)
  subst hl
  obtain ⟨hg, ho, h0, h1, z0, hm⟩ := layout9 (g := 2) (op := 10) a o (by decide) (by decide) rfl hw
  refine ⟨?_, hm, by rw [hg]; decide, nofun⟩
  rw [decodeWord_Control hg]
  unfold decodeControl
  rw [ho]
  show clear "JR" (fld _ 11 6 = 0#6) (Instr.jr (fld _ 17 6) (fld _ 0 11)) = _
  rw [clear_ok (by simp only [z0, decide_true]), h0, h1]

theorem RoundTrip.jalr (a : BitVec 6) (b : BitVec 6) (o : BitVec 11) : RoundTrip.Statement (.jalr a b o) := by
  intro w lx h
  obtain ⟨hw, hl⟩ := Prod.ext_iff.mp (Option.some.inj h)
  subst hl
  obtain ⟨hg, ho, h0, h1, h2, hm⟩ := layout6 (g := 2) (op := 11) a b o (by decide) (by decide) rfl hw
  refine ⟨?_, hm, by rw [hg]; decide, nofun⟩
  rw [decodeWord_Control hg]
  unfold decodeControl
  rw [ho]
  show Except.ok (Instr.jalr (fld _ 17 6) (fld _ 11 6) (fld _ 0 11)) = _
  rw [h0, h1, h2]

theorem RoundTrip.loop (a : BitVec 6) (o : BitVec 11) : RoundTrip.Statement (.loop a o) := by
  intro w lx h
  obtain ⟨hw, hl⟩ := Prod.ext_iff.mp (Option.some.inj h)
  subst hl
  obtain ⟨hg, ho, h0, h1, z0, hm⟩ := layout9 (g := 2) (op := 12) a o (by decide) (by decide) rfl hw
  refine ⟨?_, hm, by rw [hg]; decide, nofun⟩
  rw [decodeWord_Control hg]
  unfold decodeControl
  rw [ho]
  show clear "LOOP" (fld _ 11 6 = 0#6) (Instr.loop (fld _ 17 6) (fld _ 0 11)) = _
  rw [clear_ok (by simp only [z0, decide_true]), h0, h1]

theorem RoundTrip.knext : RoundTrip.Statement (.knext) := by
  intro w lx h
  obtain ⟨hw, hl⟩ := Prod.ext_iff.mp (Option.some.inj h)
  subst hl
  obtain ⟨hg, ho, z0, hm⟩ := layout10 (g := 2) (op := 13) (by decide) (by decide) rfl hw
  refine ⟨?_, hm, by rw [hg]; decide, nofun⟩
  rw [decodeWord_Control hg]
  unfold decodeControl
  rw [ho]
  show clear "KNEXT" (fld _ 0 23 = 0#23) Instr.knext = _
  rw [clear_ok (by simp only [z0, decide_true])]

theorem RoundTrip.endTask : RoundTrip.Statement (.endTask) := by
  intro w lx h
  obtain ⟨hw, hl⟩ := Prod.ext_iff.mp (Option.some.inj h)
  subst hl
  obtain ⟨hg, ho, z0, hm⟩ := layout10 (g := 2) (op := 14) (by decide) (by decide) rfl hw
  refine ⟨?_, hm, by rw [hg]; decide, nofun⟩
  rw [decodeWord_Control hg]
  unfold decodeControl
  rw [ho]
  show clear "END" (fld _ 0 23 = 0#23) Instr.endTask = _
  rw [clear_ok (by simp only [z0, decide_true])]

theorem RoundTrip.trap (d : BitVec 6) (o : BitVec 17) : RoundTrip.Statement (.trap d o) := by
  intro w lx h
  obtain ⟨hw, hl⟩ := Prod.ext_iff.mp (Option.some.inj h)
  subst hl
  obtain ⟨hg, ho, h0, h1, hm⟩ := layout8 (g := 2) (op := 15) d o (by decide) (by decide) rfl hw
  refine ⟨?_, hm, by rw [hg]; decide, nofun⟩
  rw [decodeWord_Control hg]
  unfold decodeControl
  rw [ho]
  show Except.ok (Instr.trap (fld _ 17 6) (fld _ 0 17)) = _
  rw [h0, h1]

theorem RoundTrip.srr (d : BitVec 6) (s : BitVec 9) : RoundTrip.Statement (.srr d s) := by
  intro w lx h
  obtain ⟨hw, hl⟩ := Prod.ext_iff.mp (Option.some.inj h)
  subst hl
  obtain ⟨hg, ho, h0, h1, z0, hm⟩ := layout11 (g := 3) (op := 0) d s (by decide) (by decide) rfl hw
  refine ⟨?_, hm, by rw [hg]; decide, nofun⟩
  rw [decodeWord_SY hg]
  unfold decodeSY
  rw [ho]
  show clear "SRR" (fld _ 9 6 = 0#6) (Instr.srr (fld _ 15 6) (fld _ 0 9)) = _
  rw [clear_ok (by simp only [z0, decide_true]), h0, h1]

theorem RoundTrip.srw (d : BitVec 6) (a : BitVec 6) (s : BitVec 9) : RoundTrip.Statement (.srw d a s) := by
  intro w lx h
  obtain ⟨hw, hl⟩ := Prod.ext_iff.mp (Option.some.inj h)
  subst hl
  obtain ⟨hg, ho, h0, h1, h2, hm⟩ := layout12 (g := 3) (op := 1) d a s (by decide) (by decide) rfl hw
  refine ⟨?_, hm, by rw [hg]; decide, nofun⟩
  rw [decodeWord_SY hg]
  unfold decodeSY
  rw [ho]
  show Except.ok (Instr.srw (fld _ 15 6) (fld _ 9 6) (fld _ 0 9)) = _
  rw [h0, h1, h2]

theorem RoundTrip.srs (d : BitVec 6) (a : BitVec 6) (s : BitVec 9) : RoundTrip.Statement (.srs d a s) := by
  intro w lx h
  obtain ⟨hw, hl⟩ := Prod.ext_iff.mp (Option.some.inj h)
  subst hl
  obtain ⟨hg, ho, h0, h1, h2, hm⟩ := layout12 (g := 3) (op := 2) d a s (by decide) (by decide) rfl hw
  refine ⟨?_, hm, by rw [hg]; decide, nofun⟩
  rw [decodeWord_SY hg]
  unfold decodeSY
  rw [ho]
  show Except.ok (Instr.srs (fld _ 15 6) (fld _ 9 6) (fld _ 0 9)) = _
  rw [h0, h1, h2]

theorem RoundTrip.src (d : BitVec 6) (a : BitVec 6) (s : BitVec 9) : RoundTrip.Statement (.src d a s) := by
  intro w lx h
  obtain ⟨hw, hl⟩ := Prod.ext_iff.mp (Option.some.inj h)
  subst hl
  obtain ⟨hg, ho, h0, h1, h2, hm⟩ := layout12 (g := 3) (op := 3) d a s (by decide) (by decide) rfl hw
  refine ⟨?_, hm, by rw [hg]; decide, nofun⟩
  rw [decodeWord_SY hg]
  unfold decodeSY
  rw [ho]
  show Except.ok (Instr.src (fld _ 15 6) (fld _ 9 6) (fld _ 0 9)) = _
  rw [h0, h1, h2]

theorem RoundTrip.idle (d : BitVec 6) (a : BitVec 6) : RoundTrip.Statement (.idle d a) := by
  intro w lx h
  obtain ⟨hw, hl⟩ := Prod.ext_iff.mp (Option.some.inj h)
  subst hl
  obtain ⟨hg, ho, h0, h1, z0, hm⟩ := layout13 (g := 3) (op := 4) d a (by decide) (by decide) rfl hw
  refine ⟨?_, hm, by rw [hg]; decide, nofun⟩
  rw [decodeWord_SY hg]
  unfold decodeSY
  rw [ho]
  show clear "IDLE" (fld _ 0 9 = 0#9) (Instr.idle (fld _ 15 6) (fld _ 9 6)) = _
  rw [clear_ok (by simp only [z0, decide_true]), h0, h1]

theorem RoundTrip.digest (d : BitVec 6) (a : BitVec 6) (z : BitVec 1) : RoundTrip.Statement (.digest d a z) := by
  intro w lx h
  obtain ⟨hw, hl⟩ := Prod.ext_iff.mp (Option.some.inj h)
  subst hl
  obtain ⟨hg, ho, h0, h1, h2, z0, hm⟩ := layout14 (g := 3) (op := 5) d a z (by decide) (by decide) rfl hw
  refine ⟨?_, hm, by rw [hg]; decide, nofun⟩
  rw [decodeWord_SY hg]
  unfold decodeSY
  rw [ho]
  show clear "DIGEST" (fld _ 1 8 = 0#8) (Instr.digest (fld _ 15 6) (fld _ 9 6) (fld _ 0 1)) = _
  rw [clear_ok (by simp only [z0, decide_true]), h0, h1, h2]

theorem RoundTrip.brk : RoundTrip.Statement (.brk) := by
  intro w lx h
  obtain ⟨hw, hl⟩ := Prod.ext_iff.mp (Option.some.inj h)
  subst hl
  obtain ⟨hg, ho, z0, hm⟩ := layout15 (g := 3) (op := 6) (by decide) (by decide) rfl hw
  refine ⟨?_, hm, by rw [hg]; decide, nofun⟩
  rw [decodeWord_SY hg]
  unfold decodeSY
  rw [ho]
  show clear "BREAK" (fld _ 0 21 = 0#21) Instr.brk = _
  rw [clear_ok (by simp only [z0, decide_true])]

theorem RoundTrip.eret : RoundTrip.Statement (.eret) := by
  intro w lx h
  obtain ⟨hw, hl⟩ := Prod.ext_iff.mp (Option.some.inj h)
  subst hl
  obtain ⟨hg, ho, z0, hm⟩ := layout15 (g := 3) (op := 7) (by decide) (by decide) rfl hw
  refine ⟨?_, hm, by rw [hg]; decide, nofun⟩
  rw [decodeWord_SY hg]
  unfold decodeSY
  rw [ho]
  show clear "ERET" (fld _ 0 21 = 0#21) Instr.eret = _
  rw [clear_ok (by simp only [z0, decide_true])]

theorem RoundTrip.tlbi (a : BitVec 6) (k : BitVec 3) : RoundTrip.Statement (.tlbi a k) := by
  intro w lx h
  obtain ⟨hw, hl⟩ := Prod.ext_iff.mp (Option.some.inj h)
  subst hl
  obtain ⟨hg, ho, h0, h1, z0, z1, hm⟩ := layout16 (g := 3) (op := 8) a k (by decide) (by decide) rfl hw
  refine ⟨?_, hm, by rw [hg]; decide, nofun⟩
  rw [decodeWord_SY hg]
  unfold decodeSY
  rw [ho]
  show clear "TLBI" (fld _ 3 6 = 0#6 && fld _ 15 6 = 0#6) (Instr.tlbi (fld _ 9 6) (fld _ 0 3)) = _
  rw [clear_ok (by simp only [z0, z1, decide_true, Bool.and_self]), h0, h1]

theorem RoundTrip.swctx : RoundTrip.Statement (.swctx) := by
  intro w lx h
  obtain ⟨hw, hl⟩ := Prod.ext_iff.mp (Option.some.inj h)
  subst hl
  obtain ⟨hg, ho, z0, hm⟩ := layout15 (g := 3) (op := 9) (by decide) (by decide) rfl hw
  refine ⟨?_, hm, by rw [hg]; decide, nofun⟩
  rw [decodeWord_SY hg]
  unfold decodeSY
  rw [ho]
  show clear "SWCTX" (fld _ 0 21 = 0#21) Instr.swctx = _
  rw [clear_ok (by simp only [z0, decide_true])]

theorem RoundTrip.flushi : RoundTrip.Statement (.flushi) := by
  intro w lx h
  obtain ⟨hw, hl⟩ := Prod.ext_iff.mp (Option.some.inj h)
  subst hl
  obtain ⟨hg, ho, z0, hm⟩ := layout15 (g := 3) (op := 10) (by decide) (by decide) rfl hw
  refine ⟨?_, hm, by rw [hg]; decide, nofun⟩
  rw [decodeWord_SY hg]
  unfold decodeSY
  rw [ho]
  show clear "FLUSHI" (fld _ 0 21 = 0#21) Instr.flushi = _
  rw [clear_ok (by simp only [z0, decide_true])]

theorem RoundTrip.retime (d : BitVec 6) (a : BitVec 6) (r : BitVec 5) : RoundTrip.Statement (.retime d a r) := by
  intro w lx h
  obtain ⟨hw, hl⟩ := Prod.ext_iff.mp (Option.some.inj h)
  subst hl
  obtain ⟨hg, ho, h0, h1, h2, z0, hm⟩ := layout17 (g := 3) (op := 11) d a r (by decide) (by decide) rfl hw
  refine ⟨?_, hm, by rw [hg]; decide, nofun⟩
  rw [decodeWord_SY hg]
  unfold decodeSY
  rw [ho]
  show clear "RETIME" (fld _ 5 4 = 0#4) (Instr.retime (fld _ 15 6) (fld _ 9 6) (fld _ 0 5)) = _
  rw [clear_ok (by simp only [z0, decide_true]), h0, h1, h2]

theorem RoundTrip.mma (x_c : BitVec 3) (x_h : BitVec 4) (x_j : BitVec 4) (x_f : BitVec 3) (x_g : BitVec 3) (x_v :
      BitVec 2) (x_l : BitVec 1) (x_z : BitVec 1) (x_p : BitVec 1) (x_q : BitVec 1) :
    RoundTrip.Statement (.mma x_c x_h x_j x_f x_g x_v x_l x_z x_p x_q) := by
  intro w lx h
  obtain ⟨hw, hl⟩ := Prod.ext_iff.mp (Option.some.inj h)
  subst hl
  obtain ⟨hg, ho, h0, h1, h2, h3, h4, h5, h6, h7, h8, h9, z0,
    hm⟩ := layout18 (g := 4) (op := 0) x_c x_h x_j x_f x_g x_v x_l x_z x_p x_q (by decide) (by decide) rfl hw
  refine ⟨?_, hm, by rw [hg]; decide, nofun⟩
  rw [decodeWord_MX hg]
  unfold decodeMX
  rw [ho]
  show clear "MMA" (fld _ 0 1 = 0#1) (Instr.mma (fld _ 21 3) (fld _ 17 4) (fld _ 13 4) (fld _ 10 3) (fld _ 7 3) (fld
    _ 5 2) (fld _ 4 1) (fld _ 3 1) (fld _ 2 1) (fld _ 1 1)) = _
  rw [clear_ok (by simp only [z0, decide_true]), h0, h1, h2, h3, h4, h5, h6, h7, h8, h9]

theorem RoundTrip.mmas (x_c : BitVec 3) (x_h : BitVec 4) (x_j : BitVec 4) (x_f : BitVec 3) (x_g : BitVec 3) (x_v :
      BitVec 2) (x_l : BitVec 1) (x_z : BitVec 1) (x_q : BitVec 1) :
    RoundTrip.Statement (.mmas x_c x_h x_j x_f x_g x_v x_l x_z x_q) := by
  intro w lx h
  obtain ⟨hw, hl⟩ := Prod.ext_iff.mp (Option.some.inj h)
  subst hl
  obtain ⟨hg, ho, h0, h1, h2, h3, h4, h5, h6, h7, h8, z0, z1,
    hm⟩ := layout19 (g := 4) (op := 1) x_c x_h x_j x_f x_g x_v x_l x_z x_q (by decide) (by decide) rfl hw
  refine ⟨?_, hm, by rw [hg]; decide, nofun⟩
  rw [decodeWord_MX hg]
  unfold decodeMX
  rw [ho]
  show clear "MMAS" (fld _ 0 1 = 0#1 && fld _ 2 1 = 0#1) (Instr.mmas (fld _ 21 3) (fld _ 17 4) (fld _ 13 4) (fld _ 10
    3) (fld _ 7 3) (fld _ 5 2) (fld _ 4 1) (fld _ 3 1) (fld _ 1 1)) = _
  rw [clear_ok (by simp only [z0, z1, decide_true, Bool.and_self]), h0, h1, h2, h3, h4, h5, h6, h7, h8]

theorem RoundTrip.mmag (x_c : BitVec 3) (x_h : BitVec 4) (x_j : BitVec 2) (x_f : BitVec 3) (x_g : BitVec 3) (x_v :
      BitVec 1) (x_l : BitVec 1) (x_z : BitVec 1) (x_p : BitVec 1) (x_q : BitVec 1) :
    RoundTrip.Statement (.mmag x_c x_h x_j x_f x_g x_v x_l x_z x_p x_q) := by
  intro w lx h
  obtain ⟨hw, hl⟩ := Prod.ext_iff.mp (Option.some.inj h)
  subst hl
  obtain ⟨hg, ho, h0, h1, h2, h3, h4, h5, h6, h7, h8, h9, z0, z1, z2,
    hm⟩ := layout20 (g := 4) (op := 2) x_c x_h x_j x_f x_g x_v x_l x_z x_p x_q (by decide) (by decide) rfl hw
  refine ⟨?_, hm, by rw [hg]; decide, nofun⟩
  rw [decodeWord_MX hg]
  unfold decodeMX
  rw [ho]
  show clear "MMAG" (fld _ 0 1 = 0#1 && fld _ 6 1 = 0#1 && fld _ 15 2 = 0#2) (Instr.mmag (fld _ 21 3) (fld _ 17 4)
    (fld _ 13 2) (fld _ 10 3) (fld _ 7 3) (fld _ 5 1) (fld _ 4 1) (fld _ 3 1) (fld _ 2 1) (fld _ 1 1)) = _
  rw [clear_ok (by simp only [z0, z1, z2, decide_true, Bool.and_self]), h0, h1, h2, h3, h4, h5, h6, h7, h8, h9]

theorem RoundTrip.mhad (x_c : BitVec 3) (x_h : BitVec 3) (x_n : BitVec 2) :
    RoundTrip.Statement (.mhad x_c x_h x_n) := by
  intro w lx h
  obtain ⟨hw, hl⟩ := Prod.ext_iff.mp (Option.some.inj h)
  subst hl
  obtain ⟨hg, ho, h0, h1, h2, z0, z1, hm⟩ := layout21 (g := 4) (op := 3) x_c x_h x_n (by decide) (by decide) rfl hw
  refine ⟨?_, hm, by rw [hg]; decide, nofun⟩
  rw [decodeWord_MX hg]
  unfold decodeMX
  rw [ho]
  show clear "MHAD" (fld _ 2 15 = 0#15 && fld _ 20 1 = 0#1) (Instr.mhad (fld _ 21 3) (fld _ 17 3) (fld _ 0 2)) = _
  rw [clear_ok (by simp only [z0, z1, decide_true, Bool.and_self]), h0, h1, h2]

theorem RoundTrip.mzero (c : BitVec 3) (k : BitVec 2) : RoundTrip.Statement (.mzero c k) := by
  intro w lx h
  obtain ⟨hw, hl⟩ := Prod.ext_iff.mp (Option.some.inj h)
  subst hl
  obtain ⟨hg, ho, h0, h1, z0, hm⟩ := layout22 (g := 4) (op := 4) c k (by decide) (by decide) rfl hw
  refine ⟨?_, hm, by rw [hg]; decide, nofun⟩
  rw [decodeWord_MX hg]
  unfold decodeMX
  rw [ho]
  show clear "MZERO" (fld _ 2 19 = 0#19) (Instr.mzero (fld _ 21 3) (fld _ 0 2)) = _
  rw [clear_ok (by simp only [z0, decide_true]), h0, h1]

theorem RoundTrip.mdrain (x_c : BitVec 3) (x_h : BitVec 4) (x_j : BitVec 4) (x_f : BitVec 3) (x_k : BitVec 1) (x_u :
      BitVec 1) (x_w : BitVec 1) (x_r : BitVec 2) (x_d : BitVec 5) :
    RoundTrip.Statement (.mdrain x_c x_h x_j x_f x_k x_u x_w x_r x_d) := by
  intro w lx h
  obtain ⟨hw, hl⟩ := Prod.ext_iff.mp (Option.some.inj h)
  subst hl
  obtain ⟨hg, ho, h0, h1, h2, h3, h4, h5, h6, h7, h8,
    hm⟩ := layout23 (g := 4) (op := 5) x_c x_h x_j x_f x_k x_u x_w x_r x_d (by decide) (by decide) rfl hw
  refine ⟨?_, hm, by rw [hg]; decide, nofun⟩
  rw [decodeWord_MX hg]
  unfold decodeMX
  rw [ho]
  show Except.ok (Instr.mdrain (fld _ 21 3) (fld _ 17 4) (fld _ 13 4) (fld _ 10 3) (fld _ 9 1) (fld _ 8 1) (fld _ 7
    1) (fld _ 5 2) (fld _ 0 5)) = _
  rw [h0, h1, h2, h3, h4, h5, h6, h7, h8]

theorem RoundTrip.mload (x_c : BitVec 3) (x_h : BitVec 4) (x_v : BitVec 1) (x_k : BitVec 2) :
    RoundTrip.Statement (.mload x_c x_h x_v x_k) := by
  intro w lx h
  obtain ⟨hw, hl⟩ := Prod.ext_iff.mp (Option.some.inj h)
  subst hl
  obtain ⟨hg, ho, h0, h1, h2, h3, z0, z1,
    hm⟩ := layout24 (g := 4) (op := 6) x_c x_h x_v x_k (by decide) (by decide) rfl hw
  refine ⟨?_, hm, by rw [hg]; decide, nofun⟩
  rw [decodeWord_MX hg]
  unfold decodeMX
  rw [ho]
  show clear "MLOAD" (fld _ 2 3 = 0#3 && fld _ 6 11 = 0#11) (Instr.mload (fld _ 21 3) (fld _ 17 4) (fld _ 5 1) (fld _
    0 2)) = _
  rw [clear_ok (by simp only [z0, z1, decide_true, Bool.and_self]), h0, h1, h2, h3]

theorem RoundTrip.ecw (a : BitVec 6) (b : BitVec 6) : RoundTrip.Statement (.ecw a b) := by
  intro w lx h
  obtain ⟨hw, hl⟩ := Prod.ext_iff.mp (Option.some.inj h)
  subst hl
  obtain ⟨hg, ho, h0, h1, z0, hm⟩ := layout3 (g := 5) (op := 0) a b (by decide) (by decide) rfl hw
  refine ⟨?_, hm, by rw [hg]; decide, nofun⟩
  rw [decodeWord_CX hg]
  unfold decodeCX
  rw [ho]
  show clear "ECW" (fld _ 0 6 = 0#6) (Instr.ecw (fld _ 12 6) (fld _ 6 6)) = _
  rw [clear_ok (by simp only [z0, decide_true]), h0, h1]

theorem RoundTrip.ecr (a : BitVec 6) (b : BitVec 6) : RoundTrip.Statement (.ecr a b) := by
  intro w lx h
  obtain ⟨hw, hl⟩ := Prod.ext_iff.mp (Option.some.inj h)
  subst hl
  obtain ⟨hg, ho, h0, h1, z0, hm⟩ := layout3 (g := 5) (op := 1) a b (by decide) (by decide) rfl hw
  refine ⟨?_, hm, by rw [hg]; decide, nofun⟩
  rw [decodeWord_CX hg]
  unfold decodeCX
  rw [ho]
  show clear "ECR" (fld _ 0 6 = 0#6) (Instr.ecr (fld _ 12 6) (fld _ 6 6)) = _
  rw [clear_ok (by simp only [z0, decide_true]), h0, h1]

theorem RoundTrip.cpy (a : BitVec 6) (b : BitVec 6) (m : BitVec 2) (c : BitVec 2) :
    RoundTrip.Statement (.cpy a b m c) := by
  intro w lx h
  obtain ⟨hw, hl⟩ := Prod.ext_iff.mp (Option.some.inj h)
  subst hl
  obtain ⟨hg, ho, h0, h1, h2, h3, z0, hm⟩ := layout25 (g := 5) (op := 64) a b m c (by decide) (by decide) rfl hw
  refine ⟨?_, hm, by rw [hg]; decide, nofun⟩
  rw [decodeWord_CX hg]
  unfold decodeCX
  rw [ho]
  show clear "CPY" (fld _ 4 2 = 0#2) (Instr.cpy (fld _ 12 6) (fld _ 6 6) (fld _ 2 2) (fld _ 0 2)) = _
  rw [clear_ok (by simp only [z0, decide_true]), h0, h1, h2, h3]

theorem RoundTrip.cpyx (a : BitVec 6) (c : BitVec 2) : RoundTrip.Statement (.cpyx a c) := by
  intro w lx h
  obtain ⟨hw, hl⟩ := Prod.ext_iff.mp (Option.some.inj h)
  subst hl
  obtain ⟨hg, ho, h0, h1, z0, hm⟩ := layout26 (g := 5) (op := 65) a c (by decide) (by decide) rfl hw
  refine ⟨?_, hm, by rw [hg]; decide, nofun⟩
  rw [decodeWord_CX hg]
  unfold decodeCX
  rw [ho]
  show clear "CPYX" (fld _ 2 10 = 0#10) (Instr.cpyx (fld _ 12 6) (fld _ 0 2)) = _
  rw [clear_ok (by simp only [z0, decide_true]), h0, h1]

theorem RoundTrip.gcfg (a : BitVec 6) (s : BitVec 2) : RoundTrip.Statement (.gcfg a s) := by
  intro w lx h
  obtain ⟨hw, hl⟩ := Prod.ext_iff.mp (Option.some.inj h)
  subst hl
  obtain ⟨hg, ho, h0, h1, z0, hm⟩ := layout26 (g := 5) (op := 128) a s (by decide) (by decide) rfl hw
  refine ⟨?_, hm, by rw [hg]; decide, nofun⟩
  rw [decodeWord_CX hg]
  unfold decodeCX
  rw [ho]
  show clear "GCFG" (fld _ 2 10 = 0#10) (Instr.gcfg (fld _ 12 6) (fld _ 0 2)) = _
  rw [clear_ok (by simp only [z0, decide_true]), h0, h1]

theorem RoundTrip.ctblk (a : BitVec 6) (k : BitVec 4) : RoundTrip.Statement (.ctblk a k) := by
  intro w lx h
  obtain ⟨hw, hl⟩ := Prod.ext_iff.mp (Option.some.inj h)
  subst hl
  obtain ⟨hg, ho, h0, h1, z0, hm⟩ := layout27 (g := 5) (op := 192) a k (by decide) (by decide) rfl hw
  refine ⟨?_, hm, by rw [hg]; decide, nofun⟩
  rw [decodeWord_CX hg]
  unfold decodeCX
  rw [ho]
  show clear "CTBLK" (fld _ 4 8 = 0#8) (Instr.ctblk (fld _ 12 6) (fld _ 0 4)) = _
  rw [clear_ok (by simp only [z0, decide_true]), h0, h1]

theorem RoundTrip.ctsnap (a : BitVec 6) (k : BitVec 4) : RoundTrip.Statement (.ctsnap a k) := by
  intro w lx h
  obtain ⟨hw, hl⟩ := Prod.ext_iff.mp (Option.some.inj h)
  subst hl
  obtain ⟨hg, ho, h0, h1, z0, hm⟩ := layout27 (g := 5) (op := 193) a k (by decide) (by decide) rfl hw
  refine ⟨?_, hm, by rw [hg]; decide, nofun⟩
  rw [decodeWord_CX hg]
  unfold decodeCX
  rw [ho]
  show clear "CTSNAP" (fld _ 4 8 = 0#8) (Instr.ctsnap (fld _ 12 6) (fld _ 0 4)) = _
  rw [clear_ok (by simp only [z0, decide_true]), h0, h1]

theorem RoundTrip.ctqry (a : BitVec 6) (b : BitVec 6) (k : BitVec 4) : RoundTrip.Statement (.ctqry a b k) := by
  intro w lx h
  obtain ⟨hw, hl⟩ := Prod.ext_iff.mp (Option.some.inj h)
  subst hl
  obtain ⟨hg, ho, h0, h1, h2, z0, hm⟩ := layout28 (g := 5) (op := 194) a b k (by decide) (by decide) rfl hw
  refine ⟨?_, hm, by rw [hg]; decide, nofun⟩
  rw [decodeWord_CX hg]
  unfold decodeCX
  rw [ho]
  show clear "CTQRY" (fld _ 4 2 = 0#2) (Instr.ctqry (fld _ 12 6) (fld _ 6 6) (fld _ 0 4)) = _
  rw [clear_ok (by simp only [z0, decide_true]), h0, h1, h2]

theorem RoundTrip.ctstep (k : BitVec 4) : RoundTrip.Statement (.ctstep k) := by
  intro w lx h
  obtain ⟨hw, hl⟩ := Prod.ext_iff.mp (Option.some.inj h)
  subst hl
  obtain ⟨hg, ho, h0, z0, hm⟩ := layout29 (g := 5) (op := 195) k (by decide) (by decide) rfl hw
  refine ⟨?_, hm, by rw [hg]; decide, nofun⟩
  rw [decodeWord_CX hg]
  unfold decodeCX
  rw [ho]
  show clear "CTSTEP" (fld _ 4 14 = 0#14) (Instr.ctstep (fld _ 0 4)) = _
  rw [clear_ok (by simp only [z0, decide_true]), h0]

theorem RoundTrip.ctclr (a : BitVec 6) (k : BitVec 4) : RoundTrip.Statement (.ctclr a k) := by
  intro w lx h
  obtain ⟨hw, hl⟩ := Prod.ext_iff.mp (Option.some.inj h)
  subst hl
  obtain ⟨hg, ho, h0, h1, z0, hm⟩ := layout27 (g := 5) (op := 196) a k (by decide) (by decide) rfl hw
  refine ⟨?_, hm, by rw [hg]; decide, nofun⟩
  rw [decodeWord_CX hg]
  unfold decodeCX
  rw [ho]
  show clear "CTCLR" (fld _ 4 8 = 0#8) (Instr.ctclr (fld _ 12 6) (fld _ 0 4)) = _
  rw [clear_ok (by simp only [z0, decide_true]), h0, h1]

theorem RoundTrip.ctsave (a : BitVec 6) : RoundTrip.Statement (.ctsave a) := by
  intro w lx h
  obtain ⟨hw, hl⟩ := Prod.ext_iff.mp (Option.some.inj h)
  subst hl
  obtain ⟨hg, ho, h0, z0, hm⟩ := layout30 (g := 5) (op := 197) a (by decide) (by decide) rfl hw
  refine ⟨?_, hm, by rw [hg]; decide, nofun⟩
  rw [decodeWord_CX hg]
  unfold decodeCX
  rw [ho]
  show clear "CTSAVE" (fld _ 0 12 = 0#12) (Instr.ctsave (fld _ 12 6)) = _
  rw [clear_ok (by simp only [z0, decide_true]), h0]

theorem RoundTrip.ctload (a : BitVec 6) : RoundTrip.Statement (.ctload a) := by
  intro w lx h
  obtain ⟨hw, hl⟩ := Prod.ext_iff.mp (Option.some.inj h)
  subst hl
  obtain ⟨hg, ho, h0, z0, hm⟩ := layout30 (g := 5) (op := 198) a (by decide) (by decide) rfl hw
  refine ⟨?_, hm, by rw [hg]; decide, nofun⟩
  rw [decodeWord_CX hg]
  unfold decodeCX
  rw [ho]
  show clear "CTLOAD" (fld _ 0 12 = 0#12) (Instr.ctload (fld _ 12 6)) = _
  rw [clear_ok (by simp only [z0, decide_true]), h0]

theorem RoundTrip.kvcommit (a : BitVec 6) (b : BitVec 6) (c : BitVec 2) :
    RoundTrip.Statement (.kvcommit a b c) := by
  intro w lx h
  obtain ⟨hw, hl⟩ := Prod.ext_iff.mp (Option.some.inj h)
  subst hl
  obtain ⟨hg, ho, h0, h1, h2, z0, hm⟩ := layout31 (g := 5) (op := 256) a b c (by decide) (by decide) rfl hw
  refine ⟨?_, hm, by rw [hg]; decide, nofun⟩
  rw [decodeWord_CX hg]
  unfold decodeCX
  rw [ho]
  show clear "KVCOMMIT" (fld _ 2 4 = 0#4) (Instr.kvcommit (fld _ 12 6) (fld _ 6 6) (fld _ 0 2)) = _
  rw [clear_ok (by simp only [z0, decide_true]), h0, h1, h2]

theorem RoundTrip.kvreset (a : BitVec 6) (b : BitVec 6) (c : BitVec 2) : RoundTrip.Statement (.kvreset a b c) := by
  intro w lx h
  obtain ⟨hw, hl⟩ := Prod.ext_iff.mp (Option.some.inj h)
  subst hl
  obtain ⟨hg, ho, h0, h1, h2, z0, hm⟩ := layout31 (g := 5) (op := 257) a b c (by decide) (by decide) rfl hw
  refine ⟨?_, hm, by rw [hg]; decide, nofun⟩
  rw [decodeWord_CX hg]
  unfold decodeCX
  rw [ho]
  show clear "KVRESET" (fld _ 2 4 = 0#4) (Instr.kvreset (fld _ 12 6) (fld _ 6 6) (fld _ 0 2)) = _
  rw [clear_ok (by simp only [z0, decide_true]), h0, h1, h2]

theorem RoundTrip.xbind (a : BitVec 6) (b : BitVec 6) : RoundTrip.Statement (.xbind a b) := by
  intro w lx h
  obtain ⟨hw, hl⟩ := Prod.ext_iff.mp (Option.some.inj h)
  subst hl
  obtain ⟨hg, ho, h0, h1, z0, hm⟩ := layout3 (g := 5) (op := 320) a b (by decide) (by decide) rfl hw
  refine ⟨?_, hm, by rw [hg]; decide, nofun⟩
  rw [decodeWord_CX hg]
  unfold decodeCX
  rw [ho]
  show clear "XBIND" (fld _ 0 6 = 0#6) (Instr.xbind (fld _ 12 6) (fld _ 6 6)) = _
  rw [clear_ok (by simp only [z0, decide_true]), h0, h1]

theorem RoundTrip.xstat (a : BitVec 6) (b : BitVec 6) : RoundTrip.Statement (.xstat a b) := by
  intro w lx h
  obtain ⟨hw, hl⟩ := Prod.ext_iff.mp (Option.some.inj h)
  subst hl
  obtain ⟨hg, ho, h0, h1, z0, hm⟩ := layout3 (g := 5) (op := 321) a b (by decide) (by decide) rfl hw
  refine ⟨?_, hm, by rw [hg]; decide, nofun⟩
  rw [decodeWord_CX hg]
  unfold decodeCX
  rw [ho]
  show clear "XSTAT" (fld _ 0 6 = 0#6) (Instr.xstat (fld _ 12 6) (fld _ 6 6)) = _
  rw [clear_ok (by simp only [z0, decide_true]), h0, h1]

theorem RoundTrip.rcfg (a : BitVec 6) (b : BitVec 6) (r : BitVec 4) : RoundTrip.Statement (.rcfg a b r) := by
  intro w lx h
  obtain ⟨hw, hl⟩ := Prod.ext_iff.mp (Option.some.inj h)
  subst hl
  obtain ⟨hg, ho, h0, h1, h2, z0, hm⟩ := layout28 (g := 5) (op := 384) a b r (by decide) (by decide) rfl hw
  refine ⟨?_, hm, by rw [hg]; decide, nofun⟩
  rw [decodeWord_CX hg]
  unfold decodeCX
  rw [ho]
  show clear "RCFG" (fld _ 4 2 = 0#2) (Instr.rcfg (fld _ 12 6) (fld _ 6 6) (fld _ 0 4)) = _
  rw [clear_ok (by simp only [z0, decide_true]), h0, h1, h2]

theorem RoundTrip.rrst (r : BitVec 4) : RoundTrip.Statement (.rrst r) := by
  intro w lx h
  obtain ⟨hw, hl⟩ := Prod.ext_iff.mp (Option.some.inj h)
  subst hl
  obtain ⟨hg, ho, h0, z0, hm⟩ := layout29 (g := 5) (op := 385) r (by decide) (by decide) rfl hw
  refine ⟨?_, hm, by rw [hg]; decide, nofun⟩
  rw [decodeWord_CX hg]
  unfold decodeCX
  rw [ho]
  show clear "RRST" (fld _ 4 14 = 0#14) (Instr.rrst (fld _ 0 4)) = _
  rw [clear_ok (by simp only [z0, decide_true]), h0]

theorem RoundTrip.hcfg (a : BitVec 6) (k : BitVec 5) : RoundTrip.Statement (.hcfg a k) := by
  intro w lx h
  obtain ⟨hw, hl⟩ := Prod.ext_iff.mp (Option.some.inj h)
  subst hl
  obtain ⟨hg, ho, h0, h1, z0, hm⟩ := layout32 (g := 5) (op := 448) a k (by decide) (by decide) rfl hw
  refine ⟨?_, hm, by rw [hg]; decide, nofun⟩
  rw [decodeWord_CX hg]
  unfold decodeCX
  rw [ho]
  show clear "HCFG" (fld _ 5 7 = 0#7) (Instr.hcfg (fld _ 12 6) (fld _ 0 5)) = _
  rw [clear_ok (by simp only [z0, decide_true]), h0, h1]

theorem RoundTrip.harm (a : BitVec 6) (k : BitVec 5) : RoundTrip.Statement (.harm a k) := by
  intro w lx h
  obtain ⟨hw, hl⟩ := Prod.ext_iff.mp (Option.some.inj h)
  subst hl
  obtain ⟨hg, ho, h0, h1, z0, hm⟩ := layout32 (g := 5) (op := 449) a k (by decide) (by decide) rfl hw
  refine ⟨?_, hm, by rw [hg]; decide, nofun⟩
  rw [decodeWord_CX hg]
  unfold decodeCX
  rw [ho]
  show clear "HARM" (fld _ 5 7 = 0#7) (Instr.harm (fld _ 12 6) (fld _ 0 5)) = _
  rw [clear_ok (by simp only [z0, decide_true]), h0, h1]

theorem RoundTrip.hread (a : BitVec 6) (b : BitVec 6) (k : BitVec 5) : RoundTrip.Statement (.hread a b k) := by
  intro w lx h
  obtain ⟨hw, hl⟩ := Prod.ext_iff.mp (Option.some.inj h)
  subst hl
  obtain ⟨hg, ho, h0, h1, h2, z0, hm⟩ := layout33 (g := 5) (op := 450) a b k (by decide) (by decide) rfl hw
  refine ⟨?_, hm, by rw [hg]; decide, nofun⟩
  rw [decodeWord_CX hg]
  unfold decodeCX
  rw [ho]
  show clear "HREAD" (fld _ 5 1 = 0#1) (Instr.hread (fld _ 12 6) (fld _ 6 6) (fld _ 0 5)) = _
  rw [clear_ok (by simp only [z0, decide_true]), h0, h1, h2]

theorem RoundTrip.vadd (f : BitVec 3) (m : BitVec 3) (d : BitVec 5) (a : BitVec 5) (b : BitVec 5) :
    RoundTrip.Statement (.vadd f m d a b) := by
  intro w lx h
  obtain ⟨hw, hl⟩ := Prod.ext_iff.mp (Option.some.inj h)
  subst hl
  obtain ⟨hg, ho, h0, h1, h2, h3, h4, hm⟩ := layout34 (g := 6) (op := 0) f m d a b (by decide) (by decide) rfl hw
  refine ⟨?_, hm, by rw [hg]; decide, nofun⟩
  rw [decodeWord_VV hg]
  unfold decodeVV
  rw [ho]
  show Except.ok (Instr.vadd (fld _ 18 3) (fld _ 15 3) (fld _ 10 5) (fld _ 5 5) (fld _ 0 5)) = _
  rw [h0, h1, h2, h3, h4]

theorem RoundTrip.vsub (f : BitVec 3) (m : BitVec 3) (d : BitVec 5) (a : BitVec 5) (b : BitVec 5) :
    RoundTrip.Statement (.vsub f m d a b) := by
  intro w lx h
  obtain ⟨hw, hl⟩ := Prod.ext_iff.mp (Option.some.inj h)
  subst hl
  obtain ⟨hg, ho, h0, h1, h2, h3, h4, hm⟩ := layout34 (g := 6) (op := 1) f m d a b (by decide) (by decide) rfl hw
  refine ⟨?_, hm, by rw [hg]; decide, nofun⟩
  rw [decodeWord_VV hg]
  unfold decodeVV
  rw [ho]
  show Except.ok (Instr.vsub (fld _ 18 3) (fld _ 15 3) (fld _ 10 5) (fld _ 5 5) (fld _ 0 5)) = _
  rw [h0, h1, h2, h3, h4]

theorem RoundTrip.vmul (f : BitVec 3) (m : BitVec 3) (d : BitVec 5) (a : BitVec 5) (b : BitVec 5) :
    RoundTrip.Statement (.vmul f m d a b) := by
  intro w lx h
  obtain ⟨hw, hl⟩ := Prod.ext_iff.mp (Option.some.inj h)
  subst hl
  obtain ⟨hg, ho, h0, h1, h2, h3, h4, hm⟩ := layout34 (g := 6) (op := 2) f m d a b (by decide) (by decide) rfl hw
  refine ⟨?_, hm, by rw [hg]; decide, nofun⟩
  rw [decodeWord_VV hg]
  unfold decodeVV
  rw [ho]
  show Except.ok (Instr.vmul (fld _ 18 3) (fld _ 15 3) (fld _ 10 5) (fld _ 5 5) (fld _ 0 5)) = _
  rw [h0, h1, h2, h3, h4]

theorem RoundTrip.vfma (f : BitVec 3) (m : BitVec 3) (d : BitVec 5) (a : BitVec 5) (b : BitVec 5) :
    RoundTrip.Statement (.vfma f m d a b) := by
  intro w lx h
  obtain ⟨hw, hl⟩ := Prod.ext_iff.mp (Option.some.inj h)
  subst hl
  obtain ⟨hg, ho, h0, h1, h2, h3, h4, hm⟩ := layout34 (g := 6) (op := 3) f m d a b (by decide) (by decide) rfl hw
  refine ⟨?_, hm, by rw [hg]; decide, nofun⟩
  rw [decodeWord_VV hg]
  unfold decodeVV
  rw [ho]
  show Except.ok (Instr.vfma (fld _ 18 3) (fld _ 15 3) (fld _ 10 5) (fld _ 5 5) (fld _ 0 5)) = _
  rw [h0, h1, h2, h3, h4]

theorem RoundTrip.vfms (f : BitVec 3) (m : BitVec 3) (d : BitVec 5) (a : BitVec 5) (b : BitVec 5) :
    RoundTrip.Statement (.vfms f m d a b) := by
  intro w lx h
  obtain ⟨hw, hl⟩ := Prod.ext_iff.mp (Option.some.inj h)
  subst hl
  obtain ⟨hg, ho, h0, h1, h2, h3, h4, hm⟩ := layout34 (g := 6) (op := 4) f m d a b (by decide) (by decide) rfl hw
  refine ⟨?_, hm, by rw [hg]; decide, nofun⟩
  rw [decodeWord_VV hg]
  unfold decodeVV
  rw [ho]
  show Except.ok (Instr.vfms (fld _ 18 3) (fld _ 15 3) (fld _ 10 5) (fld _ 5 5) (fld _ 0 5)) = _
  rw [h0, h1, h2, h3, h4]

theorem RoundTrip.vfnma (f : BitVec 3) (m : BitVec 3) (d : BitVec 5) (a : BitVec 5) (b : BitVec 5) :
    RoundTrip.Statement (.vfnma f m d a b) := by
  intro w lx h
  obtain ⟨hw, hl⟩ := Prod.ext_iff.mp (Option.some.inj h)
  subst hl
  obtain ⟨hg, ho, h0, h1, h2, h3, h4, hm⟩ := layout34 (g := 6) (op := 5) f m d a b (by decide) (by decide) rfl hw
  refine ⟨?_, hm, by rw [hg]; decide, nofun⟩
  rw [decodeWord_VV hg]
  unfold decodeVV
  rw [ho]
  show Except.ok (Instr.vfnma (fld _ 18 3) (fld _ 15 3) (fld _ 10 5) (fld _ 5 5) (fld _ 0 5)) = _
  rw [h0, h1, h2, h3, h4]

theorem RoundTrip.vmin (f : BitVec 3) (m : BitVec 3) (d : BitVec 5) (a : BitVec 5) (b : BitVec 5) :
    RoundTrip.Statement (.vmin f m d a b) := by
  intro w lx h
  obtain ⟨hw, hl⟩ := Prod.ext_iff.mp (Option.some.inj h)
  subst hl
  obtain ⟨hg, ho, h0, h1, h2, h3, h4, hm⟩ := layout34 (g := 6) (op := 6) f m d a b (by decide) (by decide) rfl hw
  refine ⟨?_, hm, by rw [hg]; decide, nofun⟩
  rw [decodeWord_VV hg]
  unfold decodeVV
  rw [ho]
  show Except.ok (Instr.vmin (fld _ 18 3) (fld _ 15 3) (fld _ 10 5) (fld _ 5 5) (fld _ 0 5)) = _
  rw [h0, h1, h2, h3, h4]

theorem RoundTrip.vmax (f : BitVec 3) (m : BitVec 3) (d : BitVec 5) (a : BitVec 5) (b : BitVec 5) :
    RoundTrip.Statement (.vmax f m d a b) := by
  intro w lx h
  obtain ⟨hw, hl⟩ := Prod.ext_iff.mp (Option.some.inj h)
  subst hl
  obtain ⟨hg, ho, h0, h1, h2, h3, h4, hm⟩ := layout34 (g := 6) (op := 7) f m d a b (by decide) (by decide) rfl hw
  refine ⟨?_, hm, by rw [hg]; decide, nofun⟩
  rw [decodeWord_VV hg]
  unfold decodeVV
  rw [ho]
  show Except.ok (Instr.vmax (fld _ 18 3) (fld _ 15 3) (fld _ 10 5) (fld _ 5 5) (fld _ 0 5)) = _
  rw [h0, h1, h2, h3, h4]

theorem RoundTrip.vabs (f : BitVec 3) (m : BitVec 3) (d : BitVec 5) (a : BitVec 5) :
    RoundTrip.Statement (.vabs f m d a) := by
  intro w lx h
  obtain ⟨hw, hl⟩ := Prod.ext_iff.mp (Option.some.inj h)
  subst hl
  obtain ⟨hg, ho, h0, h1, h2, h3, z0, hm⟩ := layout35 (g := 6) (op := 8) f m d a (by decide) (by decide) rfl hw
  refine ⟨?_, hm, by rw [hg]; decide, nofun⟩
  rw [decodeWord_VV hg]
  unfold decodeVV
  rw [ho]
  show clear "VABS" (fld _ 0 5 = 0#5) (Instr.vabs (fld _ 18 3) (fld _ 15 3) (fld _ 10 5) (fld _ 5 5)) = _
  rw [clear_ok (by simp only [z0, decide_true]), h0, h1, h2, h3]

theorem RoundTrip.vneg (f : BitVec 3) (m : BitVec 3) (d : BitVec 5) (a : BitVec 5) :
    RoundTrip.Statement (.vneg f m d a) := by
  intro w lx h
  obtain ⟨hw, hl⟩ := Prod.ext_iff.mp (Option.some.inj h)
  subst hl
  obtain ⟨hg, ho, h0, h1, h2, h3, z0, hm⟩ := layout35 (g := 6) (op := 9) f m d a (by decide) (by decide) rfl hw
  refine ⟨?_, hm, by rw [hg]; decide, nofun⟩
  rw [decodeWord_VV hg]
  unfold decodeVV
  rw [ho]
  show clear "VNEG" (fld _ 0 5 = 0#5) (Instr.vneg (fld _ 18 3) (fld _ 15 3) (fld _ 10 5) (fld _ 5 5)) = _
  rw [clear_ok (by simp only [z0, decide_true]), h0, h1, h2, h3]

theorem RoundTrip.vand (f : BitVec 3) (m : BitVec 3) (d : BitVec 5) (a : BitVec 5) (b : BitVec 5) :
    RoundTrip.Statement (.vand f m d a b) := by
  intro w lx h
  obtain ⟨hw, hl⟩ := Prod.ext_iff.mp (Option.some.inj h)
  subst hl
  obtain ⟨hg, ho, h0, h1, h2, h3, h4, hm⟩ := layout34 (g := 6) (op := 10) f m d a b (by decide) (by decide) rfl hw
  refine ⟨?_, hm, by rw [hg]; decide, nofun⟩
  rw [decodeWord_VV hg]
  unfold decodeVV
  rw [ho]
  show Except.ok (Instr.vand (fld _ 18 3) (fld _ 15 3) (fld _ 10 5) (fld _ 5 5) (fld _ 0 5)) = _
  rw [h0, h1, h2, h3, h4]

theorem RoundTrip.vor (f : BitVec 3) (m : BitVec 3) (d : BitVec 5) (a : BitVec 5) (b : BitVec 5) :
    RoundTrip.Statement (.vor f m d a b) := by
  intro w lx h
  obtain ⟨hw, hl⟩ := Prod.ext_iff.mp (Option.some.inj h)
  subst hl
  obtain ⟨hg, ho, h0, h1, h2, h3, h4, hm⟩ := layout34 (g := 6) (op := 11) f m d a b (by decide) (by decide) rfl hw
  refine ⟨?_, hm, by rw [hg]; decide, nofun⟩
  rw [decodeWord_VV hg]
  unfold decodeVV
  rw [ho]
  show Except.ok (Instr.vor (fld _ 18 3) (fld _ 15 3) (fld _ 10 5) (fld _ 5 5) (fld _ 0 5)) = _
  rw [h0, h1, h2, h3, h4]

theorem RoundTrip.vxor (f : BitVec 3) (m : BitVec 3) (d : BitVec 5) (a : BitVec 5) (b : BitVec 5) :
    RoundTrip.Statement (.vxor f m d a b) := by
  intro w lx h
  obtain ⟨hw, hl⟩ := Prod.ext_iff.mp (Option.some.inj h)
  subst hl
  obtain ⟨hg, ho, h0, h1, h2, h3, h4, hm⟩ := layout34 (g := 6) (op := 12) f m d a b (by decide) (by decide) rfl hw
  refine ⟨?_, hm, by rw [hg]; decide, nofun⟩
  rw [decodeWord_VV hg]
  unfold decodeVV
  rw [ho]
  show Except.ok (Instr.vxor (fld _ 18 3) (fld _ 15 3) (fld _ 10 5) (fld _ 5 5) (fld _ 0 5)) = _
  rw [h0, h1, h2, h3, h4]

theorem RoundTrip.vnot (f : BitVec 3) (m : BitVec 3) (d : BitVec 5) (a : BitVec 5) :
    RoundTrip.Statement (.vnot f m d a) := by
  intro w lx h
  obtain ⟨hw, hl⟩ := Prod.ext_iff.mp (Option.some.inj h)
  subst hl
  obtain ⟨hg, ho, h0, h1, h2, h3, z0, hm⟩ := layout35 (g := 6) (op := 13) f m d a (by decide) (by decide) rfl hw
  refine ⟨?_, hm, by rw [hg]; decide, nofun⟩
  rw [decodeWord_VV hg]
  unfold decodeVV
  rw [ho]
  show clear "VNOT" (fld _ 0 5 = 0#5) (Instr.vnot (fld _ 18 3) (fld _ 15 3) (fld _ 10 5) (fld _ 5 5)) = _
  rw [clear_ok (by simp only [z0, decide_true]), h0, h1, h2, h3]

theorem RoundTrip.vshl (f : BitVec 3) (m : BitVec 3) (d : BitVec 5) (a : BitVec 5) (b : BitVec 5) :
    RoundTrip.Statement (.vshl f m d a b) := by
  intro w lx h
  obtain ⟨hw, hl⟩ := Prod.ext_iff.mp (Option.some.inj h)
  subst hl
  obtain ⟨hg, ho, h0, h1, h2, h3, h4, hm⟩ := layout34 (g := 6) (op := 14) f m d a b (by decide) (by decide) rfl hw
  refine ⟨?_, hm, by rw [hg]; decide, nofun⟩
  rw [decodeWord_VV hg]
  unfold decodeVV
  rw [ho]
  show Except.ok (Instr.vshl (fld _ 18 3) (fld _ 15 3) (fld _ 10 5) (fld _ 5 5) (fld _ 0 5)) = _
  rw [h0, h1, h2, h3, h4]

theorem RoundTrip.vshr (f : BitVec 3) (m : BitVec 3) (d : BitVec 5) (a : BitVec 5) (b : BitVec 5) :
    RoundTrip.Statement (.vshr f m d a b) := by
  intro w lx h
  obtain ⟨hw, hl⟩ := Prod.ext_iff.mp (Option.some.inj h)
  subst hl
  obtain ⟨hg, ho, h0, h1, h2, h3, h4, hm⟩ := layout34 (g := 6) (op := 15) f m d a b (by decide) (by decide) rfl hw
  refine ⟨?_, hm, by rw [hg]; decide, nofun⟩
  rw [decodeWord_VV hg]
  unfold decodeVV
  rw [ho]
  show Except.ok (Instr.vshr (fld _ 18 3) (fld _ 15 3) (fld _ 10 5) (fld _ 5 5) (fld _ 0 5)) = _
  rw [h0, h1, h2, h3, h4]

theorem RoundTrip.vsra (f : BitVec 3) (m : BitVec 3) (d : BitVec 5) (a : BitVec 5) (b : BitVec 5) :
    RoundTrip.Statement (.vsra f m d a b) := by
  intro w lx h
  obtain ⟨hw, hl⟩ := Prod.ext_iff.mp (Option.some.inj h)
  subst hl
  obtain ⟨hg, ho, h0, h1, h2, h3, h4, hm⟩ := layout34 (g := 6) (op := 16) f m d a b (by decide) (by decide) rfl hw
  refine ⟨?_, hm, by rw [hg]; decide, nofun⟩
  rw [decodeWord_VV hg]
  unfold decodeVV
  rw [ho]
  show Except.ok (Instr.vsra (fld _ 18 3) (fld _ 15 3) (fld _ 10 5) (fld _ 5 5) (fld _ 0 5)) = _
  rw [h0, h1, h2, h3, h4]

theorem RoundTrip.vmov (f : BitVec 3) (m : BitVec 3) (d : BitVec 5) (a : BitVec 5) :
    RoundTrip.Statement (.vmov f m d a) := by
  intro w lx h
  obtain ⟨hw, hl⟩ := Prod.ext_iff.mp (Option.some.inj h)
  subst hl
  obtain ⟨hg, ho, h0, h1, h2, h3, z0, hm⟩ := layout35 (g := 6) (op := 17) f m d a (by decide) (by decide) rfl hw
  refine ⟨?_, hm, by rw [hg]; decide, nofun⟩
  rw [decodeWord_VV hg]
  unfold decodeVV
  rw [ho]
  show clear "VMOV" (fld _ 0 5 = 0#5) (Instr.vmov (fld _ 18 3) (fld _ 15 3) (fld _ 10 5) (fld _ 5 5)) = _
  rw [clear_ok (by simp only [z0, decide_true]), h0, h1, h2, h3]

theorem RoundTrip.vsel (f : BitVec 3) (m : BitVec 3) (d : BitVec 5) (a : BitVec 5) (b : BitVec 5) :
    RoundTrip.Statement (.vsel f m d a b) := by
  intro w lx h
  obtain ⟨hw, hl⟩ := Prod.ext_iff.mp (Option.some.inj h)
  subst hl
  obtain ⟨hg, ho, h0, h1, h2, h3, h4, hm⟩ := layout34 (g := 6) (op := 18) f m d a b (by decide) (by decide) rfl hw
  refine ⟨?_, hm, by rw [hg]; decide, nofun⟩
  rw [decodeWord_VV hg]
  unfold decodeVV
  rw [ho]
  show Except.ok (Instr.vsel (fld _ 18 3) (fld _ 15 3) (fld _ 10 5) (fld _ 5 5) (fld _ 0 5)) = _
  rw [h0, h1, h2, h3, h4]

theorem RoundTrip.vceq (f : BitVec 3) (m : BitVec 3) (d : BitVec 5) (a : BitVec 5) (b : BitVec 5) :
    RoundTrip.Statement (.vceq f m d a b) := by
  intro w lx h
  obtain ⟨hw, hl⟩ := Prod.ext_iff.mp (Option.some.inj h)
  subst hl
  obtain ⟨hg, ho, h0, h1, h2, h3, h4, hm⟩ := layout34 (g := 6) (op := 19) f m d a b (by decide) (by decide) rfl hw
  refine ⟨?_, hm, by rw [hg]; decide, nofun⟩
  rw [decodeWord_VV hg]
  unfold decodeVV
  rw [ho]
  show Except.ok (Instr.vceq (fld _ 18 3) (fld _ 15 3) (fld _ 10 5) (fld _ 5 5) (fld _ 0 5)) = _
  rw [h0, h1, h2, h3, h4]

theorem RoundTrip.vcne (f : BitVec 3) (m : BitVec 3) (d : BitVec 5) (a : BitVec 5) (b : BitVec 5) :
    RoundTrip.Statement (.vcne f m d a b) := by
  intro w lx h
  obtain ⟨hw, hl⟩ := Prod.ext_iff.mp (Option.some.inj h)
  subst hl
  obtain ⟨hg, ho, h0, h1, h2, h3, h4, hm⟩ := layout34 (g := 6) (op := 20) f m d a b (by decide) (by decide) rfl hw
  refine ⟨?_, hm, by rw [hg]; decide, nofun⟩
  rw [decodeWord_VV hg]
  unfold decodeVV
  rw [ho]
  show Except.ok (Instr.vcne (fld _ 18 3) (fld _ 15 3) (fld _ 10 5) (fld _ 5 5) (fld _ 0 5)) = _
  rw [h0, h1, h2, h3, h4]

theorem RoundTrip.vclt (f : BitVec 3) (m : BitVec 3) (d : BitVec 5) (a : BitVec 5) (b : BitVec 5) :
    RoundTrip.Statement (.vclt f m d a b) := by
  intro w lx h
  obtain ⟨hw, hl⟩ := Prod.ext_iff.mp (Option.some.inj h)
  subst hl
  obtain ⟨hg, ho, h0, h1, h2, h3, h4, hm⟩ := layout34 (g := 6) (op := 21) f m d a b (by decide) (by decide) rfl hw
  refine ⟨?_, hm, by rw [hg]; decide, nofun⟩
  rw [decodeWord_VV hg]
  unfold decodeVV
  rw [ho]
  show Except.ok (Instr.vclt (fld _ 18 3) (fld _ 15 3) (fld _ 10 5) (fld _ 5 5) (fld _ 0 5)) = _
  rw [h0, h1, h2, h3, h4]

theorem RoundTrip.vcle (f : BitVec 3) (m : BitVec 3) (d : BitVec 5) (a : BitVec 5) (b : BitVec 5) :
    RoundTrip.Statement (.vcle f m d a b) := by
  intro w lx h
  obtain ⟨hw, hl⟩ := Prod.ext_iff.mp (Option.some.inj h)
  subst hl
  obtain ⟨hg, ho, h0, h1, h2, h3, h4, hm⟩ := layout34 (g := 6) (op := 22) f m d a b (by decide) (by decide) rfl hw
  refine ⟨?_, hm, by rw [hg]; decide, nofun⟩
  rw [decodeWord_VV hg]
  unfold decodeVV
  rw [ho]
  show Except.ok (Instr.vcle (fld _ 18 3) (fld _ 15 3) (fld _ 10 5) (fld _ 5 5) (fld _ 0 5)) = _
  rw [h0, h1, h2, h3, h4]

theorem RoundTrip.vscaleb (f : BitVec 3) (m : BitVec 3) (d : BitVec 5) (a : BitVec 5) (b : BitVec 5) :
    RoundTrip.Statement (.vscaleb f m d a b) := by
  intro w lx h
  obtain ⟨hw, hl⟩ := Prod.ext_iff.mp (Option.some.inj h)
  subst hl
  obtain ⟨hg, ho, h0, h1, h2, h3, h4, hm⟩ := layout34 (g := 6) (op := 23) f m d a b (by decide) (by decide) rfl hw
  refine ⟨?_, hm, by rw [hg]; decide, nofun⟩
  rw [decodeWord_VV hg]
  unfold decodeVV
  rw [ho]
  show Except.ok (Instr.vscaleb (fld _ 18 3) (fld _ 15 3) (fld _ 10 5) (fld _ 5 5) (fld _ 0 5)) = _
  rw [h0, h1, h2, h3, h4]

theorem RoundTrip.vexpo (f : BitVec 3) (m : BitVec 3) (d : BitVec 5) (a : BitVec 5) :
    RoundTrip.Statement (.vexpo f m d a) := by
  intro w lx h
  obtain ⟨hw, hl⟩ := Prod.ext_iff.mp (Option.some.inj h)
  subst hl
  obtain ⟨hg, ho, h0, h1, h2, h3, z0, hm⟩ := layout35 (g := 6) (op := 24) f m d a (by decide) (by decide) rfl hw
  refine ⟨?_, hm, by rw [hg]; decide, nofun⟩
  rw [decodeWord_VV hg]
  unfold decodeVV
  rw [ho]
  show clear "VEXPO" (fld _ 0 5 = 0#5) (Instr.vexpo (fld _ 18 3) (fld _ 15 3) (fld _ 10 5) (fld _ 5 5)) = _
  rw [clear_ok (by simp only [z0, decide_true]), h0, h1, h2, h3]

theorem RoundTrip.vcvt (f : BitVec 3) (m : BitVec 3) (d : BitVec 5) (a : BitVec 5) (p : BitVec 2) (s : BitVec 3) :
    RoundTrip.Statement (.vcvt f m d a p s) := by
  intro w lx h
  obtain ⟨hw, hl⟩ := Prod.ext_iff.mp (Option.some.inj h)
  subst hl
  obtain ⟨hg, ho, h0, h1, h2, h3, h4, h5,
    hm⟩ := layout36 (g := 7) (op := 0) f m d a p s (by decide) (by decide) rfl hw
  refine ⟨?_, hm, by rw [hg]; decide, nofun⟩
  rw [decodeWord_VR hg]
  unfold decodeVR
  rw [ho]
  show Except.ok (Instr.vcvt (fld _ 18 3) (fld _ 15 3) (fld _ 10 5) (fld _ 5 5) (fld _ 3 2) (fld _ 0 3)) = _
  rw [h0, h1, h2, h3, h4, h5]

theorem RoundTrip.vcvts (f : BitVec 3) (m : BitVec 3) (d : BitVec 5) (a : BitVec 5) (p : BitVec 2) (s : BitVec 3) :
    RoundTrip.Statement (.vcvts f m d a p s) := by
  intro w lx h
  obtain ⟨hw, hl⟩ := Prod.ext_iff.mp (Option.some.inj h)
  subst hl
  obtain ⟨hg, ho, h0, h1, h2, h3, h4, h5,
    hm⟩ := layout36 (g := 7) (op := 1) f m d a p s (by decide) (by decide) rfl hw
  refine ⟨?_, hm, by rw [hg]; decide, nofun⟩
  rw [decodeWord_VR hg]
  unfold decodeVR
  rw [ho]
  show Except.ok (Instr.vcvts (fld _ 18 3) (fld _ 15 3) (fld _ 10 5) (fld _ 5 5) (fld _ 3 2) (fld _ 0 3)) = _
  rw [h0, h1, h2, h3, h4, h5]

theorem RoundTrip.vrmax (f : BitVec 3) (m : BitVec 3) (d : BitVec 5) (a : BitVec 5) :
    RoundTrip.Statement (.vrmax f m d a) := by
  intro w lx h
  obtain ⟨hw, hl⟩ := Prod.ext_iff.mp (Option.some.inj h)
  subst hl
  obtain ⟨hg, ho, h0, h1, h2, h3, z0, hm⟩ := layout35 (g := 7) (op := 2) f m d a (by decide) (by decide) rfl hw
  refine ⟨?_, hm, by rw [hg]; decide, nofun⟩
  rw [decodeWord_VR hg]
  unfold decodeVR
  rw [ho]
  show clear "VRMAX" (fld _ 0 5 = 0#5) (Instr.vrmax (fld _ 18 3) (fld _ 15 3) (fld _ 10 5) (fld _ 5 5)) = _
  rw [clear_ok (by simp only [z0, decide_true]), h0, h1, h2, h3]

theorem RoundTrip.vrmin (f : BitVec 3) (m : BitVec 3) (d : BitVec 5) (a : BitVec 5) :
    RoundTrip.Statement (.vrmin f m d a) := by
  intro w lx h
  obtain ⟨hw, hl⟩ := Prod.ext_iff.mp (Option.some.inj h)
  subst hl
  obtain ⟨hg, ho, h0, h1, h2, h3, z0, hm⟩ := layout35 (g := 7) (op := 3) f m d a (by decide) (by decide) rfl hw
  refine ⟨?_, hm, by rw [hg]; decide, nofun⟩
  rw [decodeWord_VR hg]
  unfold decodeVR
  rw [ho]
  show clear "VRMIN" (fld _ 0 5 = 0#5) (Instr.vrmin (fld _ 18 3) (fld _ 15 3) (fld _ 10 5) (fld _ 5 5)) = _
  rw [clear_ok (by simp only [z0, decide_true]), h0, h1, h2, h3]

theorem RoundTrip.vrsum (f : BitVec 3) (m : BitVec 3) (d : BitVec 5) (a : BitVec 5) :
    RoundTrip.Statement (.vrsum f m d a) := by
  intro w lx h
  obtain ⟨hw, hl⟩ := Prod.ext_iff.mp (Option.some.inj h)
  subst hl
  obtain ⟨hg, ho, h0, h1, h2, h3, z0, hm⟩ := layout35 (g := 7) (op := 4) f m d a (by decide) (by decide) rfl hw
  refine ⟨?_, hm, by rw [hg]; decide, nofun⟩
  rw [decodeWord_VR hg]
  unfold decodeVR
  rw [ho]
  show clear "VRSUM" (fld _ 0 5 = 0#5) (Instr.vrsum (fld _ 18 3) (fld _ 15 3) (fld _ 10 5) (fld _ 5 5)) = _
  rw [clear_ok (by simp only [z0, decide_true]), h0, h1, h2, h3]

theorem RoundTrip.vrssq (f : BitVec 3) (m : BitVec 3) (d : BitVec 5) (a : BitVec 5) :
    RoundTrip.Statement (.vrssq f m d a) := by
  intro w lx h
  obtain ⟨hw, hl⟩ := Prod.ext_iff.mp (Option.some.inj h)
  subst hl
  obtain ⟨hg, ho, h0, h1, h2, h3, z0, hm⟩ := layout35 (g := 7) (op := 5) f m d a (by decide) (by decide) rfl hw
  refine ⟨?_, hm, by rw [hg]; decide, nofun⟩
  rw [decodeWord_VR hg]
  unfold decodeVR
  rw [ho]
  show clear "VRSSQ" (fld _ 0 5 = 0#5) (Instr.vrssq (fld _ 18 3) (fld _ 15 3) (fld _ 10 5) (fld _ 5 5)) = _
  rw [clear_ok (by simp only [z0, decide_true]), h0, h1, h2, h3]

theorem RoundTrip.vramax (f : BitVec 3) (m : BitVec 3) (d : BitVec 5) (a : BitVec 5) :
    RoundTrip.Statement (.vramax f m d a) := by
  intro w lx h
  obtain ⟨hw, hl⟩ := Prod.ext_iff.mp (Option.some.inj h)
  subst hl
  obtain ⟨hg, ho, h0, h1, h2, h3, z0, hm⟩ := layout35 (g := 7) (op := 6) f m d a (by decide) (by decide) rfl hw
  refine ⟨?_, hm, by rw [hg]; decide, nofun⟩
  rw [decodeWord_VR hg]
  unfold decodeVR
  rw [ho]
  show clear "VRAMAX" (fld _ 0 5 = 0#5) (Instr.vramax (fld _ 18 3) (fld _ 15 3) (fld _ 10 5) (fld _ 5 5)) = _
  rw [clear_ok (by simp only [z0, decide_true]), h0, h1, h2, h3]

theorem RoundTrip.vrarg (f : BitVec 3) (m : BitVec 3) (d : BitVec 5) (a : BitVec 5) :
    RoundTrip.Statement (.vrarg f m d a) := by
  intro w lx h
  obtain ⟨hw, hl⟩ := Prod.ext_iff.mp (Option.some.inj h)
  subst hl
  obtain ⟨hg, ho, h0, h1, h2, h3, z0, hm⟩ := layout35 (g := 7) (op := 7) f m d a (by decide) (by decide) rfl hw
  refine ⟨?_, hm, by rw [hg]; decide, nofun⟩
  rw [decodeWord_VR hg]
  unfold decodeVR
  rw [ho]
  show clear "VRARG" (fld _ 0 5 = 0#5) (Instr.vrarg (fld _ 18 3) (fld _ 15 3) (fld _ 10 5) (fld _ 5 5)) = _
  rw [clear_ok (by simp only [z0, decide_true]), h0, h1, h2, h3]

theorem RoundTrip.vcsum (f : BitVec 3) (m : BitVec 3) (d : BitVec 5) (a : BitVec 5) :
    RoundTrip.Statement (.vcsum f m d a) := by
  intro w lx h
  obtain ⟨hw, hl⟩ := Prod.ext_iff.mp (Option.some.inj h)
  subst hl
  obtain ⟨hg, ho, h0, h1, h2, h3, z0, hm⟩ := layout35 (g := 7) (op := 8) f m d a (by decide) (by decide) rfl hw
  refine ⟨?_, hm, by rw [hg]; decide, nofun⟩
  rw [decodeWord_VR hg]
  unfold decodeVR
  rw [ho]
  show clear "VCSUM" (fld _ 0 5 = 0#5) (Instr.vcsum (fld _ 18 3) (fld _ 15 3) (fld _ 10 5) (fld _ 5 5)) = _
  rw [clear_ok (by simp only [z0, decide_true]), h0, h1, h2, h3]

theorem RoundTrip.vscan (f : BitVec 3) (m : BitVec 3) (d : BitVec 5) (a : BitVec 5) :
    RoundTrip.Statement (.vscan f m d a) := by
  intro w lx h
  obtain ⟨hw, hl⟩ := Prod.ext_iff.mp (Option.some.inj h)
  subst hl
  obtain ⟨hg, ho, h0, h1, h2, h3, z0, hm⟩ := layout35 (g := 7) (op := 9) f m d a (by decide) (by decide) rfl hw
  refine ⟨?_, hm, by rw [hg]; decide, nofun⟩
  rw [decodeWord_VR hg]
  unfold decodeVR
  rw [ho]
  show clear "VSCAN" (fld _ 0 5 = 0#5) (Instr.vscan (fld _ 18 3) (fld _ 15 3) (fld _ 10 5) (fld _ 5 5)) = _
  rw [clear_ok (by simp only [z0, decide_true]), h0, h1, h2, h3]

theorem RoundTrip.vbrow (f : BitVec 3) (m : BitVec 3) (d : BitVec 5) (a : BitVec 5) :
    RoundTrip.Statement (.vbrow f m d a) := by
  intro w lx h
  obtain ⟨hw, hl⟩ := Prod.ext_iff.mp (Option.some.inj h)
  subst hl
  obtain ⟨hg, ho, h0, h1, h2, h3, z0, hm⟩ := layout35 (g := 7) (op := 10) f m d a (by decide) (by decide) rfl hw
  refine ⟨?_, hm, by rw [hg]; decide, nofun⟩
  rw [decodeWord_VR hg]
  unfold decodeVR
  rw [ho]
  show clear "VBROW" (fld _ 0 5 = 0#5) (Instr.vbrow (fld _ 18 3) (fld _ 15 3) (fld _ 10 5) (fld _ 5 5)) = _
  rw [clear_ok (by simp only [z0, decide_true]), h0, h1, h2, h3]

theorem RoundTrip.vbcol (f : BitVec 3) (m : BitVec 3) (d : BitVec 5) (a : BitVec 5) :
    RoundTrip.Statement (.vbcol f m d a) := by
  intro w lx h
  obtain ⟨hw, hl⟩ := Prod.ext_iff.mp (Option.some.inj h)
  subst hl
  obtain ⟨hg, ho, h0, h1, h2, h3, z0, hm⟩ := layout35 (g := 7) (op := 11) f m d a (by decide) (by decide) rfl hw
  refine ⟨?_, hm, by rw [hg]; decide, nofun⟩
  rw [decodeWord_VR hg]
  unfold decodeVR
  rw [ho]
  show clear "VBCOL" (fld _ 0 5 = 0#5) (Instr.vbcol (fld _ 18 3) (fld _ 15 3) (fld _ 10 5) (fld _ 5 5)) = _
  rw [clear_ok (by simp only [z0, decide_true]), h0, h1, h2, h3]

theorem RoundTrip.vsplat (f : BitVec 3) (m : BitVec 3) (d : BitVec 5) (a : BitVec 5) :
    RoundTrip.Statement (.vsplat f m d a) := by
  intro w lx h
  obtain ⟨hw, hl⟩ := Prod.ext_iff.mp (Option.some.inj h)
  subst hl
  obtain ⟨hg, ho, h0, h1, h2, h3, z0, hm⟩ := layout35 (g := 7) (op := 12) f m d a (by decide) (by decide) rfl hw
  refine ⟨?_, hm, by rw [hg]; decide, nofun⟩
  rw [decodeWord_VR hg]
  unfold decodeVR
  rw [ho]
  show clear "VSPLAT" (fld _ 0 5 = 0#5) (Instr.vsplat (fld _ 18 3) (fld _ 15 3) (fld _ 10 5) (fld _ 5 5)) = _
  rw [clear_ok (by simp only [z0, decide_true]), h0, h1, h2, h3]

theorem RoundTrip.vins (f : BitVec 3) (d : BitVec 5) (a : BitVec 5) (b : BitVec 5) :
    RoundTrip.Statement (.vins f d a b) := by
  intro w lx h
  obtain ⟨hw, hl⟩ := Prod.ext_iff.mp (Option.some.inj h)
  subst hl
  obtain ⟨hg, ho, h0, h1, h2, h3, z0, hm⟩ := layout37 (g := 7) (op := 13) f d a b (by decide) (by decide) rfl hw
  refine ⟨?_, hm, by rw [hg]; decide, nofun⟩
  rw [decodeWord_VR hg]
  unfold decodeVR
  rw [ho]
  show clear "VINS" (fld _ 15 3 = 0#3) (Instr.vins (fld _ 18 3) (fld _ 10 5) (fld _ 5 5) (fld _ 0 5)) = _
  rw [clear_ok (by simp only [z0, decide_true]), h0, h1, h2, h3]

theorem RoundTrip.vext (f : BitVec 3) (d : BitVec 5) (a : BitVec 5) (b : BitVec 5) :
    RoundTrip.Statement (.vext f d a b) := by
  intro w lx h
  obtain ⟨hw, hl⟩ := Prod.ext_iff.mp (Option.some.inj h)
  subst hl
  obtain ⟨hg, ho, h0, h1, h2, h3, z0, hm⟩ := layout37 (g := 7) (op := 14) f d a b (by decide) (by decide) rfl hw
  refine ⟨?_, hm, by rw [hg]; decide, nofun⟩
  rw [decodeWord_VR hg]
  unfold decodeVR
  rw [ho]
  show clear "VEXT" (fld _ 15 3 = 0#3) (Instr.vext (fld _ 18 3) (fld _ 10 5) (fld _ 5 5) (fld _ 0 5)) = _
  rw [clear_ok (by simp only [z0, decide_true]), h0, h1, h2, h3]

theorem RoundTrip.vperm (f : BitVec 3) (m : BitVec 3) (d : BitVec 5) (a : BitVec 5) (b : BitVec 5) :
    RoundTrip.Statement (.vperm f m d a b) := by
  intro w lx h
  obtain ⟨hw, hl⟩ := Prod.ext_iff.mp (Option.some.inj h)
  subst hl
  obtain ⟨hg, ho, h0, h1, h2, h3, h4, hm⟩ := layout34 (g := 7) (op := 15) f m d a b (by decide) (by decide) rfl hw
  refine ⟨?_, hm, by rw [hg]; decide, nofun⟩
  rw [decodeWord_VR hg]
  unfold decodeVR
  rw [ho]
  show Except.ok (Instr.vperm (fld _ 18 3) (fld _ 15 3) (fld _ 10 5) (fld _ 5 5) (fld _ 0 5)) = _
  rw [h0, h1, h2, h3, h4]

theorem RoundTrip.vtrans (f : BitVec 3) (m : BitVec 3) (d : BitVec 5) (a : BitVec 5) :
    RoundTrip.Statement (.vtrans f m d a) := by
  intro w lx h
  obtain ⟨hw, hl⟩ := Prod.ext_iff.mp (Option.some.inj h)
  subst hl
  obtain ⟨hg, ho, h0, h1, h2, h3, z0, hm⟩ := layout35 (g := 7) (op := 16) f m d a (by decide) (by decide) rfl hw
  refine ⟨?_, hm, by rw [hg]; decide, nofun⟩
  rw [decodeWord_VR hg]
  unfold decodeVR
  rw [ho]
  show clear "VTRANS" (fld _ 0 5 = 0#5) (Instr.vtrans (fld _ 18 3) (fld _ 15 3) (fld _ 10 5) (fld _ 5 5)) = _
  rw [clear_ok (by simp only [z0, decide_true]), h0, h1, h2, h3]

theorem RoundTrip.viota (f : BitVec 3) (m : BitVec 3) (d : BitVec 5) : RoundTrip.Statement (.viota f m d) := by
  intro w lx h
  obtain ⟨hw, hl⟩ := Prod.ext_iff.mp (Option.some.inj h)
  subst hl
  obtain ⟨hg, ho, h0, h1, h2, z0, hm⟩ := layout38 (g := 7) (op := 17) f m d (by decide) (by decide) rfl hw
  refine ⟨?_, hm, by rw [hg]; decide, nofun⟩
  rw [decodeWord_VR hg]
  unfold decodeVR
  rw [ho]
  show clear "VIOTA" (fld _ 0 10 = 0#10) (Instr.viota (fld _ 18 3) (fld _ 15 3) (fld _ 10 5)) = _
  rw [clear_ok (by simp only [z0, decide_true]), h0, h1, h2]

theorem RoundTrip.vrand (f : BitVec 3) (m : BitVec 3) (d : BitVec 5) (a : BitVec 5) :
    RoundTrip.Statement (.vrand f m d a) := by
  intro w lx h
  obtain ⟨hw, hl⟩ := Prod.ext_iff.mp (Option.some.inj h)
  subst hl
  obtain ⟨hg, ho, h0, h1, h2, h3, z0, hm⟩ := layout35 (g := 7) (op := 18) f m d a (by decide) (by decide) rfl hw
  refine ⟨?_, hm, by rw [hg]; decide, nofun⟩
  rw [decodeWord_VR hg]
  unfold decodeVR
  rw [ho]
  show clear "VRAND" (fld _ 0 5 = 0#5) (Instr.vrand (fld _ 18 3) (fld _ 15 3) (fld _ 10 5) (fld _ 5 5)) = _
  rw [clear_ok (by simp only [z0, decide_true]), h0, h1, h2, h3]

theorem RoundTrip.voxd (f : BitVec 3) (m : BitVec 3) (d : BitVec 5) (a : BitVec 5) (b : BitVec 5) :
    RoundTrip.Statement (.voxd f m d a b) := by
  intro w lx h
  obtain ⟨hw, hl⟩ := Prod.ext_iff.mp (Option.some.inj h)
  subst hl
  obtain ⟨hg, ho, h0, h1, h2, h3, h4, hm⟩ := layout34 (g := 7) (op := 19) f m d a b (by decide) (by decide) rfl hw
  refine ⟨?_, hm, by rw [hg]; decide, nofun⟩
  rw [decodeWord_VR hg]
  unfold decodeVR
  rw [ho]
  show Except.ok (Instr.voxd (fld _ 18 3) (fld _ 15 3) (fld _ 10 5) (fld _ 5 5) (fld _ 0 5)) = _
  rw [h0, h1, h2, h3, h4]

theorem RoundTrip.voxe (f : BitVec 3) (d : BitVec 5) (a : BitVec 5) (b : BitVec 5) :
    RoundTrip.Statement (.voxe f d a b) := by
  intro w lx h
  obtain ⟨hw, hl⟩ := Prod.ext_iff.mp (Option.some.inj h)
  subst hl
  obtain ⟨hg, ho, h0, h1, h2, h3, z0, hm⟩ := layout37 (g := 7) (op := 20) f d a b (by decide) (by decide) rfl hw
  refine ⟨?_, hm, by rw [hg]; decide, nofun⟩
  rw [decodeWord_VR hg]
  unfold decodeVR
  rw [ho]
  show clear "VOXE" (fld _ 15 3 = 0#3) (Instr.voxe (fld _ 18 3) (fld _ 10 5) (fld _ 5 5) (fld _ 0 5)) = _
  rw [clear_ok (by simp only [z0, decide_true]), h0, h1, h2, h3]

theorem RoundTrip.mand (d : BitVec 5) (a : BitVec 5) (b : BitVec 5) : RoundTrip.Statement (.mand d a b) := by
  intro w lx h
  obtain ⟨hw, hl⟩ := Prod.ext_iff.mp (Option.some.inj h)
  subst hl
  obtain ⟨hg, ho, h0, h1, h2, z0, hm⟩ := layout39 (g := 8) (op := 0) d a b (by decide) (by decide) rfl hw
  refine ⟨?_, hm, by rw [hg]; decide, nofun⟩
  rw [decodeWord_VM hg]
  unfold decodeVM
  rw [ho]
  show clear "MAND" (fld _ 15 6 = 0#6) (Instr.mand (fld _ 10 5) (fld _ 5 5) (fld _ 0 5)) = _
  rw [clear_ok (by simp only [z0, decide_true]), h0, h1, h2]

theorem RoundTrip.mor (d : BitVec 5) (a : BitVec 5) (b : BitVec 5) : RoundTrip.Statement (.mor d a b) := by
  intro w lx h
  obtain ⟨hw, hl⟩ := Prod.ext_iff.mp (Option.some.inj h)
  subst hl
  obtain ⟨hg, ho, h0, h1, h2, z0, hm⟩ := layout39 (g := 8) (op := 1) d a b (by decide) (by decide) rfl hw
  refine ⟨?_, hm, by rw [hg]; decide, nofun⟩
  rw [decodeWord_VM hg]
  unfold decodeVM
  rw [ho]
  show clear "MOR" (fld _ 15 6 = 0#6) (Instr.mor (fld _ 10 5) (fld _ 5 5) (fld _ 0 5)) = _
  rw [clear_ok (by simp only [z0, decide_true]), h0, h1, h2]

theorem RoundTrip.mxor (d : BitVec 5) (a : BitVec 5) (b : BitVec 5) : RoundTrip.Statement (.mxor d a b) := by
  intro w lx h
  obtain ⟨hw, hl⟩ := Prod.ext_iff.mp (Option.some.inj h)
  subst hl
  obtain ⟨hg, ho, h0, h1, h2, z0, hm⟩ := layout39 (g := 8) (op := 2) d a b (by decide) (by decide) rfl hw
  refine ⟨?_, hm, by rw [hg]; decide, nofun⟩
  rw [decodeWord_VM hg]
  unfold decodeVM
  rw [ho]
  show clear "MXOR" (fld _ 15 6 = 0#6) (Instr.mxor (fld _ 10 5) (fld _ 5 5) (fld _ 0 5)) = _
  rw [clear_ok (by simp only [z0, decide_true]), h0, h1, h2]

theorem RoundTrip.mnot (d : BitVec 5) (a : BitVec 5) : RoundTrip.Statement (.mnot d a) := by
  intro w lx h
  obtain ⟨hw, hl⟩ := Prod.ext_iff.mp (Option.some.inj h)
  subst hl
  obtain ⟨hg, ho, h0, h1, z0, z1, hm⟩ := layout40 (g := 8) (op := 3) d a (by decide) (by decide) rfl hw
  refine ⟨?_, hm, by rw [hg]; decide, nofun⟩
  rw [decodeWord_VM hg]
  unfold decodeVM
  rw [ho]
  show clear "MNOT" (fld _ 0 5 = 0#5 && fld _ 15 6 = 0#6) (Instr.mnot (fld _ 10 5) (fld _ 5 5)) = _
  rw [clear_ok (by simp only [z0, z1, decide_true, Bool.and_self]), h0, h1]

theorem RoundTrip.mpopc (f : BitVec 3) (d : BitVec 5) (a : BitVec 5) : RoundTrip.Statement (.mpopc f d a) := by
  intro w lx h
  obtain ⟨hw, hl⟩ := Prod.ext_iff.mp (Option.some.inj h)
  subst hl
  obtain ⟨hg, ho, h0, h1, h2, z0, z1, hm⟩ := layout41 (g := 8) (op := 4) f d a (by decide) (by decide) rfl hw
  refine ⟨?_, hm, by rw [hg]; decide, nofun⟩
  rw [decodeWord_VM hg]
  unfold decodeVM
  rw [ho]
  show clear "MPOPC" (fld _ 0 5 = 0#5 && fld _ 15 3 = 0#3) (Instr.mpopc (fld _ 18 3) (fld _ 10 5) (fld _ 5 5)) = _
  rw [clear_ok (by simp only [z0, z1, decide_true, Bool.and_self]), h0, h1, h2]

theorem RoundTrip.vtree (f : BitVec 3) (m : BitVec 3) (d : BitVec 5) (a : BitVec 5) (b : BitVec 5) :
    RoundTrip.Statement (.vtree f m d a b) := by
  intro w lx h
  obtain ⟨hw, hl⟩ := Prod.ext_iff.mp (Option.some.inj h)
  subst hl
  obtain ⟨hg, ho, h0, h1, h2, h3, h4, hm⟩ := layout34 (g := 8) (op := 5) f m d a b (by decide) (by decide) rfl hw
  refine ⟨?_, hm, by rw [hg]; decide, nofun⟩
  rw [decodeWord_VM hg]
  unfold decodeVM
  rw [ho]
  show Except.ok (Instr.vtree (fld _ 18 3) (fld _ 15 3) (fld _ 10 5) (fld _ 5 5) (fld _ 0 5)) = _
  rw [h0, h1, h2, h3, h4]

theorem RoundTrip.ppinit (d : BitVec 5) : RoundTrip.Statement (.ppinit d) := by
  intro w lx h
  obtain ⟨hw, hl⟩ := Prod.ext_iff.mp (Option.some.inj h)
  subst hl
  obtain ⟨hg, ho, h0, z0, z1, hm⟩ := layout42 (g := 8) (op := 6) d (by decide) (by decide) rfl hw
  refine ⟨?_, hm, by rw [hg]; decide, nofun⟩
  rw [decodeWord_VM hg]
  unfold decodeVM
  rw [ho]
  show clear "PPINIT" (fld _ 0 10 = 0#10 && fld _ 15 6 = 0#6) (Instr.ppinit (fld _ 10 5)) = _
  rw [clear_ok (by simp only [z0, z1, decide_true, Bool.and_self]), h0]

theorem RoundTrip.ppdeg (d : BitVec 5) (a : BitVec 5) : RoundTrip.Statement (.ppdeg d a) := by
  intro w lx h
  obtain ⟨hw, hl⟩ := Prod.ext_iff.mp (Option.some.inj h)
  subst hl
  obtain ⟨hg, ho, h0, h1, z0, z1, hm⟩ := layout40 (g := 8) (op := 7) d a (by decide) (by decide) rfl hw
  refine ⟨?_, hm, by rw [hg]; decide, nofun⟩
  rw [decodeWord_VM hg]
  unfold decodeVM
  rw [ho]
  show clear "PPDEG" (fld _ 0 5 = 0#5 && fld _ 15 6 = 0#6) (Instr.ppdeg (fld _ 10 5) (fld _ 5 5)) = _
  rw [clear_ok (by simp only [z0, z1, decide_true, Bool.and_self]), h0, h1]

theorem RoundTrip.ppmul (f : BitVec 3) (m : BitVec 3) (d : BitVec 5) (a : BitVec 5) (b : BitVec 5) :
    RoundTrip.Statement (.ppmul f m d a b) := by
  intro w lx h
  obtain ⟨hw, hl⟩ := Prod.ext_iff.mp (Option.some.inj h)
  subst hl
  obtain ⟨hg, ho, h0, h1, h2, h3, h4, hm⟩ := layout34 (g := 8) (op := 8) f m d a b (by decide) (by decide) rfl hw
  refine ⟨?_, hm, by rw [hg]; decide, nofun⟩
  rw [decodeWord_VM hg]
  unfold decodeVM
  rw [ho]
  show Except.ok (Instr.ppmul (fld _ 18 3) (fld _ 15 3) (fld _ 10 5) (fld _ 5 5) (fld _ 0 5)) = _
  rw [h0, h1, h2, h3, h4]

theorem RoundTrip.ppdiv (f : BitVec 3) (m : BitVec 3) (d : BitVec 5) (a : BitVec 5) (b : BitVec 5) :
    RoundTrip.Statement (.ppdiv f m d a b) := by
  intro w lx h
  obtain ⟨hw, hl⟩ := Prod.ext_iff.mp (Option.some.inj h)
  subst hl
  obtain ⟨hg, ho, h0, h1, h2, h3, h4, hm⟩ := layout34 (g := 8) (op := 9) f m d a b (by decide) (by decide) rfl hw
  refine ⟨?_, hm, by rw [hg]; decide, nofun⟩
  rw [decodeWord_VM hg]
  unfold decodeVM
  rw [ho]
  show Except.ok (Instr.ppdiv (fld _ 18 3) (fld _ 15 3) (fld _ 10 5) (fld _ 5 5) (fld _ 0 5)) = _
  rw [h0, h1, h2, h3, h4]

theorem RoundTrip.pprd (f : BitVec 3) (m : BitVec 3) (d : BitVec 5) (a : BitVec 5) (b : BitVec 5) :
    RoundTrip.Statement (.pprd f m d a b) := by
  intro w lx h
  obtain ⟨hw, hl⟩ := Prod.ext_iff.mp (Option.some.inj h)
  subst hl
  obtain ⟨hg, ho, h0, h1, h2, h3, h4, hm⟩ := layout34 (g := 8) (op := 10) f m d a b (by decide) (by decide) rfl hw
  refine ⟨?_, hm, by rw [hg]; decide, nofun⟩
  rw [decodeWord_VM hg]
  unfold decodeVM
  rw [ho]
  show Except.ok (Instr.pprd (fld _ 18 3) (fld _ 15 3) (fld _ 10 5) (fld _ 5 5) (fld _ 0 5)) = _
  rw [h0, h1, h2, h3, h4]

theorem RoundTrip.ppscale (d : BitVec 5) (a : BitVec 5) : RoundTrip.Statement (.ppscale d a) := by
  intro w lx h
  obtain ⟨hw, hl⟩ := Prod.ext_iff.mp (Option.some.inj h)
  subst hl
  obtain ⟨hg, ho, h0, h1, z0, z1, hm⟩ := layout40 (g := 8) (op := 11) d a (by decide) (by decide) rfl hw
  refine ⟨?_, hm, by rw [hg]; decide, nofun⟩
  rw [decodeWord_VM hg]
  unfold decodeVM
  rw [ho]
  show clear "PPSCALE" (fld _ 0 5 = 0#5 && fld _ 15 6 = 0#6) (Instr.ppscale (fld _ 10 5) (fld _ 5 5)) = _
  rw [clear_ok (by simp only [z0, z1, decide_true, Bool.and_self]), h0, h1]

theorem RoundTrip.ppstat (d : BitVec 5) (a : BitVec 5) : RoundTrip.Statement (.ppstat d a) := by
  intro w lx h
  obtain ⟨hw, hl⟩ := Prod.ext_iff.mp (Option.some.inj h)
  subst hl
  obtain ⟨hg, ho, h0, h1, z0, z1, hm⟩ := layout40 (g := 8) (op := 12) d a (by decide) (by decide) rfl hw
  refine ⟨?_, hm, by rw [hg]; decide, nofun⟩
  rw [decodeWord_VM hg]
  unfold decodeVM
  rw [ho]
  show clear "PPSTAT" (fld _ 0 5 = 0#5 && fld _ 15 6 = 0#6) (Instr.ppstat (fld _ 10 5) (fld _ 5 5)) = _
  rw [clear_ok (by simp only [z0, z1, decide_true, Bool.and_self]), h0, h1]

theorem RoundTrip.fexp2 (f : BitVec 3) (m : BitVec 3) (d : BitVec 5) (a : BitVec 5) :
    RoundTrip.Statement (.fexp2 f m d a) := by
  intro w lx h
  obtain ⟨hw, hl⟩ := Prod.ext_iff.mp (Option.some.inj h)
  subst hl
  obtain ⟨hg, ho, h0, h1, h2, h3, z0, hm⟩ := layout43 (g := 9) (op := 0) f m d a (by decide) (by decide) rfl hw
  refine ⟨?_, hm, by rw [hg]; decide, nofun⟩
  rw [decodeWord_FS hg]
  unfold decodeFS
  rw [ho]
  show clear "FEXP2" (fld _ 0 6 = 0#6) (Instr.fexp2 (fld _ 19 3) (fld _ 16 3) (fld _ 11 5) (fld _ 6 5)) = _
  rw [clear_ok (by simp only [z0, decide_true]), h0, h1, h2, h3]

theorem RoundTrip.fexp2m (f : BitVec 3) (m : BitVec 3) (d : BitVec 5) (a : BitVec 5) (b : BitVec 5) :
    RoundTrip.Statement (.fexp2m f m d a b) := by
  intro w lx h
  obtain ⟨hw, hl⟩ := Prod.ext_iff.mp (Option.some.inj h)
  subst hl
  obtain ⟨hg, ho, h0, h1, h2, h3, h4, z0, hm⟩ := layout44 (g := 9) (op := 1) f m d a b (by decide) (by decide) rfl hw
  refine ⟨?_, hm, by rw [hg]; decide, nofun⟩
  rw [decodeWord_FS hg]
  unfold decodeFS
  rw [ho]
  show clear "FEXP2M" (fld _ 0 1 = 0#1) (Instr.fexp2m (fld _ 19 3) (fld _ 16 3) (fld _ 11 5) (fld _ 6 5) (fld _ 1 5))
    = _
  rw [clear_ok (by simp only [z0, decide_true]), h0, h1, h2, h3, h4]

theorem RoundTrip.flog2 (f : BitVec 3) (m : BitVec 3) (d : BitVec 5) (a : BitVec 5) :
    RoundTrip.Statement (.flog2 f m d a) := by
  intro w lx h
  obtain ⟨hw, hl⟩ := Prod.ext_iff.mp (Option.some.inj h)
  subst hl
  obtain ⟨hg, ho, h0, h1, h2, h3, z0, hm⟩ := layout43 (g := 9) (op := 2) f m d a (by decide) (by decide) rfl hw
  refine ⟨?_, hm, by rw [hg]; decide, nofun⟩
  rw [decodeWord_FS hg]
  unfold decodeFS
  rw [ho]
  show clear "FLOG2" (fld _ 0 6 = 0#6) (Instr.flog2 (fld _ 19 3) (fld _ 16 3) (fld _ 11 5) (fld _ 6 5)) = _
  rw [clear_ok (by simp only [z0, decide_true]), h0, h1, h2, h3]

theorem RoundTrip.frcp (f : BitVec 3) (m : BitVec 3) (d : BitVec 5) (a : BitVec 5) :
    RoundTrip.Statement (.frcp f m d a) := by
  intro w lx h
  obtain ⟨hw, hl⟩ := Prod.ext_iff.mp (Option.some.inj h)
  subst hl
  obtain ⟨hg, ho, h0, h1, h2, h3, z0, hm⟩ := layout43 (g := 9) (op := 3) f m d a (by decide) (by decide) rfl hw
  refine ⟨?_, hm, by rw [hg]; decide, nofun⟩
  rw [decodeWord_FS hg]
  unfold decodeFS
  rw [ho]
  show clear "FRCP" (fld _ 0 6 = 0#6) (Instr.frcp (fld _ 19 3) (fld _ 16 3) (fld _ 11 5) (fld _ 6 5)) = _
  rw [clear_ok (by simp only [z0, decide_true]), h0, h1, h2, h3]

theorem RoundTrip.frsq (f : BitVec 3) (m : BitVec 3) (d : BitVec 5) (a : BitVec 5) :
    RoundTrip.Statement (.frsq f m d a) := by
  intro w lx h
  obtain ⟨hw, hl⟩ := Prod.ext_iff.mp (Option.some.inj h)
  subst hl
  obtain ⟨hg, ho, h0, h1, h2, h3, z0, hm⟩ := layout43 (g := 9) (op := 4) f m d a (by decide) (by decide) rfl hw
  refine ⟨?_, hm, by rw [hg]; decide, nofun⟩
  rw [decodeWord_FS hg]
  unfold decodeFS
  rw [ho]
  show clear "FRSQ" (fld _ 0 6 = 0#6) (Instr.frsq (fld _ 19 3) (fld _ 16 3) (fld _ 11 5) (fld _ 6 5)) = _
  rw [clear_ok (by simp only [z0, decide_true]), h0, h1, h2, h3]

theorem RoundTrip.fsqrt (f : BitVec 3) (m : BitVec 3) (d : BitVec 5) (a : BitVec 5) :
    RoundTrip.Statement (.fsqrt f m d a) := by
  intro w lx h
  obtain ⟨hw, hl⟩ := Prod.ext_iff.mp (Option.some.inj h)
  subst hl
  obtain ⟨hg, ho, h0, h1, h2, h3, z0, hm⟩ := layout43 (g := 9) (op := 5) f m d a (by decide) (by decide) rfl hw
  refine ⟨?_, hm, by rw [hg]; decide, nofun⟩
  rw [decodeWord_FS hg]
  unfold decodeFS
  rw [ho]
  show clear "FSQRT" (fld _ 0 6 = 0#6) (Instr.fsqrt (fld _ 19 3) (fld _ 16 3) (fld _ 11 5) (fld _ 6 5)) = _
  rw [clear_ok (by simp only [z0, decide_true]), h0, h1, h2, h3]

theorem RoundTrip.fsin (f : BitVec 3) (m : BitVec 3) (d : BitVec 5) (a : BitVec 5) :
    RoundTrip.Statement (.fsin f m d a) := by
  intro w lx h
  obtain ⟨hw, hl⟩ := Prod.ext_iff.mp (Option.some.inj h)
  subst hl
  obtain ⟨hg, ho, h0, h1, h2, h3, z0, hm⟩ := layout43 (g := 9) (op := 6) f m d a (by decide) (by decide) rfl hw
  refine ⟨?_, hm, by rw [hg]; decide, nofun⟩
  rw [decodeWord_FS hg]
  unfold decodeFS
  rw [ho]
  show clear "FSIN" (fld _ 0 6 = 0#6) (Instr.fsin (fld _ 19 3) (fld _ 16 3) (fld _ 11 5) (fld _ 6 5)) = _
  rw [clear_ok (by simp only [z0, decide_true]), h0, h1, h2, h3]

theorem RoundTrip.fcos (f : BitVec 3) (m : BitVec 3) (d : BitVec 5) (a : BitVec 5) :
    RoundTrip.Statement (.fcos f m d a) := by
  intro w lx h
  obtain ⟨hw, hl⟩ := Prod.ext_iff.mp (Option.some.inj h)
  subst hl
  obtain ⟨hg, ho, h0, h1, h2, h3, z0, hm⟩ := layout43 (g := 9) (op := 7) f m d a (by decide) (by decide) rfl hw
  refine ⟨?_, hm, by rw [hg]; decide, nofun⟩
  rw [decodeWord_FS hg]
  unfold decodeFS
  rw [ho]
  show clear "FCOS" (fld _ 0 6 = 0#6) (Instr.fcos (fld _ 19 3) (fld _ 16 3) (fld _ 11 5) (fld _ 6 5)) = _
  rw [clear_ok (by simp only [z0, decide_true]), h0, h1, h2, h3]

theorem RoundTrip.ftanh (f : BitVec 3) (m : BitVec 3) (d : BitVec 5) (a : BitVec 5) :
    RoundTrip.Statement (.ftanh f m d a) := by
  intro w lx h
  obtain ⟨hw, hl⟩ := Prod.ext_iff.mp (Option.some.inj h)
  subst hl
  obtain ⟨hg, ho, h0, h1, h2, h3, z0, hm⟩ := layout43 (g := 9) (op := 8) f m d a (by decide) (by decide) rfl hw
  refine ⟨?_, hm, by rw [hg]; decide, nofun⟩
  rw [decodeWord_FS hg]
  unfold decodeFS
  rw [ho]
  show clear "FTANH" (fld _ 0 6 = 0#6) (Instr.ftanh (fld _ 19 3) (fld _ 16 3) (fld _ 11 5) (fld _ 6 5)) = _
  rw [clear_ok (by simp only [z0, decide_true]), h0, h1, h2, h3]

theorem RoundTrip.fsigm (f : BitVec 3) (m : BitVec 3) (d : BitVec 5) (a : BitVec 5) :
    RoundTrip.Statement (.fsigm f m d a) := by
  intro w lx h
  obtain ⟨hw, hl⟩ := Prod.ext_iff.mp (Option.some.inj h)
  subst hl
  obtain ⟨hg, ho, h0, h1, h2, h3, z0, hm⟩ := layout43 (g := 9) (op := 9) f m d a (by decide) (by decide) rfl hw
  refine ⟨?_, hm, by rw [hg]; decide, nofun⟩
  rw [decodeWord_FS hg]
  unfold decodeFS
  rw [ho]
  show clear "FSIGM" (fld _ 0 6 = 0#6) (Instr.fsigm (fld _ 19 3) (fld _ 16 3) (fld _ 11 5) (fld _ 6 5)) = _
  rw [clear_ok (by simp only [z0, decide_true]), h0, h1, h2, h3]

theorem RoundTrip.ferf (f : BitVec 3) (m : BitVec 3) (d : BitVec 5) (a : BitVec 5) :
    RoundTrip.Statement (.ferf f m d a) := by
  intro w lx h
  obtain ⟨hw, hl⟩ := Prod.ext_iff.mp (Option.some.inj h)
  subst hl
  obtain ⟨hg, ho, h0, h1, h2, h3, z0, hm⟩ := layout43 (g := 9) (op := 10) f m d a (by decide) (by decide) rfl hw
  refine ⟨?_, hm, by rw [hg]; decide, nofun⟩
  rw [decodeWord_FS hg]
  unfold decodeFS
  rw [ho]
  show clear "FERF" (fld _ 0 6 = 0#6) (Instr.ferf (fld _ 19 3) (fld _ 16 3) (fld _ 11 5) (fld _ 6 5)) = _
  rw [clear_ok (by simp only [z0, decide_true]), h0, h1, h2, h3]

theorem RoundTrip.fsilu (f : BitVec 3) (m : BitVec 3) (d : BitVec 5) (a : BitVec 5) :
    RoundTrip.Statement (.fsilu f m d a) := by
  intro w lx h
  obtain ⟨hw, hl⟩ := Prod.ext_iff.mp (Option.some.inj h)
  subst hl
  obtain ⟨hg, ho, h0, h1, h2, h3, z0, hm⟩ := layout43 (g := 9) (op := 11) f m d a (by decide) (by decide) rfl hw
  refine ⟨?_, hm, by rw [hg]; decide, nofun⟩
  rw [decodeWord_FS hg]
  unfold decodeFS
  rw [ho]
  show clear "FSILU" (fld _ 0 6 = 0#6) (Instr.fsilu (fld _ 19 3) (fld _ 16 3) (fld _ 11 5) (fld _ 6 5)) = _
  rw [clear_ok (by simp only [z0, decide_true]), h0, h1, h2, h3]

theorem RoundTrip.ldb (d : BitVec 6) (a : BitVec 6) (o : BitVec 10) : RoundTrip.Statement (.ldb d a o) := by
  intro w lx h
  obtain ⟨hw, hl⟩ := Prod.ext_iff.mp (Option.some.inj h)
  subst hl
  obtain ⟨hg, ho, h0, h1, h2, hm⟩ := layout45 (g := 10) (op := 0) d a o (by decide) (by decide) rfl hw
  refine ⟨?_, hm, by rw [hg]; decide, nofun⟩
  rw [decodeWord_ML hg]
  unfold decodeML
  rw [ho]
  show Except.ok (Instr.ldb (fld _ 16 6) (fld _ 10 6) (fld _ 0 10)) = _
  rw [h0, h1, h2]

theorem RoundTrip.ldh (d : BitVec 6) (a : BitVec 6) (o : BitVec 10) : RoundTrip.Statement (.ldh d a o) := by
  intro w lx h
  obtain ⟨hw, hl⟩ := Prod.ext_iff.mp (Option.some.inj h)
  subst hl
  obtain ⟨hg, ho, h0, h1, h2, hm⟩ := layout45 (g := 10) (op := 1) d a o (by decide) (by decide) rfl hw
  refine ⟨?_, hm, by rw [hg]; decide, nofun⟩
  rw [decodeWord_ML hg]
  unfold decodeML
  rw [ho]
  show Except.ok (Instr.ldh (fld _ 16 6) (fld _ 10 6) (fld _ 0 10)) = _
  rw [h0, h1, h2]

theorem RoundTrip.ldw (d : BitVec 6) (a : BitVec 6) (o : BitVec 10) : RoundTrip.Statement (.ldw d a o) := by
  intro w lx h
  obtain ⟨hw, hl⟩ := Prod.ext_iff.mp (Option.some.inj h)
  subst hl
  obtain ⟨hg, ho, h0, h1, h2, hm⟩ := layout45 (g := 10) (op := 2) d a o (by decide) (by decide) rfl hw
  refine ⟨?_, hm, by rw [hg]; decide, nofun⟩
  rw [decodeWord_ML hg]
  unfold decodeML
  rw [ho]
  show Except.ok (Instr.ldw (fld _ 16 6) (fld _ 10 6) (fld _ 0 10)) = _
  rw [h0, h1, h2]

theorem RoundTrip.ldd (d : BitVec 6) (a : BitVec 6) (o : BitVec 10) : RoundTrip.Statement (.ldd d a o) := by
  intro w lx h
  obtain ⟨hw, hl⟩ := Prod.ext_iff.mp (Option.some.inj h)
  subst hl
  obtain ⟨hg, ho, h0, h1, h2, hm⟩ := layout45 (g := 10) (op := 3) d a o (by decide) (by decide) rfl hw
  refine ⟨?_, hm, by rw [hg]; decide, nofun⟩
  rw [decodeWord_ML hg]
  unfold decodeML
  rw [ho]
  show Except.ok (Instr.ldd (fld _ 16 6) (fld _ 10 6) (fld _ 0 10)) = _
  rw [h0, h1, h2]

theorem RoundTrip.ldbn (d : BitVec 6) (a : BitVec 6) (o : BitVec 10) : RoundTrip.Statement (.ldbn d a o) := by
  intro w lx h
  obtain ⟨hw, hl⟩ := Prod.ext_iff.mp (Option.some.inj h)
  subst hl
  obtain ⟨hg, ho, h0, h1, h2, hm⟩ := layout45 (g := 10) (op := 4) d a o (by decide) (by decide) rfl hw
  refine ⟨?_, hm, by rw [hg]; decide, nofun⟩
  rw [decodeWord_ML hg]
  unfold decodeML
  rw [ho]
  show Except.ok (Instr.ldbn (fld _ 16 6) (fld _ 10 6) (fld _ 0 10)) = _
  rw [h0, h1, h2]

theorem RoundTrip.ldhn (d : BitVec 6) (a : BitVec 6) (o : BitVec 10) : RoundTrip.Statement (.ldhn d a o) := by
  intro w lx h
  obtain ⟨hw, hl⟩ := Prod.ext_iff.mp (Option.some.inj h)
  subst hl
  obtain ⟨hg, ho, h0, h1, h2, hm⟩ := layout45 (g := 10) (op := 5) d a o (by decide) (by decide) rfl hw
  refine ⟨?_, hm, by rw [hg]; decide, nofun⟩
  rw [decodeWord_ML hg]
  unfold decodeML
  rw [ho]
  show Except.ok (Instr.ldhn (fld _ 16 6) (fld _ 10 6) (fld _ 0 10)) = _
  rw [h0, h1, h2]

theorem RoundTrip.ldwn (d : BitVec 6) (a : BitVec 6) (o : BitVec 10) : RoundTrip.Statement (.ldwn d a o) := by
  intro w lx h
  obtain ⟨hw, hl⟩ := Prod.ext_iff.mp (Option.some.inj h)
  subst hl
  obtain ⟨hg, ho, h0, h1, h2, hm⟩ := layout45 (g := 10) (op := 6) d a o (by decide) (by decide) rfl hw
  refine ⟨?_, hm, by rw [hg]; decide, nofun⟩
  rw [decodeWord_ML hg]
  unfold decodeML
  rw [ho]
  show Except.ok (Instr.ldwn (fld _ 16 6) (fld _ 10 6) (fld _ 0 10)) = _
  rw [h0, h1, h2]

theorem RoundTrip.stb (d : BitVec 6) (a : BitVec 6) (o : BitVec 10) : RoundTrip.Statement (.stb d a o) := by
  intro w lx h
  obtain ⟨hw, hl⟩ := Prod.ext_iff.mp (Option.some.inj h)
  subst hl
  obtain ⟨hg, ho, h0, h1, h2, hm⟩ := layout45 (g := 10) (op := 7) d a o (by decide) (by decide) rfl hw
  refine ⟨?_, hm, by rw [hg]; decide, nofun⟩
  rw [decodeWord_ML hg]
  unfold decodeML
  rw [ho]
  show Except.ok (Instr.stb (fld _ 16 6) (fld _ 10 6) (fld _ 0 10)) = _
  rw [h0, h1, h2]

theorem RoundTrip.sth (d : BitVec 6) (a : BitVec 6) (o : BitVec 10) : RoundTrip.Statement (.sth d a o) := by
  intro w lx h
  obtain ⟨hw, hl⟩ := Prod.ext_iff.mp (Option.some.inj h)
  subst hl
  obtain ⟨hg, ho, h0, h1, h2, hm⟩ := layout45 (g := 10) (op := 8) d a o (by decide) (by decide) rfl hw
  refine ⟨?_, hm, by rw [hg]; decide, nofun⟩
  rw [decodeWord_ML hg]
  unfold decodeML
  rw [ho]
  show Except.ok (Instr.sth (fld _ 16 6) (fld _ 10 6) (fld _ 0 10)) = _
  rw [h0, h1, h2]

theorem RoundTrip.stw (d : BitVec 6) (a : BitVec 6) (o : BitVec 10) : RoundTrip.Statement (.stw d a o) := by
  intro w lx h
  obtain ⟨hw, hl⟩ := Prod.ext_iff.mp (Option.some.inj h)
  subst hl
  obtain ⟨hg, ho, h0, h1, h2, hm⟩ := layout45 (g := 10) (op := 9) d a o (by decide) (by decide) rfl hw
  refine ⟨?_, hm, by rw [hg]; decide, nofun⟩
  rw [decodeWord_ML hg]
  unfold decodeML
  rw [ho]
  show Except.ok (Instr.stw (fld _ 16 6) (fld _ 10 6) (fld _ 0 10)) = _
  rw [h0, h1, h2]

theorem RoundTrip.std (d : BitVec 6) (a : BitVec 6) (o : BitVec 10) : RoundTrip.Statement (.std d a o) := by
  intro w lx h
  obtain ⟨hw, hl⟩ := Prod.ext_iff.mp (Option.some.inj h)
  subst hl
  obtain ⟨hg, ho, h0, h1, h2, hm⟩ := layout45 (g := 10) (op := 10) d a o (by decide) (by decide) rfl hw
  refine ⟨?_, hm, by rw [hg]; decide, nofun⟩
  rw [decodeWord_ML hg]
  unfold decodeML
  rw [ho]
  show Except.ok (Instr.std (fld _ 16 6) (fld _ 10 6) (fld _ 0 10)) = _
  rw [h0, h1, h2]

theorem RoundTrip.vld (d : BitVec 5) (a : BitVec 6) (o : BitVec 10) : RoundTrip.Statement (.vld d a o) := by
  intro w lx h
  obtain ⟨hw, hl⟩ := Prod.ext_iff.mp (Option.some.inj h)
  subst hl
  obtain ⟨hg, ho, h0, h1, h2, z0, hm⟩ := layout46 (g := 10) (op := 11) d a o (by decide) (by decide) rfl hw
  refine ⟨?_, hm, by rw [hg]; decide, nofun⟩
  rw [decodeWord_ML hg]
  unfold decodeML
  rw [ho]
  show clear "VLD" (fld _ 21 1 = 0#1) (Instr.vld (fld _ 16 5) (fld _ 10 6) (fld _ 0 10)) = _
  rw [clear_ok (by simp only [z0, decide_true]), h0, h1, h2]

theorem RoundTrip.vst (d : BitVec 5) (a : BitVec 6) (o : BitVec 10) : RoundTrip.Statement (.vst d a o) := by
  intro w lx h
  obtain ⟨hw, hl⟩ := Prod.ext_iff.mp (Option.some.inj h)
  subst hl
  obtain ⟨hg, ho, h0, h1, h2, z0, hm⟩ := layout46 (g := 10) (op := 12) d a o (by decide) (by decide) rfl hw
  refine ⟨?_, hm, by rw [hg]; decide, nofun⟩
  rw [decodeWord_ML hg]
  unfold decodeML
  rw [ho]
  show clear "VST" (fld _ 21 1 = 0#1) (Instr.vst (fld _ 16 5) (fld _ 10 6) (fld _ 0 10)) = _
  rw [clear_ok (by simp only [z0, decide_true]), h0, h1, h2]

theorem RoundTrip.vldx (d : BitVec 5) (a : BitVec 6) (o : BitVec 10) : RoundTrip.Statement (.vldx d a o) := by
  intro w lx h
  obtain ⟨hw, hl⟩ := Prod.ext_iff.mp (Option.some.inj h)
  subst hl
  obtain ⟨hg, ho, h0, h1, h2, z0, hm⟩ := layout46 (g := 10) (op := 13) d a o (by decide) (by decide) rfl hw
  refine ⟨?_, hm, by rw [hg]; decide, nofun⟩
  rw [decodeWord_ML hg]
  unfold decodeML
  rw [ho]
  show clear "VLDX" (fld _ 21 1 = 0#1) (Instr.vldx (fld _ 16 5) (fld _ 10 6) (fld _ 0 10)) = _
  rw [clear_ok (by simp only [z0, decide_true]), h0, h1, h2]

theorem RoundTrip.ldf (d : BitVec 6) (a : BitVec 6) (o : BitVec 10) : RoundTrip.Statement (.ldf d a o) := by
  intro w lx h
  obtain ⟨hw, hl⟩ := Prod.ext_iff.mp (Option.some.inj h)
  subst hl
  obtain ⟨hg, ho, h0, h1, h2, hm⟩ := layout45 (g := 10) (op := 14) d a o (by decide) (by decide) rfl hw
  refine ⟨?_, hm, by rw [hg]; decide, nofun⟩
  rw [decodeWord_ML hg]
  unfold decodeML
  rw [ho]
  show Except.ok (Instr.ldf (fld _ 16 6) (fld _ 10 6) (fld _ 0 10)) = _
  rw [h0, h1, h2]

theorem RoundTrip.ppsave (d : BitVec 3) (a : BitVec 6) (o : BitVec 10) : RoundTrip.Statement (.ppsave d a o) := by
  intro w lx h
  obtain ⟨hw, hl⟩ := Prod.ext_iff.mp (Option.some.inj h)
  subst hl
  obtain ⟨hg, ho, h0, h1, h2, z0, hm⟩ := layout47 (g := 10) (op := 15) d a o (by decide) (by decide) rfl hw
  refine ⟨?_, hm, by rw [hg]; decide, nofun⟩
  rw [decodeWord_ML hg]
  unfold decodeML
  rw [ho]
  show clear "PPSAVE" (fld _ 19 3 = 0#3) (Instr.ppsave (fld _ 16 3) (fld _ 10 6) (fld _ 0 10)) = _
  rw [clear_ok (by simp only [z0, decide_true]), h0, h1, h2]

theorem RoundTrip.ppload (d : BitVec 3) (a : BitVec 6) (o : BitVec 10) : RoundTrip.Statement (.ppload d a o) := by
  intro w lx h
  obtain ⟨hw, hl⟩ := Prod.ext_iff.mp (Option.some.inj h)
  subst hl
  obtain ⟨hg, ho, h0, h1, h2, z0, hm⟩ := layout47 (g := 10) (op := 16) d a o (by decide) (by decide) rfl hw
  refine ⟨?_, hm, by rw [hg]; decide, nofun⟩
  rw [decodeWord_ML hg]
  unfold decodeML
  rw [ho]
  show clear "PPLOAD" (fld _ 19 3 = 0#3) (Instr.ppload (fld _ 16 3) (fld _ 10 6) (fld _ 0 10)) = _
  rw [clear_ok (by simp only [z0, decide_true]), h0, h1, h2]

theorem RoundTrip.aadd (d : BitVec 6) (a : BitVec 6) (b : BitVec 6) (s : BitVec 3) (r : BitVec 1) :
    RoundTrip.Statement (.aadd d a b s r) := by
  intro w lx h
  obtain ⟨hw, hl⟩ := Prod.ext_iff.mp (Option.some.inj h)
  subst hl
  obtain ⟨hg, ho, h0, h1, h2, h3, h4, hm⟩ := layout48 (g := 11) (op := 0) d a b s r (by decide) (by decide) rfl hw
  refine ⟨?_, hm, by rw [hg]; decide, nofun⟩
  rw [decodeWord_MA hg]
  unfold decodeMA
  rw [ho]
  show Except.ok (Instr.aadd (fld _ 16 6) (fld _ 10 6) (fld _ 4 6) (fld _ 1 3) (fld _ 0 1)) = _
  rw [h0, h1, h2, h3, h4]

theorem RoundTrip.amin (d : BitVec 6) (a : BitVec 6) (b : BitVec 6) (s : BitVec 3) (r : BitVec 1) :
    RoundTrip.Statement (.amin d a b s r) := by
  intro w lx h
  obtain ⟨hw, hl⟩ := Prod.ext_iff.mp (Option.some.inj h)
  subst hl
  obtain ⟨hg, ho, h0, h1, h2, h3, h4, hm⟩ := layout48 (g := 11) (op := 1) d a b s r (by decide) (by decide) rfl hw
  refine ⟨?_, hm, by rw [hg]; decide, nofun⟩
  rw [decodeWord_MA hg]
  unfold decodeMA
  rw [ho]
  show Except.ok (Instr.amin (fld _ 16 6) (fld _ 10 6) (fld _ 4 6) (fld _ 1 3) (fld _ 0 1)) = _
  rw [h0, h1, h2, h3, h4]

theorem RoundTrip.amax (d : BitVec 6) (a : BitVec 6) (b : BitVec 6) (s : BitVec 3) (r : BitVec 1) :
    RoundTrip.Statement (.amax d a b s r) := by
  intro w lx h
  obtain ⟨hw, hl⟩ := Prod.ext_iff.mp (Option.some.inj h)
  subst hl
  obtain ⟨hg, ho, h0, h1, h2, h3, h4, hm⟩ := layout48 (g := 11) (op := 2) d a b s r (by decide) (by decide) rfl hw
  refine ⟨?_, hm, by rw [hg]; decide, nofun⟩
  rw [decodeWord_MA hg]
  unfold decodeMA
  rw [ho]
  show Except.ok (Instr.amax (fld _ 16 6) (fld _ 10 6) (fld _ 4 6) (fld _ 1 3) (fld _ 0 1)) = _
  rw [h0, h1, h2, h3, h4]

theorem RoundTrip.aminn (d : BitVec 6) (a : BitVec 6) (b : BitVec 6) (s : BitVec 3) (r : BitVec 1) :
    RoundTrip.Statement (.aminn d a b s r) := by
  intro w lx h
  obtain ⟨hw, hl⟩ := Prod.ext_iff.mp (Option.some.inj h)
  subst hl
  obtain ⟨hg, ho, h0, h1, h2, h3, h4, hm⟩ := layout48 (g := 11) (op := 3) d a b s r (by decide) (by decide) rfl hw
  refine ⟨?_, hm, by rw [hg]; decide, nofun⟩
  rw [decodeWord_MA hg]
  unfold decodeMA
  rw [ho]
  show Except.ok (Instr.aminn (fld _ 16 6) (fld _ 10 6) (fld _ 4 6) (fld _ 1 3) (fld _ 0 1)) = _
  rw [h0, h1, h2, h3, h4]

theorem RoundTrip.amaxn (d : BitVec 6) (a : BitVec 6) (b : BitVec 6) (s : BitVec 3) (r : BitVec 1) :
    RoundTrip.Statement (.amaxn d a b s r) := by
  intro w lx h
  obtain ⟨hw, hl⟩ := Prod.ext_iff.mp (Option.some.inj h)
  subst hl
  obtain ⟨hg, ho, h0, h1, h2, h3, h4, hm⟩ := layout48 (g := 11) (op := 4) d a b s r (by decide) (by decide) rfl hw
  refine ⟨?_, hm, by rw [hg]; decide, nofun⟩
  rw [decodeWord_MA hg]
  unfold decodeMA
  rw [ho]
  show Except.ok (Instr.amaxn (fld _ 16 6) (fld _ 10 6) (fld _ 4 6) (fld _ 1 3) (fld _ 0 1)) = _
  rw [h0, h1, h2, h3, h4]

theorem RoundTrip.aand (d : BitVec 6) (a : BitVec 6) (b : BitVec 6) (s : BitVec 3) (r : BitVec 1) :
    RoundTrip.Statement (.aand d a b s r) := by
  intro w lx h
  obtain ⟨hw, hl⟩ := Prod.ext_iff.mp (Option.some.inj h)
  subst hl
  obtain ⟨hg, ho, h0, h1, h2, h3, h4, hm⟩ := layout48 (g := 11) (op := 5) d a b s r (by decide) (by decide) rfl hw
  refine ⟨?_, hm, by rw [hg]; decide, nofun⟩
  rw [decodeWord_MA hg]
  unfold decodeMA
  rw [ho]
  show Except.ok (Instr.aand (fld _ 16 6) (fld _ 10 6) (fld _ 4 6) (fld _ 1 3) (fld _ 0 1)) = _
  rw [h0, h1, h2, h3, h4]

theorem RoundTrip.aor (d : BitVec 6) (a : BitVec 6) (b : BitVec 6) (s : BitVec 3) (r : BitVec 1) :
    RoundTrip.Statement (.aor d a b s r) := by
  intro w lx h
  obtain ⟨hw, hl⟩ := Prod.ext_iff.mp (Option.some.inj h)
  subst hl
  obtain ⟨hg, ho, h0, h1, h2, h3, h4, hm⟩ := layout48 (g := 11) (op := 6) d a b s r (by decide) (by decide) rfl hw
  refine ⟨?_, hm, by rw [hg]; decide, nofun⟩
  rw [decodeWord_MA hg]
  unfold decodeMA
  rw [ho]
  show Except.ok (Instr.aor (fld _ 16 6) (fld _ 10 6) (fld _ 4 6) (fld _ 1 3) (fld _ 0 1)) = _
  rw [h0, h1, h2, h3, h4]

theorem RoundTrip.axor (d : BitVec 6) (a : BitVec 6) (b : BitVec 6) (s : BitVec 3) (r : BitVec 1) :
    RoundTrip.Statement (.axor d a b s r) := by
  intro w lx h
  obtain ⟨hw, hl⟩ := Prod.ext_iff.mp (Option.some.inj h)
  subst hl
  obtain ⟨hg, ho, h0, h1, h2, h3, h4, hm⟩ := layout48 (g := 11) (op := 7) d a b s r (by decide) (by decide) rfl hw
  refine ⟨?_, hm, by rw [hg]; decide, nofun⟩
  rw [decodeWord_MA hg]
  unfold decodeMA
  rw [ho]
  show Except.ok (Instr.axor (fld _ 16 6) (fld _ 10 6) (fld _ 4 6) (fld _ 1 3) (fld _ 0 1)) = _
  rw [h0, h1, h2, h3, h4]

theorem RoundTrip.aswap (d : BitVec 6) (a : BitVec 6) (b : BitVec 6) (s : BitVec 3) (r : BitVec 1) :
    RoundTrip.Statement (.aswap d a b s r) := by
  intro w lx h
  obtain ⟨hw, hl⟩ := Prod.ext_iff.mp (Option.some.inj h)
  subst hl
  obtain ⟨hg, ho, h0, h1, h2, h3, h4, hm⟩ := layout48 (g := 11) (op := 8) d a b s r (by decide) (by decide) rfl hw
  refine ⟨?_, hm, by rw [hg]; decide, nofun⟩
  rw [decodeWord_MA hg]
  unfold decodeMA
  rw [ho]
  show Except.ok (Instr.aswap (fld _ 16 6) (fld _ 10 6) (fld _ 4 6) (fld _ 1 3) (fld _ 0 1)) = _
  rw [h0, h1, h2, h3, h4]

theorem RoundTrip.acas (d : BitVec 6) (a : BitVec 6) (b : BitVec 6) (s : BitVec 3) (r : BitVec 1) :
    RoundTrip.Statement (.acas d a b s r) := by
  intro w lx h
  obtain ⟨hw, hl⟩ := Prod.ext_iff.mp (Option.some.inj h)
  subst hl
  obtain ⟨hg, ho, h0, h1, h2, h3, h4, hm⟩ := layout48 (g := 11) (op := 9) d a b s r (by decide) (by decide) rfl hw
  refine ⟨?_, hm, by rw [hg]; decide, nofun⟩
  rw [decodeWord_MA hg]
  unfold decodeMA
  rw [ho]
  show Except.ok (Instr.acas (fld _ 16 6) (fld _ 10 6) (fld _ 4 6) (fld _ 1 3) (fld _ 0 1)) = _
  rw [h0, h1, h2, h3, h4]

theorem RoundTrip.agts (d : BitVec 6) (a : BitVec 6) (b : BitVec 6) (s : BitVec 3) (r : BitVec 1) :
    RoundTrip.Statement (.agts d a b s r) := by
  intro w lx h
  obtain ⟨hw, hl⟩ := Prod.ext_iff.mp (Option.some.inj h)
  subst hl
  obtain ⟨hg, ho, h0, h1, h2, h3, h4, hm⟩ := layout48 (g := 11) (op := 10) d a b s r (by decide) (by decide) rfl hw
  refine ⟨?_, hm, by rw [hg]; decide, nofun⟩
  rw [decodeWord_MA hg]
  unfold decodeMA
  rw [ho]
  show Except.ok (Instr.agts (fld _ 16 6) (fld _ 10 6) (fld _ 4 6) (fld _ 1 3) (fld _ 0 1)) = _
  rw [h0, h1, h2, h3, h4]

theorem RoundTrip.agtsn (d : BitVec 6) (a : BitVec 6) (b : BitVec 6) (s : BitVec 3) (r : BitVec 1) :
    RoundTrip.Statement (.agtsn d a b s r) := by
  intro w lx h
  obtain ⟨hw, hl⟩ := Prod.ext_iff.mp (Option.some.inj h)
  subst hl
  obtain ⟨hg, ho, h0, h1, h2, h3, h4, hm⟩ := layout48 (g := 11) (op := 11) d a b s r (by decide) (by decide) rfl hw
  refine ⟨?_, hm, by rw [hg]; decide, nofun⟩
  rw [decodeWord_MA hg]
  unfold decodeMA
  rw [ho]
  show Except.ok (Instr.agtsn (fld _ 16 6) (fld _ 10 6) (fld _ 4 6) (fld _ 1 3) (fld _ 0 1)) = _
  rw [h0, h1, h2, h3, h4]

theorem RoundTrip.avswap (d : BitVec 6) (a : BitVec 6) (b : BitVec 6) (s : BitVec 3) (r : BitVec 1) :
    RoundTrip.Statement (.avswap d a b s r) := by
  intro w lx h
  obtain ⟨hw, hl⟩ := Prod.ext_iff.mp (Option.some.inj h)
  subst hl
  obtain ⟨hg, ho, h0, h1, h2, h3, h4, hm⟩ := layout48 (g := 11) (op := 12) d a b s r (by decide) (by decide) rfl hw
  refine ⟨?_, hm, by rw [hg]; decide, nofun⟩
  rw [decodeWord_MA hg]
  unfold decodeMA
  rw [ho]
  show Except.ok (Instr.avswap (fld _ 16 6) (fld _ 10 6) (fld _ 4 6) (fld _ 1 3) (fld _ 0 1)) = _
  rw [h0, h1, h2, h3, h4]

theorem RoundTrip.atagswap (d : BitVec 6) (a : BitVec 6) (b : BitVec 6) (s : BitVec 3) (r : BitVec 1) :
    RoundTrip.Statement (.atagswap d a b s r) := by
  intro w lx h
  obtain ⟨hw, hl⟩ := Prod.ext_iff.mp (Option.some.inj h)
  subst hl
  obtain ⟨hg, ho, h0, h1, h2, h3, h4, hm⟩ := layout48 (g := 11) (op := 13) d a b s r (by decide) (by decide) rfl hw
  refine ⟨?_, hm, by rw [hg]; decide, nofun⟩
  rw [decodeWord_MA hg]
  unfold decodeMA
  rw [ho]
  show Except.ok (Instr.atagswap (fld _ 16 6) (fld _ 10 6) (fld _ 4 6) (fld _ 1 3) (fld _ 0 1)) = _
  rw [h0, h1, h2, h3, h4]

theorem RoundTrip.afadd (d : BitVec 6) (a : BitVec 6) (b : BitVec 6) (s : BitVec 3) (r : BitVec 1) :
    RoundTrip.Statement (.afadd d a b s r) := by
  intro w lx h
  obtain ⟨hw, hl⟩ := Prod.ext_iff.mp (Option.some.inj h)
  subst hl
  obtain ⟨hg, ho, h0, h1, h2, h3, h4, hm⟩ := layout48 (g := 11) (op := 14) d a b s r (by decide) (by decide) rfl hw
  refine ⟨?_, hm, by rw [hg]; decide, nofun⟩
  rw [decodeWord_MA hg]
  unfold decodeMA
  rw [ho]
  show Except.ok (Instr.afadd (fld _ 16 6) (fld _ 10 6) (fld _ 4 6) (fld _ 1 3) (fld _ 0 1)) = _
  rw [h0, h1, h2, h3, h4]

theorem RoundTrip.ldacq (d : BitVec 6) (a : BitVec 6) (s : BitVec 3) : RoundTrip.Statement (.ldacq d a s) := by
  intro w lx h
  obtain ⟨hw, hl⟩ := Prod.ext_iff.mp (Option.some.inj h)
  subst hl
  obtain ⟨hg, ho, h0, h1, h2, z0, z1, hm⟩ := layout49 (g := 11) (op := 15) d a s (by decide) (by decide) rfl hw
  refine ⟨?_, hm, by rw [hg]; decide, nofun⟩
  rw [decodeWord_MA hg]
  unfold decodeMA
  rw [ho]
  show clear "LDACQ" (fld _ 0 1 = 0#1 && fld _ 4 6 = 0#6) (Instr.ldacq (fld _ 16 6) (fld _ 10 6) (fld _ 1 3)) = _
  rw [clear_ok (by simp only [z0, z1, decide_true, Bool.and_self]), h0, h1, h2]

theorem RoundTrip.strel (a : BitVec 6) (b : BitVec 6) (s : BitVec 3) : RoundTrip.Statement (.strel a b s) := by
  intro w lx h
  obtain ⟨hw, hl⟩ := Prod.ext_iff.mp (Option.some.inj h)
  subst hl
  obtain ⟨hg, ho, h0, h1, h2, z0, z1, hm⟩ := layout50 (g := 11) (op := 16) a b s (by decide) (by decide) rfl hw
  refine ⟨?_, hm, by rw [hg]; decide, nofun⟩
  rw [decodeWord_MA hg]
  unfold decodeMA
  rw [ho]
  show clear "STREL" (fld _ 0 1 = 0#1 && fld _ 16 6 = 0#6) (Instr.strel (fld _ 10 6) (fld _ 4 6) (fld _ 1 3)) = _
  rw [clear_ok (by simp only [z0, z1, decide_true, Bool.and_self]), h0, h1, h2]

theorem RoundTrip.fence (a : BitVec 6) (m : BitVec 4) (s : BitVec 3) : RoundTrip.Statement (.fence a m s) := by
  intro w lx h
  obtain ⟨hw, hl⟩ := Prod.ext_iff.mp (Option.some.inj h)
  subst hl
  obtain ⟨hg, ho, h0, h1, h2, z0, hm⟩ := layout51 (g := 12) (op := 0) a m s (by decide) (by decide) rfl hw
  refine ⟨?_, hm, by rw [hg]; decide, nofun⟩
  rw [decodeWord_MS hg]
  unfold decodeMS
  rw [ho]
  show clear "FENCE" (fld _ 7 8 = 0#8) (Instr.fence (fld _ 15 6) (fld _ 3 4) (fld _ 0 3)) = _
  rw [clear_ok (by simp only [z0, decide_true]), h0, h1, h2]

theorem RoundTrip.fwait (a : BitVec 6) (k : BitVec 5) : RoundTrip.Statement (.fwait a k) := by
  intro w lx h
  obtain ⟨hw, hl⟩ := Prod.ext_iff.mp (Option.some.inj h)
  subst hl
  obtain ⟨hg, ho, h0, h1, z0, hm⟩ := layout52 (g := 12) (op := 1) a k (by decide) (by decide) rfl hw
  refine ⟨?_, hm, by rw [hg]; decide, nofun⟩
  rw [decodeWord_MS hg]
  unfold decodeMS
  rw [ho]
  show clear "FWAIT" (fld _ 5 10 = 0#10) (Instr.fwait (fld _ 15 6) (fld _ 0 5)) = _
  rw [clear_ok (by simp only [z0, decide_true]), h0, h1]

theorem RoundTrip.bar (a : BitVec 6) (s : BitVec 3) (k : BitVec 5) : RoundTrip.Statement (.bar a s k) := by
  intro w lx h
  obtain ⟨hw, hl⟩ := Prod.ext_iff.mp (Option.some.inj h)
  subst hl
  obtain ⟨hg, ho, h0, h1, h2, z0, hm⟩ := layout53 (g := 12) (op := 2) a s k (by decide) (by decide) rfl hw
  refine ⟨?_, hm, by rw [hg]; decide, nofun⟩
  rw [decodeWord_MS hg]
  unfold decodeMS
  rw [ho]
  show clear "BAR" (fld _ 8 7 = 0#7) (Instr.bar (fld _ 15 6) (fld _ 5 3) (fld _ 0 5)) = _
  rw [clear_ok (by simp only [z0, decide_true]), h0, h1, h2]

theorem RoundTrip.bara (a : BitVec 6) (s : BitVec 3) : RoundTrip.Statement (.bara a s) := by
  intro w lx h
  obtain ⟨hw, hl⟩ := Prod.ext_iff.mp (Option.some.inj h)
  subst hl
  obtain ⟨hg, ho, h0, h1, z0, z1, hm⟩ := layout54 (g := 12) (op := 3) a s (by decide) (by decide) rfl hw
  refine ⟨?_, hm, by rw [hg]; decide, nofun⟩
  rw [decodeWord_MS hg]
  unfold decodeMS
  rw [ho]
  show clear "BARA" (fld _ 0 5 = 0#5 && fld _ 8 7 = 0#7) (Instr.bara (fld _ 15 6) (fld _ 5 3)) = _
  rw [clear_ok (by simp only [z0, z1, decide_true, Bool.and_self]), h0, h1]

theorem RoundTrip.barw (a : BitVec 6) (s : BitVec 3) (k : BitVec 5) : RoundTrip.Statement (.barw a s k) := by
  intro w lx h
  obtain ⟨hw, hl⟩ := Prod.ext_iff.mp (Option.some.inj h)
  subst hl
  obtain ⟨hg, ho, h0, h1, h2, z0, hm⟩ := layout53 (g := 12) (op := 4) a s k (by decide) (by decide) rfl hw
  refine ⟨?_, hm, by rw [hg]; decide, nofun⟩
  rw [decodeWord_MS hg]
  unfold decodeMS
  rw [ho]
  show clear "BARW" (fld _ 8 7 = 0#7) (Instr.barw (fld _ 15 6) (fld _ 5 3) (fld _ 0 5)) = _
  rw [clear_ok (by simp only [z0, decide_true]), h0, h1, h2]

theorem RoundTrip.barq (a : BitVec 6) (s : BitVec 3) : RoundTrip.Statement (.barq a s) := by
  intro w lx h
  obtain ⟨hw, hl⟩ := Prod.ext_iff.mp (Option.some.inj h)
  subst hl
  obtain ⟨hg, ho, h0, h1, z0, z1, hm⟩ := layout54 (g := 12) (op := 5) a s (by decide) (by decide) rfl hw
  refine ⟨?_, hm, by rw [hg]; decide, nofun⟩
  rw [decodeWord_MS hg]
  unfold decodeMS
  rw [ho]
  show clear "BARQ" (fld _ 0 5 = 0#5 && fld _ 8 7 = 0#7) (Instr.barq (fld _ 15 6) (fld _ 5 3)) = _
  rw [clear_ok (by simp only [z0, z1, decide_true, Bool.and_self]), h0, h1]

theorem RoundTrip.sbar (c : BitVec 3) : RoundTrip.Statement (.sbar c) := by
  intro w lx h
  obtain ⟨hw, hl⟩ := Prod.ext_iff.mp (Option.some.inj h)
  subst hl
  obtain ⟨hg, ho, h0, z0, hm⟩ := layout55 (g := 12) (op := 6) c (by decide) (by decide) rfl hw
  refine ⟨?_, hm, by rw [hg]; decide, nofun⟩
  rw [decodeWord_MS hg]
  unfold decodeMS
  rw [ho]
  show clear "SBAR" (fld _ 3 18 = 0#18) (Instr.sbar (fld _ 0 3)) = _
  rw [clear_ok (by simp only [z0, decide_true]), h0]

theorem RoundTrip.hwait (x_a : BitVec 6) (x_h : BitVec 5) (x_k : BitVec 5) :
    RoundTrip.Statement (.hwait x_a x_h x_k) := by
  intro w lx h
  obtain ⟨hw, hl⟩ := Prod.ext_iff.mp (Option.some.inj h)
  subst hl
  obtain ⟨hg, ho, h0, h1, h2, z0, z1, hm⟩ := layout56 (g := 12) (op := 7) x_a x_h x_k (by decide) (by decide) rfl hw
  refine ⟨?_, hm, by rw [hg]; decide, nofun⟩
  rw [decodeWord_MS hg]
  unfold decodeMS
  rw [ho]
  show clear "HWAIT" (fld _ 5 4 = 0#4 && fld _ 14 1 = 0#1) (Instr.hwait (fld _ 15 6) (fld _ 9 5) (fld _ 0 5)) = _
  rw [clear_ok (by simp only [z0, z1, decide_true, Bool.and_self]), h0, h1, h2]

theorem RoundTrip.rwait (x_a : BitVec 6) (x_h : BitVec 4) (x_f : BitVec 1) (x_k : BitVec 5) :
    RoundTrip.Statement (.rwait x_a x_h x_f x_k) := by
  intro w lx h
  obtain ⟨hw, hl⟩ := Prod.ext_iff.mp (Option.some.inj h)
  subst hl
  obtain ⟨hg, ho, h0, h1, h2, h3, z0, z1,
    hm⟩ := layout57 (g := 12) (op := 8) x_a x_h x_f x_k (by decide) (by decide) rfl hw
  refine ⟨?_, hm, by rw [hg]; decide, nofun⟩
  rw [decodeWord_MS hg]
  unfold decodeMS
  rw [ho]
  show clear "RWAIT" (fld _ 6 3 = 0#3 && fld _ 13 2 = 0#2) (Instr.rwait (fld _ 15 6) (fld _ 9 4) (fld _ 5 1) (fld _ 0
    5)) = _
  rw [clear_ok (by simp only [z0, z1, decide_true, Bool.and_self]), h0, h1, h2, h3]

theorem RoundTrip.radvp (x_h : BitVec 4) (x_n : BitVec 9) : RoundTrip.Statement (.radvp x_h x_n) := by
  intro w lx h
  obtain ⟨hw, hl⟩ := Prod.ext_iff.mp (Option.some.inj h)
  subst hl
  obtain ⟨hg, ho, h0, h1, z0, hm⟩ := layout58 (g := 12) (op := 9) x_h x_n (by decide) (by decide) rfl hw
  refine ⟨?_, hm, by rw [hg]; decide, nofun⟩
  rw [decodeWord_MS hg]
  unfold decodeMS
  rw [ho]
  show clear "RADVP" (fld _ 13 8 = 0#8) (Instr.radvp (fld _ 9 4) (fld _ 0 9)) = _
  rw [clear_ok (by simp only [z0, decide_true]), h0, h1]

theorem RoundTrip.radvc (x_h : BitVec 4) (x_n : BitVec 9) : RoundTrip.Statement (.radvc x_h x_n) := by
  intro w lx h
  obtain ⟨hw, hl⟩ := Prod.ext_iff.mp (Option.some.inj h)
  subst hl
  obtain ⟨hg, ho, h0, h1, z0, hm⟩ := layout58 (g := 12) (op := 10) x_h x_n (by decide) (by decide) rfl hw
  refine ⟨?_, hm, by rw [hg]; decide, nofun⟩
  rw [decodeWord_MS hg]
  unfold decodeMS
  rw [ho]
  show clear "RADVC" (fld _ 13 8 = 0#8) (Instr.radvc (fld _ 9 4) (fld _ 0 9)) = _
  rw [clear_ok (by simp only [z0, decide_true]), h0, h1]

theorem RoundTrip.enq (a : BitVec 6) (b : BitVec 6) : RoundTrip.Statement (.enq a b) := by
  intro w lx h
  obtain ⟨hw, hl⟩ := Prod.ext_iff.mp (Option.some.inj h)
  subst hl
  obtain ⟨hg, ho, h0, h1, z0, hm⟩ := layout13 (g := 12) (op := 11) a b (by decide) (by decide) rfl hw
  refine ⟨?_, hm, by rw [hg]; decide, nofun⟩
  rw [decodeWord_MS hg]
  unfold decodeMS
  rw [ho]
  show clear "ENQ" (fld _ 0 9 = 0#9) (Instr.enq (fld _ 15 6) (fld _ 9 6)) = _
  rw [clear_ok (by simp only [z0, decide_true]), h0, h1]

theorem RoundTrip.deq (a : BitVec 6) (b : BitVec 6) : RoundTrip.Statement (.deq a b) := by
  intro w lx h
  obtain ⟨hw, hl⟩ := Prod.ext_iff.mp (Option.some.inj h)
  subst hl
  obtain ⟨hg, ho, h0, h1, z0, hm⟩ := layout13 (g := 12) (op := 12) a b (by decide) (by decide) rfl hw
  refine ⟨?_, hm, by rw [hg]; decide, nofun⟩
  rw [decodeWord_MS hg]
  unfold decodeMS
  rw [ho]
  show clear "DEQ" (fld _ 0 9 = 0#9) (Instr.deq (fld _ 15 6) (fld _ 9 6)) = _
  rw [clear_ok (by simp only [z0, decide_true]), h0, h1]

theorem RoundTrip.qwait (a : BitVec 6) (k : BitVec 5) : RoundTrip.Statement (.qwait a k) := by
  intro w lx h
  obtain ⟨hw, hl⟩ := Prod.ext_iff.mp (Option.some.inj h)
  subst hl
  obtain ⟨hg, ho, h0, h1, z0, hm⟩ := layout52 (g := 12) (op := 13) a k (by decide) (by decide) rfl hw
  refine ⟨?_, hm, by rw [hg]; decide, nofun⟩
  rw [decodeWord_MS hg]
  unfold decodeMS
  rw [ho]
  show clear "QWAIT" (fld _ 5 10 = 0#10) (Instr.qwait (fld _ 15 6) (fld _ 0 5)) = _
  rw [clear_ok (by simp only [z0, decide_true]), h0, h1]

theorem RoundTrip.stbind (x_a : BitVec 6) (x_w : BitVec 1) (x_n : BitVec 3) :
    RoundTrip.Statement (.stbind x_a x_w x_n) := by
  intro w lx h
  obtain ⟨hw, hl⟩ := Prod.ext_iff.mp (Option.some.inj h)
  subst hl
  obtain ⟨hg, ho, h0, h1, h2, z0, hm⟩ := layout59 (g := 12) (op := 14) x_a x_w x_n (by decide) (by decide) rfl hw
  refine ⟨?_, hm, by rw [hg]; decide, nofun⟩
  rw [decodeWord_MS hg]
  unfold decodeMS
  rw [ho]
  show clear "STBIND" (fld _ 4 11 = 0#11) (Instr.stbind (fld _ 15 6) (fld _ 3 1) (fld _ 0 3)) = _
  rw [clear_ok (by simp only [z0, decide_true]), h0, h1, h2]

theorem RoundTrip.stunb (n : BitVec 3) : RoundTrip.Statement (.stunb n) := by
  intro w lx h
  obtain ⟨hw, hl⟩ := Prod.ext_iff.mp (Option.some.inj h)
  subst hl
  obtain ⟨hg, ho, h0, z0, hm⟩ := layout55 (g := 12) (op := 15) n (by decide) (by decide) rfl hw
  refine ⟨?_, hm, by rw [hg]; decide, nofun⟩
  rw [decodeWord_MS hg]
  unfold decodeMS
  rw [ho]
  show clear "STUNB" (fld _ 3 18 = 0#18) (Instr.stunb (fld _ 0 3)) = _
  rw [clear_ok (by simp only [z0, decide_true]), h0]

theorem RoundTrip.penn (a : BitVec 6) (b : BitVec 6) (s : BitVec 3) : RoundTrip.Statement (.penn a b s) := by
  intro w lx h
  obtain ⟨hw, hl⟩ := Prod.ext_iff.mp (Option.some.inj h)
  subst hl
  obtain ⟨hg, ho, h0, h1, h2, z0, hm⟩ := layout60 (g := 12) (op := 16) a b s (by decide) (by decide) rfl hw
  refine ⟨?_, hm, by rw [hg]; decide, nofun⟩
  rw [decodeWord_MS hg]
  unfold decodeMS
  rw [ho]
  show clear "PENN" (fld _ 3 6 = 0#6) (Instr.penn (fld _ 15 6) (fld _ 9 6) (fld _ 0 3)) = _
  rw [clear_ok (by simp only [z0, decide_true]), h0, h1, h2]

theorem RoundTrip.residencySwitch (core : BitVec 10) : RoundTrip.Statement (.residencySwitch core) := nofun

theorem RoundTrip.idleCoreDispatch (core : BitVec 10) : RoundTrip.Statement (.idleCoreDispatch core) := nofun

theorem RoundTrip.idleTimeout (core : BitVec 10) : RoundTrip.Statement (.idleTimeout core) := nofun

theorem RoundTrip.periodBoundary (region : BitVec 5) : RoundTrip.Statement (.periodBoundary region) := nofun

theorem RoundTrip.sampleArrival (source : Feed) (time : BitVec 64) (freq : Nat) (value : List (BitVec 32)) :
    RoundTrip.Statement (.sampleArrival source time freq value) := nofun

theorem RoundTrip.missedSampleTime (region : BitVec 5) : RoundTrip.Statement (.missedSampleTime region) := nofun

theorem RoundTrip.regionResumption (region : BitVec 5) : RoundTrip.Statement (.regionResumption region) := nofun

theorem RoundTrip.outputSampleTime (region : BitVec 5) : RoundTrip.Statement (.outputSampleTime region) := nofun

theorem RoundTrip.railSwitchEnd (region : BitVec 5) : RoundTrip.Statement (.railSwitchEnd region) := nofun

theorem RoundTrip.energyBucketUpdate (power : BitVec 16) : RoundTrip.Statement (.energyBucketUpdate power) := nofun

theorem RoundTrip.ballastPass (core : BitVec 10) : RoundTrip.Statement (.ballastPass core) := nofun

theorem RoundTrip.hoistReach (core : BitVec 10) (res : BitVec 1) (k : BitVec 5) :
    RoundTrip.Statement (.hoistReach core res k) := nofun

theorem RoundTrip.pendingSlotActionRelease (x_core : BitVec 10) (x_res : BitVec 1) (x_h : BitVec 4) :
    RoundTrip.Statement (.pendingSlotActionRelease x_core x_res x_h) := nofun

theorem RoundTrip.barrierCompletion (core : BitVec 10) (res : BitVec 1) (scope : BarEnd) :
    RoundTrip.Statement (.barrierCompletion core res scope) := nofun

theorem RoundTrip.registerDataArrival (msg : Nat) : RoundTrip.Statement (.registerDataArrival msg) := nofun

theorem RoundTrip.waitLimitExpiry (core : BitVec 10) : RoundTrip.Statement (.waitLimitExpiry core) := nofun

theorem RoundTrip.matrixCommandStart (core : BitVec 10) : RoundTrip.Statement (.matrixCommandStart core) := nofun

theorem RoundTrip.matrixCommandEnd (core : BitVec 10) : RoundTrip.Statement (.matrixCommandEnd core) := nofun

theorem RoundTrip.matrixWaitLimitExpiry (core : BitVec 10) :
    RoundTrip.Statement (.matrixWaitLimitExpiry core) := nofun

theorem RoundTrip.copyBegin (core : BitVec 10) (ch : BitVec 2) : RoundTrip.Statement (.copyBegin core ch) := nofun

theorem RoundTrip.chunkCommit (core : BitVec 10) (ch : ChunkStep) :
    RoundTrip.Statement (.chunkCommit core ch) := nofun

theorem RoundTrip.copyChunkFault (core : BitVec 10) (ch : ChunkStop) :
    RoundTrip.Statement (.copyChunkFault core ch) := nofun

theorem RoundTrip.copyCompletionAction (core : BitVec 10) (ch : BitVec 2) :
    RoundTrip.Statement (.copyCompletionAction core ch) := nofun

theorem RoundTrip.watermarkWaitLimitExpiry (core : BitVec 10) (ch : BitVec 2) :
    RoundTrip.Statement (.watermarkWaitLimitExpiry core ch) := nofun

theorem RoundTrip.copyCancelComplete (core : BitVec 10) (ch : BitVec 2) :
    RoundTrip.Statement (.copyCancelComplete core ch) := nofun

theorem RoundTrip.apertureCommandArrival (core : BitVec 10) (off : BitVec 12) (value : BitVec 64) :
    RoundTrip.Statement (.apertureCommandArrival core off value) := nofun

theorem RoundTrip.contactCommandStart (core : BitVec 10) : RoundTrip.Statement (.contactCommandStart core) := nofun

theorem RoundTrip.streamTransfer (core : BitVec 10) (res : BitVec 1) (n : StreamMove) :
    RoundTrip.Statement (.streamTransfer core res n) := nofun

theorem RoundTrip.fabricWrite (arrival : Arrival) : RoundTrip.Statement (.fabricWrite arrival) := nofun

theorem RoundTrip.fabricAtomic (arrival : Arrival) : RoundTrip.Statement (.fabricAtomic arrival) := nofun

theorem RoundTrip.fabricRead (arrival : Arrival) : RoundTrip.Statement (.fabricRead arrival) := nofun

theorem RoundTrip.enqueueRequest (msg : Nat) : RoundTrip.Statement (.enqueueRequest msg) := nofun

theorem RoundTrip.launchPacketTake (region : BitVec 5) : RoundTrip.Statement (.launchPacketTake region) := nofun

theorem RoundTrip.launchCompletion (lid : BitVec 64) : RoundTrip.Statement (.launchCompletion lid) := nofun

theorem RoundTrip.hostWindowSubmit (x_w : BitVec 6) (x_handle : BitVec 64) :
    RoundTrip.Statement (.hostWindowSubmit x_w x_handle) := nofun

theorem RoundTrip.queueEnable (q : BitVec 13) (word : BitVec 64) : RoundTrip.Statement (.queueEnable q word) := nofun

theorem RoundTrip.queueDisable (q : BitVec 13) (word : BitVec 64) :
    RoundTrip.Statement (.queueDisable q word) := nofun

theorem RoundTrip.queueSwapOut (q : BitVec 13) (word : BitVec 64) :
    RoundTrip.Statement (.queueSwapOut q word) := nofun

theorem RoundTrip.queueSwapIn (q : BitVec 13) (word : BitVec 64) : RoundTrip.Statement (.queueSwapIn q word) := nofun

theorem RoundTrip.queueGenerationChange (q : BitVec 13) (word : BitVec 64) :
    RoundTrip.Statement (.queueGenerationChange q word) := nofun

theorem RoundTrip.hbmStackFailure (stack : BitVec 4) : RoundTrip.Statement (.hbmStackFailure stack) := nofun

theorem RoundTrip.preemptSave (core : BitVec 10) (word : BitVec 64) :
    RoundTrip.Statement (.preemptSave core word) := nofun

theorem RoundTrip.saveComplete (core : BitVec 10) : RoundTrip.Statement (.saveComplete core) := nofun

theorem RoundTrip.preemptRestore (core : BitVec 10) (word : BitVec 64) :
    RoundTrip.Statement (.preemptRestore core word) := nofun

theorem RoundTrip.restoreComplete (core : BitVec 10) : RoundTrip.Statement (.restoreComplete core) := nofun

theorem RoundTrip.partitionEntryCommit (p : BitVec 3) (word : BitVec 64) :
    RoundTrip.Statement (.partitionEntryCommit p word) := nofun

theorem RoundTrip.clusterEntryCommit (k : BitVec 7) (word : BitVec 64) :
    RoundTrip.Statement (.clusterEntryCommit k word) := nofun

theorem RoundTrip.sourceEnable (region : BitVec 5) (word : BitVec 64) :
    RoundTrip.Statement (.sourceEnable region word) := nofun

theorem RoundTrip.sourceDisable (region : BitVec 5) (word : BitVec 64) :
    RoundTrip.Statement (.sourceDisable region word) := nofun

theorem RoundTrip.rateEntryCommit (source : BitVec 9) (word : BitVec 64) :
    RoundTrip.Statement (.rateEntryCommit source word) := nofun

theorem RoundTrip.crossingEnable (u : BitVec 6) (word : BitVec 64) :
    RoundTrip.Statement (.crossingEnable u word) := nofun

theorem RoundTrip.crossingDisable (u : BitVec 6) (word : BitVec 64) :
    RoundTrip.Statement (.crossingDisable u word) := nofun

theorem RoundTrip.regionStatusClear (region : BitVec 5) (word : BitVec 64) :
    RoundTrip.Statement (.regionStatusClear region word) := nofun

theorem RoundTrip.powerEntryCommit (word : BitVec 64) : RoundTrip.Statement (.powerEntryCommit word) := nofun

theorem RoundTrip.replicaRelease (p : BitVec 3) : RoundTrip.Statement (.replicaRelease p) := nofun

theorem RoundTrip.replicaDiscard (p : BitVec 3) : RoundTrip.Statement (.replicaDiscard p) := nofun

theorem RoundTrip.replicaDigestArrival (p : BitVec 3) (digest : BitVec 128) (step : BitVec 32) :
    RoundTrip.Statement (.replicaDigestArrival p digest step) := nofun

theorem RoundTrip.replicaDigestTimeout (p : BitVec 3) : RoundTrip.Statement (.replicaDigestTimeout p) := nofun

theorem RoundTrip.loaderLoad (p : BitVec 3) (word : BitVec 64) : RoundTrip.Statement (.loaderLoad p word) := nofun

theorem RoundTrip.loaderUnload (p : BitVec 3) (word : BitVec 64) : RoundTrip.Statement (.loaderUnload p word) := nofun

theorem RoundTrip.loadDone (p : BitVec 3) : RoundTrip.Statement (.loadDone p) := nofun

theorem RoundTrip.constantStoreWrite (off : BitVec 24) (value : BitVec 64) :
    RoundTrip.Statement (.constantStoreWrite off value) := nofun

theorem RoundTrip.bar4Access (off : BitVec 40) (data : List Byte) :
    RoundTrip.Statement (.bar4Access off data) := nofun

theorem RoundTrip.registerWrite (off : BitVec 26) (value : BitVec 64) :
    RoundTrip.Statement (.registerWrite off value) := nofun

theorem RoundTrip.firmwareStart (word : BitVec 64) : RoundTrip.Statement (.firmwareStart word) := nofun

theorem RoundTrip.perst (asserted : Bool) : RoundTrip.Statement (.perst asserted) := nofun

theorem RoundTrip.trainingDone (trained : BitVec 12) (cxl : List (BitVec 43)) :
    RoundTrip.Statement (.trainingDone trained cxl) := nofun

theorem RoundTrip.tagsDone : RoundTrip.Statement (.tagsDone) := nofun

theorem RoundTrip.selftestDone (pass : Bool) : RoundTrip.Statement (.selftestDone pass) := nofun

theorem RoundTrip.lockingDone (pass : Bool) : RoundTrip.Statement (.lockingDone pass) := nofun

theorem RoundTrip.cxlExpanderLoss (port : BitVec 2) (lo : BitVec 42) (hi : BitVec 43) :
    RoundTrip.Statement (.cxlExpanderLoss port lo hi) := nofun

theorem RoundTrip.gxlPortFailure (port : BitVec 6) : RoundTrip.Statement (.gxlPortFailure port) := nofun

theorem RoundTrip.scrubRead (core : BitVec 10) (word : BitVec 19) :
    RoundTrip.Statement (.scrubRead core word) := nofun

theorem RoundTrip.powerLoss : RoundTrip.Statement (.powerLoss) := nofun

theorem RoundTrip.mirrorCopyComplete (stack : BitVec 4) (fresh : BitVec 4) :
    RoundTrip.Statement (.mirrorCopyComplete stack fresh) := nofun

theorem RoundTrip.swapInCopyComplete (q : BitVec 13) : RoundTrip.Statement (.swapInCopyComplete q) := nofun

theorem RoundTrip.packetStagingWrite (x_w : BitVec 6) (x_off : BitVec 6) (x_data : List Byte) :
    RoundTrip.Statement (.packetStagingWrite x_w x_off x_data) := nofun

end Sys2Proof.Laws
end

