-- ==== Sys2Proof/Laws/Registers.lean ====
section
/-!
SUPPORT. The fault records and events of an issue: what a record can change, and that the errors a bundle meets in the
register files change nothing but those.
-/

namespace Sys2Proof.Machine

/-- Two contexts that differ at most in what their records and events change. -/
def Ctx.noted (x y : Ctx) : Prop :=
  y = { x with
    unrep := y.unrep, lostN := y.lostN, lostCode := y.lostCode, lostAt := y.lostAt, fqOvf := y.fqOvf, fqCount := y.fqCount
    seqNo := y.seqNo, evs := y.evs }

theorem Ctx.noted_refl (x : Ctx) : x.noted x := rfl

theorem Ctx.noted_trans {x y z : Ctx} (h : x.noted y) (k : y.noted z) : x.noted z := by
  unfold Ctx.noted at *; rw [k, h]

/-- Two states that differ at most in that, in the messages under way and in their numbers. -/
structure State.noted (s t : State) : Prop where
  ctxs : ∀ c r, (s.ctx c r).noted (t.ctx c r)
  mem : t.mem = s.mem
  wlog : t.wlog = s.wlog
  regions : t.regions = s.regions
  bundle : t.bundle = s.bundle
  cur : t.cur = s.cur

theorem State.noted_refl (s : State) : s.noted s := ⟨fun _ _ => rfl, rfl, rfl, rfl, rfl, rfl⟩

theorem State.noted_trans {s t u : State} (h : s.noted t) (k : t.noted u) : s.noted u :=
  ⟨fun c r => Ctx.noted_trans (h.ctxs c r) (k.ctxs c r), k.mem.trans h.mem, k.wlog.trans h.wlog, k.regions.trans h.regions,
    k.bundle.trans h.bundle, k.cur.trans h.cur⟩

theorem State.noted_modCtx (s : State) (c : Nat) (res : BitVec 1) {f : Ctx → Ctx} (h : ∀ x : Ctx, x.noted (f x)) :
    s.noted (s.modCtx c res f) := by
  refine ⟨fun d r => ?_, rfl, rfl, rfl, rfl, rfl⟩
  by_cases hd : d = c
  · subst hd
    by_cases hr : r = res
    · subst hr; rw [State.ctx_modCtx_self]; exact h _
    · unfold State.modCtx; rw [State.ctx_setCtx_res _ _ _ hr]; exact Ctx.noted_refl _
  · unfold State.modCtx; rw [State.ctx_setCtx_core _ _ _ _ hd]; exact Ctx.noted_refl _

theorem State.noted_modCore (s : State) (c : Nat) {f : Core → Core} (h : ∀ (k : Core) r, (k.ctx r).noted ((f k).ctx r)) :
    s.noted (s.modCore c f) := by
  refine ⟨fun d r => ?_, rfl, rfl, rfl, rfl, rfl⟩
  unfold State.ctx
  by_cases hd : d = c
  · subst hd; rw [State.core_modCore_self]; exact h _ _
  · unfold State.modCore; rw [State.core_setCore_other _ _ hd]; exact Ctx.noted_refl _

theorem State.noted_send (s : State) (m : Msg) : s.noted (s.send m) := by
  unfold State.send
  split
  · exact ⟨fun _ _ => rfl, rfl, rfl, rfl, rfl, rfl⟩
  · split <;> exact ⟨fun _ _ => rfl, rfl, rfl, rfl, rfl, rfl⟩

theorem State.noted_storeRecord {s t : State} {c : Nat} {res : BitVec 1} {n : Nat} {b : BitVec 512}
    (h : s.storeRecord c res n b = some t) : s.noted t := by
  unfold State.storeRecord at h
  simp only at h
  split at h
  · cases h
  · cases h; exact State.noted_send ..

/-- A record changes the fault queue of its context and sends the bytes of the record; nothing else. -/
theorem State.noted_record (s : State) (c : Nat) (res : BitVec 1) (f : FaultRec) (key : Nat) : s.noted (s.record c res f key) := by
  unfold State.record
  simp only
  split
  · rename_i r _
    generalize hu : (s.ctx c res).unrep.map (fun q => if q.key = key then { r with bits := bumpRecord r.bits } else q) = upd
    have h1 : s.noted (s.modCtx c res (fun x => { x with unrep := upd })) := State.noted_modCtx s c res fun _ => rfl
    cases h : (s.modCtx c res (fun x => { x with unrep := upd })).storeRecord c res r.slot.toNat (bumpRecord r.bits) with
    | none => exact h1
    | some t => exact State.noted_trans h1 (State.noted_storeRecord h)
  · have hl : ∀ b : Bool, s.noted (s.modCtx c res (fun x =>
        if (!b) = true then { x with fqOvf := true }
        else if x.lostN = 0 then { x with fqOvf := true, lostN := 1, lostCode := f.cause ++ f.code, lostAt := s.seq }
        else { x with fqOvf := true, lostN := x.lostN + 1 })) := fun b =>
      State.noted_modCtx s c res fun x => by
        split
        · rfl
        · split <;> rfl
    split
    · exact hl _
    · split
      · exact hl _
      · rename_i t h
        exact State.noted_trans (State.noted_storeRecord h) (State.noted_modCtx t c res fun _ => rfl)

theorem State.noted_coreEvent (s : State) (c code : Nat) : s.noted (s.coreEvent c code) := by
  have h : ∀ x : Ctx, x.noted (if x.resident then { x with evs := x.evs ++ [(code, true)] } else x) := fun x => by
    split <;> rfl
  unfold State.coreEvent
  refine State.noted_modCore s c (f := fun k => { k with a := _, b := _ }) fun k r => ?_
  unfold Core.ctx
  split
  · exact h k.a
  · exact h k.b

theorem State.noted_fileError (s : State) (a : Agent) (e : Nat × Bool) : s.noted (s.fileError a e) := by
  unfold State.fileError
  split
  · exact State.noted_record ..
  · exact State.noted_coreEvent ..

theorem State.noted_foldl {α : Type} {f : State → α → State} (h : ∀ (s : State) a, s.noted (f s a)) (l : List α) (s : State) :
    s.noted (l.foldl f s) := by
  induction l generalizing s with
  | nil => exact State.noted_refl s
  | cons a l ih => exact State.noted_trans (h s a) (ih _)

/-- The errors that a bundle meets in the register files change no register and no memory. -/
theorem State.noted_readFiles (s : State) (c : Nat) (res : BitVec 1) (is : List Instr) : s.noted (s.readFiles c res is) := by
  unfold State.readFiles
  simp only
  split
  · exact State.noted_refl s
  · exact State.noted_foldl (fun s w => State.noted_foldl (fun s e => State.noted_fileError ..) _ s) _ s

end Sys2Proof.Machine
end

