-- ==== Sys2Proof/Laws/Scalar.lean ====
section
/-!
SUPPORT. Words of the SR and SI groups complete with their results, and what their bit operations compute.
-/

namespace Sys2Proof.Machine

/-- A two-source SR word completes with its result. -/
theorem sr2_gives {i : Instr} {s : State} {d a b : BitVec 6} {lat : Nat} {f : Word → Word → Word} {fl : Word → Flags} {v : Word} {g : Flags}
    (hx : exec i s = issue i s (fun s => s.sr2 lat d a b f fl)) (he : ∀ s : State, s.accessEvent i = none)
    (ha : ∀ x : Ctx, slotRanges x i = (.load, [])) (hu : (uses i).vr ++ (uses i).vw = []) (hb : s.inHand)
    (hv : v = f (s.cx.rg a) (s.cx.rg b)) (hg : g = fl (s.cx.rg b)) : GivesG i s d lat v g := by
  subst hv hg
  exact givesG_of (fun x => f (x.rg a) (x.rg b)) (fun x => fl (x.rg b)) hx he ha hb (unbound_of_none hu) (fun _ => rfl)
    (fun _ _ _ => rfl) (fun _ _ _ => rfl)
/-- The high half of the exact signed product. -/
theorem mulh_eq (x y : Word) : BitVec.ofInt 64 (x.toInt * y.toInt / 2 ^ 64) =
    (x.signExtend 128 * y.signExtend 128).extractLsb' 64 64 := by
  have h : (x.signExtend 128 * y.signExtend 128).toInt = x.toInt * y.toInt := by
    rw [BitVec.toInt_mul, BitVec.toInt_signExtend_of_le (by decide), BitVec.toInt_signExtend_of_le (by decide)]
    apply Int.bmod_eq_of_le
    · have h1 := x.le_toInt; have h2 := x.toInt_lt; have h3 := y.le_toInt; have h4 := y.toInt_lt
      norm_num at h1 h2 h3 h4 ⊢
      have : |x.toInt * y.toInt| ≤ 9223372036854775808 * 9223372036854775808 := by
        rw [abs_mul]; exact mul_le_mul (abs_le.mpr ⟨h1, by omega⟩) (abs_le.mpr ⟨h3, by omega⟩) (abs_nonneg _) (by norm_num)
      have := abs_le.mp this
      omega
    · have h1 := x.le_toInt; have h2 := x.toInt_lt; have h3 := y.le_toInt; have h4 := y.toInt_lt
      norm_num at h1 h2 h3 h4 ⊢
      have : |x.toInt * y.toInt| ≤ 9223372036854775808 * 9223372036854775808 := by
        rw [abs_mul]; exact mul_le_mul (abs_le.mpr ⟨h1, by omega⟩) (abs_le.mpr ⟨h3, by omega⟩) (abs_nonneg _) (by norm_num)
      have := abs_le.mp this
      omega
  rw [← h]
  generalize x.signExtend 128 * y.signExtend 128 = p
  apply BitVec.eq_of_toNat_eq
  rw [BitVec.toNat_ofInt, BitVec.extractLsb'_toNat, BitVec.toInt_eq_toNat_cond]
  have := p.isLt
  split <;> omega

/-- A one-source SR word completes with its result. -/
theorem sr1_gives {i : Instr} {s : State} {d a : BitVec 6} {f : Word → Word} {v : Word}
    (hx : exec i s = issue i s (fun s => s.sr1 d a f)) (he : ∀ s : State, s.accessEvent i = none)
    (ha : ∀ x : Ctx, slotRanges x i = (.load, [])) (hu : (uses i).vr ++ (uses i).vw = []) (hb : s.inHand)
    (hv : v = f (s.cx.rg a)) : GivesG i s d 1 v := by
  subst hv
  exact givesG_of (fun x => f (x.rg a)) (fun _ => 0) hx he ha hb (unbound_of_none hu) (fun _ => rfl)
    (fun _ _ _ => rfl) (fun _ _ _ => rfl)

/-- An SI word completes with its result. -/
theorem si_gives {i : Instr} {s : State} {d a : BitVec 6} {n : Imm} {lat : Nat} {f : Word → Word → Word} {v : Word}
    (hx : exec i s = issue i s (fun s => s.si lat d a n f)) (he : ∀ s : State, s.accessEvent i = none)
    (ha : ∀ x : Ctx, slotRanges x i = (.load, [])) (hu : (uses i).vr ++ (uses i).vw = []) (hb : s.inHand)
    (hv : v = f (s.cx.rg a) n.val) : GivesG i s d lat v := by
  subst hv
  exact givesG_of (fun x => f (x.rg a) n.val) (fun _ => 0) hx he ha hb (unbound_of_none hu) (fun _ => rfl)
    (fun _ _ _ => rfl) (fun _ _ _ => rfl)

/-- The count of leading zeros is the number of zero bits above the highest one. -/
theorem clzWord_eq (x : Word) {n : Nat} (hn : n ≤ 64) (hz : ∀ j, j < n → x.getLsbD (63 - j) = false)
    (h1 : n < 64 → x.getLsbD (63 - n) = true) : clzWord x = BitVec.ofNat 64 n := by
  unfold clzWord
  by_cases h0 : x = 0
  · rw [if_pos h0]
    have : n = 64 := by
      by_contra h
      have := h1 (by omega)
      rw [h0] at this; simp at this
    rw [this]; rfl
  · rw [if_neg h0]
    have hn' : n < 64 := by
      by_contra h
      apply h0
      apply BitVec.eq_of_getLsbD_eq
      intro i hi
      have := hz (63 - i) (by omega)
      rw [show 63 - (63 - i) = i by omega] at this
      rw [this]; simp
    have hx0 : x.toNat ≠ 0 := fun e => h0 (BitVec.eq_of_toNat_eq e)
    have hl : Nat.log2 x.toNat = 63 - n := by
      apply le_antisymm
      · by_contra h
        have hb : x.toNat.testBit (Nat.log2 x.toNat) = true := by
          rw [Nat.testBit_log2 hx0]
        have hlt : Nat.log2 x.toNat < 64 := (Nat.log2_lt hx0).mpr x.isLt
        have := hz (63 - Nat.log2 x.toNat) (by omega)
        rw [show 63 - (63 - Nat.log2 x.toNat) = Nat.log2 x.toNat by omega] at this
        unfold BitVec.getLsbD at this
        rw [hb] at this; cases this
      · have := h1 hn'
        unfold BitVec.getLsbD at this
        exact (Nat.le_log2 hx0).mpr (Nat.ge_two_pow_of_testBit this)
    rw [hl]; congr 1; omega

/-- The count of trailing zeros is the number of zero bits below the lowest one. -/
theorem ctzWord_eq (x : Word) {n : Nat} (hn : n ≤ 64) (hz : ∀ j, j < n → x.getLsbD j = false)
    (h1 : n < 64 → x.getLsbD n = true) : ctzWord x = BitVec.ofNat 64 n := by
  unfold ctzWord
  by_cases h : n < 64
  · have : (List.range 64).find? (fun i => x.getLsbD i) = some n := by
      rw [List.find?_range_eq_some]
      exact ⟨h1 h, by simpa using h, fun j hj => by simpa using hz j hj⟩
    rw [this]; rfl
  · have hn' : n = 64 := by omega
    have : (List.range 64).find? (fun i => x.getLsbD i) = none := by
      rw [List.find?_eq_none]
      intro j hj
      have := List.mem_range.mp hj
      simp [hz j (by omega)]
    rw [this, hn']; rfl

theorem extsWord_eq (x : Word) {w : Nat} (h0 : 0 < w) (h1 : w < 64) : extsWord x w = (x.setWidth w).signExtend 64 := by
  apply BitVec.eq_of_getLsbD_eq
  intro i hi
  unfold extsWord
  rw [BitVec.getLsbD_sshiftRight, BitVec.getLsbD_signExtend]
  have hm : (x <<< (64 - w)).msb = x.getLsbD (w - 1) := by
    rw [BitVec.msb_eq_getLsbD_last, BitVec.getLsbD_shiftLeft]
    simp only [show 64 - 1 = 63 from rfl]
    have e1 : 63 - (64 - w) = w - 1 := by omega
    have e2 : ¬ 63 < 64 - w := by omega
    simp [e1, e2]
  have hm' : (x.setWidth w).msb = x.getLsbD (w - 1) := by
    rw [BitVec.msb_eq_getLsbD_last, BitVec.getLsbD_setWidth]
    have : w - 1 < w := by omega
    simp [this]
  rw [hm, hm']
  by_cases hw : i < w
  · have a1 : 64 - w + i < 64 := by omega
    have a2 : ¬ 64 ≤ i := by omega
    have a3 : ¬ (64 - w + i < 64 - w) := by omega
    have a4 : 64 - w + i - (64 - w) = i := by omega
    simp [hw, a1, a2, a3, a4, hi]
  · have a1 : ¬ 64 - w + i < 64 := by omega
    have a2 : ¬ 64 ≤ i := by omega
    simp [hw, a1, a2, hi]

theorem extzWord_eq (x : Word) {w : Nat} (h1 : w < 64) : extzWord x w = (x.setWidth w).setWidth 64 := by
  apply BitVec.eq_of_getLsbD_eq
  intro i hi
  unfold extzWord
  rw [BitVec.getLsbD_ushiftRight, BitVec.getLsbD_setWidth, BitVec.getLsbD_setWidth, BitVec.getLsbD_shiftLeft]
  by_cases hw : i < w
  · have a1 : 64 - w + i < 64 := by omega
    have a3 : ¬ (64 - w + i < 64 - w) := by omega
    have a4 : 64 - w + i - (64 - w) = i := by omega
    simp [hw, a1, a3, a4, hi]
  · have a1 : ¬ 64 - w + i < 64 := by omega
    simp [hw, a1]

theorem getLsbD_brevWord (x : Word) {i : Nat} (h : i < 64) : (brevWord x).getLsbD i = x.getLsbD (63 - i) := by
  unfold brevWord
  rw [BitVec.getLsbD_reverse, BitVec.getMsbD_eq_getLsbD]
  simp [h]

end Sys2Proof.Machine
end

