-- ==== Sys2Proof/Tests/Slice0.lean ====
section
/-!
SUPPORT. Tests: terms that well-formedness refuses, a decoded word for every instruction, single steps, and for every
statement a state and operands that meet its hypotheses.
-/

set_option maxRecDepth 100000
set_option Elab.async false

namespace Sys2Proof.Tests

open Sys2Proof.Machine

/-! ### Well-formedness: for each check of step 5 that depends on the word alone, terms on both sides of it -/

def allWf (l : List Instr) : Bool := l.all Instr.wf
def noneWf (l : List Instr) : Bool := l.all (fun i => !i.wf)

/-- R163, R165, R169, R172, R182: widths, counts, offsets, codes and kinds. -/
theorem test_wf_scalar_refused : noneWf [
    .exts 1 2 0, .extz 1 2 0, .shli 1 2 (.short 64), .shri 1 2 (.short 0x3FF), .srai 1 2 (.long 64), .loop 1 0, .loop 1 1024,
    .trap 1 0x1FFFF, .tlbi 1 4, .tlbi 1 7] = true := by decide +kernel
theorem test_wf_scalar_taken : allWf [
    .exts 1 2 1, .extz 1 2 63, .shli 1 2 (.short 63), .shri 1 2 (.long 63), .srai 1 2 (.short 0), .loop 1 1, .loop 1 1023,
    .trap 1 0x1FFFE, .tlbi 1 3] = true := by decide +kernel

/-- R246, R248: block sizes and kinds with a reserved code. -/
theorem test_wf_matrix : noneWf [.mhad 0 0 3, .mzero 0 3, .mload 0 0 0 3] = true ∧
    allWf [.mhad 0 0 2, .mzero 0 2, .mload 7 15 1 2] = true := by decide +kernel

/-- R186 to R205: element formats that a vector word does not accept. -/
theorem test_wf_vector_formats : noneWf (([3, 4].flatMap (fun f : BitVec 3 => [
      .vadd f 0 1 2 3, .vsub f 0 1 2 3, .vmul f 0 1 2 3, .vfma f 0 1 2 3, .vfms f 0 1 2 3, .vfnma f 0 1 2 3, .vmin f 0 1 2 3,
      .vmax f 0 1 2 3, .vabs f 0 1 2, .vneg f 0 1 2, .vceq f 0 1 2 3, .vcne f 0 1 2 3, .vclt f 0 1 2 3, .vcle f 0 1 2 3,
      .vrmax f 0 1 2, .vrmin f 0 1 2, .vrsum f 0 1 2, .vramax f 0 1 2, .vrarg f 0 1 2, .vcsum f 0 1 2, .vscan f 0 1 2])) ++
    [0, 1, 2, 3, 4].flatMap (fun f : BitVec 3 => [.vshl f 0 1 2 3, .vshr f 0 1 2 3, .vsra f 0 1 2 3, .vrand f 0 1 2]) ++
    [3, 4, 5, 6, 7].flatMap (fun f : BitVec 3 => [
      .vscaleb f 0 1 2 3, .vexpo f 0 1 2, .vrssq f 0 1 2, .voxd f 0 1 2 0, .voxe f 1 2 0, .vtree f 0 1 2 3, .ppmul f 0 1 2 3,
      .ppdiv f 0 1 2 3, .pprd f 0 1 2 3, .fexp2 f 0 1 2, .fexp2m f 0 1 2 3, .flog2 f 0 1 2, .frcp f 0 1 2, .frsq f 0 1 2,
      .fsqrt f 0 1 2, .fsin f 0 1 2, .fcos f 0 1 2, .ftanh f 0 1 2, .fsigm f 0 1 2, .ferf f 0 1 2, .fsilu f 0 1 2])) = true := by
  decide +kernel

/-- R191, R204, R266: mask and polynomial numbers from 8 up. -/
theorem test_wf_mask_numbers : noneWf [
    .vceq 0 0 8 2 3, .vcne 0 0 31 2 3, .vclt 0 0 8 2 3, .vcle 0 0 16 2 3, .mand 8 1 2, .mand 1 8 2, .mand 1 2 8, .mor 8 1 2,
    .mor 1 8 2, .mor 1 2 8, .mxor 8 1 2, .mxor 1 8 2, .mxor 1 2 8, .mnot 8 1, .mnot 1 8, .mpopc 0 1 8, .ppinit 8, .ppdeg 8 1,
    .ppmul 0 0 8 1 2, .ppdiv 0 0 8 1 2, .pprd 0 0 1 8 2, .ppscale 8 1, .ppstat 1 8] = true ∧ allWf [
    .vceq 0 0 7 2 3, .mand 7 7 7, .mnot 7 7, .mpopc 0 31 7, .ppinit 7, .ppdiv 2 0 7 31 31, .pprd 0 0 31 7 31, .ppstat 31 7] = true := by
  decide +kernel

/-- R194, R196, R202: part numbers, pairs and block ranges of conversions. -/
theorem test_wf_conversions : noneWf [
    .vcvt 0 0 1 2 1 0, .vcvt 0 0 1 2 2 1, .vcvt 3 0 1 2 2 1, .vcvts 0 0 1 2 0 0, .vcvts 1 0 1 2 0 2, .vcvts 3 0 1 2 2 1,
    .voxd 0 0 1 2 27, .voxe 0 1 2 27, .voxd 1 0 1 2 23] = true ∧ allWf [
    .vcvt 0 0 1 2 0 0, .vcvt 0 0 1 2 1 1, .vcvt 3 0 1 2 3 0, .vcvts 3 0 1 2 1 1, .vcvts 1 0 1 2 1 0, .voxd 0 0 1 2 26,
    .voxe 0 1 2 26, .voxd 1 0 1 2 22] = true := by decide +kernel

/-- R146, R217, R224: scope codes, limit codes and slot counts. -/
theorem test_wf_memory_codes : noneWf [
    .aadd 1 2 3 5 0, .amin 1 2 3 6 0, .amax 1 2 3 7 0, .aminn 1 2 3 5 1, .amaxn 1 2 3 5 0, .aand 1 2 3 5 0, .aor 1 2 3 5 0,
    .axor 1 2 3 5 0, .aswap 1 2 3 5 0, .acas 1 2 3 5 0, .agts 1 2 3 5 0, .agtsn 1 2 3 5 0, .avswap 1 2 3 5 0, .atagswap 1 2 3 5 0,
    .afadd 1 2 3 5 0, .ldacq 1 2 5, .strel 1 2 5, .fence 1 0 5, .fwait 1 19, .bar 1 5 0, .bar 1 0 19, .bara 1 5, .barw 1 5 0,
    .barw 1 0 31, .barq 1 5, .hwait 1 2 19, .rwait 1 2 0 19, .radvp 1 0, .radvp 1 257, .radvc 1 0, .radvc 1 511, .qwait 1 19,
    .penn 1 2 5] = true ∧ allWf [
    .aadd 1 2 3 4 1, .ldacq 1 2 4, .fence 1 15 4, .fwait 1 18, .bar 1 4 18, .barw 1 4 0, .hwait 1 31 18, .rwait 1 15 1 18,
    .radvp 15 1, .radvp 15 256, .radvc 0 256, .qwait 1 18, .penn 1 2 4] = true := by decide +kernel

/-- Steps of the device that name an object outside its range. -/
theorem test_wf_objects : noneWf [
    .residencySwitch 768, .idleCoreDispatch 768, .idleTimeout 768, .sampleArrival (.edge 0x105) 0 0 [], .ballastPass 768,
    .hoistReach 768 0 0, .pendingSlotActionRelease 768 0 0, .barrierCompletion 768 0 ⟨0, []⟩, .barrierCompletion 0 0 ⟨5, []⟩,
    .waitLimitExpiry 768, .matrixCommandStart 768, .matrixCommandEnd 768, .matrixWaitLimitExpiry 768, .copyBegin 768 0,
    .chunkCommit 768 (.commit 0), .copyChunkFault 768 (.own 0), .copyCompletionAction 768 0, .watermarkWaitLimitExpiry 768 0,
    .copyCancelComplete 768 0, .apertureCommandArrival 768 0 0, .contactCommandStart 768, .streamTransfer 768 0 ⟨0, true⟩,
    .queueEnable 6144 0, .queueDisable 6144 0, .queueSwapOut 6144 0, .queueSwapIn 6144 0, .queueGenerationChange 6144 0,
    .hbmStackFailure 12, .preemptSave 768 0, .saveComplete 768, .preemptRestore 768 0, .restoreComplete 768,
    .clusterEntryCommit 96 0, .rateEntryCommit 0x104 0, .gxlPortFailure 36, .scrubRead 768 0, .mirrorCopyComplete 12 0,
    .mirrorCopyComplete 0 12, .swapInCopyComplete 6144] = true := by decide +kernel

/-! ### Decoding: a word of every instruction, written from the match value and the fields that the opcode table gives it -/

def reads (w : IWord) (lx : Option (BitVec 27)) (i : Instr) : Bool :=
  match decodeWord w lx with
  | .ok j => j = i
  | .error _ => false

def decodes (l : List (IWord × Instr)) : Bool := l.all (fun p => reads p.1 none p.2)

theorem test_decode_sr : decodes [
    (0x00000000, .nop), (0x00066332, .add 38 12 50), (0x000A6332, .sub 38 12 50), (0x000E6332, .and 38 12 50),
    (0x00126332, .or 38 12 50), (0x00166332, .xor 38 12 50), (0x001A6332, .andn 38 12 50),
    (0x001E6332, .shl 38 12 50), (0x00226332, .shr 38 12 50), (0x00266332, .sra 38 12 50),
    (0x002A6332, .rol 38 12 50), (0x002E6332, .ror 38 12 50), (0x00326332, .mul 38 12 50),
    (0x00366332, .mulh 38 12 50), (0x003A6332, .mulhn 38 12 50), (0x003E6332, .div 38 12 50),
    (0x00426332, .divn 38 12 50), (0x00466332, .rem 38 12 50), (0x004A6332, .remn 38 12 50),
    (0x004E6332, .min 38 12 50), (0x00526332, .max 38 12 50), (0x00566332, .minn 38 12 50),
    (0x005A6332, .maxn 38 12 50), (0x005E6332, .ceq 38 12 50), (0x00626332, .cne 38 12 50),
    (0x00666332, .clt 38 12 50), (0x006A6332, .cle 38 12 50), (0x006E6332, .cltn 38 12 50),
    (0x00726332, .clen 38 12 50), (0x00766332, .sel 38 12 50), (0x007A6300, .clz 38 12), (0x007E6300, .ctz 38 12),
    (0x00826300, .popc 38 12), (0x00866300, .brev 38 12), (0x008A6300, .bswap 38 12), (0x008E6332, .exts 38 12 50),
    (0x00926332, .extz 38 12 50), (0x04066332, .addW 38 12 50), (0x040A6332, .subW 38 12 50),
    (0x041E6332, .shlW 38 12 50), (0x04226332, .shrW 38 12 50), (0x04266332, .sraW 38 12 50),
    (0x04326332, .mulW 38 12 50), (0x043E6332, .divW 38 12 50), (0x04426332, .divnW 38 12 50),
    (0x04466332, .remW 38 12 50), (0x044A6332, .remnW 38 12 50)] = true := by decide +kernel

theorem test_decode_si : decodes [
    (0x08263035, .addi 38 12 (.short 0x35)), (0x08663035, .andi 38 12 (.short 0x35)),
    (0x08A63035, .ori 38 12 (.short 0x35)), (0x08E63035, .xori 38 12 (.short 0x35)),
    (0x09263035, .shli 38 12 (.short 0x35)), (0x09663035, .shri 38 12 (.short 0x35)),
    (0x09A63035, .srai 38 12 (.short 0x35)), (0x09E63035, .muli 38 12 (.short 0x35)),
    (0x0A263035, .ceqi 38 12 (.short 0x35)), (0x0A663035, .clti 38 12 (.short 0x35)),
    (0x0AA63035, .cltni 38 12 (.short 0x35)), (0x0AE63035, .movhi 38 12 (.short 0x35)),
    (0x0B2602CE, .adpc 38 (.short 0x2CE)), (0x0B663035, .addwi 38 12 (.short 0x35))] = true := by decide +kernel

theorem test_decode_control : decodes [
    (0x104C6435, .beq 38 12 1077), (0x10CC6435, .bne 38 12 1077), (0x114C6435, .blt 38 12 1077),
    (0x11CC6435, .bge 38 12 1077), (0x124C6435, .bltn 38 12 1077), (0x12CC6435, .bgen 38 12 1077),
    (0x14000167, .jmp 359), (0x14CC02CE, .jal 38 718), (0x154C02CE, .jr 38 718), (0x15CC6435, .jalr 38 12 1077),
    (0x164C02CE, .loop 38 718), (0x16800000, .knext), (0x17000000, .endTask), (0x17CC02CE, .trap 38 718)] = true := by decide +kernel

theorem test_decode_sy : decodes [
    (0x181300CE, .srr 38 206), (0x18331835, .srw 38 12 53), (0x18531835, .srs 38 12 53), (0x18731835, .src 38 12 53),
    (0x18931800, .idle 38 12), (0x18B31800, .digest 38 12 0), (0x18C00000, .brk), (0x18E00000, .eret),
    (0x19004C04, .tlbi 38 4), (0x19200000, .swctx), (0x19400000, .flushi), (0x19731812, .retime 38 12 18)] = true := by decide +kernel

theorem test_decode_mx : decodes [
    (0x20D84300, .mma 6 12 2 0 6 0 0 0 0 0), (0x21D84300, .mmas 6 12 2 0 6 0 0 0 0),
    (0x22D84300, .mmag 6 12 2 0 6 0 0 0 0 0), (0x23C80002, .mhad 6 4 2), (0x24C00000, .mzero 6 0),
    (0x25D84016, .mdrain 6 12 2 0 0 0 0 0 22), (0x26D80000, .mload 6 12 0 0)] = true := by decide +kernel

theorem test_decode_cx : decodes [
    (0x28026300, .ecw 38 12), (0x28066300, .ecr 38 12), (0x29026308, .cpy 38 12 2 0), (0x29066000, .cpyx 38 0),
    (0x2A026000, .gcfg 38 0), (0x2B02600C, .ctblk 38 12), (0x2B06600C, .ctsnap 38 12), (0x2B0A6302, .ctqry 38 12 2),
    (0x2B0C0006, .ctstep 6), (0x2B12600C, .ctclr 38 12), (0x2B166000, .ctsave 38), (0x2B1A6000, .ctload 38),
    (0x2C026302, .kvcommit 38 12 2), (0x2C066302, .kvreset 38 12 2), (0x2D026300, .xbind 38 12),
    (0x2D066300, .xstat 38 12), (0x2E026302, .rcfg 38 12 2), (0x2E040006, .rrst 6), (0x2F02600C, .hcfg 38 12),
    (0x2F06600C, .harm 38 12), (0x2F0A6312, .hread 38 12 18)] = true := by decide +kernel

theorem test_decode_vv : decodes [
    (0x301A4B1E, .vadd 6 4 18 24 30), (0x303A4B1E, .vsub 6 4 18 24 30), (0x305A4B1E, .vmul 6 4 18 24 30),
    (0x307A4B1E, .vfma 6 4 18 24 30), (0x309A4B1E, .vfms 6 4 18 24 30), (0x30BA4B1E, .vfnma 6 4 18 24 30),
    (0x30DA4B1E, .vmin 6 4 18 24 30), (0x30FA4B1E, .vmax 6 4 18 24 30), (0x311A4B00, .vabs 6 4 18 24),
    (0x313A4B00, .vneg 6 4 18 24), (0x315A4B1E, .vand 6 4 18 24 30), (0x317A4B1E, .vor 6 4 18 24 30),
    (0x319A4B1E, .vxor 6 4 18 24 30), (0x31BA4B00, .vnot 6 4 18 24), (0x31DA4B1E, .vshl 6 4 18 24 30),
    (0x31FA4B1E, .vshr 6 4 18 24 30), (0x321A4B1E, .vsra 6 4 18 24 30), (0x323A4B00, .vmov 6 4 18 24),
    (0x325A4B1E, .vsel 6 4 18 24 30), (0x327A4B1E, .vceq 6 4 18 24 30), (0x329A4B1E, .vcne 6 4 18 24 30),
    (0x32BA4B1E, .vclt 6 4 18 24 30), (0x32DA4B1E, .vcle 6 4 18 24 30), (0x32FA4B1E, .vscaleb 6 4 18 24 30),
    (0x331A4B00, .vexpo 6 4 18 24)] = true := by decide +kernel

theorem test_decode_vr : decodes [
    (0x381A4B14, .vcvt 6 4 18 24 2 4), (0x383A4B14, .vcvts 6 4 18 24 2 4), (0x385A4B00, .vrmax 6 4 18 24),
    (0x387A4B00, .vrmin 6 4 18 24), (0x389A4B00, .vrsum 6 4 18 24), (0x38BA4B00, .vrssq 6 4 18 24),
    (0x38DA4B00, .vramax 6 4 18 24), (0x38FA4B00, .vrarg 6 4 18 24), (0x391A4B00, .vcsum 6 4 18 24),
    (0x393A4B00, .vscan 6 4 18 24), (0x395A4B00, .vbrow 6 4 18 24), (0x397A4B00, .vbcol 6 4 18 24),
    (0x399A4B00, .vsplat 6 4 18 24), (0x39B83258, .vins 6 12 18 24), (0x39D83258, .vext 6 12 18 24),
    (0x39FA4B1E, .vperm 6 4 18 24 30), (0x3A1A4B00, .vtrans 6 4 18 24), (0x3A3A4800, .viota 6 4 18),
    (0x3A5A4B00, .vrand 6 4 18 24), (0x3A7A4B1E, .voxd 6 4 18 24 30), (0x3A983258, .voxe 6 12 18 24)] = true := by decide +kernel

theorem test_decode_vm : decodes [
    (0x40001992, .mand 6 12 18), (0x40201992, .mor 6 12 18), (0x40401992, .mxor 6 12 18), (0x40601980, .mnot 6 12),
    (0x40983240, .mpopc 6 12 18), (0x40BA4B1E, .vtree 6 4 18 24 30), (0x40C01800, .ppinit 6),
    (0x40E01980, .ppdeg 6 12), (0x411A4B1E, .ppmul 6 4 18 24 30), (0x413A4B1E, .ppdiv 6 4 18 24 30),
    (0x415A4B1E, .pprd 6 4 18 24 30), (0x41601980, .ppscale 6 12), (0x41801980, .ppstat 6 12)] = true := by decide +kernel

theorem test_decode_fs : decodes [
    (0x48349600, .fexp2 6 4 18 24), (0x4874963C, .fexp2m 6 4 18 24 30), (0x48B49600, .flog2 6 4 18 24),
    (0x48F49600, .frcp 6 4 18 24), (0x49349600, .frsq 6 4 18 24), (0x49749600, .fsqrt 6 4 18 24),
    (0x49B49600, .fsin 6 4 18 24), (0x49F49600, .fcos 6 4 18 24), (0x4A349600, .ftanh 6 4 18 24),
    (0x4A749600, .fsigm 6 4 18 24), (0x4AB49600, .ferf 6 4 18 24), (0x4AF49600, .fsilu 6 4 18 24)] = true := by decide +kernel

theorem test_decode_ml : decodes [
    (0x50263035, .ldb 38 12 53), (0x50663035, .ldh 38 12 53), (0x50A63035, .ldw 38 12 53),
    (0x50E63035, .ldd 38 12 53), (0x51263035, .ldbn 38 12 53), (0x51663035, .ldhn 38 12 53),
    (0x51A63035, .ldwn 38 12 53), (0x51E63035, .stb 38 12 53), (0x52263035, .sth 38 12 53),
    (0x52663035, .stw 38 12 53), (0x52A63035, .std 38 12 53), (0x52C63035, .vld 6 12 53), (0x53063035, .vst 6 12 53),
    (0x53463035, .vldx 6 12 53), (0x53A63035, .ldf 38 12 53), (0x53C63035, .ppsave 6 12 53),
    (0x54063035, .ppload 6 12 53)] = true := by decide +kernel

theorem test_decode_ma : decodes [
    (0x58263320, .aadd 38 12 50 0 0), (0x58663320, .amin 38 12 50 0 0), (0x58A63320, .amax 38 12 50 0 0),
    (0x58E63320, .aminn 38 12 50 0 0), (0x59263320, .amaxn 38 12 50 0 0), (0x59663320, .aand 38 12 50 0 0),
    (0x59A63320, .aor 38 12 50 0 0), (0x59E63320, .axor 38 12 50 0 0), (0x5A263320, .aswap 38 12 50 0 0),
    (0x5A663320, .acas 38 12 50 0 0), (0x5AA63320, .agts 38 12 50 0 0), (0x5AE63320, .agtsn 38 12 50 0 0),
    (0x5B263320, .avswap 38 12 50 0 0), (0x5B663320, .atagswap 38 12 50 0 0), (0x5BA63320, .afadd 38 12 50 0 0),
    (0x5BE63004, .ldacq 38 12 2), (0x5C0098C4, .strel 38 12 2)] = true := by decide +kernel

theorem test_decode_ms : decodes [
    (0x60130062, .fence 38 12 2), (0x6033000C, .fwait 38 12), (0x60530092, .bar 38 4 18), (0x60730080, .bara 38 4),
    (0x60930092, .barw 38 4 18), (0x60B30080, .barq 38 4), (0x60C00006, .sbar 6), (0x60F31812, .hwait 38 12 18),
    (0x61131818, .rwait 38 12 0 24), (0x61200CCE, .radvp 6 206), (0x61400CCE, .radvc 6 206), (0x61731800, .enq 38 12),
    (0x61931800, .deq 38 12), (0x61B3000C, .qwait 38 12), (0x61D30002, .stbind 38 0 2), (0x61E00006, .stunb 6),
    (0x62131802, .penn 38 12 2)] = true := by decide +kernel

/-- Words of the spec's programs, with E set, and two SI words with their LX words (R36, R145). -/
theorem test_decode_examples : decodes [
    (0xD2C51C01, .vld 5 7 1), (0x98E00000, .eret), (0x980A0010, .srr 20 0x10), (0x908807FD, .bne 4 0 0x7FD),
    (0xE0400032, .bar 0 1 18), (0x9401FFC4, .jmp 0x1FFC4), (0xA5000001, .mdrain 0 0 0 0 0 0 0 0 1), (0xAB045002, .ctsnap 5 2),
    (0xE1C50008, .stbind 10 1 0), (0xA9000000, .cpy 0 0 0 0)] = true ∧
    reads 0x08040000 (lxBits 0x6FFFF000) (.addi 4 0 (.long 0x1FFFFC00000)) = true ∧
    reads 0x080A1180 (lxBits 0xE8000001) (.addi 10 4 (.long 1408)) = true := by decide +kernel

/-- R142 to R146, R150: reserved groups, opcodes and bits do not decode. -/
theorem test_decode_refused : [0x00000001, 0x00020000, 0x13000000, 0x14020000, 0x6FFFF000, 0x70000000, 0x7FFFFFFF, 0x33200000,
    0x48000001, 0x48000002, 0x54400000, 0x5C400000].all (fun w : IWord => match decodeWord w none with
  | .ok _ => false
  | .error _ => true) = true := by decide +kernel

/-- The opcode table's numbering: the first word lowest; a word of 31 bits, and one with its LX word behind it. -/
theorem test_table_word : decodeTableWord 32 0x00044146 = some (.add 4 5 6) ∧ decodeTableWord 32 0x08040005 = some (.addi 4 0 (.short 5)) ∧
    decodeTableWord 64 0x6FFFF00008040000 = some (.addi 4 0 (.long 0x1FFFFC00000)) ∧ decodeTableWord 32 0x7FFFFFFF = none := by
  decide +kernel

/-! ### Small states -/

/-- A page of HBM at virtual address 0, readable and writable. -/
def page : TlbEnt := ⟨0, 0, 0, 4096, 0x10000D⟩

/-- The context of core 0 with some registers: g1 5, g2 −3, g3 0x100 of the own vault, g4 an address of the page. -/
def ctx : Ctx := { placedCtx with pten := true, g := [(1, 5), (2, 0xFFFFFFFFFFFFFFFD), (3, 0xFFFFFFFFFFC00100), (4, 0x100)] }

/-- A READY device whose region 0 belongs to partition 0, with the word `w` at address 0 of core 0, the context `x` there
and the core changed by `k`. -/
def device (w : Nat) (x : Ctx := ctx) (k : Core → Core := id) : State :=
  { State.reset.withFetchWord 32 w with
    cores := [(0, k { placedCore with a := x, tlb := [page] })]
    partitions := [(0, { Partition.fresh with en := true, regions := 1, hbmg := 1 })] }

/-- A bundle in hand at address 0, its next bundle at 4. -/
def hand (x : Ctx := ctx) (k : Core → Core := id) : State := { device 0 x k with bundle := some 4 }

/-- A store of bytes in the instruction store of core 0. -/
def coded (s : State) (is : List Instr) : State :=
  { s with mem := Memory.writeList s.mem (istoreKey 0 0) (codeBytes (bundleWords is)) }

/-- A message of core 0 to a byte range. -/
def msg (parts : List Part) (ask : Ask) : Msg :=
  ⟨9, none, 0, 0, false, false, .st, 0, 0, parts, ask, .reg (.g 5) 0, [], none, [], 0, false, 0, 0, false, none, 0, none⟩

/-- That bundle behind an acquire that has not performed. -/
def gated : State := { hand with fabric := [{ msg [] .read with cls := .acq }] }

/-! ### For every statement with hypotheses, a state and operands that meet them -/

theorem witness_ReservedNopBits : group 0x80000000 = 0 ∧ fld 0x80000000 18 9 = 0 ∧ fld 0x80000000 0 27 = 0 ∧
    group 0x00020000 = 0 ∧ fld 0x00020000 18 9 = 0 ∧ fld 0x00020000 0 27 ≠ 0 ∧ fld 0x00000001 0 27 ≠ 0 := by decide +kernel

theorem witness_RoundTripBytes : [Instr.nop, .addi 63 63 (.long 0x1FFFFFFFFF), .vld 31 63 0x3FF, .bar 63 4 18].all (fun i =>
    i.wf && !isEvent i) = true := by decide +kernel

theorem witness_StepsKeepSound : (device 0).Sound ∧ Wipe.package.keeps 5 = true := by
  refine ⟨⟨?_, ?_, ?_⟩, ?_⟩ <;> decide +kernel

theorem witness_MemoryReads : Memory.wf [(3, 1), (9, 2)] = true ∧ ([7, 0, 8] : List Byte)[2]? = some 8 := by decide +kernel

theorem witness_StepTakesInput : isEvent (.railSwitchEnd 0) = true ∧ isEvent (.nop) = false ∧ State.reset.nextRegion = none ∧
    State.reset.inputs = [] ∧ (∃ t, exec (.railSwitchEnd 0) (device 0) = .next t) ∧
    { device 0 with inputs := [.event (.railSwitchEnd 0), .cycle 0] }.inputs = .event (.railSwitchEnd 0) :: [.cycle 0] := by
  refine ⟨?_, ?_, ?_, ?_, ⟨_, rfl⟩, rfl⟩ <;> decide +kernel

/-- The state from which the first instruction runs: ADD g4, g5, g6. -/
def first : State := State.reset.withFetchWord 32 0x00044146

theorem witness_StepRunsInstruction : first.runsNext 0 ∧ (first.opened 0).present 0 = [0] ∧
    ((first.performed 0 0).regOf 0).drain = false ∧ (first.readied 0 0).issues 0 ∧ (Instr.add 4 5 6).wf = true ∧
    isEvent (.add 4 5 6) = false ∧
    (first.readied 0 0).holdsCode 0 (first.readied 0 0).cx.pc.toNat (encodeWords (.add 4 5 6) true) ∧
    ∃ t, exec (.add 4 5 6) (first.readied 0 0) = .next t := by
  refine ⟨?_, ?_, ?_, ?_, ?_, ?_, ?_, ⟨_, rfl⟩⟩ <;> decide +kernel

/-- The bundle of R144's example. -/
def four : List Instr := [.add 4 5 6, .vadd 0 0 1 2 3, .fexp2 0 0 4 1, .vld 5 3 1]

theorem witness_FetchReadsTheBundle : four ≠ [] ∧ (∀ i ∈ four, isEvent i = false) ∧
    (coded (device 0) four).holdsCode 0 ((coded (device 0) four).ctx 0 0).pc.toNat (bundleWords four) ∧
    step4 0 none [] false (bundleWords four) = none := by
  decide +kernel

theorem witness_OneWordBundle : isEvent (.add 4 5 6) = false ∧ (device 0).bundle = none ∧
    (device 0).asyncTrap 0 0 = none ∧ ((device 0).clears 0 0 [.add 4 5 6]).2 = true ∧
    ((device 0 { ctx with overrun := 1 }).asyncTrap 0 0).isSome = true ∧
    ((device 0 { ctx with busy := [(.g 5, 9)] }).clears 0 0 [.add 4 5 6]).2 = false := by decide +kernel

theorem witness_StepRunsBundle :
    let s := coded (device 0) four
    s.runsNext 0 ∧ (s.opened 0).present 0 = [0] ∧ ((s.performed 0 0).regOf 0).drain = false ∧ (s.readied 0 0).issues 0 ∧
    (s.readied 0 0).holdsCode 0 (s.readied 0 0).cx.pc.toNat (bundleWords four) ∧
    ((s.readied 0 0).clears 0 0 four).2 = true ∧
    ((coded (device 0 { ctx with busy := [(.v 3, 9)] }) four).readied 0 0).issues 0 ∧
    (((coded (device 0 { ctx with busy := [(.v 3, 9)] }) four).readied 0 0).clears 0 0 four).2 = false := by
  decide +kernel

/-- Writes due in cycle 7: two to g5, one to half of v3, one to g0 with a flag; and one to m1 due later. -/
def due7 : List RegWrite := [
  ⟨.g 5, 1, BitVec.allOnes 4096, 0, false, 7, 2, 0, 1⟩, ⟨.g 5, 2, BitVec.allOnes 4096, 0, false, 7, 1, 0, 1⟩,
  ⟨.v 3, 7, 0xFF, 0, false, 5, 3, 0, 1⟩, ⟨.g 0, 9, BitVec.allOnes 4096, 16, false, 7, 4, 0, 1⟩,
  ⟨.m 1, 9, BitVec.allOnes 4096, 0, false, 8, 5, 0, 1⟩]

theorem witness_RegistersKeepTheLastWrite :
    let k := { Core.fresh with a := { Ctx.fresh with writes := due7 } }
    ((k.performDue 0 7).ctx 0).rg 5 = 1 ∧ ((k.performDue 0 7).ctx 0).raised = 16 ∧
    (due7.filter (fun v => v.due ≤ 7 && v.reg == .v 3)).length = 1 ∧
    (∀ w ∈ due7, w.reg = .m 1 → 7 < w.due) ∧ ¬ (∀ w ∈ due7, w.reg = .m 1 → 8 < w.due) := by decide +kernel

theorem witness_TrapEntry : ctx.act = false ∧ badTarget 0x1FFFC = none ∧ badTarget 0x20000 ≠ none ∧ badTarget 2 ≠ none := by
  decide +kernel

/-- A context whose handler runs. -/
def handler : Ctx := { ctx with tcause := 0x40000, lvl := 1, tret := 0x40, reported := [(0, 2)] }

theorem witness_TrapReturn : (hand handler).inHand ∧ ((hand handler).turning { (hand handler).ctl with eret := true }).ctl.eret = true ∧ (hand handler).ctl.trap = none ∧ handler.act = true ∧
    (((hand handler (fun k => k.setChan 2 { k.chan 2 with st := .suspended })).core 0).chan 2).st = .suspended ∧
    (hand).cx.act = false ∧ ((device 0).ctx 0 0).act = false := by decide +kernel

theorem witness_DoubleTrap : ((device 0 handler).ctx 0 0).act = true ∧ (device 0 handler).partOf 0 = some 0 ∧
    ctx.act = false ∧ badTarget { ctx with tvec := 0x20002 }.tvec ≠ none ∧
    (((device 0 { ctx with halted := true }).core 0).ctx ((device 0 { ctx with halted := true }).core 0).holder).halted = true := by
  decide +kernel

theorem witness_ChecksTrap : (device 0).bundle = none ∧ (device 0).asyncTrap 0 0 = none ∧ (Instr.exts 1 2 0).wf = false ∧
    (device 0).step5 0 0 (mkBundle 0 [.flushi]) = none ∧ privileged .flushi = true ∧ ctx.lvl = 0 ∧
    (device 0).step5 0 0 (mkBundle 0 [.srr 1 0x102]) = none ∧ ctx.lvl.toNat < sysLevel 0x102 ∧
    (slotAcc ctx (.ldd 1 4 0)).isSome = true ∧ (slotAcc { ctx with g := [(4, 0x101)] } (.ldd 1 4 0)).map (fun t =>
      (t.segs, t.align)) = some ([(0x101, 8)], 8) ∧
    (device 0 { ctx with g := [(4, 0x101)] }).steps57 0 0 (mkBundle 0 [.ldd 1 4 0]) = none ∧ ctx.streams = [] ∧
    (device 0).cx.detMode = false ∧ ctx.reportDue = false := by decide +kernel

theorem witness_FaultRecords : { FaultRec.plain 1 0 0 with slot := 7, owner := 1023, obj := 65535 }.slot < 8 ∧
    { ctx with fqCount := 63, fqHead := 63 }.fqCount.toNat < 64 ∧ { ctx with fqCount := 64 }.fqCount = 64 ∧
    ((device 0 { ctx with fqCount := 63, fqHead := 63 }).parts 0 { ctx with fqCount := 63, fqHead := 63 } 0xF80 64 .store).isOk = true := by
  decide +kernel

/-- Near accesses of core 0 that perform in its cycle 0. -/
def near (a : Act) : Timed := ⟨0, 2, 9, 0, 0, 0, .st, .no, a⟩

theorem witness_NearAccessesPerform : (near (.store 0x100 [1, 2])).hold = .no ∧ (near (.load (.g 5) [(0x100, 8)] 0)).hold = .no ∧
    (near (.atomic 0 5 0x100 1 0)).hold = .no := by decide +kernel

/-- A stream of v25 with two registers of data. -/
def stream (wr : Bool) : Stream := { Stream.none with id := 1, reg := 25, write := wr, bound := true, data := [5, 6] }

theorem witness_StreamOperands :
    let s := hand { ctx with streams := [(25, stream false), (26, { stream true with reg := 26 })] }
    s.inHand ∧ (s.cx.stream 25).bound = true ∧ (s.cx.stream 25).write = false ∧ (s.cx.stream 25).kind ≠ 2 ∧
    (s.cx.stream 25).kind ≠ 3 ∧ (s.cx.stream 25).data = [5, 6] ∧ (s.cx.stream 1).bound = false ∧ (s.cx.stream 26).bound = true ∧
    (s.cx.stream 26).write = true ∧ (s.cx.stream 26).id < 2 := by decide +kernel

theorem witness_ScalarArithmetic : hand.inHand ∧ (5 : Word) = hand.cx.rg 1 ∧ 0xFFFFFFFFFFFFFFFD = hand.cx.rg 2 := by decide +kernel

theorem witness_ScalarBits : hand.inHand ∧ (0 : Word) = hand.cx.rg 0 ∧ 5 = hand.cx.rg 1 ∧
    (∀ j < 64, (0xA000000000000000 : Word).getLsbD j = (hand.cx.rg 1).getLsbD (63 - j)) ∧
    (∀ j < 8, (0x0500000000000000 : Word).extractLsb' (8 * j) 8 = (hand.cx.rg 1).extractLsb' (8 * (7 - j)) 8) ∧
    (63 : BitVec 6) ≠ 0 ∧ (∀ j < 61, (hand.cx.rg 1).getLsbD (63 - j) = false) ∧ (hand.cx.rg 1).getLsbD (63 - 61) = true ∧
    (∀ j < 64, (hand.cx.rg 0).getLsbD (63 - j) = false) ∧ (hand.cx.rg 1).getLsbD 0 = true := by decide +kernel

theorem witness_Division : hand.inHand ∧ (0 : Word) = hand.cx.rg 0 ∧ (0xFFFFFFFFFFFFFFFD : Word) = hand.cx.rg 2 ∧
    (0xFFFFFFFD : BitVec 32) = (hand.cx.rg 2).extractLsb' 0 32 := by decide +kernel

theorem witness_ImmediatesAndHalves : hand.inHand ∧ (0xFFFFFFFFFFFFFE00 : Word) = BitVec.ofInt 64 (0x200 : BitVec 10).toInt ∧
    (0xFFFFFFF000000000 : Word) = BitVec.ofInt 64 (0x1000000000 : BitVec 37).toInt ∧
    (BitVec.ofInt 64 (63 : BitVec 10).toInt).toNat < 64 := by decide +kernel

theorem witness_Branches : hand.inHand ∧ (5 : Word) = hand.cx.rg 1 ∧ 0 = hand.cx.pc ∧
    (0xFFFFFFFFFFFFFFFC : Word) = BitVec.ofInt 64 ((0 : Word).toInt + 4 * (0x7FF : BitVec 11).toInt) := by decide +kernel

theorem witness_Links : hand.bundle = some 4 ∧ (({ ctx with pc := 6 }).pc).toNat % 4 ≠ 0 ∧ (0x20000 : Word).toNat % 4 = 0 ∧
    0x20000 ≤ (0x20000 : Word).toNat ∧ group 0x13000000 = 2 ∧ fld 0x13000000 23 4 = 6 ∧ fld 0x13800000 23 4 = 7 ∧
    (fld 0x14020000 23 4 = 8 ∧ fld 0x14020000 17 6 ≠ 0) ∧ (fld 0x15000800 23 4 = 10 ∧ fld 0x15000800 11 6 ≠ 0) := by decide +kernel

/-- LOOP g0 over a body that ends with a bundle of two words at 8. -/
theorem witness_LoopBegins :
    let s := { coded hand [.nop] with mem := Memory.writeList [] (istoreKey 0 8) (codeBytes (bundleWords [.nop, .nop])) }
    s.bundle = some 4 ∧ (8 : Word) = BitVec.ofInt 64 (s.cx.pc.toInt + 4 * (2 : BitVec 11).toInt) ∧ s.cx.rg 1 ≠ 0 ∧
    s.cx.rg 0 = 0 ∧ 8 % 64 + 4 * 2 ≤ 64 ∧
    (∀ j, j < 1 → (Memory.read s.mem (istoreKey 0 (8 + 4 * j + 3))).getLsbD 7 = false) ∧
    (Memory.read s.mem (istoreKey 0 (8 + 4 * 2 - 1))).getLsbD 7 = true := by decide +kernel

theorem witness_BundleEnd : hand.bundle = some 4 ∧ hand.ctl = { Ctl.plain with refetch := false } ∧
    (hand.turning { hand.ctl with refetch := true }).ctl = { Ctl.plain with refetch := true } ∧
    ((hand.sent (.jump 0x40)).turning { Ctl.plain with go := .jump 0x40 }).ctl = { Ctl.plain with go := .jump 0x40, refetch := false } ∧
    (hand.turning { hand.ctl with trap := some (7, 9, 0) }).ctl.trap = some (7, 9, 0) := by decide +kernel

theorem witness_SystemRegisters : hand.inHand ∧ (0 : Word) = hand.readSys hand.me hand.res 0 ∧ (0x1F : Word) = sysMask hand.cx.lvl 0 := by
  decide +kernel

theorem witness_ControlWords : hand.inHand ∧ 5 = min (hand.cx.rg 1).toNat (2 ^ 32 - 1) ∧ hand.cx.idleEvent = false ∧
    hand.cx.trapPending = false ∧ 0 = min (hand.cx.rg 0).toNat (2 ^ 32 - 1) ∧ (hand { ctx with idleEvent := true }).cx.idleEvent = true ∧
    (hand { ctx with overrun := 1 }).cx.trapPending = true := by decide +kernel

theorem witness_DigestTlbiRetime : (hand { ctx with g := [(1, 8), (4, 0x100)] }).inHand ∧
    ((hand { ctx with g := [(1, 8), (4, 0x100)] }).parts 0 (hand { ctx with g := [(1, 8), (4, 0x100)] }).cx 0x100 8 .load).isOk = true ∧
    hand.partOf hand.me = some 0 ∧ (3 : BitVec 3).toNat < 4 := by decide +kernel

theorem witness_ElementWise : hand.inHand ∧ [Instr.vadd 0 0 1 2 3, .vsra 5 7 1 2 3, .vabs 0 1 31 30, .vfma 2 0 1 2 3,
    .vsel 0 1 1 2 3].all (fun i => ((uses i).vr ++ (uses i).vw).all (fun v => !(hand.cx.stream v.toNat).bound)) = true := by
  decide +kernel

theorem witness_VectorResults : hand.inHand ∧ (∀ v ∈ (uses (.vcvt 0 0 1 2 1 1)).vr ++ (uses (.vcvt 0 0 1 2 1 1)).vw,
    (hand.cx.stream v.toNat).bound = false) ∧ (5 : Word) = hand.cx.rg ((1 : BitVec 5).setWidth 6) := by decide +kernel

theorem witness_Masks : hand.inHand ∧ (∀ v ∈ (uses (.vclt 0 1 7 2 3)).vr ++ (uses (.vclt 0 1 7 2 3)).vw,
    (hand.cx.stream v.toNat).bound = false) ∧ laneCount 0 = 128 ∧ laneCount 3 = 512 := by decide +kernel

theorem witness_SpecialFunctions : hand.inHand ∧ (∀ v ∈ (uses (.fexp2m 0 1 2 3 4)).vr ++ (uses (.fexp2m 0 1 2 3 4)).vw,
    (hand.cx.stream v.toNat).bound = false) := by decide +kernel

theorem witness_Polynomials : hand.inHand ∧ (7 : BitVec 3) = (7 : BitVec 5).setWidth 3 ∧
    (∀ v ∈ (uses (.ppmul 0 1 7 3 4)).vr ++ (uses (.ppmul 0 1 7 3 4)).vw, (hand.cx.stream v.toNat).bound = false) := by decide +kernel

theorem witness_LanesWritten : 127 < laneCount 0 ∧ 8 * 512 ≤ 4096 ∧ 511 < 512 := by decide +kernel

theorem witness_IntegerLanes : isInt 5 = true ∧ isInt 6 = true ∧ isInt 7 = true ∧ 255 < 2 ^ eb 5 ∧ 0 < eb 6 ∧
    (-128 : Int) = (BitVec.ofNat 8 128).toInt := by decide +kernel

/-- A context with the own vault's last granule in g3 and gather offsets in v2. -/
def atTop : Ctx := { ctx with g := [(1, 5), (3, 0xFFFFFFFFFFFFFFC0), (5, 0xFFFFFFFFFFC01000)] }

theorem witness_NearLoads :
    (hand atTop).inHand ∧ (hand atTop).ungated = true ∧ isOwn 0 ((hand atTop).cx.rg 3 + BitVec.ofInt 64 ((7 : BitVec 10).toInt * 8)) = true ∧
    isOwn 0 ((hand atTop).cx.rg 3 + BitVec.ofInt 64 ((7 : BitVec 10).toInt * 8) + 7) = true ∧
    (hand atTop).cx.seg.toNat = 0 ∧ isOwn 0 (0xFFFFFFFFFFC01000 + 511) = true ∧ isOwn 0 (0xFFFFFFFFFFC01000 + 519) = true ∧
    (List.range 8).all (fun k => isOwn 0 ((hand atTop).cx.rg 5 + ((hand atTop).cx.rv 2).extractLsb' (64 * k) 64) &&
      isOwn 0 ((hand atTop).cx.rg 5 + ((hand atTop).cx.rv 2).extractLsb' (64 * k) 64 + 63)) = true ∧
    (∀ v ∈ (uses (.vldx 2 5 0)).vr ++ (uses (.vldx 2 5 0)).vw, ((hand atTop).cx.stream v.toNat).bound = false) := by decide +kernel

/-- A page that maps the own copy aperture at virtual address 0. -/
def aperture (k : Core) : Core := { k with tlb := [⟨0, 0, 0, 4096, 0x82D⟩] }

theorem witness_NearStores : (hand atTop).inHand ∧ (hand atTop).ungated = true ∧ isOwn 0 0xFFFFFFFFFFFFFFF8 = true ∧ isOwn 0 0xFFFFFFFFFFFFFFFF = true ∧
    ((hand { ctx with g := [(1, 5)] } aperture).channelOf 0 (hand { ctx with g := [(1, 5)] } aperture).cx (.std 1 0 16)) = some 2 := by
  decide +kernel

theorem witness_FarAccesses : hand.inHand ∧ gated.inHand ∧ gated.ungated = false ∧
    (slotAcc gated.cx (.ldd 5 3 0)).map (fun t => t.near gated.me) = some true ∧ (slotAcc hand.cx (.ldd 5 4 0)).map (fun t => t.near hand.me) = some false ∧
    (slotAcc hand.cx (.ppsave 1 4 0)).map (fun t => t.near hand.me) = some false ∧
    (slotAcc hand.cx (.ldf 5 4 0)).map (fun t => (hand.resolveSegs 0 hand.cx t.acc t.segs).isOk) = some true ∧
    (slotAcc hand.cx (.ldf 5 4 0x1FF)).map (fun t => (hand.resolveSegs 0 hand.cx t.acc t.segs).isOk) = some false ∧
    hand.channelOf 0 hand.cx (.std 5 4 0) = none := by decide +kernel

theorem witness_AtomicsAtIssue : hand.inHand ∧ hand.ungated = true ∧ gated.inHand ∧ gated.ungated = false ∧ (SlotAcc.one (hand.cx.rg 3) 8 8 .atomic (atCls 1)).near 0 = true ∧
    hand.nearBy 0 [] 7 = true ∧ (hand ctx (fun k => { k with timed := [⟨9, 2, 3, 0, 0, 0, .st, .no, .store 0 [1]⟩] })).nearBy 0 [3] 7 = false ∧
    (SlotAcc.one (hand.cx.rg 4) 8 8 .atomic (atCls 1)).near 0 = false := by decide +kernel

theorem witness_ReleasesAtIssue : hand.inHand ∧ (SlotAcc.one (hand.cx.rg 3) 8 8 .store .rel).near 0 = true ∧
    hand.nearBy 0 [] 5 = true ∧ (hand ctx (fun k => { k with timed := [⟨9, 2, 3, 0, 0, 0, .st, .no, .store 0 [1]⟩] })).nearBy 0 [3] 5 = false ∧
    (SlotAcc.one (hand.cx.rg 4) 8 8 .store .pen).near 0 = false := by decide +kernel

theorem witness_MatrixAtIssue : hand.inHand ∧ (∀ v ∈ (uses (.mdrain 0 0 0 0 0 0 0 0 1)).vr ++ (uses (.mdrain 0 0 0 0 0 0 0 0 1)).vw,
    (hand.cx.stream v.toNat).bound = false) ∧ hand.cx.fx = false ∧ (hand { ctx with fx := true }).cx.fx = true := by decide +kernel

theorem witness_EngineCommands : hand.inHand ∧ (5 : Word) = hand.cx.rg 1 := by decide +kernel

theorem witness_AnswersAndSettings : hand.inHand ∧ hand.ungated = true ∧ gated.ungated = false ∧ (5 : Word) = hand.cx.rg 1 ∧
    (∀ r : BitVec 6, (if r = 0 then [] else [(BusyReg.g r, hand.seq)]) = if r = 0 then [] else [(BusyReg.g r, hand.seq)]) :=
  ⟨by decide +kernel, by decide +kernel, by decide +kernel, by decide +kernel, fun _ => rfl⟩

theorem witness_SyncAtIssue : hand.inHand ∧ (1 : BitVec 16) = hand.cx.fenceNo + 1 ∧ hand.domainOf hand.cx.lid hand.me 0 = none ∧
    (∀ p ∈ hand.cx.streams, p.2.bound = true → p.2.write = true ∨ p.2.read = false) ∧
    (hand.cx.stream 24).bound = false ∧
    ((hand { ctx with streams := [(31, { stream true with reg := 31 })] }).cx.stream 31).bound = true ∧
    ((hand { ctx with streams := [(31, { stream true with reg := 31 })] }).cx.stream 31).write = true := by decide +kernel

/-! ### Witnesses for the steps of the device -/

/-- The device in cycle 100 of region 0. -/
def at100 (s : State) : State := s.modRegion 0 (fun g => { g with now := 100 })

/-- The device with the clocks of region 0 standing. -/
def asleep : State := (device 0).modRegion 0 (fun g => { g with st := .frozen })

theorem witness_SequencerSteps :
    let s := at100 (device 0 ctx (fun k => { k with switchWait := true, switchAt := 100 }))
    let idle := at100 (device 0 { ctx with idle := some (100, 5) })
    let gone := device 0 { ctx with busy := [(.g 5, 9)], stall := some ⟨6, 5, 0, 16777216⟩ }
    ((s.core 0).switchWait = true ∧ (s.core 0).switchAt ≤ s.now 0 ∧ ((s.core 0).ctx 0).polyBusy (s.now 0) = false) ∧
    ((device 0 { ctx with running := none } (fun k => { k with idle := true })).core 0).idle = true ∧
    ((device 0 { ctx with running := none } (fun k => { k with idle := true })).dispatch 0 0 2).2 = false ∧
    ((device 0 { ctx with running := none, pact := true, recs := [⟨0, .waiting, 0, false, false, false, 0, [], true, false, 0, [], [], []⟩] }
      (fun k => { k with idle := true })).dispatch 0 0 2).2 = true ∧
    ((idle.core 0).ctx 0).idle = some (100, 5) ∧ 100 ≤ idle.now 0 ∧
    (gone.mayIssue 0 = true ∧ gone.cx.idle = none ∧ gone.cx.folding = none ∧ gone.fetch 0 0 = .words [.nop] ∧
      (device 0x00044146 { ctx with busy := [(.g 5, 9)], stall := some ⟨6, 5, 0, 16777216⟩ }).check 0 0 (mkBundle 0 [.add 4 5 6]) = .ok ∧
      (((device 0x00044146 { ctx with busy := [(.g 5, 9)], stall := some ⟨6, 5, 0, 16777216⟩ }).holds 0 0 (mkBundle 0 [.add 4 5 6])).find?
        gone.cx.expired).isSome = true) ∧
    (device 0).modCore 0 id = device 0 ∧ (s.sequences 0 = true ∧ (s.regOf 0).runs = true ∧ idle.sequences 0 = true ∧ gone.sequences 0 = true) ∧
    (asleep.sequences 0 = false ∧ (asleep.regOf 0).runs = false) ∧ ∀ m ∈ (s.core 0).mq, m.start = none := by decide +kernel

/-- A counting hoist over 64 bytes of the own vault that has reached its total of 64, with the given action. -/
def full (action : Nat) : Hoist :=
  ⟨true, BitVec.ofNat 320 (64 * 2 ^ 64 + 64 * 2 ^ 96 + action * 2 ^ 144), vaultKey 0 0x1000, false, true, 64, 0, [], false, false, false⟩

/-- A domain of core 0 alone that has arrived. -/
def alone : Domain := ⟨0, 0, 0, [(0, 0)], 0, 7, [((0, 0), [], 0)], 0, [], none, 0⟩

theorem witness_HoistSteps : (List.range 5).all (fun a => (device 0).reaching (full a) && (full a).action = a) = true ∧
    ((device 0).ctx 0 0).saved = false ∧ ({ Ring.none with relNow := 2 } : Ring).relNow ≠ 0 ∧
    ({ device 0 with domains := [alone] }).domainOf ctx.lid 0 0 = some alone ∧
    ({ device 0 with domains := [alone] }).domainReady alone = true ∧ alone.others = 0 ∧
    ({ alone with others := 1 }).others = [(⟨3, 5, 0, 9, 2⟩ : Afar)].length ∧ ((device 0).regOf 0).runs = true ∧
    ((device 0).ctx 0 0).dmem.getLsbD 1 = false ∧ ((device 0).domainOf ctx.lid 0 3) = none := by decide +kernel

/-- A matrix command that reached the head of its queue in cycle 0. -/
def pass (i : Instr) : MxCmd := ⟨i, 0, 0, 9, 0, 0, 0xE0, false, false, [], [], [], 0, some 0, none, 0, 0, false, false, [], [], none⟩

theorem witness_EngineSteps :
    let s := at100 (device 0 ctx (fun k => { k with mq := [pass (.mzero 0 0)] }))
    let w := (device 0 ctx (fun k => { k with mq := [pass (.mload 0 3 0 0)] })).modRegion 0 (fun g => { g with now := 16777216 })
    let e := at100 (device 0 ctx (fun k => { k with mq := [{ pass (.mzero 0 0) with start := some 90, endAt := some 100 }] }))
    let m := at100 (device 0 ctx (fun k => { k with mq := [pass (.mma 0 0 1 0 0 0 0 1 0 0)] }))
    let c : CtCmd := ⟨.ctstep 0, 0, 0, 9, 0, 0, 0, 0, [], 0, none, 0, 0, []⟩
    s.mxWaits 0 (pass (.mzero 0 0)) = none ∧ 0 + 7 ≤ s.now 0 ∧ (pass (.mzero 0 0)).endAt = none ∧
    (m.core 0).mq.head?.map (fun m => m.i) = some (.mma 0 0 1 0 0 0 0 1 0 0) ∧
    w.mxWaits 0 (pass (.mload 0 3 0 0)) = some 3 ∧ 16777216 ≤ w.now 0 ∧
    ((e.core 0).mq.map (fun m => m.endAt)) = [some 100] ∧ 100 ≤ e.now 0 ∧ (pass (.mzero 0 0)).satf = false ∧
    c.void { ctx with blocks := [(0, ⟨0, true, false⟩)] } = false ∧ (s.regOf 0).runs = true ∧ (w.regOf 0).runs = true ∧
    (asleep.regOf 0).runs = false ∧ (e.ctx 0 0).upsets = [] ∧ (pass (.mzero 0 0)).gcfgAfter = [] ∧ (pass (.mzero 0 0)).gates = [] ∧
    -- BALLAST_PASS in a cycle in which the head could start, and in one in which it could not
    s.mxCanStart 0 (pass (.mzero 0 0)) = true ∧ w.mxCanStart 0 (pass (.mload 0 3 0 0)) = false ∧
    (pass (.mload 0 3 0 0)).start = none := by decide +kernel

/-- A template that copies 64 bytes of the own vault. -/
def tmpl : BitVec 512 :=
  BitVec.ofNat 512 (0xFFFFFFFFFFC00000 + 0xFFFFFFFFFFC01000 * 2 ^ 64 + 64 * 2 ^ 128 + 2 ^ 160 + 2 ^ 176 + 2 ^ 192)

/-- A template of which the source is translated. -/
def tmplFar (a : Nat) : BitVec 512 := BitVec.ofNat 512 (a + 0xFFFFFFFFFFC01000 * 2 ^ 64 + 64 * 2 ^ 128 + 2 ^ 160 + 2 ^ 176 + 2 ^ 192)

/-- A copy command with a latched template. -/
def copy (t : BitVec 512) : CopyCmd := ⟨0, 0, 9, 0, 0, 0, 0, 0, 0, false, some true, some t, 0, 0, [], [], 0, [], 0⟩

/-- The device with a copy channel 2, and a page of device 1 at 0x8000. -/
def chan (q : Chan) : State :=
  at100 (device 0 ctx (fun k => { k.setChan 2 q with tlb := [page, ⟨0, 0, 0x8000, 4096, 2 ^ 45 + 0x160D⟩] }))

def running (t : BitVec 512) : Chan := { Chan.fresh with st := .active, cur := some (copy t) }

theorem witness_CopySteps :
    (chan { Chan.fresh with queue := [copy tmpl] }).copyCanBegin 0 2 = some (copy tmpl) ∧ tmplOk tmpl = true ∧ tmplOk 0 = false ∧
    (running tmpl).open = some (copy tmpl) ∧ (running tmpl).timed 0 = true ∧ ({ running tmpl with y := 64 }).chunkDone = true ∧
    (running (tmplFar 0x100)).open = some (copy (tmplFar 0x100)) ∧ (running (tmplFar 0x100)).timed 0 = false ∧
    (running tmpl).chunkOwn = true ∧ ({ running tmpl with out := [(0, ⟨0, 0, []⟩)] }).chunkOwn = false ∧
    (chan (running tmpl)).chunkHeld 0 (running tmpl) (copy tmpl) 0 = false ∧
    ({ running (tmplFar 0x100) with ahead := [0] }).ahead.contains 0 = true ∧
    (chan (running (tmplFar 0x100))).chunkMoves 0 (running (tmplFar 0x100)) (copy (tmplFar 0x100)) 0 = true ∧
    (running (tmplFar 0x100)).ahead.contains 0 = false ∧ ((chan Chan.fresh).regOf 0).runs = true ∧ (asleep.regOf 0).runs = false ∧
    (chan (running (tmplFar 0x8000))).snag 0 (running (tmplFar 0x8000)) (copy (tmplFar 0x8000)) ((running (tmplFar 0x8000)).chunkPieces 0) = none ∧
    ((chan (running (tmplFar 0x8000))).abroadIn 0 (running (tmplFar 0x8000)) (copy (tmplFar 0x8000))
      ((running (tmplFar 0x8000)).chunkPieces 0)).isSome = true ∧
    ((chan (running (tmplFar 0x5000))).snag 0 (running (tmplFar 0x5000)) (copy (tmplFar 0x5000))
      ((running (tmplFar 0x5000)).chunkPieces 0)).isSome = true ∧
    16777216 ≤ ({ running tmpl with wmWait := 16777216 }).wmWait ∧
    ({ running tmpl with cursor := 1, rdDone := true }).moved = true ∧ ({ running tmpl with cursor := 1, rdDone := true }).rdDone = true ∧
    ({ Chan.fresh with cancel := [(9, 5, 0, true)] }).cancel ≠ [] ∧ Chan.fresh.st = .idle ∧
    (2176 : BitVec 12).toNat = 2048 * (1 : BitVec 1).toNat + 64 * 2 ∧ (128 : BitVec 12).toNat = 2048 * (0 : BitVec 1).toNat + 64 * 2 ∧
    64 ≤ (64 : Word).toNat ∧ (63 : Word).toNat < 64 ∧ ((chan Chan.fresh).ctx 0 0).owned = true ∧ ((chan Chan.fresh).ctx 0 1).owned = false ∧
    ((chan Chan.fresh).ctx 0 0).saved = false ∧ ((chan Chan.fresh).core 0).preRes = 0 := by decide +kernel

/-- A bound stream that reads four registers from the own vault. -/
def vaultStream : Stream :=
  ⟨1, 24, false, 0, true, BitVec.ofNat 512 (0xFFFFFFFFFFC00000 + 4 * 2 ^ 128 + 2 ^ 160 + 2 ^ 192 + 2 ^ 224), 0, 0, [], none, 0, true⟩

def hbmPart : Part := ⟨.mem (paKey 0x100000), 8, .rc, false, 0, 0⟩
def farPart : Part := ⟨.mem (remoteKey 1 0x1000), 8, .rc, false, 0, 0⟩
def vaultPart : Part := ⟨.mem (vaultKey 0 0x100), 8, .rc, false, 0, 0⟩

theorem witness_FabricSteps :
    let s := fun (m : Msg) => { device 0 with fabric := [m] }
    let w := msg [hbmPart] (.write (wordBytes 5))
    (s w).fabric.find? (fun m => m.id = 9) = some w ∧ w.ask.served .write = true ∧ (s w).deliverable w = true ∧
    (msg [hbmPart] (.atomic 0 1 0)).ask.served .atomic = true ∧ (msg [hbmPart] .read).ask.served .read = true ∧
    (∀ p ∈ w.parts, p.device.isSome = false) ∧ (∃ p ∈ (msg [farPart] .read).parts, p.device.isSome = true) ∧ w.vault = none ∧
    (msg [vaultPart] .read).vault = some 0 ∧ ((s w).regOf 0).runs = true ∧
    (State.reset.ownerOf 0x100000 = none ∧ (device 0).ownerOf 0x100000 = some 0) ∧ ((device 0).partition 0).tag = 0 ∧
    ((device 0).partition 0).en = true ∧ inDirectory 0x100000 = false ∧
    ({ ctx with busy := [(.g 5, 9)] }).busy.contains (BusyReg.g 5, w.id) = true ∧
    (∀ d ∈ ctx.drains, d.reg ≠ 24) ∧ ((device 0).core 0).away 0 = false ∧
    ((device 0).streamMove 0 0 true vaultStream).isSome = true ∧ w.own = false ∧ ((device 0).regOf 0).runs = true ∧
    (asleep.regOf 0).runs = false := by decide +kernel

/-- The device with region 0 changed. -/
def withRegion (f : Region → Region) (x : Ctx := ctx) : State := (device 0 x).modRegion 0 f

/-- A region that follows the recovered source 1, locked, at the end of a period of one sample. -/
def followed (g : Region) : Region := { g with sel := 1, s := 1, c := 5000, into := 5000, samp := 1 }

theorem witness_RegionSteps :
    let b := (withRegion followed).region 0
    let m := (withRegion (fun g => { g with sel := 0x101, s := 2, c := 5000, into := 100, samp := 1, elastic := [] })).region 0
    let o := (withRegion (fun g => { followed g with outs := [(0, 7)], ins := [(1, [3])], outDue := true })).region 0
    (b.boundaryDue = true ∧ b.stop = false ∧ ({ b with stop := true }).boundaryDue = true) ∧
    (({ b with st := .frozen }).st = .frozen ∧ ({ b with st := .holdover, stop := true }).st = .holdover) ∧
    (m.start = false ∧ m.stop = false ∧ m.st = .locked ∧ m.isRef = false ∧ m.hasPort = false ∧ m.elastic = [] ∧
      m.boundaryDue = false ∧ m.early = false) ∧
    (({ b with st := .relock, sel := 0x104, good := 16 }).st = .relock ∧ 16 ≤ ({ b with good := 16 }).good ∧
      (device 0).fsrc 0x104 = some (100000000, 1)) ∧
    (o.hasPort = true ∧ o.gated = false ∧ o.outDue = true ∧ o.outs = [(0, 7)] ∧ 0 < o.portNow) ∧
    (b.hasPort = true ∧ b.gated = false ∧ b.outDue = false ∧ ({ b with outDue := true }).outDue = true ∧ ∀ p ∈ b.outs, b.portNow ≤ p.1) ∧
    (0x100 ≤ (0x100 : BitVec 9).toNat ∧ (0xFF : BitVec 9).toNat < 0x100) ∧
    (let e := { Rate.fresh with en := true, stream := 7, num := 48000, den := 1 }
     let ps := Table.set (device 0).packets 5 (Table.get [] (device 0).packets 5 ++
       ([3, 4] : List (BitVec 32)).zipIdx.map (fun v => (dueAt 1000000 (device 0).offset e v.2, 0, v.1)))
     ({ device 0 with rates := [(5, e)] }).rates = [(5, e)] ∧ e.link ≠ 1 ∧
     (∀ v ∈ ([3, 4] : List (BitVec 32)).zipIdx, (device 0).wallAt (dueAt 1000000 (device 0).offset e v.2) = false) ∧
     (∀ p ∈ ps, ∀ x ∈ p.2, (device 0).wallAt x.1 = false) ∧ ∀ p ∈ (device 0).packets, ∀ x ∈ p.2, (device 0).wallAt x.1 = false) := by decide +kernel

theorem witness_ReplicaSteps :
    let e := ({ device 0 with replicas := [(0, { Replica.fresh with en := true, st := .idle, steps := [(0, 1, 2, 3)] })] }).replica 0
    e.st ≠ .mismatch ∧ e.en = true ∧ e.steps = [((0 : Word), (1 : BitVec 32), (2 : BitVec 128), (3 : Word))] ∧ (3 : Word).toNat + e.wait ≤ (BitVec.ofNat 64 (2 ^ 63)).toNat ∧
    ({ e with st := .mismatch }).st = .mismatch ∧ ({ e with steps := [] }).steps = [] ∧ ({ e with steps := [] }).en = true := by
  decide +kernel

theorem witness_AccessesAreAligned :
    let x := { ctx with g := [(4, 0x101)] }
    let s := device 0 x
    isEvent (.ldw 1 4 0) = false ∧ s.bundle = none ∧ s.asyncTrap s.me s.res = none ∧ s.cx.streams = [] ∧ s.cx.detMode = false ∧
    s.cx.reportDue = false ∧
    [Instr.ldh 1 4 0, .ldw 1 4 0, .ldd 1 4 0, .std 1 4 0, .vld 1 4 0].all (fun i =>
      (s.steps57 s.me s.res (mkBundle 0 [i])).isNone &&
        (slotAcc s.cx i).any (fun t => t.segs.any (fun g => g.1.toNat % t.align ≠ 0))) = true ∧
    s.steps57 s.me s.res (mkBundle 0 [.vldx 1 4 0]) = none ∧ (slotAcc s.cx (.vldx 1 4 0)).isSome = true ∧
    (s.cx.ea 4 0 512).toNat % 64 ≠ 0 ∧ 56 % 8 = 0 ∧ 128 % 64 = 0 := by decide +kernel

theorem witness_EventsInOrder :
    let word := fun (w : Nat) (x : Ctx) => device w x
    let due := { ctx with lostN := 1, dmem := 2 }
    (({ ctx with tcause := 0x40000 }).act = true) ∧ (ctx.act = false ∧ 0 < ({ ctx with overrun := 1 }).overrun) ∧
    (ctx.overrun = 0 ∧ ctx.mismatch = none ∧ ({ ctx with mismatch := some (1, 2, 3, 2) }).mismatch = some (1, 2, 3, 2)) ∧
    (((word 0 { ctx with overrun := 1 }).asyncTrap 0 0).isSome = true ∧ (word 0 ctx).res = 0) ∧
    (match (word 0 { ctx with pc := 0x20000 }).fetch 0 0 with | .trap _ => true | _ => false) = true ∧
    ((word 0 ctx).steps57 0 0 (mkBundle 0 [.exts 1 2 0])).isSome = true ∧
    ((word 0 due).steps57 0 0 (mkBundle 0 [.bar 0 1 0]) = none ∧ due.reportDue = true ∧
      (word 0 due).reportPoint 0 0 (mkBundle 0 [.bar 0 1 0]) = true) ∧
    ((word 0 ctx).steps57 0 0 (mkBundle 0 [.ldd 1 1 0]) = none ∧ ctx.reportDue = false ∧
      (State.steps8 0 0 (mkBundle 0 [.ldd 1 1 0]) (mkBundle 0 [.ldd 1 1 0]) (word 0 ctx)).isSome = true) ∧
    (let s := device 0x00044146 { ctx with busy := [(.g 5, 9)], stall := some ⟨6, 5, 0, 16777216⟩ };
      s.check 0 0 (mkBundle 0 [.add 4 5 6]) = .ok ∧ s.matrixLimit 0 0 = none ∧ s.abandonedTrap 0 0 (mkBundle 0 [.add 4 5 6]) = none ∧
      ((s.holds 0 0 (mkBundle 0 [.add 4 5 6])).find? s.cx.expired).isSome = true) ∧
    (let s := (word 0 { ctx with dmem := 2, detWl := [⟨1, 0, none, none, 0, 0, []⟩] }).modCtx 0 0 Ctx.freshWaits;
      match s.check 0 0 (mkBundle 0 [.bar 0 1 0]) with | .engine _ _ => true | _ => false) = true := by decide +kernel

/-- A device in a state of its bring-up. -/
def booting (b : Boot) : State := { State.reset with boot := b }

theorem witness_BringUp :
    (booting .reset).boot = .reset ∧ (booting .firmware).boot = .firmware ∧ (booting .training).boot = .training ∧
    (booting .tags).boot = .tags ∧ (booting .selftest).boot = .selftest ∧ (booting .locking).boot = .locking ∧
    (0x100000004 : Word).getLsbD 32 = true ∧ (0x100000004 : Word).toNat % 4294967296 = 4 ∧
    crc32 (((booting .firmware).firmware 4).take 0) = rd ((booting .firmware).firmware 4) 0 4 ∧
    State.reset.readyAddr = 0 ∧ (device 0).bar4Pa 0x1000 = some 0x1000 ∧ (device 0).boot ≠ .training ∧
    (booting .reset).boot ≠ .ready ∧ (3 : BitVec 26).toNat % 8 ≠ 0 ∧ (35 : BitVec 6).toNat < 36 ∧ (11 : BitVec 4).toNat < 12 ∧
    ({ device 0 with ecc := [(vaultKey 0 8, false)] }).ecc.find? (fun e => e.1 = vaultKey 0 8) = some (vaultKey 0 8, false) ∧
    ({ device 0 with ecc := [(vaultKey 0 8, true)] }).ecc.find? (fun e => e.1 = vaultKey 0 8) = some (vaultKey 0 8, true) ∧
    (device 0).partOf 0 = some 0 ∧ (∀ w ∈ (device 0).wlog, overlap w.key w.bytes.length (vaultKey 0 0 / 64 * 64) 64 = 0) := by
  decide +kernel

/-- A queue of two slots of core 0, its image at 0x1000 of the vault, its mirrors 1 MiB into stacks 0 and 6, one packet
held. -/
def queue1 : Queue := { Queue.fresh with en := true, log2n := 1, img := 0x1000, moff := 0x100000, tail := 1 }

/-- The entry of that queue as a configuration write gives it. -/
def entry1 : BitVec 256 := BitVec.ofNat 256 (1 + 4 + 0x1000 * 2 ^ 32 + 0x100000 * 2 ^ 64)

/-- The device with queue 1, launch queue of region 0, and mirrors granted to its partition. -/
def queued (e : Queue) (w : BitVec 512) : State :=
  { device 0 ctx (fun k => { k with lq := 1 }) with
    queues := [(1, e)]
    partitions := [(0, { Partition.fresh with en := true, regions := 1, hbmg := BitVec.ofNat 96 (1 + 2 ^ 48) })]
    mem := Memory.writeList [] (vaultKey 0 0x1000) (numBytes 64 w.toNat) }

/-- An enqueue to queue 1. -/
def enq (h : Word) : Msg := { msg [] (.enq h (List.replicate 64 0)) with id := 9 }

theorem witness_QueueSteps :
    let s := queued { queue1 with tail := 0 } 0
    let q := { s with fabric := [enq 1] }
    (q.fabric.find? (fun m => m.id = 9) = some (enq 1) ∧ q.deliverable (enq 1) = true ∧ q.handleWaits (q.partOf 0) 1 = false ∧
      (q.enqueue (q.partOf 0) (some ⟨0, 0, 0, 0⟩) 1 (List.replicate 64 0)).1 = 0 ∧
      (q.enqueue (q.partOf 0) (some ⟨0, 0, 0, 0⟩) 0x2000 (List.replicate 64 0)).1 = 5) ∧
    ((q.enqRegion (enq 1)).isSome = true ∧ (q.enqRegion (enq 0x2000)).isSome = false ∧
      (queued { queue1 with copying := true } 0).handleWaits (q.partOf 0) 1 = true) ∧
    (s.boot = .ready ∧ (s.window 0).pending = false ∧
      ({ s with windows := [(0, { Window.fresh with pending := true })] }.window 0).pending = true) ∧
    ((56 : BitVec 6).toNat + [(1 : Byte), 2, 3, 4, 5, 6, 7, 8].length ≤ 64) ∧
    ((1 : BitVec 13).toNat < 6144 ∧ (!(s.queue 2).en && (entry1.extractLsb' 0 64).getLsbD 0) = true ∧
      ((s.queue 1).en && !(0 : Word).getLsbD 0) = true ∧ ((s.queue 1).en && !(s.queue 1).swap && (65 : Word).getLsbD 6) = true ∧
      ({ queue1 with swap := true }.en && { queue1 with swap := true }.swap && !(1 : Word).getLsbD 6) = true ∧
      ((s.queue 1).en && (s.queue 1).gen != (0x101 : Word).extractLsb' 8 12) = true) ∧
    (queueBits entry1 = true ∧ ((s.queue 2).en = false ∧ s.queueOk 2 ((s.queue 2).written (entry1 ||| 0x200000000000)) = true) ∧
      ((s.queue 1).written entry1).seq = (s.queue 1).seq ∧ ((s.queue 1).written entry1).log2n = (s.queue 1).log2n ∧
      ((s.queue 1).written entry1).img = (s.queue 1).img ∧ ((s.queue 1).written entry1).moff = (s.queue 1).moff ∧
      ((s.queue 1).written entry1).en = true) ∧
    ({ queue1 with copying := true }).copying = true ∧
    (let t := { s with failedStacks := 1 }; t.failedStacks.getLsbD 0 = true ∧ t.failedStacks.getLsbD 1 = false) := by
  decide +kernel

/-- An image of residency 1 with one record, and a packet that launches it on core 0. -/
def image1 : Image := ⟨0, 0, 1, 0, [0], [(1, 0, 1)], [], [], [], []⟩
def packet1 : BitVec 512 := BitVec.ofNat 512 (2 ^ 88 + 2 ^ 144)

/-- A launch of that packet. -/
def launch1 (ending : Option (List Nat)) : Launch :=
  ⟨5, 1, 0, packet1, 0, 0, 1, [(0, 1)], false, [], false, 0, false, ending, none⟩

/-- The page that a save area needs, and the device with core 0 in a state of its save unit. -/
def saving (f : Core → Core) (x : Ctx := ctx) : State :=
  device 0 x (fun k => f { k with tlb := [page, ⟨0, 0, 0x200000, 2097152, 0x20000D⟩] })

theorem witness_LaunchSteps :
    let s := fun (w : BitVec 512) => { queued queue1 w with images := [image1], launches := [launch1 none] }
    let free := fun (w : BitVec 512) => { queued queue1 w with images := [image1] }
    let stop := BitVec.ofNat 512 (2 ^ 88 + 2 ^ 92 + 2 ^ 144)
    let stopping := s stop
    (((s packet1).launchQueue 0 = some 1 ∧ (s packet1).partOf 0 = some 0 ∧ queue1.en = true ∧ queue1.swap = false ∧ queue1.copying = false ∧
      queue1.held.find? (fun i => !queue1.taken.contains i && !queue1.retired.contains i) = some 0 ∧ queue1.again.contains 0 = false ∧
      packet1 = BitVec.ofNat 512 (Memory.num (s packet1).mem (queue1.slotKey 1 0) 64)) ∧
    ((s 0).refusalCode 0 (BitVec.ofNat 512 (2 ^ 120)) = 1 ∧ (s 0).refusalCode 0 0 = 2 ∧
      { s 0 with clusters := [] }.refusalCode 0 packet1 = 3) ∧
    (packet1.getLsbD 92 = false ∧ (free packet1).refusalCode 0 packet1 = 0 ∧ ((free packet1).region 0).gated = false ∧
      (free packet1).imageOf 0 packet1 = some image1 ∧ packetBox packet1 = some [(0, 1), (0, 1), (0, 1)] ∧
      ∀ c ∈ launchCores packet1 1, ((free packet1).ctx c (packetRes packet1)).owned = false) ∧
    (stop.getLsbD 92 = true ∧ stopping.refusalCode 0 stop = 0 ∧ stopping.stopTarget 0 stop = some (launch1 none) ∧
      stopping.stopTarget 0 (BitVec.ofNat 512 (2 ^ 92)) = none ∧ stopping.refusalCode 0 (stop ||| BitVec.ofNat 512 (2 ^ 120)) ≠ 0)) ∧
    ([launch1 (some [])].find? (fun l => l.lid == 5) = some (launch1 (some []))) := by decide +kernel

theorem witness_SaveUnit :
    let s := saving id
    let r := saving id { ctx with savedOk := true }
    (s.core 0).preSt ≠ .pending ∧ (s.core 0).preSt ≠ .saving ∧ (s.core 0).preSt ≠ .restoring ∧
    s.preRefusal 0 (1 + 16) = some 4 ∧ s.preRefusal 0 2 = some 2 ∧ s.preRefusal 0 0x1001 = some 3 ∧ s.preRefusal 0 (1 + 8) = some 1 ∧
    s.preRefusal 0 0x200001 = none ∧ r.preRefusal 0 0x200002 = none ∧
    (let k := (saving (fun k => { k with preSt := .saving, prePhase := 6 })).core 0;
      k.preSt = .saving ∧ k.prePhase = 6 ∧ k.preEnergy = none) := by decide +kernel

theorem witness_RestoreComplete :
    let s := saving (fun k => { k with preSt := .restoring, preArea := 0x200000 })
    (s.core 0).preSt = .restoring ∧ imgNum (s.readImage 0) 0 256 = 0 ∧ 0 / 2 ^ 432 % 65536 = 0 ∧ headerOk 0 = true ∧
    headerOk (2 ^ 193) = false ∧ 0 / 2 ^ 432 % 65536 ≠ 1 := by decide +kernel

/-- Region 1 with the cluster 1 and a source entry staged, its core free. -/
def source (on : Bool) : State :=
  { device 0 with
    clusters := [(0, 0x20), (1, 0x21)]
    regions := [(0, (device 0).region 0), (1, { Region.fresh with en := on, sel := 0x104, s := 1000, c := 10000 })]
    partitions := [(0, { Partition.fresh with en := true, regions := 3, hbmg := 1, cross := 1 })]
    barStaged := [(offSource 1 + 8, 10000 * 2 ^ 32 + 1000 * 2 ^ 16), (offRate 3 + 8, 48000 * 2 ^ 32 + 2 ^ 16),
      (offCrossing 0 + 8, 2 ^ 16 + 2 ^ 40)] }

theorem witness_HostCommits :
    let s := source false
    let v := s.gather (offSource 1) (s.region 1).entry 0x304
    let p := s.gather (offPartition 1) (s.partition 1).bits (1 + 2 ^ 34)
    s.boot = .ready ∧
    (p.extractLsb' 1 31 = 0 ∧ p.extractLsb' 228 28 = 0 ∧ p.extractLsb' 448 64 = 0 ∧ (s.partition 1).written p ≠ s.partition 1 ∧
      (∀ o ∈ s.partitions, o.1 = 1 ∨ o.2.en = false ∨ o.2.meets ((s.partition 1).written p) = false) ∧
      (List.range 32).all (fun r => !((s.partition 1).regions ||| ((s.partition 1).written p).regions).getLsbD r || s.regionIdle r) = true) ∧
    ((s.partition 1).written 3 ≠ s.partition 1 ∧ (3 : BitVec 512).extractLsb' 1 31 ≠ 0) ∧
    ((64 : Word).toNat ≥ 64 ∧ s.clusterIdle 0 = false ∧ s.clusterIdle 5 = true ∧ Table.get 0 s.clusters 5 ≠ (1 : BitVec 6) ∧
      s.clusterIdle 1 = true ∧ s.regionIdle 1 = true ∧ (s.region 1).en = false ∧ Table.get 0 s.clusters 1 = (0x21 : BitVec 6) ∧
      Table.find s.lqKept 1 = none ∧ s.regionIdle 0 = false ∧ ((source true).region 1).en = true) ∧
    ((s.region 1).en = false ∧ (0x304 : Word).getLsbD 9 = true ∧ v.extractLsb' 10 5 = 0 ∧ v.extractLsb' 18 62 = 0 ∧ v.getLsbD 9 = true ∧
      s.fsrc (v.extractLsb' 0 9) = some (100000000, 1) ∧
      lockOk (v.extractLsb' 0 9) (v.extractLsb' 96 32) (v.extractLsb' 80 16) (v.extractLsb' 15 1) (v.getLsbD 16) (100000000, 1) = true ∧
      v.getLsbD 16 = false ∧ s.coresOf 1 ≠ []) ∧
    (((source true).region 1).en = true ∧ (0x104 : Word).getLsbD 9 = false ∧ (source true).regionIdle 1 = true ∧
      ({ source true with barStaged := [] }).gather (offSource 1) ((source true).region 1).entry 0x104 =
        ((source true).region 1).entry &&& ~~~(0x200 : BitVec 128)) := by decide +kernel

theorem witness_HostCommits_rates :
    let s := source false
    let r := s.gather (offRate 3) (Table.get Rate.fresh s.rates 3).entry 1
    let c := (source true).gather (offCrossing 0) (s.crossing 0).entry (1 + 2 ^ 47 + 2 ^ 52)
    let unit := { Crossing.fresh with en := true, a := 1, b := 1, prod := 1, nch := 1 }
    (r.extractLsb' 2 30 = 0 ∧ r.extractLsb' 66 14 = 0 ∧ r.extractLsb' 64 2 ≠ 3 ∧ r.extractLsb' 96 32 ≠ 0 ∧ r.extractLsb' 80 16 ≠ 0 ∧
      s.lockedTo 3 = false) ∧
    (c.extractLsb' 1 41 = 0 ∧ ((s.crossing 0).written c).en = true ∧ (s.crossing 0).bound = false ∧
      (source true).crossingOk 0 ((s.crossing 0).written c) = true) ∧
    (let w := (source false).gather 0x9000 unit.entry (2 ^ 47 + 2 ^ 52);
      unit.bound = false ∧ { unit.written w with en := true } = unit ∧ (unit.written w).en = false) ∧
    ((4800 : BitVec 16).toNat ≤ 4800 ∧ (4799 : BitVec 16).toNat < (4800 : BitVec 16).toNat) ∧
    ((s.loader 0).status ≠ 0xFF ∧ (1 : Word).toNat % 4 = 1 ∧ (2 : Word).toNat % 4 = 2) ∧
    (let e := { Loader.fresh with status := 0xFF, act := 2, res := 1 };
      ({ s with images := [image1] }.unload 0 e).isOk = true ∧ (s.unload 0 e).isOk = false ∧
      (s.loadImage 5 { e with act := 1 }).isOk = false) ∧
    ((8 : BitVec 24).toNat % 8 = 0 ∧ s.crossings = []) := by decide +kernel

theorem witness_RegisterFileErrors :
    let s := device 0 { ctx with upsets := [(5, true)] }
    let t := device 0 { ctx with upsets := [(fileV 3 + 1, false)] }
    ctx.upsets = [] ∧ (s.ctx 0 0).upsets = [(5, true)] ∧ (5, 1) ∈ (s.ctx 0 0).fileReads (.add 6 5 4) ∧
    (∀ p ∈ (s.ctx 0 0).fileReads (.add 5 6 4), 5 < p.1 ∨ p.1 + p.2 ≤ 5) ∧
    (fileV 3, 64) ∈ (t.ctx 0 0).fileReads (.vadd 0 0 1 2 3) ∧ fileV 3 ≤ fileV 3 + 1 ∧ fileV 3 + 1 < fileV 3 + 64 ∧
    (63 : BitVec 6) ≠ 0 ∧ fileWords - 1 < fileWords := by decide +kernel

/-! ### Single steps, with results from the spec's examples or by hand from its rules -/

/-- The context of core 0 after an instruction issued alone, its near accesses and its register writes performed. -/
def after (i : Instr) (x : Ctx) : Option Ctx :=
  match exec i (device 0 x) with
  | .next s => some (((((s.core 0).timed.foldl (fun s t => s.performAct 0 t) s).core 0).performDue 0 100).ctx 0)
  | _ => none

def g5 (v : Word) : Ctx := { ctx with g := [(5, v)] }

/-- R161: sums wrap; a source may be the destination; a write to g0 is discarded. -/
theorem test_add_wraps : ((after (.addi 5 5 (.short 1)) (g5 0xFFFFFFFFFFFFFFFF)).map (fun x => x.rg 5)) = some 0 ∧
    ((after (.addi 0 5 (.short 1)) (g5 7)).map (fun x => x.rg 0)) = some 0 := by decide +kernel

/-- R161: the high half of a product, s × s and n × n. -/
theorem test_mulh : ((after (.mulh 6 5 5) (g5 0xFFFFFFFFFFFFFFFF)).map (fun x => x.rg 6)) = some 0 ∧
    ((after (.mulhn 6 5 5) (g5 0xFFFFFFFFFFFFFFFF)).map (fun x => x.rg 6)) = some 0xFFFFFFFFFFFFFFFE := by decide +kernel

/-- R161, R163: shifts and extensions. -/
theorem test_srai : ((after (.srai 6 5 (.short 63)) (g5 0x8000000000000000)).map (fun x => x.rg 6)) = some 0xFFFFFFFFFFFFFFFF := by
  decide +kernel
theorem test_exts : ((after (.exts 6 5 8) (g5 0x180)).map (fun x => x.rg 6)) = some 0xFFFFFFFFFFFFFF80 := by decide +kernel

/-- Chapter "Scalar, Control and System": BNE at 0x1C with the offset −3 goes to 0x10, and not taken to the next bundle. -/
theorem test_bne : ((after (.bne 5 0 0x7FD) { g5 1 with pc := 0x1C }).map (fun x => x.pc)) = some 0x10 ∧
    ((after (.bne 5 0 0x7FD) { g5 0 with pc := 0x1C }).map (fun x => x.pc)) = some 0x20 := by decide +kernel

/-- R167, R168: JAL links the next bundle. -/
theorem test_jal : ((after (.jal 6 4) { ctx with pc := 0x100 }).map (fun x => (x.pc, x.rg 6))) = some (0x110, 0x104) := by
  decide +kernel

/-- R173: SRW answers the old value and writes the new one. -/
theorem test_srw : ((after (.srw 6 5 1) (g5 1)).map (fun x => x.rg 6)) = some 4 := by decide +kernel

/-- R358, R360: TRAP saves the bundle after it, sets TCAUSE and goes to TVEC. -/
theorem test_trap : ((after (.trap 1 5) { ctx with pc := 0x100, tvec := 0x400 }).map (fun x => (x.pc, x.act))) =
    some (0x400, true) := by decide +kernel

/-- R365: an instruction above the context's level is PRIVILEGE, and its effect does not happen. -/
theorem test_privilege : ((after .flushi { ctx with pc := 0x100, tvec := 0x400 }).map (fun x => (x.pc, x.tret))) =
    some (0x400, 0x100) := by decide +kernel

/-- 1 + 2 = 3 in lane 0, and 0 + 0 in the others (R184, Table 9.2). -/
theorem test_vadd : ((after (.vadd 0 0 3 1 2) { ctx with v := [(1, 0x3F800000), (2, 0x40000000)] }).map (fun x => x.rv 3)) =
    some 0x40400000 := by decide +kernel

/-- The factors a and b, in eighths, of the six nodes of Verify (chapter "Polynomial, Contact and Crossings"). -/
def factors (l : List Nat) : BitVec 4096 := BitVec.ofNat 4096 (leNat (l.flatMap (numBytes 4)))

/-- The worked example of PPMUL: D = 6, six factors. E = −47 and c(k) is the integer of the spec times 2^29. -/
theorem test_ppmul :
    let x := { ctx with
      m := [(1, 0x3F)], q := [(0, { Poly.zero with c := [(0, 1)], d := 6 })]
      v := [(11, factors [0x3F600000, 0x3F400000, 0x3F400000, 0x3F000000, 0x3F000000, 0x3E800000]),
        (12, factors [0x3E000000, 0x3E800000, 0x3E800000, 0x3F000000, 0x3F000000, 0x3F400000])] }
    ((after (.ppmul 0 1 0 11 12) x).map (fun y => ((y.poly 0).e, (y.poly 0).n, (List.range 7).map (fun k =>
      (Table.get 0 (y.poly 0).c k).toNat)))) =
    some (0xFFD1, 6, [8064, 46848, 90752, 78336, 31872, 5888, 384].map (fun n => n * 2 ^ 29)) := by decide +kernel

/-- The example of AADD: the own atomic samples what the fabric port wrote in the cycle, and a later STD of the same port
wins. -/
theorem test_aadd : let s := { device 0 with
      wlog := [⟨vaultKey 0 0x100, numBytes 8 15⟩] }
    ((s.performAct 0 (near (.atomic 0 1 0x100 1 0))).wlog.map (fun w => leNat w.bytes)) = [15, 16] := by decide +kernel

/-- R192, R194: a byte load extends the sign of the byte that the own vault holds. -/
theorem test_ldb : (let s := { device 0 with mem := Memory.writeList [] (vaultKey 0 0x100) [0x80] }
    match exec (.ldb 6 3 0) s with
    | .next s => (((((s.core 0).timed.foldl (fun s t => s.performAct 0 t) s).core 0).performDue 0 100).ctx 0).rg 6
    | _ => 0) = (0xFFFFFFFFFFFFFF80 : Word) := by decide +kernel

/-- The decoder and the first step from reset: ADD is fetched, issued and moves the pc. -/
theorem test_first_step : (match step (State.reset.withFetchWord 32 0x80044146) with
    | .next s => (s.ctx 0 0).pc
    | _ => 0) = (4 : Word) := by decide +kernel

/-- R367, Table 20.7: a double-bit error in a register that is read leaves its bits and is recorded; the write of the result
clears the error of its register. -/
theorem test_register_error : (match exec (.add 5 5 0) ((device 0 (g5 7)).upset (fileKey 0 0 5) true) with
    | .next s => let x := ((s.core 0).performDue 0 100).ctx 0; some (x.rg 5, x.unrep.length, x.upsets)
    | _ => none) = some (7, 1, []) := by decide +kernel

/-- R340, R345: with EN = 0 a translated access faults with cause 1, whatever the TLB holds. -/
theorem test_translation_off : (match (device 0 { ctx with pten := false }).parts 0 { ctx with pten := false } 0x100 8 .load with
    | .error e => some (e.cause, e.va)
    | .ok _ => none) = some (1, 0x100) := by decide +kernel

/-- R119: a once COUNT hoist that reaches is disarmed and keeps its count. -/
theorem test_once_hoist : (match exec (.hoistReach 0 0 0) (device 0 { ctx with hoists := [(0, full 0)] }) with
    | .next s => let h := (s.ctx 0 0).hoist 0; some (h.armed, h.count, h.reach)
    | _ => none) = some (false, 64, 1) := by decide +kernel

/-- R172, R181: a bundle that holds a TRAP and a FLUSHI takes the trap, with the bundle behind it as return address. -/
theorem test_trap_with_flushi : (let s := (({ hand with ctl := { hand.ctl with refetch := true } }).softTrap 7 9).finish
    (s.cx.tcause.extractLsb' 0 8, s.cx.tret, s.cx.targ)) = (10, 4, 9) := by decide +kernel

end Sys2Proof.Tests
end

section
/-!
The step of the device (R12, R24, R101): inputs, cycles and the time that passes. Settles O7.
-/

namespace Sys2Proof.Machine

/-- With no sample of a packet waiting, the time that passes makes nothing fall due. -/
theorem State.fallDue_of_no_packets {s : State} (h : s.packets = []) : s.fallDue = s := by
  unfold State.fallDue; rw [h]; rfl

/-- The time of a step on a device that is READY. -/
theorem State.passes_of_ready {s : State} (h : s.boot = .ready) :
    s.passes = { s with wall := addUp s.wall ((Config.wallStep s.free).setWidth 64), free := s.free + 1 }.fallDue :=
  if_pos h

theorem State.passes_of_not_ready {s : State} (h : s.boot ≠ .ready) : s.passes = { s with free := s.free + 1 } :=
  if_neg h

/-- A step that takes an input. -/
theorem step_of_input {s : State} {e : Turn} {rest : List Turn} (h : s.inputs = e :: rest) :
    step s = .next ((State.input { s with inputs := rest } e).passes.commit s.mem) := by
  unfold step; rw [h]

/-- A step without input. -/
theorem step_of_no_input {s : State} (h : s.inputs = []) : step s = .next (s.free1.passes.commit s.mem) := by
  unfold step; rw [h]

theorem State.runWord_of_next {s t : State} {i : Instr} (h : exec i s = .next t) : s.runWord i = t := by
  unfold State.runWord; rw [h]

theorem State.input_event {i : Instr} (s : State) (h : isEvent i = true) : s.input (.event i) = s.runWord i :=
  if_pos h

/-- An instruction word offered as an event is no input of the device: it changes nothing. -/
theorem State.input_word {i : Instr} (s : State) (h : isEvent i = false) : s.input (.event i) = s := by
  unfold State.input; simp [h]

theorem State.input_cycle (s : State) (r : BitVec 5) : s.input (.cycle r) = s.tick r.toNat := rfl

theorem State.free1_of_asleep {s : State} (h : s.nextRegion = none) : s.free1 = s := by
  unfold State.free1; rw [h]

/-- Adding a 32-bit count to a 64-bit one that stands at its largest value. -/
theorem addUp_setWidth (a : Word) (b : BitVec 32) :
    addUp a (b.setWidth 64) = BitVec.ofNat 64 (min (a.toNat + b.toNat) (2 ^ 64 - 1)) := by
  unfold addUp; rw [BitVec.toNat_setWidth_of_le (by decide)]

/-- Settles O7: a step is the next input taken (or the next cycle), the time that passes, and the writes. -/
theorem stepTakesInput : Obligations.StepTakesInput := by
  intro s rest
  refine ⟨fun i t hin hev ht => ?_, fun i hin hev => ?_, fun r hin => ?_, fun hin hr => ?_,
    fun hb hp => ?_, State.passes_of_not_ready⟩
  · rw [step_of_input hin, State.input_event _ hev, State.runWord_of_next ht]
  · rw [step_of_input hin, State.input_word _ hev]
  · rw [step_of_input hin, State.input_cycle]
  · rw [step_of_no_input hin, State.free1_of_asleep hr]
  · rw [State.passes_of_ready hb, addUp_setWidth]
    exact State.fallDue_of_no_packets hp

end Sys2Proof.Machine
end

section
/-!
The steps of a core's sequencer beside its instructions (R176, R217, R324, R325, R391). Settles O47.
-/

namespace Sys2Proof.Machine

/-! ### Steps of a core's own units -/

theorem State.clocked_of_runs {s : State} {c : Nat} (f : State → State) (h : (s.regOf c).runs = true) : s.clocked c f = f s :=
  if_pos h

theorem State.clocked_of_stopped {s : State} {c : Nat} (f : State → State) (h : (s.regOf c).runs = false) :
    s.clocked c f = s := by
  unfold State.clocked; rw [h]; rfl

/-! ### The sequencer (R176, R217, R324, R325) -/

section
variable {s : State} {c : Nat}

theorem State.handOver_of_stopped (h : s.sequences c = false) : s.handOver c = s := by
  unfold State.handOver; simp [h]

theorem State.idleDispatch_of_stopped (h : s.sequences c = false) : s.idleDispatch c = s := by
  unfold State.idleDispatch; simp [h]

theorem State.idleTimeout_of_stopped (h : s.sequences c = false) : s.idleTimeout c = s := by
  unfold State.idleTimeout
  simp only [h, Bool.false_and, Bool.false_eq_true, if_false]
  split <;> rfl

/-- The hand-over that is due, with nothing to hold it back (R325, R326). -/
theorem State.handOver_of_due (hs : s.sequences c = true) (hw : (s.core c).switchWait = true)
    (ht : (s.core c).switchAt ≤ s.now c) (hp : ((s.core c).ctx (s.core c).holder).polyBusy (s.now c) = false) :
    s.handOver c =
      (if (s.regOf c).hz < (s.now c + 96 - (s.core c).switchFrom) * 1000000 then s.coreEvent c 0x13 else s).modCore c (fun k =>
        ({ k with holder := (s.core c).holder ^^^ 1, switchWait := false, switch := some (s.now c + 96) }).setCtx
          ((s.core c).holder ^^^ 1) { k.ctx ((s.core c).holder ^^^ 1) with gate := s.now c + 96, heldRun := false }) := by
  unfold State.handOver
  simp only [hs, hw, hp, Nat.not_lt.mpr ht, Bool.not_true, Bool.false_or, decide_false, Bool.false_eq_true, if_false,
    decide_eq_true_eq]

/-- An idle core whose holder has work goes on with it (R324). -/
theorem State.idleDispatch_of_holder {u : State} (hs : s.sequences c = true) (hi : (s.core c).idle = true)
    (hd : s.dispatch c (s.core c).holder (s.now c + 2) = (u, true)) :
    s.idleDispatch c = u.modCore c (fun k => { k with idle := false }) := by
  unfold State.idleDispatch
  simp only [hs, hi, hd, Bool.not_true, Bool.or_self, Bool.false_eq_true, if_false, if_true]

/-- An idle core whose holder has no work asks the other residency (R324). -/
theorem State.idleDispatch_of_other {u v : State} {p : Pick} (hs : s.sequences c = true) (hi : (s.core c).idle = true)
    (hd : s.dispatch c (s.core c).holder (s.now c + 2) = (u, false))
    (hp : u.decidePick c ((s.core c).holder ^^^ 1) = (v, p)) :
    s.idleDispatch c = if p = .none then v else v.switchTo c (s.core c).holder (s.now c) (s.now c) := by
  unfold State.idleDispatch
  simp only [hs, hi, hd, hp, Bool.not_true, Bool.or_self, Bool.false_eq_true, if_false]
  cases p <;> rfl

/-- The count of an IDLE that is over (R176). -/
theorem State.idleTimeout_of_over {e : Nat} {d : BitVec 6} (hs : s.sequences c = true)
    (hi : ((s.core c).ctx (s.core c).holder).idle = some (e, d)) (he : e ≤ s.now c) :
    s.idleTimeout c = s.idleEnd c (s.core c).holder d false := by
  unfold State.idleTimeout
  simp only [hi, hs, he, decide_true, Bool.and_self, if_true]

/-- The stalled bundle of the core takes the trap of the first of its conditions whose limit is over (R217). -/
theorem State.limitEvent_of_expired {u : State} {is : List Instr} {w : Why} (hu : u = { s with cur := BitVec.ofNat 10 c })
    (hs : u.sequences c = true) (hm : u.mayIssue c = true) (hi : u.cx.idle = none) (hf : u.cx.folding = none)
    (hw : u.fetch c u.res = .words is) (hc : u.check c u.res (mkBundle 0 is) = .ok)
    (he : (u.holds c u.res (mkBundle 0 is) ++ u.lateWhy c u.res (mkBundle 0 is)).find? u.cx.expired = some w) :
    s.limitEvent c = u.waitLimit c u.res w := by
  unfold State.limitEvent
  simp only [← hu, hs, hm, hi, hf, hw, hc, he, Bool.not_true, Option.isSome_none, Bool.or_self, Bool.false_eq_true, if_false]

/-! ### Ballast (R391) -/

/-- A ballast pass counts when no command has started at the head of the queue and none can start. -/
theorem State.ballast_of_idle (h : ∀ m ms, (s.core c).mq = m :: ms → m.start = none ∧ s.mxCanStart c m = false) :
    s.ballast c = s.coreEvent c 0x17 := by
  unfold State.ballast
  split
  · rfl
  · next m ms hq =>
    obtain ⟨hstart, hcan⟩ := h m ms hq
    simp [hstart, hcan]

theorem State.ballast_of_canStart {m : MxCmd} {ms : List MxCmd} (hq : (s.core c).mq = m :: ms)
    (h : s.mxCanStart c m = true) : s.ballast c = s := by
  unfold State.ballast; simp [hq, h]

end

/-! ### What the constructors of these steps mean -/

theorem exec_residencySwitch (core : BitVec 10) (s : State) :
    exec (.residencySwitch core) s = .next (s.handOver core.toNat) := rfl

theorem exec_idleCoreDispatch (core : BitVec 10) (s : State) :
    exec (.idleCoreDispatch core) s = .next (s.idleDispatch core.toNat) := rfl

theorem exec_idleTimeout (core : BitVec 10) (s : State) : exec (.idleTimeout core) s = .next (s.idleTimeout core.toNat) := rfl

theorem exec_waitLimitExpiry (core : BitVec 10) (s : State) :
    exec (.waitLimitExpiry core) s = .next (s.limitEvent core.toNat) := rfl

theorem exec_ballastPass (core : BitVec 10) (s : State) :
    exec (.ballastPass core) s = .next (s.clocked core.toNat (fun s => s.ballast core.toNat)) := rfl

/-- Settles O47: each step of the sequencer by the condition under which it acts. -/
theorem sequencerSteps : Obligations.SequencerSteps := by
  intro s core c t k hc hk ht
  subst hc hk ht
  refine ⟨fun w hw hs => ?_, fun hr => ?_, fun out u hout hs hw hd hp hu => ?_, fun u hs hi hd => ?_,
    fun u v p hs hi hd hp => ?_, fun e d hs hi he => ?_, fun u is w hu hs hm hi hf hfetch hc he => ?_, fun hr h => ?_,
    fun hr m ms hq h => ?_⟩
  · simp only [List.mem_cons, List.not_mem_nil, or_false] at hw
    obtain rfl | rfl | rfl := hw
    · rw [exec_residencySwitch, State.handOver_of_stopped hs]
    · rw [exec_idleCoreDispatch, State.idleDispatch_of_stopped hs]
    · rw [exec_idleTimeout, State.idleTimeout_of_stopped hs]
  · rw [exec_ballastPass, State.clocked_of_stopped _ hr]
  · subst hout hu
    rw [exec_residencySwitch, State.handOver_of_due hs hw hd hp]
  · rw [exec_idleCoreDispatch, State.idleDispatch_of_holder hs hi hd]
  · rw [exec_idleCoreDispatch, State.idleDispatch_of_other hs hi hd hp]
  · rw [exec_idleTimeout, State.idleTimeout_of_over hs hi he]
    exact ⟨⟨.g d, 0, BitVec.allOnes 4096, 0, false, s.now core.toNat + 1, s.seq, 0, s.now core.toNat⟩, rfl, rfl, rfl, rfl, rfl,
      rfl⟩
  · rw [exec_waitLimitExpiry, State.limitEvent_of_expired hu hs hm hi hf hfetch hc he]
  · rw [exec_ballastPass, State.clocked_of_runs _ hr, State.ballast_of_idle h]
  · rw [exec_ballastPass, State.clocked_of_runs _ hr, State.ballast_of_canStart hq h]

end Sys2Proof.Machine
end

section
/-!
The steps of the matrix and contact engines (R239, R240, R277). Settles O49.
-/

namespace Sys2Proof.Machine

/-! ### Matrix and contact engines (R239, R240, R277) -/

section
variable {s : State} {c : Nat}

/-- Two changes of a core that agree on the core as it stands. -/
theorem State.modCore_congr {f g : Core → Core} (h : f (s.core c) = g (s.core c)) : s.modCore c f = s.modCore c g :=
  congrArg (s.setCore c) h

theorem State.still_eq_nil {ids : List Nat} : s.still c ids = [] ↔ ∀ g ∈ ids, s.outstanding c g = false := by
  unfold State.still
  rw [List.filter_eq_nil_iff]
  simp only [Bool.not_eq_true]

theorem State.mxCanStart_iff {m : MxCmd} : s.mxCanStart c m = true ↔
    m.start = none ∧ m.issue + 7 ≤ s.now c ∧ s.mxWaits c m = none ∧ (∀ g ∈ m.gcfgAfter, ∀ n ∈ (s.core c).small, n.seq ≠ g) ∧
      (m.rows = 0 ∨ ∀ g ∈ m.gates, s.outstanding c g = false) := by
  unfold State.mxCanStart
  simp [State.still_eq_nil, and_assoc]

/-- A matrix command as it starts in cycle `t`. -/
def MxCmd.started (m : MxCmd) (t : Nat) : MxCmd :=
  { m with start := some t, aPend := true, bPend := true, endAt := if m.rows = 0 then some (t + m.time) else none }

/-- The head of the queue started. -/
theorem State.modHead_started {m : MxCmd} {ms : List MxCmd} (t : Nat) (hq : (s.core c).mq = m :: ms) :
    s.modHead c (fun m =>
      { m with start := some t, aPend := true, bPend := true, endAt := if m.rows = 0 then some (t + m.time) else none }) =
      s.modCore c (fun k => { k with mq := m.started t :: ms }) :=
  State.modCore_congr (by rw [hq]; rfl)

/-- The start of a command that reads operands is counted. -/
theorem State.mxStart_counted {m : MxCmd} {ms : List MxCmd} (hq : (s.core c).mq = m :: ms) (h : s.mxCanStart c m = true)
    (hz : ∀ a b, m.i ≠ .mzero a b) (hl : ∀ a b d e, m.i ≠ .mload a b d e) :
    s.mxStart c = (s.modCore c (fun k => { k with mq := m.started (s.now c) :: ms })).event c m.res 0x0A := by
  unfold State.mxStart
  simp only [hq, h, if_true, State.modHead_started _ hq]

/-- That of an MZERO or an MLOAD is not. -/
theorem State.mxStart_uncounted {m : MxCmd} {ms : List MxCmd} (hq : (s.core c).mq = m :: ms) (h : s.mxCanStart c m = true)
    (hi : (∃ a b, m.i = .mzero a b) ∨ ∃ a b d e, m.i = .mload a b d e) :
    s.mxStart c = s.modCore c (fun k => { k with mq := m.started (s.now c) :: ms }) := by
  unfold State.mxStart
  simp only [hq, h, if_true, State.modHead_started _ hq]
  split
  · rfl
  · rfl
  · next hz hl =>
    obtain ⟨a, b, hi⟩ | ⟨a, b, d, e, hi⟩ := hi
    · exact (hz a b hi).elim
    · exact (hl a b d e hi).elim

/-- No read of a context without errors in its register files meets one. -/
theorem State.touchFiles_of_no_upsets {a : Agent} (spans : List (Nat × Nat)) (h : (s.ctx a.core a.res).upsets = []) :
    s.touchFiles a spans = s := by
  unfold State.touchFiles; rw [h]; rfl

/-- The end of a command whose saturation needs no record. -/
theorem State.mxEnd_of_over {m : MxCmd} {ms : List MxCmd} {e : Nat} (hq : (s.core c).mq = m :: ms) (he : m.endAt = some e)
    (ht : e ≤ s.now c) (hu : (s.ctx c m.res).upsets = []) (hs : m.satf = false) {r : List (Nat × BitVec 131072) × BitVec 8}
    (hr : m.result (s.ctx c m.res) (Memory.num s.mem (constKey (hadOff m.hadN)) (m.hadN * m.hadN / 8)) s.free = r) :
    s.mxEnd c = (s.modCore c (fun k => { k with mq := ms, mqEnd := s.now c }.newHead (s.now c))).modCtx c m.res
      (fun x => { r.1.foldl (fun x p => x.setTile p.1 p.2) x with raisedMx := x.raisedMx ||| r.2 }) := by
  have hf : s.touchFiles (m.agent c) (m.tilesRead.map (fun t => (fileAcc t, 2048))) = s := State.touchFiles_of_no_upsets _ hu
  unfold State.mxEnd
  simp only [hq, he, Nat.not_lt.mpr ht, hf, hr, hs, Bool.and_false, Bool.false_and, Bool.false_eq_true, if_false]

/-- The wait of a command that has lasted its limit. -/
theorem State.mxExpire_of_over {m : MxCmd} {ms : List MxCmd} {h0 h : Nat} (hq : (s.core c).mq = m :: ms) (hs : m.start = none)
    (hh : m.head = some h0) (hw : s.mxWaits c m = some h) (hi : m.issue + 7 ≤ s.now c) (ht : h0 + 16777216 ≤ s.now c) :
    s.mxExpire c = (s.modCore c (fun k =>
      { k with mq := k.mq.filter (fun n => n.res != m.res) }.newHead (s.now c))).modCtx c m.res (fun x =>
        { ((s.core c).mq.filter (fun n => n.res == m.res)).reverse.foldl
            (fun x n => n.tags.foldl (fun x p => x.setTag p.1 p.2) x) x with
          asyncWl := some (h, ((s.ctx c m.res).ring h).p.setWidth 64, ((s.ctx c m.res).ring h).q.setWidth 64,
            ((s.core c).mq.filter (fun n => n.res == m.res)).length) }) := by
  unfold State.mxExpire
  simp only [hq, hh, hw, hs, Nat.not_lt.mpr hi, Nat.not_lt.mpr ht, decide_false, Option.isSome_none, Bool.or_self,
    Bool.false_eq_true, if_false]

/-- The oldest contact command starts when it has waited for its issue and for the acquires before it. -/
theorem State.ctStart_of_ready {m : CtCmd} {ms : List CtCmd} (hq : (s.core c).ct = m :: ms) (hs : m.start = none)
    (hi : m.issue + 7 ≤ s.now c) (hg : ∀ g ∈ m.gates, s.outstanding c g = false) (hv : m.void (s.ctx c m.res) = false) :
    s.ctStart c = (s.modCt c (fun m => { m with start := some (s.now c) })).ctFirst c m := by
  unfold State.ctStart
  simp only [hq, hs, hv, State.still_eq_nil.mpr hg, Nat.not_lt.mpr hi, decide_false, Option.isSome_none, List.isEmpty_nil,
    Bool.not_true, Bool.or_self, Bool.false_eq_true, if_false]

end

theorem exec_matrixCommandStart (core : BitVec 10) (s : State) :
    exec (.matrixCommandStart core) s = .next (s.clocked core.toNat (fun s => s.mxStart core.toNat)) := rfl

theorem exec_matrixCommandEnd (core : BitVec 10) (s : State) :
    exec (.matrixCommandEnd core) s = .next (s.clocked core.toNat (fun s => s.mxEnd core.toNat)) := rfl

theorem exec_matrixWaitLimitExpiry (core : BitVec 10) (s : State) :
    exec (.matrixWaitLimitExpiry core) s = .next (s.clocked core.toNat (fun s => s.mxExpire core.toNat)) := rfl

theorem exec_contactCommandStart (core : BitVec 10) (s : State) :
    exec (.contactCommandStart core) s = .next (s.clocked core.toNat (fun s => s.ctStart core.toNat)) := rfl

/-- Settles O49: with running clocks each step does what its condition calls for, and with standing clocks nothing. -/
theorem engineSteps : Obligations.EngineSteps := by
  intro s core c t k hc hk ht
  subst hc hk ht
  refine ⟨fun w hw hr => ?_, fun m ms u hr hq hs hi hw hg ha hu => ?_, fun m ms e w fl hr hq he hle hup hres hsat => ?_,
    fun m ms gone h0 h r hr hq hs hh hw hi hle hgone hring => ?_, fun m ms hr hq hs hi hg hv => ?_⟩
  · simp only [List.mem_cons, List.not_mem_nil, or_false] at hw
    obtain rfl | rfl | rfl | rfl := hw
    · rw [exec_matrixCommandStart, State.clocked_of_stopped _ hr]
    · rw [exec_matrixCommandEnd, State.clocked_of_stopped _ hr]
    · rw [exec_matrixWaitLimitExpiry, State.clocked_of_stopped _ hr]
    · rw [exec_contactCommandStart, State.clocked_of_stopped _ hr]
  · have hcan : s.mxCanStart core.toNat m = true := State.mxCanStart_iff.mpr ⟨hs, hi, hw, hg, ha⟩
    subst hu
    rw [exec_matrixCommandStart, State.clocked_of_runs _ hr]
    exact ⟨fun hz hl => congrArg _ (State.mxStart_counted hq hcan hz hl),
      fun a b hm => congrArg _ (State.mxStart_uncounted hq hcan (.inl ⟨a, b, hm⟩)),
      fun a b d e hm => congrArg _ (State.mxStart_uncounted hq hcan (.inr ⟨a, b, d, e, hm⟩))⟩
  · rw [exec_matrixCommandEnd, State.clocked_of_runs _ hr, State.mxEnd_of_over hq he hle hup hsat hres]
  · subst hgone hring
    rw [exec_matrixWaitLimitExpiry, State.clocked_of_runs _ hr, State.mxExpire_of_over hq hs hh hw hi hle]
  · rw [exec_contactCommandStart, State.clocked_of_runs _ hr, State.ctStart_of_ready hq hs hi hg hv]

end Sys2Proof.Machine
end

section
/-!
The steps of a copy channel and its aperture (R232, R253 to R258, R352). Settles O50.
-/

namespace Sys2Proof.Machine

/-! ### Channels of a core -/

@[simp] theorem Core.chan_setChan_self (k : Core) (n : Nat) (q : Chan) : (k.setChan n q).chan n = q := Table.get_set_self ..

@[simp] theorem Core.setChan_setChan (k : Core) (n : Nat) (p q : Chan) : (k.setChan n p).setChan n q = k.setChan n q := by
  simp [Core.setChan]

@[simp] theorem State.modChan_modChan (s : State) (c n : Nat) (f g : Chan → Chan) :
    (s.modChan c n f).modChan c n g = s.modChan c n (fun q => g (f q)) := by
  simp [State.modChan]

/-- A change of a channel is the channel put in place as it comes out. -/
theorem State.modChan_eq_const (s : State) (c n : Nat) (f : Chan → Chan) :
    s.modChan c n f = s.modChan c n (fun _ => f ((s.core c).chan n)) := State.modCore_congr rfl

/-! ### Steps of a copy channel (R254 to R258) -/

section
variable {s : State} {c n : Nat} {m : CopyCmd}

/-- The template that a copy command uses: its own, or the one that its context holds under its index. -/
def State.templateOf (s : State) (c : Nat) (m : CopyCmd) : BitVec 512 :=
  m.tmpl.getD (Table.get 0 (s.ctx c m.res).tmpl m.tidx.toNat)

/-- A command with its template and its saturation mode latched. -/
def State.latched (s : State) (c : Nat) (m : CopyCmd) : CopyCmd :=
  { m with tmpl := some (s.templateOf c m), sat := some (m.sat.getD ((s.ctx c m.res).round.getLsbD 2)) }

/-- The channel of a copy command that begins in cycle `now`. -/
def Chan.begun (q : Chan) (m : CopyCmd) (now : Nat) : Chan :=
  let q := { q with
    queue := q.queue.tail, cur := some m, st := .active, tlast := m.tidx.setWidth 8, cursor := m.cursor0, beginAt := now
    shift := 0, rdDone := false, wmWait := 0, ahead := [], out := [], fault := none, pat := [] }
  { q with y := m.cursor0.toNat * q.chunk, doneBytes := min q.total (m.cursor0.toNat * q.chunk) }

theorem State.copyBegin_of_valid (hb : s.copyCanBegin c n = some m) (hk : m.kind = 0)
    (ht : tmplOk (s.templateOf c m) = true) :
    s.copyBegin c n = s.modChan c n (fun q => q.begun (s.latched c m) (s.now c)) := by
  unfold State.templateOf at ht
  unfold State.copyBegin
  simp only [hb]
  rw [if_pos hk, if_pos ht, State.modChan_modChan]
  rfl

/-- An invalid template: the command is discarded, counted and recorded (R253). -/
theorem State.copyBegin_of_invalid (hb : s.copyCanBegin c n = some m) (hk : m.kind = 0)
    (ht : tmplOk (s.templateOf c m) = false) :
    s.copyBegin c n = (s.modChan c n (fun q =>
      { q with queue := q.queue.tail, terr := q.terr + 1, tlast := m.tidx.setWidth 8, cursor := m.cursor0 })).copyRecord c n m
        3 0 0 m.cursor0 := by
  unfold State.templateOf at ht
  unfold State.copyBegin
  simp only [hb, hk, ht, if_true, Bool.false_eq_true, if_false, State.modChan_modChan]

theorem State.chunkCommit_of_timed (ho : ((s.core c).chan n).open = some m) (ht : ((s.core c).chan n).timed c = true)
    (hd : ((s.core c).chan n).chunkDone = true)
    (hw : ((s.core c).chan n).chunkOwn = true ∨
      s.chunkHeld c ((s.core c).chan n) m ((s.core c).chan n).cursor.toNat = false) :
    s.chunkCommit c n = s.commitChunk c n m := by
  have hfree : (((s.core c).chan n).chunkOwn ||
      !s.chunkHeld c ((s.core c).chan n) m ((s.core c).chan n).cursor.toNat) = true := by
    rw [Bool.or_eq_true, Bool.not_eq_true']; exact hw
  unfold State.chunkCommit
  simp only [ho, ht, hd, hfree, Bool.and_self, if_true]

theorem State.chunkCommit_of_ahead (ho : ((s.core c).chan n).open = some m) (ht : ((s.core c).chan n).timed c = false)
    (ha : ((s.core c).chan n).ahead.contains ((s.core c).chan n).cursor.toNat = true) :
    s.chunkCommit c n = s.commitChunk c n m := by
  unfold State.chunkCommit
  simp only [ho, ht, ha, Bool.false_eq_true, if_false, if_true]

/-- A counted chunk that may move has not moved yet. -/
theorem State.not_ahead_of_chunkMoves {q : Chan} {k : Nat} (h : s.chunkMoves c q m k = true) : q.ahead.contains k = false := by
  unfold State.chunkMoves at h
  simp only [Bool.and_eq_true, Bool.not_eq_true'] at h
  exact h.1.1.1.1.2

theorem State.chunkCommit_of_moves (ho : ((s.core c).chan n).open = some m) (ht : ((s.core c).chan n).timed c = false)
    (hm : s.chunkMoves c ((s.core c).chan n) m ((s.core c).chan n).cursor.toNat = true) :
    s.chunkCommit c n = ((((s.core c).chan n).chunkPieces ((s.core c).chan n).cursor.toNat).foldl
      (fun s p => s.moveCounted c n m p) s).commitChunk c n m := by
  unfold State.chunkCommit
  simp only [ho, ht, hm, State.not_ahead_of_chunkMoves hm, Bool.false_eq_true, if_false, if_true]

theorem State.chunkMove_of_moves {k : Nat} (ho : ((s.core c).chan n).open = some m)
    (ht : ((s.core c).chan n).timed c = false)
    (hm : s.chunkMoves c ((s.core c).chan n) m (((s.core c).chan n).cursor.toNat + k) = true) :
    s.chunkMove c n k = ((((s.core c).chan n).chunkPieces (((s.core c).chan n).cursor.toNat + k)).foldl
      (fun s p => s.moveCounted c n m p) s).modChan c n
        (fun q => { q with ahead := q.ahead ++ [((s.core c).chan n).cursor.toNat + k] }) := by
  unfold State.chunkMove
  simp only [ho, ht, hm, Bool.false_eq_true, if_false, if_true]

/-- A counted chunk that cannot run suspends its channel (R256). -/
theorem State.chunkFault_of_snag {cause sub : BitVec 8} {va : Word} (refused : Bool)
    (ho : ((s.core c).chan n).open = some m) (hs : ((s.core c).chan n).st = .active)
    (ht : ((s.core c).chan n).timed c = false)
    (ha : ((s.core c).chan n).ahead.contains ((s.core c).chan n).cursor.toNat = false)
    (hf : s.snag c ((s.core c).chan n) m (((s.core c).chan n).chunkPieces ((s.core c).chan n).cursor.toNat) =
      some (.fault cause sub va)) :
    s.chunkFault c n refused =
      (s.copyRecord c n m cause sub va ((s.core c).chan n).cursor).suspend c n (some (cause, sub, va)) := by
  unfold State.chunkFault
  simp only [ho, hs, ht, ha, hf, Bool.false_and, Bool.or_self, bne_self_eq_false, Bool.false_eq_true, if_false]

/-- So does one that another device refuses (R352). -/
theorem State.chunkFault_of_refusal {va : Word} (ho : ((s.core c).chan n).open = some m)
    (hs : ((s.core c).chan n).st = .active) (ht : ((s.core c).chan n).timed c = false)
    (ha : ((s.core c).chan n).ahead.contains ((s.core c).chan n).cursor.toNat = false)
    (hf : s.snag c ((s.core c).chan n) m (((s.core c).chan n).chunkPieces ((s.core c).chan n).cursor.toNat) = none)
    (hab : s.abroadIn c ((s.core c).chan n) m (((s.core c).chan n).chunkPieces ((s.core c).chan n).cursor.toNat) = some va) :
    s.chunkFault c n true = (s.copyRecord c n m 1 5 va ((s.core c).chan n).cursor).suspend c n (some (1, 5, va)) := by
  unfold State.chunkFault
  simp only [ho, hs, ht, ha, hf, hab, Bool.false_and, Bool.or_self, bne_self_eq_false, Bool.not_true, Bool.false_eq_true,
    if_false]

theorem State.watermarkExpiry_of_over (ho : ((s.core c).chan n).open = some m) (hs : ((s.core c).chan n).st = .active)
    (hw : 16777216 ≤ ((s.core c).chan n).wmWait) :
    s.watermarkExpiry c n =
      (s.copyRecord c n m 4 0 0 ((s.core c).chan n).cursor).suspend c n (some (4, 0, 0)) := by
  unfold State.watermarkExpiry
  simp only [ho, hs, hw, and_self, if_true]

/-- The end of a copy that has moved all its chunks and whose source has been released. -/
theorem State.copyCompletion_of_moved (hc : ((s.core c).chan n).cur = some m) (hk : m.kind = 0)
    (hs : ((s.core c).chan n).st = .active) (hm : ((s.core c).chan n).moved = true)
    (hr : ((s.core c).chan n).rdDone = true) :
    s.copyCompletion c n = (s.copyAction c n m (tfield ((s.core c).chan n).tmpl 448 32)).copyEnd c n true := by
  unfold State.copyCompletion
  simp only [hc, hk, hs, hm, hr, bne_self_eq_false, Bool.or_self, Bool.not_true, Bool.and_false, Bool.false_eq_true, if_false,
    if_true]

theorem State.cancelComplete_of_idle (hc : ((s.core c).chan n).cancel ≠ []) (hs : ((s.core c).chan n).st = .idle) :
    s.cancelComplete c n = s.answerCancels c n := by
  have he : ((s.core c).chan n).cancel.isEmpty = false := by simpa using hc
  unfold State.cancelComplete
  simp only [he, hs, Bool.false_eq_true, if_false, if_true]

end

/-! ### The aperture (R232) -/

/-- The residency and the channel that an offset of a copy aperture names. -/
theorem aperture_offset {off n : Nat} {r : BitVec 1} (h : off = 2048 * r.toNat + 64 * n) (hn : n < 4) :
    BitVec.ofNat 1 (off / 2048) = r ∧ off % 2048 / 64 = n ∧ off % 64 = 0 := by
  have hr : r.toNat < 2 := r.isLt
  refine ⟨BitVec.eq_of_toNat_eq ?_, by omega, by omega⟩
  rw [BitVec.toNat_ofNat]; omega

section
variable {s : State} {c off n : Nat} {r : BitVec 1} {v : Word}

theorem State.apertureArrival_refused (h : off = 2048 * r.toNat + 64 * n) (hn : n < 4)
    (hv : 64 ≤ v.toNat ∨ (s.ctx c r).owned = false) :
    s.apertureArrival c off v = s.modChan c n (fun q => { q with aerr := q.aerr + 1 }) := by
  obtain ⟨hr, hch, halign⟩ := aperture_offset h hn
  unfold State.apertureArrival
  simp only [hr, hch, halign, Nat.not_le.mpr hn, ne_eq, not_true_eq_false, or_self, if_false]
  refine if_pos ?_
  rcases hv with hv | hv
  · simp [hv]
  · unfold State.ctx at hv; simp [hv]

/-- The copy command of an aperture store (R232). -/
def State.apertureCmd (s : State) (c : Nat) (r : BitVec 1) (v : Word) : CopyCmd :=
  { kind := 0, res := r, seq := s.seq, pc := BitVec.allOnes 64, slot := 0, issue := s.now c, tidx := v.setWidth 6, mode := 0
    disp := 0, aperture := true, sat := none, tmpl := none, kvDesc := 0, kvPath := 0, after := [], gates := [], cursor0 := 0
    kvBuf := [], kvShift := 0 }

theorem State.apertureArrival_queued (h : off = 2048 * r.toNat + 64 * n) (hn : n < 4) (hv : v.toNat < 64)
    (ho : (s.ctx c r).owned = true) (hs : (s.ctx c r).saved = false) (hp : (s.core c).preRes ≠ r) :
    s.apertureArrival c off v =
      { s.modChan c n (fun q => { q with queue := q.queue ++ [s.apertureCmd c r v] }) with seq := s.seq + 1 } := by
  obtain ⟨hr, hch, halign⟩ := aperture_offset h hn
  have hpre : ((s.core c).preRes == r) = false := beq_eq_false_iff_ne.mpr hp
  unfold State.ctx at ho hs
  unfold State.apertureArrival
  simp only [hr, hch, halign, Nat.not_le.mpr hn, Nat.not_le.mpr hv, ho, hs, hpre, ne_eq, not_true_eq_false, or_self, if_false,
    decide_false, Bool.not_true, Bool.and_false, Bool.or_self, Bool.false_eq_true]
  rfl

end

theorem exec_copyBegin (core : BitVec 10) (ch : BitVec 2) (s : State) :
    exec (.copyBegin core ch) s = .next (s.clocked core.toNat (fun s => s.copyBegin core.toNat ch.toNat)) := rfl

theorem exec_chunkCommit (core : BitVec 10) (k : ChunkStep) (s : State) :
    exec (.chunkCommit core k) s = .next (s.clocked core.toNat (fun s => s.chunkEvent core.toNat k)) := rfl

theorem exec_copyChunkFault (core : BitVec 10) (ch : BitVec 2) (refused : Bool) (s : State) :
    exec (.copyChunkFault core (if refused then .refused ch else .own ch)) s =
      .next (s.clocked core.toNat (fun s => s.chunkFault core.toNat ch.toNat refused)) := by
  cases refused <;> rfl

theorem exec_watermarkWaitLimitExpiry (core : BitVec 10) (ch : BitVec 2) (s : State) :
    exec (.watermarkWaitLimitExpiry core ch) s =
      .next (s.clocked core.toNat (fun s => s.watermarkExpiry core.toNat ch.toNat)) := rfl

theorem exec_copyCompletionAction (core : BitVec 10) (ch : BitVec 2) (s : State) :
    exec (.copyCompletionAction core ch) s =
      .next (s.clocked core.toNat (fun s => s.copyCompletion core.toNat ch.toNat)) := rfl

theorem exec_copyCancelComplete (core : BitVec 10) (ch : BitVec 2) (s : State) :
    exec (.copyCancelComplete core ch) s =
      .next (s.clocked core.toNat (fun s => s.cancelComplete core.toNat ch.toNat)) := rfl

theorem exec_apertureCommandArrival (core : BitVec 10) (off : BitVec 12) (v : Word) (s : State) :
    exec (.apertureCommandArrival core off v) s = .next (s.apertureArrival core.toNat off.toNat v) := rfl

/-- While the clocks of its region stand, a copy channel takes no step (R19). -/
theorem exec_copyStep_of_stopped {s : State} {core : BitVec 10} {ch : BitVec 2} (hr : (s.regOf core.toNat).runs = false)
    {i : Instr} {k : ChunkStep} {d : ChunkStop} (hi : i ∈ [.copyBegin core ch, .chunkCommit core k, .copyChunkFault core d,
      .watermarkWaitLimitExpiry core ch, .copyCompletionAction core ch, .copyCancelComplete core ch]) :
    exec i s = .next s := by
  have hstop : ∀ f, Host.Outcome.next (s.clocked core.toNat f) = (.next s : Host.Outcome State Fault Refusal) :=
    fun f => congrArg _ (State.clocked_of_stopped f hr)
  simp only [List.mem_cons, List.not_mem_nil, or_false] at hi
  obtain rfl | rfl | rfl | rfl | rfl | rfl := hi <;> exact hstop _

/-- Settles O50: each step of a copy channel by the condition under which it acts, and the aperture. -/
theorem copySteps : Obligations.CopySteps := by
  intro s core ch c n q m hc hn hq
  subst hc hn hq
  refine ⟨fun hr => ⟨?_, ?_, ?_, ?_, ?_, ?_, ?_, ?_, ?_, ?_, ?_⟩, fun hr i k d hi => exec_copyStep_of_stopped hr hi,
    fun off v r hoff => ⟨fun hv => ?_, fun hv ho hs hp => ?_⟩⟩
  · intro t hb hk ht hok
    subst ht
    refine ⟨((s.core core.toNat).chan ch.toNat).begun (s.latched core.toNat m) (s.now core.toNat), ?_, rfl, rfl, rfl, rfl, rfl,
      rfl, rfl⟩
    rw [exec_copyBegin, State.clocked_of_runs _ hr, State.copyBegin_of_valid hb hk hok, State.modChan_eq_const]
  · intro t hb hk ht hok
    subst ht
    rw [exec_copyBegin, State.clocked_of_runs _ hr, State.copyBegin_of_invalid hb hk hok]
  · intro ho ht hd hw
    rw [exec_chunkCommit, State.clocked_of_runs _ hr]
    exact congrArg _ (State.chunkCommit_of_timed ho ht hd hw)
  · intro ho ht ha
    rw [exec_chunkCommit, State.clocked_of_runs _ hr]
    exact congrArg _ (State.chunkCommit_of_ahead ho ht ha)
  · intro ho ht hm
    rw [exec_chunkCommit, State.clocked_of_runs _ hr]
    exact congrArg _ (State.chunkCommit_of_moves ho ht hm)
  · intro k hk ho ht hm
    rw [exec_chunkCommit, State.clocked_of_runs _ hr]
    obtain rfl | rfl : k = 0 ∨ k = 1 := by omega
    · exact congrArg _ (State.chunkMove_of_moves ho ht hm)
    · exact congrArg _ (State.chunkMove_of_moves ho ht hm)
  · intro refused cause sub va ho hs ht ha hf
    rw [exec_copyChunkFault, State.clocked_of_runs _ hr, State.chunkFault_of_snag refused ho hs ht ha hf]
  · intro va ho hs ht ha hf hab
    rw [show ChunkStop.refused ch = if true then .refused ch else .own ch from rfl, exec_copyChunkFault,
      State.clocked_of_runs _ hr, State.chunkFault_of_refusal ho hs ht ha hf hab]
  · intro ho hs hw
    rw [exec_watermarkWaitLimitExpiry, State.clocked_of_runs _ hr, State.watermarkExpiry_of_over ho hs hw]
  · intro hcur hk hs hm hrd
    rw [exec_copyCompletionAction, State.clocked_of_runs _ hr, State.copyCompletion_of_moved hcur hk hs hm hrd]
    rfl
  · intro hcan hs
    rw [exec_copyCancelComplete, State.clocked_of_runs _ hr, State.cancelComplete_of_idle hcan hs]
    rfl
  · rw [exec_apertureCommandArrival, State.apertureArrival_refused hoff ch.isLt hv]
  · refine ⟨s.apertureCmd core.toNat r v, rfl, rfl, ?_, rfl, rfl, ?_⟩
    · exact BitVec.setWidth_eq_extractLsb' (x := v) (show 6 ≤ 64 by decide)
    · rw [exec_apertureCommandArrival, State.apertureArrival_queued hoff ch.isLt hv ho hs hp]

end Sys2Proof.Machine
end

section
/-!
The steps of the fabric and of the stream units (R101, R103, R110, R115, R352). Settles O51.
-/

namespace Sys2Proof.Machine

/-! ### Accesses at their targets (R19, R101, R110, R352) -/

/-- A message of this device that an event of its kind may serve now: nothing holds it back. -/
structure State.Arrives (s : State) (k : Serve) (id : Nat) (m : Msg) : Prop where
  found : s.fabric.find? (fun m => m.id = id) = some m
  served : m.ask.served k = true
  fresh : m.arrived = false
  unheld : m.own = false ∨ (s.regOf m.core).runs = false
  deliverable : s.deliverable m = true

section
variable {s : State} {k : Serve} {id : Nat} {m : Msg}

/-- What such an event does, by the admission of another device and by the region of the vault. -/
theorem State.arriveMsg_of_arrives (h : s.Arrives k id m) (adm : Bool) :
    s.arriveMsg k id adm =
      if (m.parts.any (fun p => p.device.isSome) && !adm) = true then s.refuseMsg m
      else if m.vault.any (fun c => (s.regOf c).runs) = true then
        { s with fabric := s.fabric.map (fun n => if n.id = id then { n with arrived := true } else n) }
      else s.performMsg m := by
  have hown : (m.own && (s.regOf m.core).runs) = false := Bool.and_eq_false_iff.mpr h.unheld
  unfold State.arriveMsg
  simp only [h.found, h.served, h.fresh, hown, h.deliverable, Bool.not_true, Bool.or_self, Bool.false_eq_true, if_false]
  cases m.vault <;> simp

theorem Msg.refused_iff {m : Msg} {adm : Bool} : (m.parts.any (fun p => p.device.isSome) && !adm) = true ↔
    (∃ p ∈ m.parts, p.device.isSome = true) ∧ adm = false := by
  simp [List.any_eq_true]

/-- An access that the other device refuses. -/
theorem State.arriveMsg_refused {adm : Bool} (h : s.Arrives k id m) (hp : ∃ p ∈ m.parts, p.device.isSome = true)
    (ha : adm = false) : s.arriveMsg k id adm = s.refuseMsg m := by
  rw [State.arriveMsg_of_arrives h, if_pos (Msg.refused_iff.mpr ⟨hp, ha⟩)]

theorem Msg.not_refused {m : Msg} {adm : Bool} (ha : adm = true ∨ ∀ p ∈ m.parts, p.device.isSome = false) :
    ¬ (m.parts.any (fun p => p.device.isSome) && !adm) = true := by
  rw [Msg.refused_iff]
  rintro ⟨⟨p, hp, hd⟩, hf⟩
  rcases ha with ha | ha
  · exact absurd (ha.symm.trans hf) (by decide)
  · exact absurd ((ha p hp).symm.trans hd) (by decide)

/-- Where no region's clock runs at its target, an access performs at once. -/
theorem State.arriveMsg_performs {adm : Bool} (h : s.Arrives k id m)
    (ha : adm = true ∨ ∀ p ∈ m.parts, p.device.isSome = false) (hv : ∀ c, m.vault = some c → (s.regOf c).runs = false) :
    s.arriveMsg k id adm = s.performMsg m := by
  have hstop : ¬ m.vault.any (fun c => (s.regOf c).runs) = true := by
    rw [Option.any_eq_true]
    rintro ⟨c, hc, hr⟩
    exact absurd ((hv c hc).symm.trans hr) (by decide)
  rw [State.arriveMsg_of_arrives h, if_neg (Msg.not_refused ha), if_neg hstop]

/-- At a vault of a running region it performs in the next cycle of that region. -/
theorem State.arriveMsg_waits {adm : Bool} {c : Nat} (h : s.Arrives k id m)
    (ha : adm = true ∨ ∀ p ∈ m.parts, p.device.isSome = false) (hv : m.vault = some c) (hr : (s.regOf c).runs = true) :
    s.arriveMsg k id adm =
      { s with fabric := s.fabric.map (fun n => if n.id = id then { n with arrived := true } else n) } := by
  rw [State.arriveMsg_of_arrives h, if_neg (Msg.not_refused ha), hv, Option.any_some, if_pos hr]

end

section
variable {s : State} {tag addr : Word} {p : Nat}

/-- An access of another device without the owner's tag is counted there as refused (R110). -/
theorem State.serveRemote_refused (k : Serve) (op : BitVec 5) (data : List Byte) (ho : s.ownerOf addr.toNat = some p)
    (ht : (s.partition p).tag ≠ tag) :
    s.serveRemote k tag addr op data = s.modPartition p (fun x => { x with refused := x.refused + 1 }) := by
  have h : ((s.partition p).tag != tag) = true := bne_iff_ne.mpr ht
  unfold State.serveRemote
  simp only [ho, h, Bool.true_or, if_true]

/-- One with the owner's tag performs. -/
theorem State.serveRemote_admitted (op : BitVec 5) (data : List Byte) (ho : s.ownerOf addr.toNat = some p)
    (ht : (s.partition p).tag = tag) (he : (s.partition p).en = true) (hd : inDirectory addr.toNat = false) :
    s.serveRemote .write tag addr op data = s.put (paKey addr.toNat) data ∧
    s.serveRemote .read tag addr op data = s ∧
    s.serveRemote .atomic tag addr op data = (s.atomicAt op (paKey addr.toNat) (BitVec.ofNat 64 (leNat (data.take 8)))
      (BitVec.ofNat 64 (leNat (data.drop 8)))).2 := by
  unfold State.serveRemote
  simp only [ho, ht, he, hd, bne_self_eq_false, Bool.not_true, Bool.or_self, Bool.false_eq_true, if_false, and_self]

end

/-! ### Answers and streams (R103, R115) -/

/-- An answer that writes the general register that waits for it. -/
theorem State.answerG_of_busy {s : State} {c : Nat} {res : BitVec 1} {r : BitVec 6} {id : Nat} (w : Word)
    (h : (s.ctx c res).busy.contains (.g r, id) = true) :
    s.answerG c res r id w =
      s.modCtx c res (fun x => { x.wg r w with busy := x.busy.filter (fun b => b != (.g r, id)) }) :=
  congrArg (s.setCtx c res) (if_pos h)

/-- An answer on the fabric leaves it and is delivered. -/
theorem State.dataArrival_of_answer {s : State} {id : Nat} {m : Msg} {bs : List Byte}
    (hf : s.fabric.find? (fun m => m.id = id) = some m) (ha : m.answer = some bs) :
    s.dataArrival id = { s with fabric := s.fabric.filter (fun n => n.id ≠ id) }.deliver m bs := by
  unfold State.dataArrival
  simp only [hf, ha]

theorem State.deliver_reg {s : State} {m : Msg} {bs : List Byte} {r : BitVec 6} {n : Nat} (h : m.dest = .reg (.g r) n) :
    s.deliver m bs = s.answerG m.core m.res r m.id (loadWord n bs) := by
  unfold State.deliver; rw [h]; rfl

/-- A register of a bound stream, with nothing of an earlier binding to drain. -/
theorem State.streamTransfer_of_move {s u : State} {c n : Nat} {res : BitVec 1} {adm : Bool} {t : Stream}
    (hd : ∀ d ∈ (s.ctx c res).drains, d.reg ≠ n) (hb : ((s.ctx c res).stream n).bound = true)
    (ha : (s.core c).away res = false) (hm : s.streamMove c res adm ((s.ctx c res).stream n) = some (u, t)) :
    s.streamTransfer c res n adm = u.modCtx c res (fun x => x.setStream n t) := by
  have hfind : (s.ctx c res).drains.find? (fun d => d.reg = n) = none := by
    rw [List.find?_eq_none]
    intro d hmem
    simpa using hd d hmem
  unfold State.streamTransfer
  simp only [hfind, hb, ha, hm, Bool.not_true, Bool.or_self, Bool.false_eq_true, if_false]

theorem exec_fabricWrite (a : Arrival) (s : State) : exec (.fabricWrite a) s = .next (s.fabricEvent .write a) := rfl

theorem exec_fabricAtomic (a : Arrival) (s : State) : exec (.fabricAtomic a) s = .next (s.fabricEvent .atomic a) := rfl

theorem exec_fabricRead (a : Arrival) (s : State) : exec (.fabricRead a) s = .next (s.fabricEvent .read a) := rfl

theorem exec_registerDataArrival (id : Nat) (s : State) : exec (.registerDataArrival id) s = .next (s.dataArrival id) := rfl

theorem exec_streamTransfer (core : BitVec 10) (res : BitVec 1) (n : BitVec 3) (adm : Bool) (s : State) :
    exec (.streamTransfer core res ⟨n, adm⟩) s =
      .next (s.clocked core.toNat (fun s => s.streamTransfer core.toNat res (24 + n.toNat) adm)) := rfl

theorem State.fabricEvent_own (s : State) (k : Serve) (id : Nat) (adm : Bool) :
    s.fabricEvent k (.own id adm) = s.arriveMsg k id adm := rfl

theorem State.fabricEvent_remote (s : State) (k : Serve) (d : BitVec 19) (num : BitVec 10) (tag addr : Word) (op : BitVec 5)
    (data : List Byte) : s.fabricEvent k (.remote d num tag addr op data) = s.serveRemote k tag addr op data := rfl

/-- Each of the three steps of the fabric serves the accesses of its kind. -/
theorem exec_fabric_own {s : State} {id : Nat} {adm : Bool} {w : Instr × Serve}
    (hw : w ∈ [(Instr.fabricWrite (.own id adm), Serve.write), (.fabricAtomic (.own id adm), .atomic),
      (.fabricRead (.own id adm), .read)]) : exec w.1 s = .next (s.arriveMsg w.2 id adm) := by
  simp only [List.mem_cons, List.not_mem_nil, or_false] at hw
  obtain rfl | rfl | rfl := hw
  · rw [exec_fabricWrite, State.fabricEvent_own]
  · rw [exec_fabricAtomic, State.fabricEvent_own]
  · rw [exec_fabricRead, State.fabricEvent_own]

/-- Settles O51: accesses at their targets, the answer of one, and a register of a stream. -/
theorem fabricSteps : Obligations.FabricSteps := by
  intro s id adm m
  refine ⟨fun w hw hf hserv harr hown hdel => ?_, fun d num tag addr op data p ho => ⟨fun ht i hi => ?_, fun ht he hd => ?_⟩,
    fun r n bs hf ha hdest hbusy => ?_, fun core res n x hx => ⟨fun hr => ?_, fun u t' hr hd hb haway hm => ?_⟩⟩
  · have h : s.Arrives w.2 id m := ⟨hf, hserv, harr, hown, hdel⟩
    rw [exec_fabric_own hw]
    refine ⟨fun hp ha => ?_, fun ha hv => ?_, fun ha c hv hr => ?_⟩
    · rw [State.arriveMsg_refused h hp ha]
    · rw [State.arriveMsg_performs h ha hv]
    · rw [State.arriveMsg_waits h ha hv hr]
  · simp only [List.mem_cons, List.not_mem_nil, or_false] at hi
    obtain rfl | rfl | rfl := hi
    · rw [exec_fabricWrite, State.fabricEvent_remote, State.serveRemote_refused _ _ _ ho ht]
    · rw [exec_fabricAtomic, State.fabricEvent_remote, State.serveRemote_refused _ _ _ ho ht]
    · rw [exec_fabricRead, State.fabricEvent_remote, State.serveRemote_refused _ _ _ ho ht]
  · obtain ⟨hwrite, hread, hatomic⟩ := State.serveRemote_admitted op data ho ht he hd
    rw [exec_fabricWrite, exec_fabricRead, exec_fabricAtomic, State.fabricEvent_remote, State.fabricEvent_remote,
      State.fabricEvent_remote, hwrite, hread, hatomic]
    exact ⟨rfl, rfl, rfl⟩
  · rw [exec_registerDataArrival, State.dataArrival_of_answer hf ha, State.deliver_reg hdest]
    exact congrArg _ (State.answerG_of_busy _ hbusy)
  · rw [exec_streamTransfer, State.clocked_of_stopped _ hr]
  · subst hx
    rw [exec_streamTransfer, State.clocked_of_runs _ hr, State.streamTransfer_of_move hd hb haway hm]

end Sys2Proof.Machine
end

section
/-!
The steps of regions, of their sources, and of the energy bucket (R12 to R20, R229, R375 to R390). Settles O56.
-/

namespace Sys2Proof.Machine

/-! ### Regions of the device -/

@[simp] theorem State.region_setRegion_self (s : State) (r : Nat) (x : Region) : (s.setRegion r x).region r = x :=
  Table.get_set_self ..

@[simp] theorem State.setRegion_setRegion (s : State) (r : Nat) (x y : Region) :
    (s.setRegion r x).setRegion r y = s.setRegion r y := by
  simp [State.setRegion]

theorem State.modRegion_eq (s : State) (r : Nat) (f : Region → Region) : s.modRegion r f = s.setRegion r (f (s.region r)) := rfl

/-! ### The clock of a region at a boundary (R12 to R15) -/

/-- The counters of a region that a boundary sets: its period, what has passed of it, and its cycles. -/
def Region.clock (g : Region) : Word × Nat × Nat × Word := (g.period, g.into, g.samp, g.cycle)

/-- The memory and the clock of region `r` stand as before. -/
structure State.KeepsClock (r : Nat) (s t : State) : Prop where
  mem : t.mem = s.mem
  clock : (t.region r).clock = (s.region r).clock

namespace State.KeepsClock

variable {r : Nat} {s t u : State}

theorem refl (s : State) : KeepsClock r s s := ⟨rfl, rfl⟩

theorem trans (h : KeepsClock r s t) (k : KeepsClock r t u) : KeepsClock r s u :=
  ⟨k.mem.trans h.mem, k.clock.trans h.clock⟩

/-- A change of the region that leaves its clock. -/
theorem setRegion {x : Region} (h : x.clock = (s.region r).clock) : KeepsClock r s (s.setRegion r x) :=
  ⟨rfl, by rw [State.region_setRegion_self, h]⟩

theorem modRegion {f : Region → Region} (h : ∀ g, (f g).clock = g.clock) : KeepsClock r s (s.modRegion r f) :=
  setRegion (h _)

theorem modCtx (c : Nat) (res : BitVec 1) (f : Ctx → Ctx) : KeepsClock r s (s.modCtx c res f) := ⟨rfl, rfl⟩

/-- Steps taken one after the other, in a state that an accumulator carries. -/
theorem foldl {α β : Type} {f : β → α → β} (π : β → State) (l : List α) (b : β)
    (h : ∀ b a, KeepsClock r (π b) (π (f b a))) : KeepsClock r (π b) (π (l.foldl f b)) :=
  List.foldlRecOn (motive := fun d => KeepsClock r (π b) (π d)) l f (refl _) (fun d hd a _ => hd.trans (h d a))

end State.KeepsClock

theorem Region.clock_slowTurn (g : Region) : g.slowTurn.clock = g.clock := rfl

theorem Region.clock_byRange (g : Region) : g.byRange.clock = g.clock := by
  unfold Region.byRange
  simp only []
  split
  · split <;> rfl
  · rfl

theorem Region.clock_openPort (g : Region) : g.openPort.clock = g.clock := rfl

section
variable (s : State) (r : Nat)

theorem State.keepsClock_retimeMove : KeepsClock r s (s.retimeMove r) := by
  unfold State.retimeMove
  simp only []
  split
  · split
    · exact .setRegion rfl
    · exact .refl _
  · exact .refl _

theorem State.keepsClock_boostTurn : KeepsClock r s (s.boostTurn r) := .modRegion (fun _ => rfl)

theorem State.keepsClock_portStreams (old : Region) : KeepsClock r s (s.portStreams r old) := by
  unfold State.portStreams
  refine .foldl id _ s (fun s c => .foldl id _ s (fun s res => .foldl id _ s (fun s p => ?_)))
  simp only [id_eq]
  split
  · split
    · refine State.KeepsClock.trans ?_ (.modCtx _ _ _)
      exact .modRegion (fun _ => rfl)
    · exact .refl _
  · exact .refl _

theorem State.keepsClock_driftAll : KeepsClock r s (s.driftAll r) := ⟨rfl, rfl⟩

theorem State.keepsClock_stopLaunches : KeepsClock r s (s.stopLaunches r) := ⟨rfl, rfl⟩

/-- One context at a boundary, with whether any so far has missed its restart. -/
def State.restartStep (trap : Bool) (a : State × Bool) (m : Member) : State × Bool :=
  let x := a.1.ctx m.1 m.2
  let stop := match a.1.launchOf x with
    | some l => l.stopped
    | none => false
  let y := x.boundary stop trap ((a.1.core m.1).away m.2)
  (if y.2 then (a.1.setCtx m.1 m.2 y.1).event m.1 m.2 0x18 else a.1.setCtx m.1 m.2 y.1, a.2 || y.2)

theorem State.keepsClock_restartStep (trap : Bool) (a : State × Bool) (m : Member) :
    KeepsClock r a.1 (State.restartStep trap a m).1 := by
  unfold State.restartStep
  simp only []
  generalize Ctx.boundary _ _ _ _ = y
  split
  · exact ⟨rfl, rfl⟩
  · exact ⟨rfl, rfl⟩

/-- All contexts of a region at a boundary. -/
def State.restarted : State × Bool :=
  ((s.coresOf r).flatMap (fun c => [(c, 0), (c, 1)])).foldl (State.restartStep (decide ((s.region r).policy = 0))) (s, false)

theorem State.restart_eq : s.restart r =
    if (s.restarted r).2 then (s.restarted r).1.modRegion r (fun g => { g with slip := g.slip + 1 })
    else (s.restarted r).1 := rfl

theorem State.keepsClock_restart : KeepsClock r s (s.restart r) := by
  have h : KeepsClock r s (s.restarted r).1 := .foldl Prod.fst _ (s, false) (State.keepsClock_restartStep r _)
  rw [State.restart_eq]
  split
  · exact h.trans (.modRegion (fun _ => rfl))
  · exact h

/-- What a new period does behind its counters leaves them. -/
theorem State.keepsClock_newPeriod (p : Word) :
    KeepsClock r (s.modRegion r (fun g => { g with period := p, into := 0, samp := 0, move := false })) (s.newPeriod r p) := by
  refine .trans ?_ (State.keepsClock_restart _ r)
  refine .trans ?_ (State.keepsClock_stopLaunches _ r)
  refine .trans ?_ (State.keepsClock_driftAll _ r)
  refine .trans ?_ (State.keepsClock_portStreams _ r _)
  refine .trans ?_ (.modRegion Region.clock_openPort)
  refine .trans ?_ (.modRegion (fun g => ?_))
  · refine .trans ?_ (.modRegion (fun _ => rfl))
    exact (State.keepsClock_retimeMove _ r).trans (State.keepsClock_boostTurn _ r)
  · split
    · exact Region.clock_slowTurn g
    · exact Region.clock_byRange g

/-- A new period begins with its counters at 0 and the cycles of the region as they stood. -/
theorem State.newPeriod_clock (p : Word) : (s.newPeriod r p).mem = s.mem ∧
    ((s.newPeriod r p).region r).clock = (p, 0, 0, (s.region r).cycle) := by
  obtain ⟨hmem, hclock⟩ := State.keepsClock_newPeriod s r p
  exact ⟨hmem, hclock.trans (by rw [State.region_modRegion_self]; rfl)⟩

end

/-! ### Period boundaries and resumption (R13, R18, R20) -/

section
variable {s : State} {r : Nat}

theorem State.boundary_of_stop (hd : (s.region r).boundaryDue = true) (hs : (s.region r).stop = true) :
    s.boundary r = s.freeze r := by
  unfold State.boundary
  simp only [hd, hs, Bool.not_true, Bool.false_eq_true, if_false, if_true]

theorem State.boundary_of_go (hd : (s.region r).boundaryDue = true) (hs : (s.region r).stop = false) :
    s.boundary r = s.newPeriod r ((s.region r).period + 1) := by
  unfold State.boundary
  simp only [hd, hs, Bool.not_true, Bool.false_eq_true, if_false]

theorem State.boundary_of_not_due (hd : (s.region r).boundaryDue = false) : s.boundary r = s := by
  unfold State.boundary
  simp only [hd, Bool.not_false, if_true]

/-- The periods that passed while the region stood. -/
def State.gapOf (s : State) (r num den : Nat) : Word :=
  BitVec.ofNat 64 ((s.wall - (s.region r).wf).toNat * num / (den * max 1 (s.region r).s.toNat * 1000000000))

theorem State.resume_of_good {num den : Nat} (hst : (s.region r).st = .relock) (hg : 16 ≤ (s.region r).good)
    (hf : s.fsrc (s.region r).sel = some (num, den)) :
    s.resume r = ((s.modRegion r (fun g => { g.byRange with
      gap := g.gap + s.gapOf r num den, cycle := g.cycle + 1, drain := false, good := 0, miss := 0 })).newPeriod r
        ((s.region r).period + s.gapOf r num den + 1)).realignAll r := by
  have hgo : ¬ ((s.region r).st ≠ .relock ∨ (s.region r).good < 16) := by
    rw [not_or, not_not, Nat.not_lt]; exact ⟨hst, hg⟩
  unfold State.resume
  simp only [hgo, hf, if_false]
  rfl

/-! ### Arrivals and sample times (R16, R18, R229, R375, R376) -/

theorem State.arrival_of_frozen {t : Word} {f : Nat} {v : BitVec 32} (h : (s.region r).st = .frozen) :
    s.arrival r t f v = s.setRegion r { s.region r with
      st := .relock, stop := false, good := 1, miss := 0, anchor := some (t, 0), elastic := [], freq := f } := by
  unfold State.arrival
  simp only [h]

/-- A region in HOLDOVER that is to stop takes no arrival. -/
theorem State.arrival_of_stopping {t : Word} {f : Nat} {v : BitVec 32} (h : (s.region r).st = .holdover)
    (hs : (s.region r).stop = true) :
    s.arrival r t f v = s.setRegion r { s.region r with ovr := (s.region r).ovr + 1 } := by
  unfold State.arrival
  simp only [h, hs, if_true]

theorem State.fallDue_of_none_due (h : ∀ p ∈ s.packets, ∀ x ∈ p.2, s.wallAt x.1 = false) : s.fallDue = s := by
  unfold State.fallDue
  refine List.foldlRecOn (motive := fun t => t = s) _ _ rfl (fun t ht p hp => ?_)
  subst ht
  have hnone : p.2.filter (fun e => t.wallAt e.1) = [] := by
    rw [List.filter_eq_nil_iff]
    intro x hx
    rw [h p hp x hx]
    exact Bool.false_ne_true
  simp only [hnone, List.isEmpty_nil, if_true]

/-- The samples of a packet that a rate entry names, none of them late, wait for their times. -/
theorem State.packetArrives_of_named {k : Nat} {e : Rate} {time : Word} {f : Nat} {vs : List (BitVec 32)}
    {ps : Table (List (Word × Nat × BitVec 32))} (hr : s.rates = [(k, e)]) (hk : k < 0x100) (he : e.en = true)
    (hps : ps = Table.set s.packets k
      (Table.get [] s.packets k ++ vs.zipIdx.map (fun v => (dueAt time s.offset e v.2, f, v.1))))
    (hv : ∀ v ∈ vs.zipIdx, s.wallAt (dueAt time s.offset e v.2) = false)
    (hd : ∀ p ∈ ps, ∀ x ∈ p.2, s.wallAt x.1 = false) :
    s.packetArrives e.link e.stream time f vs = { s with packets := ps } := by
  have hnew : vs.zipIdx.map (fun v => (if s.wallAt (dueAt time s.offset e v.2) then s.wall else dueAt time s.offset e v.2, f,
      v.1)) = vs.zipIdx.map (fun v => (dueAt time s.offset e v.2, f, v.1)) :=
    List.map_congr_left (fun v hmem => by rw [hv v hmem]; rfl)
  have hall : s.packetArrives e.link e.stream time f vs = { s with packets := ps }.fallDue := by
    unfold State.packetArrives
    simp only [hr, List.filter_cons, List.filter_nil, hk, he, decide_true, beq_self_eq_true, Bool.and_self, if_true,
      List.foldl_cons, List.foldl_nil, hnew, hps]
  rw [hall]
  exact State.fallDue_of_none_due hd

/-- A packet of a stream or link that no rate entry names is for nobody. -/
theorem State.packetArrives_of_unnamed {k : Nat} {e : Rate} {time : Word} {f : Nat} {vs : List (BitVec 32)} {link : BitVec 1}
    {stream : BitVec 32} (hr : s.rates = [(k, e)]) (hn : link ≠ e.link ∨ stream ≠ e.stream)
    (hd : ∀ p ∈ s.packets, ∀ x ∈ p.2, s.wallAt x.1 = false) : s.packetArrives link stream time f vs = s := by
  have hnone : s.rates.filter (fun p => decide (p.1 < 0x100) && p.2.en && p.2.link == link && p.2.stream == stream) = [] := by
    rw [hr, List.filter_eq_nil_iff]
    intro p hp
    rw [List.mem_singleton.mp hp, Bool.and_eq_true, Bool.and_eq_true, beq_iff_eq, beq_iff_eq]
    rintro ⟨⟨-, hl⟩, hst⟩
    rcases hn with hn | hn
    · exact hn hl.symm
    · exact hn hst.symm
  unfold State.packetArrives
  rw [hnone]
  exact State.fallDue_of_none_due hd

/-- A port with no output due sends nothing. -/
theorem State.sendSample_of_silent
    (h : (s.region r).hasPort = false ∨ (s.region r).gated = true ∨ (s.region r).outDue = false) : s.sendSample r = s := by
  have hs : (!(s.region r).hasPort || (s.region r).gated || !(s.region r).outDue) = true := by
    rw [Bool.or_eq_true, Bool.or_eq_true, Bool.not_eq_true', Bool.not_eq_true', or_assoc]; exact h
  unfold State.sendSample
  simp only [hs, if_true]

/-- An output of an earlier period leaves at its sample time. -/
theorem State.sendSample_of_earlier {k : Nat} {v : BitVec 32} {rest : List (Nat × BitVec 32)}
    (hp : (s.region r).hasPort = true) (hg : (s.region r).gated = false) (hd : (s.region r).outDue = true)
    (ho : (s.region r).outs = (k, v) :: rest) (hk : k < (s.region r).portNow) :
    s.sendSample r = s.setRegion r { s.region r with
      outDue := false, outs := rest, lastOut := v, sent := v :: (s.region r).sent } := by
  unfold State.sendSample
  simp only [hp, hg, hd, ho, hk, Bool.not_true, Bool.or_self, Bool.false_eq_true, if_false, if_true, State.modRegion_eq,
    State.region_setRegion_self, State.setRegion_setRegion]

/-- A fill in place of an output that was due. -/
theorem State.fillOutput_of_due :
    (s.modRegion r (fun g => { g with outDue := false })).fillOutput r = s.setRegion r { s.region r with
      outDue := false, sent := (if s.fillOf (s.region r) = 1 then 0 else (s.region r).lastOut) :: (s.region r).sent
      undr := (s.region r).undr + 1 } := by
  unfold State.fillOutput
  simp only [State.modRegion_eq, State.region_setRegion_self, State.setRegion_setRegion]
  rfl

/-- With no output of an earlier period a fill leaves. -/
theorem State.sendSample_of_fill (hp : (s.region r).hasPort = true) (hg : (s.region r).gated = false)
    (hd : (s.region r).outDue = true) (ho : ∀ p ∈ (s.region r).outs, (s.region r).portNow ≤ p.1) :
    s.sendSample r = s.setRegion r { s.region r with
      outDue := false, sent := (if s.fillOf (s.region r) = 1 then 0 else (s.region r).lastOut) :: (s.region r).sent
      undr := (s.region r).undr + 1 } := by
  unfold State.sendSample
  simp only [hp, hg, hd, Bool.not_true, Bool.or_self, Bool.false_eq_true, if_false]
  split
  · next k v rest hq =>
    have hk : ¬ k < (s.region r).portNow := Nat.not_lt.mpr (ho (k, v) (by rw [hq]; exact List.mem_cons_self ..))
    rw [if_neg hk, State.fillOutput_of_due]
  · exact State.fillOutput_of_due

/-- A LOCKED region whose source misses a sample time goes into HOLDOVER (R16). -/
theorem State.miss_of_locked (hr : (s.region r).isRef = false) (hst : (s.region r).st = .locked)
    (hs : (s.region r).start = false) (hp : (s.region r).hasPort = false) :
    s.miss r = s.setRegion r { s.region r with
      st := .holdover, miss := 1, missN := (s.region r).missN + 1, samp := (s.region r).samp + 1 } := by
  have hnoFill : ∀ u : State, (u.region r).hasPort = false → u.fillSample r = u := by
    intro u hu
    unfold State.fillSample
    simp only [hu, Bool.not_false, if_true]
  unfold State.miss
  simp only [hr, hst, hs, Bool.false_eq_true, if_false]
  exact hnoFill _ (by rw [State.region_setRegion_self]; exact hp)

theorem State.missedTime_of_locked (hs : (s.region r).start = false) (hst : (s.region r).st = .locked)
    (hr : (s.region r).isRef = false) (hp : (s.region r).hasPort = false) (he : (s.region r).elastic = [])
    (hd : (s.region r).boundaryDue = false) (hearly : (s.region r).early = false) :
    s.missedTime r = s.setRegion r { s.region r with
      st := .holdover, miss := 1, missN := (s.region r).missN + 1, samp := (s.region r).samp + 1, outDue := false } := by
  have hout : s.outTurn r = s := State.sendSample_of_silent (.inl hp)
  have hhere : s.boundaryHere r = s := by
    unfold State.boundaryHere
    simp only [hs, hst, State.boundary_of_not_due hd, Bool.false_eq_true, if_false, reduceCtorEq, false_and]
  have hgo : ¬ ((s.region r).early = true ∨ ((s.region r).elastic ≠ [] ∧ (!(s.region r).stop) = true)) := by
    rw [hearly, he]; simp
  unfold State.missedTime
  simp only [hout]
  rw [if_neg hgo, hhere, State.miss_of_locked hr hst hs hp]
  unfold State.outDue
  rw [State.modRegion_eq, State.region_setRegion_self, State.setRegion_setRegion]
  exact congrArg (s.setRegion r) (by rw [Region.hasPort] at hp; simp only [Region.hasPort, hp, Bool.false_and])

end

/-! ### The energy bucket (R388 to R392) -/

/-- What the power entry shows of the bucket, and the memory. -/
def State.bucket (s : State) : Nat × BitVec 16 × Nat × Bool × Memory := (s.level, s.pwr, s.excess, s.grant, s.mem)

theorem State.bucket_mapRegions (s : State) (f : Region → Region) : (s.mapRegions f).bucket = s.bucket := rfl

theorem State.bucket_holdBoost (s : State) : s.holdBoost.bucket = s.bucket := by
  unfold State.holdBoost
  split
  · rfl
  · exact State.bucket_mapRegions _ _

theorem State.bucket_capTurn (s : State) (p : Nat) : (s.capTurn p).bucket = s.bucket := by
  unfold State.capTurn
  simp only []
  split
  · rfl
  · split
    · rfl
    · rfl

/-- The grant after the level has moved: dropped at a fall to the low threshold, given at a rise to the high one (R389). -/
theorem State.bucket_granted (s : State) (fell rose : Prop) [Decidable fell] [Decidable rose] :
    (if s.grant = true ∧ fell then s.dropBoost
      else if (!s.grant) = true ∧ rose then { s with grant := true } else s).bucket =
      (s.level, s.pwr, s.excess, if s.grant then !decide fell else decide rose, s.mem) := by
  by_cases hg : s.grant = true
  · by_cases hf : fell
    · simp only [hg, hf, and_self, if_true, decide_true, Bool.not_true]
      rfl
    · simp [hg, hf, State.bucket]
  · by_cases hr : rose
    · simp [hg, hr, State.bucket]
    · simp [hg, hr, State.bucket]

theorem State.bucket_bucketUpdate (s : State) (p : BitVec 16) (level : Nat) (fell rose : Bool)
    (hl : level = min 4800000000 (s.level + 3000 - p.toNat))
    (hf : fell = decide (level < s.level ∧ level ≤ s.low.toNat * 1000000))
    (hr : rose = decide (s.level < level ∧ s.high.toNat * 1000000 ≤ level)) :
    (s.bucketUpdate p).bucket =
      (level, p, s.excess + (p.toNat - (s.level + 3000)), if s.grant then !fell else rose, s.mem) := by
  subst hl hf hr
  unfold State.bucketUpdate
  simp only []
  rw [State.bucket_mapRegions, State.bucket_capTurn, State.bucket_holdBoost]
  exact State.bucket_granted { s with level := _, excess := _, pwr := p } _ _

theorem exec_periodBoundary (r : BitVec 5) (s : State) : exec (.periodBoundary r) s = .next (s.boundary r.toNat) := rfl

theorem exec_sampleArrival (a : Feed) (t : Word) (f : Nat) (vs : List (BitVec 32)) (s : State) :
    exec (.sampleArrival a t f vs) s = .next (s.sampleArrives t f vs a) := rfl

theorem exec_missedSampleTime (r : BitVec 5) (s : State) : exec (.missedSampleTime r) s = .next (s.missedTime r.toNat) := rfl

theorem exec_regionResumption (r : BitVec 5) (s : State) : exec (.regionResumption r) s = .next (s.resume r.toNat) := rfl

theorem exec_outputSampleTime (r : BitVec 5) (s : State) : exec (.outputSampleTime r) s = .next (s.sendSample r.toNat) := rfl

theorem exec_railSwitchEnd (r : BitVec 5) (s : State) : exec (.railSwitchEnd r) s = .next (s.railEnd r.toNat) := rfl

theorem exec_energyBucketUpdate (p : BitVec 16) (s : State) : exec (.energyBucketUpdate p) s = .next (s.bucketUpdate p) := rfl

theorem State.sampleArrives_edge (s : State) (t : Word) (f : Nat) (vs : List (BitVec 32)) (sel : BitVec 9) :
    s.sampleArrives t f vs (.edge sel) = if 0x100 ≤ sel.toNat then s.sourceArrives sel.toNat s.wall f 0 else s := rfl

theorem State.sampleArrives_packet (s : State) (t : Word) (f : Nat) (vs : List (BitVec 32)) (link : BitVec 1)
    (stream : BitVec 32) : s.sampleArrives t f vs (.packet link stream) = s.packetArrives link stream t f vs := rfl

/-- Settles O56: boundaries, arrivals, missed sample times, resumption, outputs, and the energy bucket. -/
theorem regionSteps : Obligations.RegionSteps := by
  intro s r g hg
  subst hg
  refine ⟨fun hd hs => ?_, fun hd hs => ?_,
    fun sel t time f v vs => ⟨fun hsel => ?_, fun hsel => ?_, fun h => ?_, fun h hs => ?_⟩,
    fun k e time f vs ps hr hk he hps hv hd => ⟨?_, fun link stream hn hdue => ?_⟩,
    fun hs _ hst hr hp he hd hearly => ?_, fun num den n hst hgood hf hn => ?_, fun k v rest hp hgate hd ho hk => ?_,
    fun hp hgate hd ho => ?_, fun h => ?_, exec_railSwitchEnd r s, fun p level fell rose hl hfell hrose => ?_⟩
  · rw [exec_periodBoundary, State.boundary_of_stop hd hs]
    rfl
  · obtain ⟨hmem, hclock⟩ := State.newPeriod_clock s r.toNat ((s.region r.toNat).period + 1)
    unfold Region.clock at hclock
    simp only [Prod.mk.injEq] at hclock
    obtain ⟨hperiod, hinto, hsamp, hcycle⟩ := hclock
    rw [exec_periodBoundary, State.boundary_of_go hd hs]
    exact ⟨_, rfl, hperiod, hinto, hsamp, hcycle, hmem⟩
  · rw [exec_sampleArrival, State.sampleArrives_edge, if_pos hsel]
    rfl
  · rw [exec_sampleArrival, State.sampleArrives_edge, if_neg (Nat.not_le.mpr hsel)]
  · exact State.arrival_of_frozen h
  · exact State.arrival_of_stopping h hs
  · rw [exec_sampleArrival, State.sampleArrives_packet, State.packetArrives_of_named hr hk he hps hv hd]
  · rw [exec_sampleArrival, State.sampleArrives_packet, State.packetArrives_of_unnamed hr hn hdue]
  · rw [exec_missedSampleTime, State.missedTime_of_locked hs hst hr hp he hd hearly]
  · subst hn
    rw [exec_regionResumption, State.resume_of_good hst hgood hf]
    rfl
  · rw [exec_outputSampleTime, State.sendSample_of_earlier hp hgate hd ho hk]
  · rw [exec_outputSampleTime, State.sendSample_of_fill hp hgate hd ho]
  · rw [exec_outputSampleTime, State.sendSample_of_silent h]
  · have h := State.bucket_bucketUpdate s p level fell rose hl hfell hrose
    unfold State.bucket at h
    simp only [Prod.mk.injEq] at h
    obtain ⟨hlevel, hpwr, hexcess, hgrant, hmem⟩ := h
    exact ⟨_, exec_energyBucketUpdate p s, hlevel, hpwr, hexcess, hgrant, hmem⟩

end Sys2Proof.Machine
end

section
/-!
The steps of hoists, of pending slot actions and of barrier instances (R70, R114, R119, R133, R134). Settles O48.
-/

namespace Sys2Proof.Machine

/-! ### A hoist that reaches its total (R119, R134) -/

/-- A live hoist at its total that may take one more slot action in this cycle. -/
theorem State.reaching_iff {s : State} {h : Hoist} : s.reaching h = true ↔
    h.installed ∧ h.armed ∧ h.err = false ∧ h.total ≤ s.hoistValue h ∧ h.pend.length < 256 ∧ h.held = false := by
  unfold State.reaching Hoist.live
  simp only [Bool.and_eq_true, decide_eq_true_eq, Bool.not_eq_true', and_assoc]

/-- A hoist after its reach: one reach more, disarmed or rearmed by its policy (R134). -/
def Hoist.afterReach (h : Hoist) : Hoist :=
  { h with
    reach := h.reach + 1
    armed := h.auto
    count := if h.auto && !h.contig then h.count - BitVec.ofNat 40 h.total else h.count }

/-- A reach before its action: the hoist and the W tags rearmed, the wake and the event noted, the DET records of the range
emptied. -/
def State.noteReach (s : State) (c : Nat) (res : BitVec 1) (k : Nat) (h : Hoist) : State :=
  (((if h.auto && h.contig then s.clearW h.home h.length else s).modCtx c res
    (fun x => (x.setHoist k h.afterReach).wake)).event c res 0x0F).detEmpty h.home h.length

/-- The action of a hoist that has reached (R119). -/
def State.reachAction (s : State) (c : Nat) (res : BitVec 1) (k : Nat) (h : Hoist) : State :=
  if h.action = 1 then s.modCtx c res (fun x => x.slotAction k (h.aop % 16) (s.now c))
  else if h.action = 2 then
    (if (s.ctx c res).dmem.getLsbD h.aop then s.arrive c res (BitVec.ofNat 3 h.aop) else s)
  else if h.action = 3 then s.modCtx c res (fun x => x.credit h.aop)
  else if h.action = 4 then s.pennant c res ⟨2, k, 0, 0⟩ 4 h.paddr h.pval []
  else s

section
variable {s : State} {c : Nat} {res : BitVec 1} {k : Nat}

theorem State.reachHoist_of_not_reaching
    (h : s.reaching ((s.ctx c res).hoist k) = false ∨ (s.ctx c res).saved = true) : s.reachHoist c res k = s := by
  have hstop : (!s.reaching ((s.ctx c res).hoist k) || (s.ctx c res).saved) = true := by
    rw [Bool.or_eq_true, Bool.not_eq_true']; exact h
  unfold State.reachHoist
  exact if_pos hstop

theorem State.reachHoist_of_reaching (h : s.reaching ((s.ctx c res).hoist k) = true)
    (hs : (s.ctx c res).saved = false) :
    s.reachHoist c res k =
      (s.noteReach c res k ((s.ctx c res).hoist k)).reachAction c res k ((s.ctx c res).hoist k) := by
  unfold State.reachHoist State.reachAction
  simp only [h, hs, Bool.not_true, Bool.or_self, Bool.false_eq_true, if_false]
  split
  · next ha => rw [if_pos ha]; rfl
  · next ha => simp only [ha, Nat.reduceEqDiff, if_false, if_true]; rfl
  · next ha => simp only [ha, Nat.reduceEqDiff, if_false, if_true]; rfl
  · next ha => simp only [ha, Nat.reduceEqDiff, if_false, if_true]; rfl
  · next h1 h2 h3 h4 => rw [if_neg h1, if_neg h2, if_neg h3, if_neg h4]; rfl

/-! ### Pending slot actions (R114) -/

/-- A step that changes nothing changes nothing in a stopped region either. -/
theorem State.clocked_of_fixed {f : State → State} (h : f s = s) : s.clocked c f = s := by
  unfold State.clocked; rw [h, ite_self]

theorem State.releaseSlots_of_none {r : Nat} (h : ((s.ctx c res).ring r).relNow = 0) : s.releaseSlots c res r = s := by
  unfold State.releaseSlots
  exact if_pos h

theorem State.releaseSlots_of_some {r : Nat} (h : ((s.ctx c res).ring r).relNow ≠ 0) :
    s.releaseSlots c res r = s.modCtx c res (fun x =>
      (x.setRing r { (s.ctx c res).ring r with relNow := 0 }).release r ((s.ctx c res).ring r).relNow) := by
  unfold State.releaseSlots
  exact if_neg h

/-! ### Barrier instances (R70, R133) -/

section
variable {sc : BitVec 3} {afar : List Afar} {d : Domain}

theorem State.barrierComplete_of_no_domain (h : s.domainOf (s.ctx c res).lid c sc = none) :
    s.barrierComplete c res sc afar = s := by
  unfold State.barrierComplete; rw [h]

theorem State.barrierComplete_of_waiting (hd : s.domainOf (s.ctx c res).lid c sc = some d)
    (h : d.others ≠ afar.length ∨ s.domainReady d = false) : s.barrierComplete c res sc afar = s := by
  unfold State.barrierComplete
  simp only [hd]
  refine if_neg (fun hgo => ?_)
  rw [Bool.and_eq_true, decide_eq_true_eq] at hgo
  obtain ⟨hothers, hready⟩ := hgo
  rcases h with h | h
  · exact h hothers
  · exact Bool.false_ne_true (h.symm.trans hready)

theorem State.barrierComplete_of_ready (hd : s.domainOf (s.ctx c res).lid c sc = some d) (ho : d.others = afar.length)
    (hr : s.domainReady d = true) : s.barrierComplete c res sc afar = s.completeDomain d afar := by
  unfold State.barrierComplete
  simp only [hd, ho, hr, decide_true, Bool.and_self, if_true]

end

end

/-! ### What the constructors of these steps mean -/

theorem exec_hoistReach (core : BitVec 10) (res : BitVec 1) (k : BitVec 5) (s : State) :
    exec (.hoistReach core res k) s = .next (s.reachHoist core.toNat res k.toNat) := rfl

theorem exec_pendingSlotActionRelease (core : BitVec 10) (res : BitVec 1) (r : BitVec 4) (s : State) :
    exec (.pendingSlotActionRelease core res r) s =
      .next (s.clocked core.toNat (fun s => s.releaseSlots core.toNat res r.toNat)) := rfl

theorem exec_barrierCompletion (core : BitVec 10) (res : BitVec 1) (e : BarEnd) (s : State) :
    exec (.barrierCompletion core res e) s = .next (s.barrierComplete core.toNat res e.scope e.afar) := rfl

/-- Settles O48: the reach of a hoist, the slot actions a ring lets go, and the completion of a barrier instance. -/
theorem hoistSteps : Obligations.HoistSteps := by
  intro s core res k r sc afar c h hc hh
  subst hc hh
  refine ⟨fun u hu => ?_, fun g hg => ?_, fun hnone => ?_, fun d hd => ⟨fun hwait => ?_, fun ho hr => ?_⟩⟩
  · rw [exec_hoistReach]
    split
    · next hstop =>
      rw [← State.reaching_iff, Bool.not_eq_true] at hstop
      rw [State.reachHoist_of_not_reaching hstop]
    · next hgo =>
      rw [← State.reaching_iff, not_or, not_not, Bool.not_eq_true] at hgo
      obtain ⟨hreach, hsaved⟩ := hgo
      rw [State.reachHoist_of_reaching hreach hsaved, hu]
      rfl
  · subst hg
    rw [exec_pendingSlotActionRelease]
    split
    · next hnot =>
      rcases hnot with hstopped | hnone
      · rw [State.clocked_of_stopped _ hstopped]
      · rw [State.clocked_of_fixed (State.releaseSlots_of_none hnone)]
    · next hdue =>
      rw [not_or, Bool.not_eq_false] at hdue
      obtain ⟨hruns, hsome⟩ := hdue
      rw [State.clocked_of_runs _ hruns, State.releaseSlots_of_some hsome]
  · rw [exec_barrierCompletion, State.barrierComplete_of_no_domain hnone]
  · rw [exec_barrierCompletion, State.barrierComplete_of_waiting hd hwait]
  · rw [exec_barrierCompletion, State.barrierComplete_of_ready hd ho hr]

end Sys2Proof.Machine
end

section
/-!
Memory and its writes (R101, R406, R408): what reads give, and what every step keeps. Settles O4 and O6.
-/

namespace Sys2Proof.Machine

/-! ### Losses of contents -/

/-- A filter on keys keeps the bytes under the keys that it keeps. -/
theorem Memory.read_filter_of_keeps {m : Memory} {lo k : Nat} (p : Nat → Bool) (w : Memory.wfFrom lo m = true)
    (h : p k = true) : Memory.read (m.filter (fun c => p c.1)) k = m.read k := by
  induction m generalizing lo with
  | nil => rfl
  | cons c t ih =>
    obtain ⟨j, b⟩ := c
    simp only [Memory.wfFrom, Bool.and_eq_true, decide_eq_true_eq] at w
    obtain ⟨_, wt⟩ := w
    have ih := ih wt
    by_cases hj : p j = true
    · rw [List.filter_cons_of_pos (p := fun c : Host.Cell => p c.1) hj]
      simp only [Memory.read, ih]
    · have hne : k ≠ j := fun e => hj (e ▸ h)
      rw [List.filter_cons_of_neg (p := fun c : Host.Cell => p c.1) hj, ih]
      simp only [Memory.read, if_neg hne]
      split
      · exact Memory.read_below_lo wt (by omega)
      · rfl

/-- A byte that a loss of contents leaves reads as before it. -/
theorem Memory.read_lose_of_keeps {m : Memory} {k : Nat} {w : Wipe} (hm : m.wf = true) (h : w.keeps k = true) :
    (m.lose w).read k = m.read k := by
  cases w with
  | none => rfl
  | package => exact Memory.read_filter_of_keeps _ hm h
  | supplies => exact Memory.read_filter_of_keeps _ hm h
  | vaults => exact Memory.read_filter_of_keeps _ hm h

/-! ### The end of a step -/

/-- The state that a step's writes apply to: the input taken, or the next cycle, and the time that passes. -/
def State.beforeCommit (s : State) : State :=
  (match s.inputs with
    | e :: rest => State.input { s with inputs := rest } e
    | [] => s.free1).passes

theorem step_eq_commit (s : State) : step s = .next (s.beforeCommit.commit s.mem) := by
  unfold State.beforeCommit
  cases h : s.inputs with
  | nil => exact step_of_no_input h
  | cons e rest => exact step_of_input h

/-- The end of a step that began with memory in its canonical form leaves it so, and no write behind. -/
theorem State.commit_sound {m : Memory} (u : State) (hm : m.wf = true) : (u.commit m).Sound :=
  ⟨Memory.apply_wf _ (Memory.lose_wf _ hm), rfl, rfl⟩

theorem State.read_commit {m : Memory} {u : State} {key : Nat} (hm : m.wf = true)
    (hw : ∀ w ∈ u.wlog, key < w.key ∨ w.key + w.bytes.length ≤ key) (hk : u.wipe.keeps key = true) :
    Memory.read (u.commit m).mem key = Memory.read m key :=
  (Memory.read_apply_outside (Memory.lose_wf u.wipe hm) hw).trans (Memory.read_lose_of_keeps hm hk)

/-- Settles O4: whatever a step does, its end applies the writes to the memory that the step began with. -/
theorem stepsKeepSound : Obligations.StepsKeepSound := by
  intro s hs
  obtain ⟨hm, _, _⟩ := hs
  exact ⟨s.beforeCommit.commit s.mem, step_eq_commit s, State.commit_sound _ hm, fun _ hw hk => State.read_commit hm hw hk⟩

/-! ### Reads after writes -/

theorem Memory.read_writeList_inside {m : Memory} {a k : Nat} {bs : List Byte} {b : Byte} (hm : m.wf = true)
    (h : bs[k]? = some b) : (m.writeList a bs).read (a + k) = b := by
  obtain ⟨hk, rfl⟩ := List.getElem?_eq_some_iff.mp h
  rw [Memory.read_writeList _ _ _ hm, if_pos (by omega), Nat.add_sub_cancel_left, List.getD_eq_getElem _ _ hk]

theorem Memory.read_writeList_outside {m : Memory} {a key : Nat} {bs : List Byte} (hm : m.wf = true)
    (h : key < a ∨ a + bs.length ≤ key) : (m.writeList a bs).read key = m.read key := by
  rw [Memory.read_writeList _ _ _ hm, if_neg (by omega)]

/-- The last write of a cycle applies to what the ones before it left. -/
theorem Memory.apply_snoc (m : Memory) (ws : List Write) (w : Write) :
    Memory.apply m (ws ++ [w]) = (Memory.apply m ws).writeList w.key w.bytes := by
  unfold Memory.apply; rw [List.foldl_append]; rfl

/-- Settles O6: bytes written read back, the last write of a cycle wins, and a read of several bytes reads each. -/
theorem memoryReads : Obligations.MemoryReads := by
  intro m a n bs ws w hm
  refine ⟨Memory.writeList_wf a bs hm, fun k b h => Memory.read_writeList_inside hm h,
    fun key h => Memory.read_writeList_outside hm h, fun k b h => ?_, ?_, fun k hk => ?_⟩
  · rw [Memory.apply_snoc]
    exact Memory.read_writeList_inside (Memory.apply_wf ws hm) h
  · rw [Memory.bytes_read a n hm, List.length_map, List.length_range]
  · rw [Memory.bytes_read a n hm, List.getElem?_map, List.getElem?_range hk, Option.map_some]

end Sys2Proof.Machine
end

section
/-!
Near accesses in the cycle in which they perform (R101, R209, R216). Settles O18.
-/

namespace Sys2Proof.Machine

/-! ### What a step keeps when it touches memory -/

/-- A step of a cycle that leaves memory, the collected writes, the cycle counts, and the queued writes and the stored registers
of every context as they are. -/
structure State.Quiet (s t : State) : Prop where
  mem : t.mem = s.mem
  wlog : t.wlog = s.wlog
  now : ∀ c, t.now c = s.now c
  writes : ∀ c r, (t.ctx c r).writes = (s.ctx c r).writes
  g : ∀ c r, (t.ctx c r).g = (s.ctx c r).g
  v : ∀ c r, (t.ctx c r).v = (s.ctx c r).v

theorem State.now_of {s t : State} (hc : t.clusters = s.clusters) (hr : t.regions = s.regions) (c : Nat) : t.now c = s.now c := by
  unfold State.now State.regOf State.regionOf State.regionOfCluster State.region
  rw [hc, hr]

/-- A part of a context that records and events do not change. -/
theorem Ctx.noted.keeps {α : Type} {x y : Ctx} (h : x.noted y) (π : Ctx → α)
    (hπ : ∀ x y : Ctx, π { x with
      unrep := y.unrep, lostN := y.lostN, lostCode := y.lostCode, lostAt := y.lostAt, fqOvf := y.fqOvf, fqCount := y.fqCount
      seqNo := y.seqNo, evs := y.evs } = π x) : π y = π x := by
  unfold Ctx.noted at h
  rw [h, hπ]

theorem State.noted.quiet {s t : State} (h : s.noted t) (hc : t.clusters = s.clusters) : s.Quiet t where
  mem := h.mem
  wlog := h.wlog
  now := State.now_of hc h.regions
  writes c r := (h.ctxs c r).keeps Ctx.writes (fun _ _ => rfl)
  g c r := (h.ctxs c r).keeps Ctx.g (fun _ _ => rfl)
  v c r := (h.ctxs c r).keeps Ctx.v (fun _ _ => rfl)

theorem State.Quiet.refl (s : State) : s.Quiet s :=
  ⟨rfl, rfl, fun _ => rfl, fun _ _ => rfl, fun _ _ => rfl, fun _ _ => rfl⟩

theorem State.Quiet.trans {s t u : State} (h : s.Quiet t) (k : t.Quiet u) : s.Quiet u where
  mem := k.mem.trans h.mem
  wlog := k.wlog.trans h.wlog
  now c := (k.now c).trans (h.now c)
  writes c r := (k.writes c r).trans (h.writes c r)
  g c r := (k.g c r).trans (h.g c r)
  v c r := (k.v c r).trans (h.v c r)

theorem State.Quiet.foldl {α : Type} {f : State → α → State} (h : ∀ (s : State) a, s.Quiet (f s a)) (l : List α) (s : State) :
    s.Quiet (l.foldl f s) := by
  induction l generalizing s with
  | nil => exact .refl s
  | cons a l ih => exact (h s a).trans (ih _)

/-! ### Guard touches and the errors of what is read (R106, R367) -/

@[simp] theorem State.clusters_modCtx (s : State) (c : Nat) (res : BitVec 1) (f : Ctx → Ctx) :
    (s.modCtx c res f).clusters = s.clusters := rfl

theorem State.clusters_send (s : State) (m : Msg) : (s.send m).clusters = s.clusters := by
  unfold State.send
  split
  · rfl
  · split <;> rfl

theorem State.clusters_storeRecord {s t : State} {c : Nat} {res : BitVec 1} {n : Nat} {b : BitVec 512}
    (h : s.storeRecord c res n b = some t) : t.clusters = s.clusters := by
  unfold State.storeRecord at h
  simp only at h
  split at h
  · cases h
  · cases h; exact State.clusters_send ..

theorem State.clusters_getD {s u : State} {o : Option State} (hu : u.clusters = s.clusters)
    (h : ∀ t, o = some t → t.clusters = s.clusters) : (o.getD u).clusters = s.clusters := by
  cases o with
  | none => exact hu
  | some t => exact h t rfl

theorem State.clusters_record (s : State) (c : Nat) (res : BitVec 1) (f : FaultRec) (key : Nat) :
    (s.record c res f key).clusters = s.clusters := by
  unfold State.record
  simp only
  split
  · exact State.clusters_getD (State.clusters_modCtx ..) (fun t h =>
      (State.clusters_storeRecord h).trans (State.clusters_modCtx ..))
  · split
    · exact State.clusters_modCtx ..
    · split
      · exact State.clusters_modCtx ..
      · rename_i t h
        exact (State.clusters_modCtx ..).trans (State.clusters_storeRecord h)

theorem State.quiet_record (s : State) (c : Nat) (res : BitVec 1) (f : FaultRec) (key : Nat) : s.Quiet (s.record c res f key) :=
  (State.noted_record ..).quiet (State.clusters_record ..)

theorem State.quiet_coreEvent (s : State) (c code : Nat) : s.Quiet (s.coreEvent c code) :=
  (State.noted_coreEvent ..).quiet rfl

theorem State.quiet_touchGuard (s : State) (a : Agent) (key len : Nat) : s.Quiet (s.touchGuard a key len) := by
  unfold State.touchGuard
  refine .foldl (fun s g => ?_) _ s
  split
  · exact .refl s
  · split
    · exact State.quiet_record ..
    · exact .refl s

theorem State.quiet_touchEcc (s : State) (a : Agent) (key len : Nat) : s.Quiet (s.touchEcc a key len) := by
  unfold State.touchEcc
  refine .foldl (fun s e => ?_) _ s
  split
  · exact .refl s
  · split
    · exact State.quiet_record ..
    · split
      · exact State.quiet_coreEvent ..
      · split
        · exact State.quiet_coreEvent ..
        · exact .refl s

theorem State.quiet_touchRead (s : State) (a : Agent) (key len : Nat) : s.Quiet (s.touchRead a key len) :=
  (State.quiet_touchGuard s a key len).trans (State.quiet_touchEcc ..)

/-! ### Bytes put where they perform (R105, R118) -/

/-- A change of every context changes the contexts of a core alike, or that core holds no state. -/
theorem State.ctx_mapCtx (s : State) (f : Ctx → Ctx) (c : Nat) (r : BitVec 1) :
    (s.mapCtx f).ctx c r = f (s.ctx c r) ∨ (s.mapCtx f).ctx c r = s.ctx c r := by
  have h : (s.mapCtx f).core c = { s.core c with a := f (s.core c).a, b := f (s.core c).b } ∨ (s.mapCtx f).core c = s.core c := by
    unfold State.core State.mapCtx
    induction s.cores with
    | nil => exact .inr rfl
    | cons p t ih =>
      simp only [List.map_cons, Table.get]
      split
      · exact .inl rfl
      · exact ih
  unfold State.ctx
  rcases h with h | h
  · rw [h]
    refine .inl ?_
    unfold Core.ctx
    split <;> rfl
  · rw [h]; exact .inr rfl

theorem State.ctx_mapCtx_keeps {α : Type} {f : Ctx → Ctx} (π : Ctx → α) (h : ∀ x, π (f x) = π x) (s : State) (c : Nat)
    (r : BitVec 1) : π ((s.mapCtx f).ctx c r) = π (s.ctx c r) := by
  rcases State.ctx_mapCtx s f c r with e | e
  · rw [e, h]
  · rw [e]

theorem State.quiet_countBytes (s : State) (key len : Nat) : s.Quiet (s.countBytes key len) := by
  unfold State.countBytes
  refine ⟨rfl, rfl, fun _ => rfl, State.ctx_mapCtx_keeps Ctx.writes ?_ s, State.ctx_mapCtx_keeps Ctx.g ?_ s,
    State.ctx_mapCtx_keeps Ctx.v ?_ s⟩ <;> (intro x; split <;> rfl)

theorem State.quiet_setGtag (s : State) (key : Nat) (t : GTag) : s.Quiet (s.setGtag key t) :=
  ⟨rfl, rfl, fun _ => rfl, fun _ _ => rfl, fun _ _ => rfl, fun _ _ => rfl⟩

theorem State.quiet_markW (s : State) (key len : Nat) : s.Quiet (s.markW key len) := by
  unfold State.markW
  refine .foldl (fun s g => ?_) _ s
  split
  · exact State.quiet_setGtag ..
  · exact .refl s

/-- Bytes put add one write to those of the cycle; nothing that reads see changes. -/
theorem State.quiet_put (s : State) (key : Nat) (bs : List Byte) : (s.putRaw key bs).Quiet (s.put key bs) :=
  (State.quiet_markW (s.putRaw key bs) key bs.length).trans (State.quiet_countBytes ..)

theorem State.wlog_put (s : State) (key : Nat) (bs : List Byte) : (s.put key bs).wlog = s.wlog ++ [⟨key, bs⟩] :=
  (State.quiet_put s key bs).wlog

/-! ### The register write of a near access -/

/-- A near access that a trap does not hold back queues its register write for the cycle in which it performs. -/
theorem State.landed_of_no_hold (s : State) (c : Nat) {t : Timed} (r : Reg) (v : Nat) (h : t.hold = .no) :
    s.landed c t r v = s.modCtx c t.res (fun x => { x with
      writes := x.writes ++ [⟨r, BitVec.ofNat 4096 v, BitVec.allOnes 4096, 0, false, s.now c, t.seq, t.slot, s.now c⟩] }) := by
  unfold State.landed; rw [h]

/-! ### Near accesses performed -/

variable {s : State} {c : Nat} {t : Timed}

theorem State.performAct_store {off : Nat} {bs : List Byte} (h : t.act = .store off bs) :
    s.performAct c t = (s.touchGuard (t.agent c) (vaultKey c off) bs.length).put (vaultKey c off) bs := by
  unfold State.performAct; rw [h]

theorem State.performAct_load {r : Reg} {off n sext : Nat} (h : t.act = .load r [(off, n)] sext) :
    s.performAct c t = (s.touchRead (t.agent c) (vaultKey c off) n).landed c t r
      (if sext = 0 then leNat (s.sample (vaultKey c off) n) else (loadWord sext (s.sample (vaultKey c off) n)).toNat) := by
  unfold State.performAct
  simp only [h, State.readPieces, List.append_nil]

theorem State.performAct_atomic {op : BitVec 5} {r : BitVec 6} {off : Nat} {y z : Word} (h : t.act = .atomic op r off y z) :
    s.performAct c t =
      let a := (s.touchRead (t.agent c) (vaultKey c off) (atomicSize op)).atomicAt op (vaultKey c off) y z
      a.2.landed c t (.g r) a.1.toNat := by
  unfold State.performAct; rw [h]

/-- An atomic reads through the writes before it in the cycle, and adds its own when its operation writes (R215, R216). -/
theorem State.atomicAt_eq (s : State) (op : BitVec 5) (key : Nat) (y z : Word) :
    s.atomicAt op key y z =
      let old := BitVec.ofNat 64 (leNat ((Memory.apply s.mem s.wlog).bytes key (atomicSize op)))
      (old, if (atomicOp op old y z).2 then s.put key (numBytes (atomicSize op) (atomicOp op old y z).1.toNat) else s) := rfl

/-- The register write that a near access queues after steps of the cycle that leave its context's writes as they are. -/
theorem State.landed_lands {u : State} (h : t.hold = .no) (hn : u.now c = s.now c)
    (hw : (u.ctx c t.res).writes = (s.ctx c t.res).writes) (r : Reg) (v : Nat) :
    ∃ w : RegWrite, ((u.landed c t r v).ctx c t.res).writes = (s.ctx c t.res).writes ++ [w] ∧
      w.reg = r ∧ w.value = BitVec.ofNat 4096 v ∧ w.mask = BitVec.allOnes 4096 ∧ w.flags = 0 ∧ w.due = s.now c ∧
      w.seq = t.seq := by
  refine ⟨⟨r, BitVec.ofNat 4096 v, BitVec.allOnes 4096, 0, false, s.now c, t.seq, t.slot, s.now c⟩, ?_,
    rfl, rfl, rfl, rfl, rfl, rfl⟩
  rw [State.landed_of_no_hold _ _ _ _ h, State.ctx_modCtx_self, hn, hw]

theorem State.mem_landed (u : State) (r : Reg) (v : Nat) : (u.landed c t r v).mem = u.mem := rfl

theorem State.wlog_landed (u : State) (r : Reg) (v : Nat) : (u.landed c t r v).wlog = u.wlog := rfl

/-- Settles O18: a near store adds its write, a near load brings what memory held, a near atomic does both. -/
theorem nearAccessesPerform : Obligations.NearAccessesPerform := by
  intro s c t hh
  refine ⟨fun off bs h => ?_, fun r off n sext h => ?_, fun op r off y z h => ?_⟩
  · have hg := State.quiet_touchGuard s (t.agent c) (vaultKey c off) bs.length
    have hp := State.quiet_put (s.touchGuard (t.agent c) (vaultKey c off) bs.length) (vaultKey c off) bs
    rw [State.performAct_store h]
    exact ⟨hp.mem.trans hg.mem, by rw [State.wlog_put, hg.wlog], fun res =>
      ⟨(hp.writes c res).trans (hg.writes c res), (hp.g c res).trans (hg.g c res), (hp.v c res).trans (hg.v c res)⟩⟩
  · have hr := State.quiet_touchRead s (t.agent c) (vaultKey c off) n
    rw [State.performAct_load h]
    exact ⟨hr.mem, hr.wlog, State.landed_lands hh (hr.now c) (hr.writes c t.res) r _⟩
  · have hr := State.quiet_touchRead s (t.agent c) (vaultKey c off) (atomicSize op)
    rw [State.performAct_atomic h, State.atomicAt_eq, hr.mem, hr.wlog]
    simp only [State.mem_landed, State.wlog_landed]
    split
    · have hp := State.quiet_put (s.touchRead (t.agent c) (vaultKey c off) (atomicSize op)) (vaultKey c off)
        (numBytes (atomicSize op) (atomicOp op (BitVec.ofNat 64 (leNat ((Memory.apply s.mem s.wlog).bytes (vaultKey c off)
          (atomicSize op)))) y z).1.toNat)
      exact ⟨State.landed_lands hh ((hp.now c).trans (hr.now c)) ((hp.writes c t.res).trans (hr.writes c t.res)) _ _,
        hp.mem.trans hr.mem, by rw [State.wlog_put, hr.wlog]⟩
    · exact ⟨State.landed_lands hh (hr.now c) (hr.writes c t.res) _ _, hr.mem, by rw [hr.wlog, List.append_nil]⟩

end Sys2Proof.Machine
end

section
/-!
The checks of a bundle of one word (R99, R142, R149, R300): the trap that takes its place. Settles O16 and O58.
-/

namespace Sys2Proof.Machine

/-! ### The waits of an earlier bundle are not seen by steps 5 to 8 -/


/-- A context with other BAR and TLBI waits (R220, R347). -/
def Ctx.waiting (x y : Ctx) : Ctx := { x with barWait := y.barWait, tlbiWait := y.tlbiWait }

theorem Ctx.freshWaits_eq (x : Ctx) : x.freshWaits = x.waiting x.freshWaits := by
  unfold Ctx.freshWaits Ctx.waiting; split <;> rfl

section
variable (s : State) (c : Nat) (res : BitVec 1)

theorem Core.tlb_setCtx (k : Core) (x : Ctx) : (k.setCtx res x).tlb = k.tlb := by unfold Core.setCtx; split <;> rfl

theorem State.tlb_modCtx (d : Nat) (f : Ctx → Ctx) : ((s.modCtx c res f).core d).tlb = (s.core d).tlb := by
  by_cases h : d = c
  · rw [h, State.core_modCtx, Core.tlb_setCtx]
  · unfold State.modCtx State.setCtx; rw [State.core_setCore_other _ _ h]

theorem State.tlbFind_modCtx (f : Ctx → Ctx) (d pn : Nat) (asid : BitVec 16) (va : Word) :
    (s.modCtx c res f).tlbFind d pn asid va = s.tlbFind d pn asid va := by
  unfold State.tlbFind; rw [State.tlb_modCtx]; rfl

theorem State.walkFrom_modCtx (f : Ctx → Ctx) (p : Partition) (va n t : Nat) :
    (s.modCtx c res f).walkFrom p va n t = s.walkFrom p va n t := by
  induction n generalizing t with
  | zero => rfl
  | succ n ih => unfold State.walkFrom; simp only [ih]; rfl

theorem State.resolve_modCtx (f : Ctx → Ctx) (d : Nat) (x y : Ctx) (va : Word) (acc : Acc) :
    (s.modCtx c res f).resolve d (x.waiting y) va acc = s.resolve d x va acc := by
  unfold State.resolve State.xlat State.walk
  simp only [State.tlbFind_modCtx, State.walkFrom_modCtx]
  rfl

/-- A context of which the waits of an earlier bundle have gone. -/
theorem State.ctx_freshWaits : (s.modCtx c res Ctx.freshWaits).ctx c res = (s.ctx c res).waiting (s.ctx c res).freshWaits := by
  rw [State.ctx_modCtx_self]; exact Ctx.freshWaits_eq _

theorem State.xbindOk_freshWaits (a b : Word) : (s.modCtx c res Ctx.freshWaits).xbindOk c res a b = s.xbindOk c res a b := by
  unfold State.xbindOk
  rw [State.ctx_freshWaits]
  rfl


theorem State.badNow_congr {u s : State} {c : Nat} {res : BitVec 1} {x y : Ctx} (hs : s.ctx c res = x)
    (hu : u.ctx c res = x.waiting y) (hx : ∀ a b, u.xbindOk c res a b = s.xbindOk c res a b)
    (hc : ∀ a, u.crossOk c a = s.crossOk c a)
    (hr : ∀ va, u.resolve c (x.waiting y) va .store = s.resolve c x va .store) (i : Instr) :
    u.badNow c res i = s.badNow c res i := by
  cases i <;> unfold State.badNow <;> simp only [hs, hu, hx, hc]
  case std d a o => 
    have he : (x.waiting y).ea a o 8 = x.ea a o 8 := rfl
    rw [he, hr]; rfl
  all_goals rfl

theorem State.badNow_freshWaits (s : State) (c : Nat) (res : BitVec 1) (i : Instr) :
    (s.modCtx c res Ctx.freshWaits).badNow c res i = s.badNow c res i :=
  State.badNow_congr rfl (State.ctx_freshWaits ..) (State.xbindOk_freshWaits s c res) (fun _ => rfl)
    (fun _ => State.resolve_modCtx ..) i

variable (s : State) (c : Nat) (res : BitVec 1)

theorem State.step5_freshWaits (ws : List BWord) : (s.modCtx c res Ctx.freshWaits).step5 c res ws = s.step5 c res ws := by
  unfold State.step5
  simp only [State.badNow_freshWaits, State.ctx_freshWaits]
  rfl

theorem State.step6_freshWaits (ws : List BWord) : (s.modCtx c res Ctx.freshWaits).step6 c res ws = s.step6 c res ws := by
  unfold State.step6
  rw [State.ctx_freshWaits]
  rfl

/-- Steps 5 to 7 of a bundle of one word do not see the waits that an earlier bundle left. -/
theorem State.steps57_freshWaits (w : BWord) :
    (s.modCtx c res Ctx.freshWaits).steps57 c res [w] = s.steps57 c res [w] := by
  unfold State.steps57
  simp only [State.step5_freshWaits, State.step6_freshWaits, State.ctx_freshWaits]
  rfl

end

/-! ### A trap in the place of a bundle -/

/-- Every instruction word runs its meaning through `issue`. -/
theorem exec_eq_issue {i : Instr} (h : isEvent i = false) : ∃ k, ∀ s, exec i s = issue i s k := by
  cases i
  all_goals try exact absurd (show true = false from h) (by decide)
  all_goals exact ⟨_, fun _ => rfl⟩

theorem State.clears_of_trap {s : State} {c : Nat} {res : BitVec 1} {is : List Instr} {q : Trap}
    (h : (s.modCtx c res Ctx.freshWaits).check c res (mkBundle 0 is) = .trap q) :
    s.clears c res is = (((s.modCtx c res Ctx.freshWaits).failMet c res is q).takeTrap c res (s.now c) q, false) := by
  unfold State.clears
  simp only [h, State.now_modCtx]

/-- A word alone whose checks fail takes their trap in its place. -/
theorem exec_of_check_trap {s : State} {i : Instr} {q : Trap} (hi : isEvent i = false) (hb : s.bundle = none)
    (ha : s.asyncTrap s.me s.res = none)
    (h : (s.modCtx s.me s.res Ctx.freshWaits).check s.me s.res (mkBundle 0 [i]) = .trap q) :
    exec i s = .next (((s.modCtx s.me s.res Ctx.freshWaits).failMet s.me s.res [i] q).takeTrap s.me s.res (s.now s.me) q) := by
  obtain ⟨k, hk⟩ := exec_eq_issue hi
  rw [hk]
  unfold issue State.single
  simp only [hb, ha, State.clears_of_trap h, Option.isSome_none, Bool.false_eq_true, if_false]

/-! ### A trap leaves memory and the collected writes alone -/

/-- Memory and the writes of the cycle. -/
def State.stored (s : State) : Memory × List Write := (s.mem, s.wlog)

theorem State.stored_record (s : State) (c : Nat) (res : BitVec 1) (f : FaultRec) (key : Nat) :
    (s.record c res f key).stored = s.stored :=
  Prod.ext (State.noted_record s c res f key).mem (State.noted_record s c res f key).wlog

theorem State.stored_modCtx (s : State) (c : Nat) (res : BitVec 1) (f : Ctx → Ctx) : (s.modCtx c res f).stored = s.stored := rfl

theorem State.stored_halt (s : State) (c : Nat) (res : BitVec 1) (pc addr : Word) (code cause : BitVec 8) :
    (s.halt c res pc addr code cause).stored = s.stored := by
  unfold State.halt
  rw [State.stored_modCtx]
  split
  · exact State.stored_record ..
  · exact State.stored_record ..

theorem State.stored_shadow (s : State) (c : Nat) (res : BitVec 1) (t : Nat) : (s.shadow c res t).stored = s.stored := rfl

theorem State.stored_event (s : State) (c : Nat) (res : BitVec 1) (code : Nat) : (s.event c res code).stored = s.stored := rfl

theorem State.stored_takeTrap (s : State) (c : Nat) (res : BitVec 1) (t : Nat) (q : Trap) :
    (s.takeTrap c res t q).stored = s.stored := by
  unfold State.takeTrap
  simp only
  split
  · exact State.stored_halt ..
  · cases q.record with
    | none =>
      split
      · rw [State.stored_halt, State.stored_modCtx, State.stored_shadow, State.stored_event]
      · rw [State.stored_modCtx, State.stored_shadow, State.stored_event]
    | some f =>
      split
      · rw [State.stored_halt, State.stored_modCtx, State.stored_shadow, State.stored_event, State.stored_record]
      · rw [State.stored_modCtx, State.stored_shadow, State.stored_event, State.stored_record]

theorem State.stored_failMet (s : State) (c : Nat) (res : BitVec 1) (is : List Instr) (q : Trap) :
    (s.failMet c res is q).stored = s.stored := rfl

/-- A word alone whose checks fail leaves memory and the writes of the cycle alone. -/
theorem stored_of_check_trap {s : State} {c : Nat} {res : BitVec 1} {is : List Instr} {q : Trap} {n : Nat} :
    (((s.modCtx c res Ctx.freshWaits).failMet c res is q).takeTrap c res n q).stored = s.stored := by
  rw [State.stored_takeTrap, State.stored_failMet, State.stored_modCtx]

/-! ### Step 8 of a misaligned access (R99) -/

section
variable {s : State} {c : Nat} {res : BitVec 1} {x : Ctx}

theorem Ctx.stream_of_none (h : x.streams = []) (n : Nat) : x.stream n = Stream.none := by
  unfold Ctx.stream; rw [h]; rfl

theorem Ctx.streamFail_of_none (h : x.streams = []) (i : Instr) : x.streamFail i = none := by
  unfold Ctx.streamFail
  rw [List.findSome?_eq_none_iff]
  intro n _
  rw [Ctx.stream_of_none h]; rfl

theorem State.streamXlat_of_none (h : (s.ctx c res).streams = []) (pc : Word) (before : List BWord) (w : BWord) :
    s.streamXlat c res pc before w = none := by
  have hb : Stream.none.bound = false := rfl
  unfold State.streamXlat
  simp only [Ctx.stream_of_none h, hb, Bool.not_false, Bool.true_or, if_true]
  rw [List.findSome?_eq_none_iff.mpr (fun _ _ => rfl), List.findSome?_eq_none_iff.mpr (fun _ _ => rfl)]
  rfl

/-- The address of an access that its alignment is checked at first: that of a gather's index vector, or the first one. -/
def SlotAcc.base (t : SlotAcc) (x : Ctx) : Instr → Word
  | .vldx _ a o => x.ea a o 512
  | _ => (t.segs.headD (0, 0)).1

/-- The first misaligned address of an access, if there is one. -/
def SlotAcc.misaligned (t : SlotAcc) (x : Ctx) (i : Instr) : Option Word :=
  if (t.base x i).toNat % t.align ≠ 0 then some (t.base x i)
  else (t.segs.find? (fun g => g.1.toNat % t.align ≠ 0)).map (fun g => g.1)

theorem SlotAcc.mod_of_misaligned {t : SlotAcc} {i : Instr} {va : Word} (h : t.misaligned x i = some va) :
    va.toNat % t.align ≠ 0 := by
  unfold SlotAcc.misaligned at h
  split at h
  · cases h; assumption
  · obtain ⟨g, hg, rfl⟩ := Option.map_eq_some_iff.mp h
    simpa using List.find?_some hg

theorem SlotAcc.base_of_not_gather {t : SlotAcc} {i : Instr} (h : ∀ d a o, i ≠ .vldx d a o) :
    t.base x i = (t.segs.headD (0, 0)).1 := by
  unfold SlotAcc.base
  split
  · exact absurd rfl (h _ _ _)
  · rfl

theorem SlotAcc.misaligned_of_base {t : SlotAcc} {i : Instr} (h : (t.base x i).toNat % t.align ≠ 0) :
    t.misaligned x i = some (t.base x i) := if_pos h

/-- An access with a misaligned address traps at one. -/
theorem SlotAcc.misaligned_of_mem {t : SlotAcc} {i : Instr} {va : Word} (hv : va.toNat % t.align ≠ 0)
    (h : va ∈ t.segs.map (fun g => g.1) ∨ va = t.base x i) : ∃ a, t.misaligned x i = some a := by
  unfold SlotAcc.misaligned
  split
  · exact ⟨_, rfl⟩
  · next hb =>
    rcases h with h | rfl
    · obtain ⟨g, hg, rfl⟩ := List.mem_map.mp h
      have : (t.segs.find? (fun g => decide (g.1.toNat % t.align ≠ 0))).isSome = true :=
        List.find?_isSome.mpr ⟨g, hg, decide_eq_true hv⟩
      obtain ⟨a, ha⟩ := Option.isSome_iff_exists.mp this
      exact ⟨a.1, by rw [ha]; rfl⟩
    · exact absurd hv hb

/-- A word with a slot access names no argument of the own vault. -/
theorem vaultArg_of_slotAcc {i : Instr} {t : SlotAcc} (h : slotAcc x i = some t) : vaultArg x i = [] := by
  cases i
  all_goals try cases h
  all_goals rfl

theorem State.step8a_of_misaligned {w : BWord} {t : SlotAcc} {va : Word} (ws : List BWord) (hs : (s.ctx c res).streams = [])
    (hd : (s.ctx c res).detMode = false) (ht : slotAcc (s.ctx c res) w.i = some t)
    (hm : t.misaligned (s.ctx c res) w.i = some va) :
    s.step8a c res ws w = some (addrTrap 4 0 (s.ctx c res).pc w.ix va t.acc) := by
  have hv := vaultArg_of_slotAcc ht
  obtain ⟨i, ix, raw⟩ := w
  unfold State.step8a
  simp only [Ctx.streamFail_of_none hs, State.streamXlat_of_none hs, hv, List.findSome?_nil, hd, ht, Bool.false_eq_true, if_false]
  unfold SlotAcc.misaligned SlotAcc.base at hm
  cases i
  all_goals try cases ht
  all_goals simp only [hm]

end

/-! ### Which check fails -/

section
variable {s : State} {c : Nat} {res : BitVec 1}

/-- The word of a bundle of one instruction. -/
def lone (i : Instr) : BWord := ⟨i, 0, (encodeWords i (wordCount i = 1)).headD 0⟩

theorem mkBundle_lone (i : Instr) : mkBundle 0 [i] = [lone i] := rfl

theorem State.check_of_steps57 {ws : List BWord} {q : Trap} (h : s.steps57 c res ws = some q) : s.check c res ws = .trap q := by
  unfold State.check; simp only [h]

theorem State.steps57_of_ill {i : Instr} (h : i.wf = false) :
    s.steps57 c res [lone i] = some (illegal (s.ctx c res).pc (lone i)) := by
  have h5 : s.step5 c res [lone i] = some (lone i) := by
    unfold State.step5
    rw [List.find?_cons_of_pos]
    simp only [lone, h, Bool.not_false, Bool.true_or]
  unfold State.steps57
  simp only [h5]

theorem State.steps57_of_privileged {i : Instr} (h5 : s.step5 c res [lone i] = none)
    (h : (privileged i = true ∧ (s.ctx c res).lvl = 0) ∨ ∃ n, sysOf i = some n ∧ (s.ctx c res).lvl.toNat < sysLevel n) :
    s.steps57 c res [lone i] = some (privTrap (s.ctx c res).pc (lone i)) := by
  have h6 : s.step6 c res [lone i] = some (lone i) := by
    unfold State.step6
    rw [List.find?_cons_of_pos]
    simp only [lone]
    rcases h with ⟨hp, hl⟩ | ⟨n, hn, hl⟩
    · simp [hp, hl]
    · simp [hn, hl]
  unfold State.steps57
  simp only [h5, h6]

theorem State.check_of_misaligned {i : Instr} {t : SlotAcc} {va : Word} (h57 : s.steps57 c res [lone i] = none)
    (hs : (s.ctx c res).streams = []) (hd : (s.ctx c res).detMode = false) (hr : (s.ctx c res).reportDue = false)
    (ht : slotAcc (s.ctx c res) i = some t) (hm : t.misaligned (s.ctx c res) i = some va) :
    s.check c res [lone i] = .trap (addrTrap 4 0 (s.ctx c res).pc 0 va t.acc) := by
  have h8 : State.steps8 c res [lone i] [lone i] s = some (addrTrap 4 0 (s.ctx c res).pc 0 va t.acc) := by
    have h := State.step8a_of_misaligned (w := lone i) [lone i] hs hd ht hm
    unfold State.steps8 State.step8
    simp only [h]
    rfl
  unfold State.check
  simp only [h57, hr, h8, Bool.false_eq_true, false_and, if_false]

end

section
variable {s : State} {i : Instr}

/-- What a slot access with a misaligned address takes in its place, alone in its bundle. -/
theorem State.check_freshWaits_of_misaligned {t : SlotAcc} {va : Word}
    (h57 : s.steps57 s.me s.res (mkBundle 0 [i]) = none)
    (hs : s.cx.streams = []) (hd : s.cx.detMode = false) (hr : s.cx.reportDue = false) (ht : slotAcc s.cx i = some t)
    (hm : t.misaligned s.cx i = some va) :
    (s.modCtx s.me s.res Ctx.freshWaits).check s.me s.res (mkBundle 0 [i]) = .trap (addrTrap 4 0 s.cx.pc 0 va t.acc) := by
  have hx : (s.modCtx s.me s.res Ctx.freshWaits).ctx s.me s.res = s.cx.waiting s.cx.freshWaits := State.ctx_freshWaits ..
  rw [mkBundle_lone] at *
  have h := State.check_of_misaligned (s := s.modCtx s.me s.res Ctx.freshWaits) (c := s.me) (res := s.res) (i := i) (t := t)
    (va := va) ((State.steps57_freshWaits ..).trans h57) (by rw [hx]; exact hs) (by rw [hx]; exact hd) (by rw [hx]; exact hr)
    (by rw [hx]; exact ht) (by rw [hx]; exact hm)
  rw [hx] at h
  exact h

theorem State.check_freshWaits_of_steps57 {q : Trap} (h : s.steps57 s.me s.res [lone i] = some q) :
    (s.modCtx s.me s.res Ctx.freshWaits).check s.me s.res (mkBundle 0 [i]) = .trap q :=
  State.check_of_steps57 ((State.steps57_freshWaits ..).trans h)

end

/-- Settles O16: an ill-formed, a privileged and a misaligned word take the trap of their check before they act. -/
theorem checksTrap : Obligations.ChecksTrap := by
  intro s i hi hb ha
  have traps : ∀ q : Trap, (s.modCtx s.me s.res Ctx.freshWaits).check s.me s.res (mkBundle 0 [i]) = .trap q →
      exec i s = .next (((s.modCtx s.me s.res Ctx.freshWaits).failMet s.me s.res [i] q).takeTrap s.me s.res (s.now s.me) q) ∧
      ∀ t, exec i s = .next t → t.mem = s.mem ∧ t.wlog = s.wlog := by
    intro q hq
    have he := exec_of_check_trap hi hb ha hq
    refine ⟨he, fun t ht => ?_⟩
    rw [he] at ht
    cases ht
    exact Prod.ext_iff.mp stored_of_check_trap
  refine ⟨fun hw => ?_, fun h5 hp => ?_, fun t va n ht hg hx hv h57 hs hd hr => ?_⟩
  · exact ⟨illegal s.cx.pc (lone i), rfl, rfl, rfl, rfl, traps _ (State.check_freshWaits_of_steps57 (State.steps57_of_ill hw))⟩
  · exact ⟨privTrap s.cx.pc (lone i), rfl, rfl, rfl, rfl,
      traps _ (State.check_freshWaits_of_steps57 (State.steps57_of_privileged h5 hp))⟩
  · have hbase : t.base s.cx i = va := by
      rw [SlotAcc.base_of_not_gather hx, List.headD_eq_head?_getD, hg]; rfl
    have hm : t.misaligned s.cx i = some va := hbase ▸ SlotAcc.misaligned_of_base (hbase ▸ hv)
    exact ⟨addrTrap 4 0 s.cx.pc 0 va t.acc, rfl, rfl, rfl, rfl,
      traps _ (State.check_freshWaits_of_misaligned h57 hs hd hr ht hm)⟩

/-! ### Alignment (R99) -/

/-- An aligned scalar access lies within one granule. -/
theorem granule_of_aligned {va n : Nat} (hn : n ∈ [1, 2, 4, 8]) (h : va % n = 0) : va / 64 = (va + n - 1) / 64 := by
  simp only [List.mem_cons, List.not_mem_nil, or_false] at hn
  obtain rfl | rfl | rfl | rfl := hn <;> omega

theorem length_granules_of_aligned {va : Nat} (h : va % 64 = 0) : (granules va 512).length = 8 := by
  unfold granules
  rw [if_neg (by decide), List.length_map, List.length_range]
  omega

/-- Settles O58: the alignment of each slot access, and the trap of a misaligned one. -/
theorem accessesAreAligned : Obligations.AccessesAreAligned := by
  refine ⟨fun x d a v o => ?_, fun s i t va hi hb ha h57 hs hd hr ht hva hv => ?_, fun va n => granule_of_aligned,
    fun va => length_granules_of_aligned⟩
  · simp [slotAcc, SlotAcc.one]
  · have hmem : va ∈ t.segs.map (fun g => g.1) ∨ va = t.base s.cx i := by
      rcases hva with h | ⟨d, a, o, rfl, rfl⟩
      · exact .inl h
      · exact .inr rfl
    obtain ⟨b, hm⟩ := SlotAcc.misaligned_of_mem hv hmem
    obtain ⟨hmemory, hwlog⟩ := Prod.ext_iff.mp (stored_of_check_trap (s := s) (c := s.me) (res := s.res) (is := [i])
      (q := addrTrap 4 0 s.cx.pc 0 b t.acc) (n := s.now s.me))
    exact ⟨addrTrap 4 0 s.cx.pc 0 b t.acc, _,
      exec_of_check_trap hi hb ha (State.check_freshWaits_of_misaligned h57 hs hd hr ht hm), rfl, rfl,
      SlotAcc.mod_of_misaligned hm, rfl, rfl, hmemory, hwlog⟩

end Sys2Proof.Machine
end

section
/-!
Accesses that are messages (R103, R132, R209 to R212, R274). Settles O40.
-/

namespace Sys2Proof.Machine

/-- The message of an access that is not near, or that something holds back in the own vault (R103, R132). -/
def State.awayMsg (s : State) (t : SlotAcc) (scope : BitVec 3) (ask : Ask) : Msg :=
  if t.near s.me then s.heldMsg 6 (s.accMsg t scope ask) else s.accMsg t scope ask

section
variable {i : Instr} {s v : State} {t : SlotAcc}

/-- A load that is not near, or is held back, is sent, and its register becomes busy (R103, R132). -/
theorem Seen.loadAway (h : Seen i s v) (hn : t.near s.me = false ∨ s.ungated = false) (r : Reg) (b : BusyReg) (n : Nat)
    (sc : BitVec 3) : Same (v.load t r b n sc) (s.sendInto (s.awayMsg t sc .read) b n) := by
  unfold State.awayMsg
  cases hc : t.near s.me with
  | false => exact h.loadFar hc r b n sc
  | true =>
    have hg : s.ungated = false := hn.resolve_left (by simp [hc])
    unfold State.load
    rw [h.me, Twin.ungated h.same, if_neg (by simp [hc]), if_neg (by simp [hg]), if_pos rfl, h.twin.accMsg, Twin.heldMsg h.same]
    exact (h.twin.sendInto _ _ _).same

variable (hb : s.inHand) (hu : s.unbound i) (ht : Machine.slotAcc s.cx i = some t)
  (hn : t.near s.me = false ∨ s.ungated = false)
include hb hu ht hn

theorem load_away {r : Reg} {b : BusyReg} {n : Nat} {sc : BitVec 3}
    (hx : exec i s = issue i s (fun s => s.withAcc i (fun t => s.load t r b n sc))) :
    Effect i s (s.sendInto (s.awayMsg t sc .read) b n) := load_msg hx hb hu ht hn

/-- A store that is not near, or is held back, is sent with its bytes as the word reads them. -/
theorem store_away (F : Ctx → List Byte) (hF : ∀ (x : Ctx) e c, F (x.metered e c) = F x)
    (hx : exec i s = issue i s (fun s => s.withAcc i (fun t => s.store t (F s.cx)))) :
    Effect i s (s.send (s.awayMsg t 0 (.write (F s.cx)))) :=
  effect_acc hx hb hu ht (fun v h => by rw [h.ofCx F hF]; exact h.storeMsg hn _) (by rw [State.cx_send])

end

section
variable {s : State} {t : SlotAcc} {d a : BitVec 6} {q : BitVec 3} {o : BitVec 10} (hb : s.inHand)
  (hn : t.near s.me = false ∨ s.ungated = false)
include hb hn

theorem ppload_away (hu : s.unbound (.ppload q a o)) (ht : slotAcc s.cx (.ppload q a o) = some t) :
    Effect (.ppload q a o) s (s.sendInto (s.awayMsg t 0 .read) (.q q) 0) :=
  effect_acc (k := fun s t => _) rfl hb hu ht (fun v h => by
    have hm : ∀ u : State, Seen (.ppload q a o) s u → u.accMsg t 0 .read = s.accMsg t 0 .read := fun u h => h.twin.accMsg ..
    unfold State.awayMsg
    cases hc : t.near s.me with
    | false =>
      simp only [h.me, hc, Bool.not_false, if_true, Bool.false_eq_true, if_false, hm v h]
      exact (h.twin.sendInto _ _ _).same
    | true =>
      have hg : s.ungated = false := hn.resolve_left (by simp [hc])
      simp only [h.me, hc, Bool.not_true, Bool.false_eq_true, if_false, if_true, Twin.ungated h.same, hg, hm v h,
        Twin.heldMsg h.same]
      exact (h.twin.sendInto _ _ _).same) (State.streams_sendInto ..)

theorem ppsave_away (hu : s.unbound (.ppsave q a o)) (ht : slotAcc s.cx (.ppsave q a o) = some t) :
    Effect (.ppsave q a o) s (s.send (s.awayMsg t 0 (.write (s.cx.poly q.toNat).image))) :=
  effect_acc (k := fun s t => _) rfl hb hu ht (fun v h => by
    have hi : (v.cx.poly q.toNat).image = (s.cx.poly q.toNat).image :=
      h.ofCx (fun x => (x.poly q.toNat).image) (fun _ _ _ => rfl)
    have hm : v.accMsg t 0 (.write (s.cx.poly q.toNat).image) = s.accMsg t 0 (.write (s.cx.poly q.toNat).image) :=
      h.twin.accMsg ..
    unfold State.awayMsg
    cases hc : t.near s.me with
    | false =>
      simp only [h.me, hc, Bool.not_false, if_true, Bool.false_eq_true, if_false, hi, hm]
      exact (h.twin.send _).same
    | true =>
      have hg : s.ungated = false := hn.resolve_left (by simp [hc])
      simp only [h.me, hc, Bool.not_true, Bool.false_eq_true, if_false, if_true, Twin.ungated h.same, hg, hi, hm,
        Twin.heldMsg h.same]
      exact (h.twin.send _).same) (by rw [State.cx_send])

theorem vst_away {e : BitVec 5} (hu : s.unbound (.vst e a o)) (ht : slotAcc s.cx (.vst e a o) = some t) :
    Effect (.vst e a o) s (s.send (s.awayMsg t 0 (.write (numBytes 512 (s.cx.rv e).toNat)))) :=
  effect_acc (k := fun s t => s.store t (numBytes 512 (s.cx.rv e).toNat)) rfl hb hu ht (fun v h => by
    rw [h.rv]; exact h.storeMsg hn _) (by rw [State.cx_send])

/-- A store to no copy aperture of the own core (R232). -/
theorem std_away (hu : s.unbound (.std d a o)) (ht : slotAcc s.cx (.std d a o) = some t)
    (hc : s.channelOf s.me s.cx (.std d a o) = none) :
    Effect (.std d a o) s (s.send (s.awayMsg t 0 (.write (numBytes 8 (s.cx.rg d).toNat)))) :=
  effect_acc (k := fun s t => _) rfl hb hu ht (fun v h => by
    simp only [h.channelOf, hc]
    unfold State.storeG lowBytes
    rw [h.rg]
    exact h.storeMsg hn _) (by rw [State.cx_send])

end

/-! ### LDF (R212) -/

section
variable {s v : State} {t : SlotAcc} {d a : BitVec 6} {o : BitVec 10}

/-- The access of an LDF would raise no TRANSLATION. -/
def State.ldfLoads (s : State) (t : SlotAcc) (i : Instr) : Prop :=
  ∃ ps, s.resolveSegs s.me s.cx t.acc t.segs = .ok ps ∧ apertureBad s.me s.res i (ps.map (fun p => p.1)) = false

/-- What LDF does with its access. -/
def State.ldf (s : State) (t : SlotAcc) (d a : BitVec 6) (o : BitVec 10) : State :=
  match s.resolveSegs s.me s.cx t.acc t.segs with
  | .error _ => s.writeG 6 d 0 fInvalid
  | .ok ps =>
    if apertureBad s.me s.res (.ldf d a o) (ps.map (fun p => p.1)) then s.writeG 6 d 0 fInvalid else s.loadG t d 0

theorem exec_ldf : exec (.ldf d a o) s = issue (.ldf d a o) s (fun s => s.withAcc (.ldf d a o) (fun t => s.ldf t d a o)) := rfl

theorem State.ldf_of_loads (h : v.ldfLoads t (.ldf d a o)) : v.ldf t d a o = v.loadG t d 0 := by
  obtain ⟨ps, hr, ha⟩ := h
  unfold State.ldf
  simp only [hr, ha, Bool.false_eq_true, if_false]

theorem State.ldf_of_not_loads (h : ¬ v.ldfLoads t (.ldf d a o)) : v.ldf t d a o = v.writeG 6 d 0 fInvalid := by
  unfold State.ldf
  split
  · rfl
  · next ps hr =>
    split
    · rfl
    · next ha => exact absurd ⟨ps, hr, by simpa using ha⟩ h

theorem Seen.ldfLoads_iff {i j : Instr} (h : Seen i s v) : v.ldfLoads t j ↔ s.ldfLoads t j := by
  unfold State.ldfLoads
  rw [h.me, h.res, h.twin.resolveSegs s.me (Twin.cx h.same)]

variable (hb : s.inHand) (hu : s.unbound (.ldf d a o)) (ht : slotAcc s.cx (.ldf d a o) = some t)
include hb hu ht

theorem ldf_away (hn : t.near s.me = false ∨ s.ungated = false) (hl : s.ldfLoads t (.ldf d a o)) :
    Effect (.ldf d a o) s (s.sendInto (s.awayMsg t 0 .read) (.g d) 0) :=
  effect_acc exec_ldf hb hu ht (fun v h => by
    rw [State.ldf_of_loads (h.ldfLoads_iff.mpr hl)]
    exact h.loadAway hn _ _ _ _) (State.streams_sendInto ..)

theorem ldf_faults (hl : ¬ s.ldfLoads t (.ldf d a o)) :
    Effect (.ldf d a o) s (s.queued [s.wrote 6 (.g d) 0 (BitVec.allOnes 4096) fInvalid]) :=
  effect_acc exec_ldf hb hu ht (fun v h => by
    rw [State.ldf_of_not_loads (mt h.ldfLoads_iff.mp hl)]
    have h0 : (0 : Word).setWidth 4096 = 0 := BitVec.setWidth_zero ..
    have hw := h.writeG 6 d 0 fInvalid
    rwa [h0] at hw) (by rw [State.cx_queued])

end

/-- Settles O40: each load and store that is not near, or is held back, by the message it sends. -/
theorem farAccesses : Obligations.FarAccesses := by
  intro s i t d a e q sc o hb hu ht hn
  refine ⟨fun w hw hi => ?_, fun w hw hi => ?_, fun hi hc => ?_, fun hi ps hr ha => ?_, fun hi h => ?_⟩
  · simp only [List.mem_cons, List.not_mem_nil, or_false] at hw
    obtain rfl | rfl | rfl | rfl | rfl | rfl | rfl | rfl | rfl | rfl | rfl := hw <;> subst hi
    pick_goal 10
    · exact ppload_away hb hn hu ht
    all_goals exact load_away hb hu ht hn rfl
  · simp only [List.mem_cons, List.not_mem_nil, or_false] at hw
    obtain rfl | rfl | rfl | rfl | rfl := hw <;> subst hi
    · exact store_away hb hu ht hn (fun x => numBytes 1 (x.rg d).toNat) (fun _ _ _ => rfl) rfl
    · exact store_away hb hu ht hn (fun x => numBytes 2 (x.rg d).toNat) (fun _ _ _ => rfl) rfl
    · exact store_away hb hu ht hn (fun x => numBytes 4 (x.rg d).toNat) (fun _ _ _ => rfl) rfl
    · dsimp only at hu ht ⊢
      exact vst_away hb hn hu ht
    · exact ppsave_away hb hn hu ht
  · subst hi
    exact std_away hb hn hu ht hc
  · subst hi
    exact ldf_away hb hu ht hn ⟨ps, hr, ha⟩
  · subst hi
    refine ⟨_, State.wrote_is .., ldf_faults hb hu ht ?_⟩
    rintro ⟨ps, hr, ha⟩
    rw [h ps hr] at ha
    cases ha

end Sys2Proof.Machine
end

section
/-!
Entries committed by the host (R108, R349, R373 to R375, R380, R381, R389, R399, R404, R405). Settles O54.
-/

namespace Sys2Proof.Machine

theorem State.ready_of_ready {s : State} (f : State → State) (h : s.boot = .ready) : s.ready f = f s := if_pos h

/-! ### Partition entries (R349) -/

section
variable {s : State} {p : Nat} {v : BitVec 512}

/-- A partition entry with a reserved bit set is refused. -/
theorem State.partitionCommit_of_reserved (h : v.extractLsb' 1 31 ≠ 0) (hn : (s.partition p).written v ≠ s.partition p) :
    s.partitionCommit p v = s.cfgError none := by
  have hb : (v.extractLsb' 1 31 == 0) = false := beq_false_of_ne h
  unfold State.partitionCommit
  simp only [hn, hb, Bool.false_and, Bool.not_false, Bool.true_or, if_false, if_true]

theorem State.partTurn_eq (s : State) (k : Nat) : s.partTurn k = { s with cores := (s.partTurn k).cores } := by
  have h : ∀ (l : List Nat) (f : Core → Core) (u : State),
      l.foldl (fun s i => s.modCore (8 * k + i) f) u =
        { u with cores := (l.foldl (fun s i => s.modCore (8 * k + i) f) u).cores } := by
    intro l f
    induction l with
    | nil => intro u; rfl
    | cons i l ih => intro u; exact ih _
  exact h _ _ s

theorem State.partTurns_eq (l : List Nat) (s : State) :
    l.foldl (fun s k => s.partTurn k) s = { s with cores := (l.foldl (fun s k => s.partTurn k) s).cores } := by
  induction l generalizing s with
  | nil => rfl
  | cons k l ih =>
    rw [List.foldl_cons, ih, State.partTurn_eq s k]

/-- A partition entry that meets no other one, with idle regions, is stored, and changes cores alone beside. -/
theorem State.partitionCommit_of_apart {n : Partition} (hv : n = (s.partition p).written v) (h1 : v.extractLsb' 1 31 = 0)
    (h2 : v.extractLsb' 228 28 = 0) (h3 : v.extractLsb' 448 64 = 0) (hn : n ≠ s.partition p)
    (ha : ∀ o ∈ s.partitions, o.1 = p ∨ o.2.en = false ∨ o.2.meets n = false)
    (hr : ∀ r < 32, ((s.partition p).regions ||| n.regions).getLsbD r = true → s.regionIdle r = true) :
    ∃ cores, s.partitionCommit p v = { s with partitions := Table.set s.partitions p n, cores := cores } := by
  have hapart : s.partitions.all (fun o => decide (o.1 = p) || !o.2.en || !o.2.meets n) = true := by
    rw [List.all_eq_true]
    intro o ho
    simpa [or_assoc] using ha o ho
  have hidle : ((List.range 32).filter (fun r => ((s.partition p).regions ||| n.regions).getLsbD r)).all s.regionIdle = true := by
    rw [List.all_eq_true]
    intro r h
    obtain ⟨hlt, hg⟩ := List.mem_filter.mp h
    exact hr r (List.mem_range.mp hlt) hg
  unfold State.partitionCommit
  simp only [← hv, hn, h1, h2, h3, hapart, hidle, beq_self_eq_true, Bool.and_self, Bool.not_true, Bool.or_true, Bool.or_self,
    Bool.false_eq_true, if_false]
  exact ⟨_, State.partTurns_eq ..⟩

end

/-! ### Cluster entries (R373) -/

section
variable {s : State} {k : Nat} {w : Word} {old new : BitVec 6}

/-- The regions that a cluster entry names before or after its commit. -/
def clusterRegions (old new : BitVec 6) : List Nat := ([old, new].filter (fun e => e.getLsbD 5)).map (fun e => e.toNat % 32)

theorem setWidth_of_extract (hn : new = w.extractLsb' 0 6) : w.setWidth 6 = new := by
  rw [hn]; exact BitVec.setWidth_eq_extractLsb' (by decide)

theorem mem_clusterRegions {r : Nat} : r ∈ clusterRegions old new ↔ ∃ b ∈ [old, new], b.getLsbD 5 = true ∧ b.toNat % 32 = r := by
  unfold clusterRegions
  simp only [List.mem_map, List.mem_filter, and_assoc]

theorem State.clusterCommit_refused (ho : old = Table.get 0 s.clusters k) (hn : new = w.extractLsb' 0 6)
    (h : 64 ≤ w.toNat ∨ new ≠ old ∧ (s.clusterIdle k = false ∨
      ∃ b ∈ [old, new], b.getLsbD 5 = true ∧ (s.regionIdle (b.toNat % 32) = false ∨ (s.region (b.toNat % 32)).en = true))) :
    s.clusterCommit k w = s.cfgError none := by
  have hchange : ¬ (w.toNat < 64 ∧ new = old) := by
    rintro ⟨hlt, he⟩
    rcases h with h | ⟨hne, _⟩
    · omega
    · exact hne he
  have hbad : 64 ≤ w.toNat ∨ (!s.clusterIdle k) = true ∨
      (!(clusterRegions old new).all (fun r => s.regionIdle r && !(s.region r).en)) = true := by
    rcases h with h | ⟨_, h | ⟨b, hb, h5, h⟩⟩
    · exact .inl h
    · exact .inr (.inl (by rw [h]; rfl))
    · refine .inr (.inr ?_)
      rw [Bool.not_eq_true', List.all_eq_false]
      refine ⟨b.toNat % 32, mem_clusterRegions.mpr ⟨b, hb, h5, rfl⟩, ?_⟩
      rcases h with h | h <;> simp [h]
  unfold State.clusterCommit
  simp only [setWidth_of_extract hn, ← ho]
  exact (if_neg hchange).trans (if_pos hbad)

theorem State.clusterCommit_stored (ho : old = Table.get 0 s.clusters k) (hn : new = w.extractLsb' 0 6) (hw : w.toNat < 64)
    (hne : new ≠ old) (hi : s.clusterIdle k = true)
    (hr : ∀ b ∈ [old, new], b.getLsbD 5 = true → s.regionIdle (b.toNat % 32) = true ∧ (s.region (b.toNat % 32)).en = false)
    (hl : new.getLsbD 5 = false ∨ Table.find s.lqKept (new.toNat % 32) = none) :
    s.clusterCommit k w = ({ s with clusters := Table.set s.clusters k new }).partTurn k := by
  have hgood : (clusterRegions old new).all (fun r => s.regionIdle r && !(s.region r).en) = true := by
    rw [List.all_eq_true]
    intro r h
    obtain ⟨b, hb, h5, rfl⟩ := mem_clusterRegions.mp h
    obtain ⟨h1, h2⟩ := hr b hb h5
    simp [h1, h2]
  have hkept : (if new.getLsbD 5 = true then Table.find s.lqKept (new.toNat % 32) else none) = none := by
    rcases hl with h | h
    · rw [h]; rfl
    · rw [h, ite_self]
  have hchange : ¬ (w.toNat < 64 ∧ new = old) := fun e => hne e.2
  have hfine : ¬ (64 ≤ w.toNat ∨ (!s.clusterIdle k) = true ∨
      (!(clusterRegions old new).all (fun r => s.regionIdle r && !(s.region r).en)) = true) := by
    rw [hi, hgood]; simp; omega
  have hlq : (({ s with clusters := Table.set s.clusters k new }).partTurn k).lqKept = s.lqKept := by
    rw [State.partTurn_eq]
  unfold State.clusterCommit
  simp only [setWidth_of_extract hn, ← ho]
  refine (if_neg hchange).trans ((if_neg hfine).trans ?_)
  simp only [hlq, hkept]

end

/-! ### Source entries (R374) -/

theorem getLsbD_b1 (b : Bool) : (b1 b).getLsbD 0 = b := by cases b <;> rfl

section
variable (g : Region)

theorem Region.entry_clear_en : g.entry &&& ~~~(0x200 : BitVec 128) = { g with en := false }.entry := by
  have hm : ~~~(0x200 : BitVec 128) = BitVec.allOnes 118 ++ 0#1 ++ BitVec.allOnes 9 := by decide
  unfold Region.entry
  rw [hm, BitVec.and_append, BitVec.and_append, BitVec.and_allOnes, BitVec.and_allOnes, BitVec.and_zero]
  rfl

@[simp] theorem Region.entry_sel : g.entry.extractLsb' 0 9 = g.sel := BitVec.extractLsb'_append_eq_right

@[simp] theorem Region.entry_en : g.entry.getLsbD 9 = g.en := by
  unfold Region.entry
  rw [BitVec.getLsbD_append, if_neg (by decide), BitVec.getLsbD_append, if_pos (by decide)]
  exact getLsbD_b1 g.en

@[simp] theorem Region.entry_reserved_low : g.entry.extractLsb' 10 5 = 0 := by
  unfold Region.entry
  rw [BitVec.extractLsb'_append_eq_of_le, BitVec.extractLsb'_append_eq_of_le, BitVec.extractLsb'_append_eq_right]
  all_goals decide

@[simp] theorem Region.entry_rail : g.entry.extractLsb' 15 1 = g.rail := by
  unfold Region.entry
  rw [BitVec.extractLsb'_append_eq_of_le, BitVec.extractLsb'_append_eq_of_le, BitVec.extractLsb'_append_eq_of_le,
    BitVec.extractLsb'_append_eq_right]
  all_goals decide

@[simp] theorem Region.entry_boost : g.entry.getLsbD 16 = g.boost := by
  unfold Region.entry
  rw [BitVec.getLsbD_append, if_neg (by decide), BitVec.getLsbD_append, if_neg (by decide), BitVec.getLsbD_append,
    if_neg (by decide), BitVec.getLsbD_append, if_neg (by decide), BitVec.getLsbD_append, if_pos (by decide)]
  exact getLsbD_b1 g.boost

theorem Region.entry_from_18 (start len : Nat) (h : 18 ≤ start) :
    g.entry.extractLsb' start len = (g.c ++ g.s ++ (0 : BitVec 62)).extractLsb' (start - 18) len := by
  unfold Region.entry
  rw [BitVec.extractLsb'_append_eq_of_le, BitVec.extractLsb'_append_eq_of_le, BitVec.extractLsb'_append_eq_of_le,
    BitVec.extractLsb'_append_eq_of_le, BitVec.extractLsb'_append_eq_of_le, BitVec.extractLsb'_append_eq_of_le]
  · simp only [Nat.sub_sub]
  all_goals omega

@[simp] theorem Region.entry_reserved_high : g.entry.extractLsb' 18 62 = 0 := by
  rw [Region.entry_from_18 _ _ _ (by decide)]
  exact BitVec.extractLsb'_append_eq_right

@[simp] theorem Region.entry_s : g.entry.extractLsb' 80 16 = g.s := by
  rw [Region.entry_from_18 _ _ _ (by decide), BitVec.extractLsb'_append_eq_of_le (by decide)]
  exact BitVec.extractLsb'_append_eq_right

@[simp] theorem Region.entry_c : g.entry.extractLsb' 96 32 = g.c := by
  rw [Region.entry_from_18 _ _ _ (by decide), BitVec.extractLsb'_append_eq_of_le (by decide),
    BitVec.extractLsb'_append_eq_of_le (by decide)]
  exact BitVec.extractLsb'_eq_self
end

section
variable {s : State} {r : Nat} {v : BitVec 128}

/-- EN set in the entry of a region that is off: the region begins to lock with its counters at 0. -/
theorem State.sourceCommit_enables {f : Nat × Nat} (hg : (s.region r).en = false) (h1 : v.extractLsb' 10 5 = 0)
    (h2 : v.extractLsb' 18 62 = 0) (he : v.getLsbD 9 = true) (hf : s.fsrc (v.extractLsb' 0 9) = some f)
    (hl : lockOk (v.extractLsb' 0 9) (v.extractLsb' 96 32) (v.extractLsb' 80 16) (v.extractLsb' 15 1) (v.getLsbD 16) f = true)
    (hc : s.coresOf r ≠ []) :
    ∃ g' : Region, s.sourceCommit r v = s.setRegion r g' ∧
      g'.sel = v.extractLsb' 0 9 ∧ g'.en = true ∧ g'.st = .locking ∧ g'.rail = v.extractLsb' 15 1 ∧ g'.boost = v.getLsbD 16 ∧
      g'.s = v.extractLsb' 80 16 ∧ g'.c = v.extractLsb' 96 32 ∧ g'.cycle = 0 ∧ g'.period = 0 ∧ g'.gap = 0 ∧ g'.slip = 0 ∧
      g'.mbox = none ∧ g'.fastev = false ∧ g'.stopev = false ∧ g'.slowev = false ∧ g'.boosted = (v.getLsbD 16 && s.grant) := by
  have hc' : (s.coresOf r).isEmpty = false := by simpa using hc
  unfold State.sourceCommit
  simp only [h1, h2, hg, he, hf, hl, hc', ne_eq, not_true_eq_false, or_self, Bool.not_true, Bool.false_eq_true, if_false]
  exact ⟨_, rfl, rfl, rfl, rfl, rfl, rfl, rfl, rfl, rfl, rfl, rfl, rfl, rfl, rfl, rfl, rfl, rfl⟩

/-- EN cleared in the entry of a region that is idle, with its other fields as they are: the region is off. -/
theorem State.sourceCommit_disables (hg : (s.region r).en = true) (hi : s.regionIdle r = true) :
    ∃ g' : Region, s.sourceCommit r { s.region r with en := false }.entry = s.setRegion r g' ∧
      g'.en = false ∧ g'.st = .off ∧ g'.sel = (s.region r).sel ∧ g'.c = (s.region r).c ∧ g'.s = (s.region r).s ∧
      g'.cycle = (s.region r).cycle := by
  unfold State.sourceCommit
  simp only [Region.entry_sel, Region.entry_en, Region.entry_reserved_low, Region.entry_rail, Region.entry_boost,
    Region.entry_reserved_high, Region.entry_s, Region.entry_c, hg, hi, ne_eq, not_true_eq_false, or_self, Bool.not_true,
    Bool.false_eq_true, if_false, if_true]
  exact ⟨_, rfl, rfl, rfl, rfl, rfl, rfl, rfl⟩

end

/-! ### Rate and crossing entries (R375, R381) -/

theorem State.rateCommit_stored {s : State} {k : Nat} {v : BitVec 128} {n : Rate}
    (hn : n = ⟨v.getLsbD 0, v.extractLsb' 1 1, v.extractLsb' 32 32, v.extractLsb' 64 2, v.extractLsb' 80 16, v.extractLsb' 96 32⟩)
    (h1 : v.extractLsb' 2 30 = 0) (h2 : v.extractLsb' 66 14 = 0) (hfill : n.fill ≠ 3) (hnum : n.num ≠ 0) (hden : n.den ≠ 0)
    (hl : s.lockedTo k = false) : s.rateCommit k v = { s with rates := Table.set s.rates k n } := by
  have hgood : ¬ (v.extractLsb' 2 30 ≠ 0 ∨ v.extractLsb' 66 14 ≠ 0 ∨ n.fill = 3 ∨ (n.en ∧ (n.num = 0 ∨ n.den = 0)) ∨
      (s.lockedTo k ∧ n ≠ Table.get Rate.fresh s.rates k)) := by
    rintro (h | h | h | ⟨_, h | h⟩ | ⟨h, _⟩)
    · exact h h1
    · exact h h2
    · exact hfill h
    · exact hnum h
    · exact hden h
    · rw [hl] at h; cases h
  subst hn
  exact if_neg hgood

section
variable {s : State} {u : Nat} {v : BitVec 128} {x n : Crossing}

theorem State.crossingCommit_enables (hx : x = s.crossing u) (hn : n = x.written v) (h1 : v.extractLsb' 1 41 = 0)
    (he : x.en = false) (hne : n.en = true) (hb : x.bound = false) (hok : s.crossingOk u n = true) :
    s.crossingCommit u v = s.setCrossing u { n with chans := [] } := by
  unfold State.crossingCommit
  simp only [← hx, ← hn, h1, he, hne, hb, hok, ne_eq, not_true_eq_false, Bool.not_true, Bool.false_eq_true, or_self, if_false,
    if_true]

theorem State.crossingCommit_disables (hx : x = s.crossing u) (hn : n = x.written v) (h1 : v.extractLsb' 1 41 = 0)
    (he : x.en = true) (hsame : { n with en := true } = x) (hne : n.en = false) (hb : x.bound = false) :
    s.crossingCommit u v = s.setCrossing u { n with chans := [] } := by
  unfold State.crossingCommit
  simp only [← hx, ← hn, h1, he, hsame, hne, hb, ne_eq, not_true_eq_false, Bool.false_eq_true, if_false, if_true]

end

/-! ### The power entry, the loader and the constant store (R108, R389, R404, R405) -/

theorem State.powerCommit_stored {s : State} {w : Word} (hh : (w.extractLsb' 16 16).toNat ≤ 4800)
    (hl : (w.extractLsb' 0 16).toNat < (w.extractLsb' 16 16).toNat) :
    s.powerCommit w = { s with low := w.extractLsb' 0 16, high := w.extractLsb' 16 16 } :=
  if_neg (by omega)

/-- A LOAD or UNLOAD committed to a loader that is not busy makes it busy with the action's fields. -/
theorem State.loaderCommit_starts {s : State} {p : Nat} {w : Word} (file root dbase : Word) (hs : (s.loader p).status ≠ 0xFF)
    (h1 : w.extractLsb' 8 8 = 0) (h2 : w.extractLsb' 32 8 = 0) (h3 : w.extractLsb' 48 16 = 0)
    (ha : w.toNat % 4 = 1 ∨ w.toNat % 4 = 2) :
    ∃ e : Loader, s.loaderCommit p w file root dbase = s.setLoader p e ∧ e.status = 0xFF ∧ e.act.toNat = w.toNat % 4 ∧
      e.region = w.extractLsb' 3 5 ∧ e.res = w.extractLsb' 2 1 ∧ e.image = w.extractLsb' 16 16 := by
  have hact : (w.extractLsb' 0 2).toNat = w.toNat % 4 := by
    rw [BitVec.extractLsb'_toNat, Nat.shiftRight_zero]
  have hn3 : w.extractLsb' 0 2 ≠ 3 := fun e => by rw [e] at hact; simp at hact; omega
  have hn0 : w.extractLsb' 0 2 ≠ 0 := fun e => by rw [e] at hact; simp at hact; omega
  unfold State.loaderCommit
  simp only [hs, hn3, hn0, h1, h2, h3, ne_eq, not_true_eq_false, or_self, if_false]
  exact ⟨_, rfl, rfl, hact, rfl, rfl, rfl⟩

/-- A word of a loader entry as its commit takes it: staged, or as committed before (R399). -/
def State.loaderWord (s : State) (p k : Nat) : Word := s.stagedWord (offLoader p + 8 * k) ((s.loader p).word k)

theorem State.commitLoader_eq (s : State) (p : Nat) (w : Word) :
    s.commitLoader p w =
      (s.loaderCommit p w (s.loaderWord p 1) (s.loaderWord p 2) (s.loaderWord p 3)).unstage (offLoader p) 32 := rfl

section
variable {s : State} {p : Nat} {e : Loader} (he : e = s.loader p) (hs : e.status = 0xFF)
include he hs

/-- The load or unload under way is carried out. -/
theorem State.loadDone_of_ok {t : State} (h : (if e.act = 1 then s.loadImage p e else s.unload p e) = .ok t) :
    s.loadDone p = t.setLoader p { e with act := 0, status := 0 } := by
  unfold State.loadDone
  simp only [← he, hs, h, ne_eq, not_true_eq_false, if_false]

/-- The load or unload under way ends with its error. -/
theorem State.loadDone_of_error {n : Nat} (h : (if e.act = 1 then s.loadImage p e else s.unload p e) = .error n) :
    s.loadDone p = s.setLoader p { e with act := 0, status := BitVec.ofNat 8 n } := by
  unfold State.loadDone
  simp only [← he, hs, h, ne_eq, not_true_eq_false, if_false]

end

theorem State.constWrite_of_free {s : State} {off : Nat} (v : Word)
    (h : ∀ x ∈ s.crossings, x.2.en = false ∨ x.2.bound = false ∨ overlap off 8 (0x10000 + 1024 * x.2.table.toNat) 1024 = 0) :
    s.constWrite off v = s.putRaw (constKey off) (numBytes 8 v.toNat) := by
  have hnone : s.crossings.find? (fun p => p.2.en && p.2.bound &&
      decide (0 < overlap off 8 (0x10000 + 1024 * p.2.table.toNat) 1024)) = none := by
    rw [List.find?_eq_none]
    intro x hx
    rcases h x hx with h | h | h <;> simp [h]
  unfold State.constWrite
  simp only [hnone, wordBytes_eq]

/-! ### What the constructors of these events mean, in READY -/

section
variable {s : State} (h : s.boot = .ready) (w : Word)
include h

theorem exec_partitionEntryCommit (p : BitVec 3) :
    exec (.partitionEntryCommit p w) s = .next (s.commitPartition p.toNat w) :=
  congrArg _ (State.ready_of_ready _ h)

theorem exec_clusterEntryCommit {k : BitVec 7} (hk : k.toNat < 96) :
    exec (.clusterEntryCommit k w) s = .next (s.clusterCommit k.toNat w) :=
  congrArg _ ((State.ready_of_ready _ h).trans (if_pos hk))

theorem exec_sourceEnable {r : BitVec 5} (hg : (s.region r.toNat).en = false) (hw : w.getLsbD 9 = true) :
    exec (.sourceEnable r w) s = .next (s.commitSource r.toNat w) :=
  congrArg _ ((State.ready_of_ready _ h).trans (if_pos (by rw [hg, hw]; rfl)))

theorem exec_sourceDisable {r : BitVec 5} (hg : (s.region r.toNat).en = true) (hw : w.getLsbD 9 = false) :
    exec (.sourceDisable r w) s = .next (s.commitSource r.toNat w) :=
  congrArg _ ((State.ready_of_ready _ h).trans (if_pos (by rw [hg, hw]; rfl)))

theorem exec_regionStatusClear (r : BitVec 5) : exec (.regionStatusClear r w) s = .next (s.statusClear r.toNat w) :=
  congrArg _ (State.ready_of_ready _ h)

theorem exec_rateEntryCommit {k : BitVec 9} (hk : k.toNat < 260) :
    exec (.rateEntryCommit k w) s = .next (s.commitRate k.toNat w) := by
  have he : exec (.rateEntryCommit k w) s = execRateEntryCommit k w s := rfl
  rw [he, execRateEntryCommit, State.ready_of_ready _ h, if_pos hk]

theorem exec_crossingEnable {u : BitVec 6} (hx : (s.crossing u.toNat).en = false) (hw : w.getLsbD 0 = true) :
    exec (.crossingEnable u w) s = .next (s.commitCrossing u.toNat w) :=
  congrArg _ ((State.ready_of_ready _ h).trans (if_pos (by rw [hx, hw]; rfl)))

theorem exec_crossingDisable {u : BitVec 6} (hx : (s.crossing u.toNat).en = true) (hw : w.getLsbD 0 = false) :
    exec (.crossingDisable u w) s = .next (s.commitCrossing u.toNat w) :=
  congrArg _ ((State.ready_of_ready _ h).trans (if_pos (by rw [hx, hw]; rfl)))

theorem exec_powerEntryCommit : exec (.powerEntryCommit w) s = .next (s.powerCommit w) :=
  congrArg _ (State.ready_of_ready _ h)

theorem exec_loaderLoad (p : BitVec 3) (hw : w.toNat % 4 = 1) :
    exec (.loaderLoad p w) s = .next (s.commitLoader p.toNat w) :=
  congrArg _ ((State.ready_of_ready _ h).trans (if_pos hw))

theorem exec_loaderUnload (p : BitVec 3) (hw : w.toNat % 4 = 2) :
    exec (.loaderUnload p w) s = .next (s.commitLoader p.toNat w) :=
  congrArg _ ((State.ready_of_ready _ h).trans (if_pos hw))

theorem exec_constantStoreWrite {off : BitVec 24} (ho : off.toNat % 8 = 0) :
    exec (.constantStoreWrite off w) s = .next (s.constWrite off.toNat w) :=
  congrArg _ ((State.ready_of_ready _ h).trans (if_pos ho))

end

theorem exec_loadDone (p : BitVec 3) (s : State) : exec (.loadDone p) s = .next (s.loadDone p.toNat) := rfl

/-! ### Commits of the entries of a kind -/

section
variable {s : State} (h : s.boot = .ready) {w : Word}
include h

theorem exec_source_enables {r : BitVec 5} {v : BitVec 128} {f : Nat × Nat}
    (hv : v = s.gather (offSource r.toNat) (s.region r.toNat).entry w) (hg : (s.region r.toNat).en = false)
    (hw : w.getLsbD 9 = true) (h1 : v.extractLsb' 10 5 = 0) (h2 : v.extractLsb' 18 62 = 0) (he : v.getLsbD 9 = true)
    (hf : s.fsrc (v.extractLsb' 0 9) = some f)
    (hl : lockOk (v.extractLsb' 0 9) (v.extractLsb' 96 32) (v.extractLsb' 80 16) (v.extractLsb' 15 1) (v.getLsbD 16) f = true)
    (hc : s.coresOf r.toNat ≠ []) :
    ∃ g' : Region, exec (.sourceEnable r w) s = .next ((s.setRegion r.toNat g').unstage (offSource r.toNat) 16) ∧
      g'.sel = v.extractLsb' 0 9 ∧ g'.en = true ∧ g'.st = .locking ∧ g'.rail = v.extractLsb' 15 1 ∧ g'.boost = v.getLsbD 16 ∧
      g'.s = v.extractLsb' 80 16 ∧ g'.c = v.extractLsb' 96 32 ∧ g'.cycle = 0 ∧ g'.period = 0 ∧ g'.gap = 0 ∧ g'.slip = 0 ∧
      g'.mbox = none ∧ g'.fastev = false ∧ g'.stopev = false ∧ g'.slowev = false ∧ g'.boosted = (v.getLsbD 16 && s.grant) := by
  obtain ⟨g', hs, hfields⟩ := State.sourceCommit_enables hg h1 h2 he hf hl hc
  refine ⟨g', ?_, hfields⟩
  rw [exec_sourceEnable h w hg hw, State.commitSource, ← hv, hs]

theorem exec_source_disables {r : BitVec 5}
    (hv : { s.region r.toNat with en := false }.entry = s.gather (offSource r.toNat) (s.region r.toNat).entry w)
    (hg : (s.region r.toNat).en = true) (hw : w.getLsbD 9 = false) (hi : s.regionIdle r.toNat = true) :
    ∃ g' : Region, exec (.sourceDisable r w) s = .next ((s.setRegion r.toNat g').unstage (offSource r.toNat) 16) ∧
      g'.en = false ∧ g'.st = .off ∧ g'.sel = (s.region r.toNat).sel ∧ g'.c = (s.region r.toNat).c ∧
      g'.s = (s.region r.toNat).s ∧ g'.cycle = (s.region r.toNat).cycle := by
  obtain ⟨g', hs, hfields⟩ := State.sourceCommit_disables hg hi
  refine ⟨g', ?_, hfields⟩
  rw [exec_sourceDisable h w hg hw, State.commitSource, ← hv, hs]

theorem exec_loader_starts {p : BitVec 3} {i : Instr} (hs : (s.loader p.toNat).status ≠ 0xFF) (h1 : w.extractLsb' 8 8 = 0)
    (h2 : w.extractLsb' 32 8 = 0) (h3 : w.extractLsb' 48 16 = 0)
    (hi : i = .loaderLoad p w ∧ w.toNat % 4 = 1 ∨ i = .loaderUnload p w ∧ w.toNat % 4 = 2) :
    ∃ e' : Loader, exec i s = .next ((s.setLoader p.toNat e').unstage (offLoader p.toNat) 32) ∧ e'.status = 0xFF ∧
      e'.act.toNat = w.toNat % 4 ∧ e'.region = w.extractLsb' 3 5 ∧ e'.res = w.extractLsb' 2 1 ∧
      e'.image = w.extractLsb' 16 16 := by
  have hexec : exec i s = .next (s.commitLoader p.toNat w) := by
    rcases hi with ⟨rfl, ha⟩ | ⟨rfl, ha⟩
    · exact exec_loaderLoad h w p ha
    · exact exec_loaderUnload h w p ha
  have hact : w.toNat % 4 = 1 ∨ w.toNat % 4 = 2 := hi.imp And.right And.right
  obtain ⟨e', hc, hfields⟩ := State.loaderCommit_starts (s.loaderWord p.toNat 1) (s.loaderWord p.toNat 2)
    (s.loaderWord p.toNat 3) hs h1 h2 h3 hact
  refine ⟨e', ?_, hfields⟩
  rw [hexec, State.commitLoader_eq, hc]

end

/-- Settles O54: each commit of an entry by the conditions under which it is stored or refused. -/
theorem hostCommits : Obligations.HostCommits := by
  intro s w hb
  refine ⟨fun p v n hv hn => ⟨?_, fun hr hne => ?_, fun h1 h2 h3 hne ha hr => ?_⟩,
    fun k old new hk ho hn => ⟨fun h => ?_, fun b hm hne h5 h => ?_, fun hw hne hi hr hl => ?_⟩,
    fun r v g f hg hv => ⟨fun he hw h1 h2 hen hf hl hc => ?_, fun he hw hclear hi => ?_, ?_⟩,
    fun k v n hk hv hn h1 h2 hfill hnum hden hl => ?_,
    fun u v x n hx hv hn h1 => ⟨fun he hw hne hbound hok => ?_, fun he hw hsame hne hbound => ?_⟩,
    fun hh hl => ?_,
    fun p e i he => ⟨fun hs h1 h2 h3 hi => ?_, fun hs => ⟨fun t ht => ?_, fun m hm => ?_⟩⟩,
    fun off ho hfree => ?_⟩
  · rw [exec_partitionEntryCommit hb, State.commitPartition, ← hv]
  · exact State.partitionCommit_of_reserved hr (hn ▸ hne)
  · obtain ⟨cores, hc⟩ := State.partitionCommit_of_apart hn h1 h2 h3 hne ha hr
    rw [hc]
    exact ⟨rfl, rfl, rfl⟩
  · rw [exec_clusterEntryCommit hb w hk, State.clusterCommit_refused ho hn]
    exact h.imp id (fun h => ⟨h.1, .inl h.2⟩)
  · rw [exec_clusterEntryCommit hb w hk, State.clusterCommit_refused ho hn (.inr ⟨hne, .inr ⟨b, hm, h5, h⟩⟩)]
  · rw [exec_clusterEntryCommit hb w hk, State.clusterCommit_stored ho hn hw hne hi hr hl]
  · subst hg
    exact exec_source_enables hb hv he hw h1 h2 hen hf hl hc
  · subst hg
    rw [Region.entry_clear_en] at hclear
    exact exec_source_disables hb (hclear.symm.trans hv) he hw hi
  · exact exec_regionStatusClear hb w r
  · rw [exec_rateEntryCommit hb w hk, State.commitRate, ← hv, State.rateCommit_stored hn h1 h2 hfill hnum hden hl]
  · rw [exec_crossingEnable hb w (hx ▸ he) hw, State.commitCrossing, ← hx, ← hv,
      State.crossingCommit_enables hx hn h1 he hne hbound hok]
  · rw [exec_crossingDisable hb w (hx ▸ he) hw, State.commitCrossing, ← hx, ← hv,
      State.crossingCommit_disables hx hn h1 he hsame hne hbound]
  · rw [exec_powerEntryCommit hb, State.powerCommit_stored hh hl]
  · subst he
    exact exec_loader_starts hb hs h1 h2 h3 hi
  · rw [exec_loadDone, State.loadDone_of_ok he hs ht]
  · rw [exec_loadDone, State.loadDone_of_error he hs hm]
  · rw [exec_constantStoreWrite hb w ho, State.constWrite_of_free w hfree]

end Sys2Proof.Machine
end

section
/-!
Atomics and releases at their issue (R122, R132, R213 to R216, R231). Settles O41 and O42.
-/

namespace Sys2Proof.Machine

/-! ### Atomics -/

theorem atCls_eq_at {r : BitVec 1} : atCls r = .at ↔ r = 0 := by revert r; decide

/-- A word of the MA group that is an atomic on `n` bytes at ga, with operand gb and comparand `z` (R214, R215). -/
structure AtomicWord (i : Instr) (op : BitVec 5) (n : Nat) (z : Ctx → Word) (d a b : BitVec 6) (sc : BitVec 3) (r : BitVec 1) :
    Prop where
  meaning : ∀ s, exec i s = issue i s (fun s => s.withAcc i (fun t => s.atomic t op d sc (s.cx.rg b) (z s.cx)))
  access : ∀ x, slotAcc x i = some (.one (x.rg a) n n .atomic (atCls r))
  plain : (uses i).vr ++ (uses i).vw = []
  comparand : ∀ (x : Ctx) e c, z (x.metered e c) = z x

/-- What an atomic may do at its issue (R132, R216): perform in the own vault, wait there, or leave the core. -/
def State.atomicIssue (s : State) (i : Instr) (t : SlotAcc) (op : BitVec 5) (d : BitVec 6) (sc : BitVec 3) (y c : Word) : State :=
  let m := s.accMsg t sc (.atomic op y c)
  if t.near s.me = false then s.sendInto m (.g d) 0
  else if s.atomicFree t m = true then s.flying (s.flight i 8 t.cls (.atomic op d (vaultOffset t.va) y c))
  else s.sendInto (s.heldMsg 8 m) (.g d) 0

theorem Seen.atomic {i : Instr} {s v : State} (h : Seen i s v) (t : SlotAcc) (op : BitVec 5) (d : BitVec 6) (sc : BitVec 3)
    (y c : Word) : Same (v.atomic t op d sc y c) (s.atomicIssue i t op d sc y c) := by
  unfold State.atomicIssue
  simp only []
  split
  · next hn => exact h.atomicFar hn op d sc y c
  · next hn =>
    rw [Bool.not_eq_false] at hn
    split
    · next hw => exact h.atomicNear hn op d sc y c hw
    · next hw => exact h.atomicHeld hn op d sc y c (by simpa using hw)

theorem AtomicWord.effect {i : Instr} {op : BitVec 5} {n : Nat} {z : Ctx → Word} {d a b : BitVec 6} {sc : BitVec 3}
    {r : BitVec 1} {s : State} (w : AtomicWord i op n z d a b sc r) (hb : s.inHand) :
    Effect i s (s.atomicIssue i (.one (s.cx.rg a) n n .atomic (atCls r)) op d sc (s.cx.rg b) (z s.cx)) :=
  effect_nil (w.meaning s) hb w.plain (fun v h => by
    unfold State.withAcc
    simp only [w.access, h.rg, h.ofCx z w.comparand]
    exact h.atomic ..)

/-- The atomics with the numbers of their operations, the bytes they access and their comparands (Table 7.17). -/
def atomicWords (x : Ctx) (d a b : BitVec 6) (sc : BitVec 3) (r : BitVec 1) : List (Instr × Nat × Nat × Word) :=
  [(.aadd d a b sc r, 0, 8, 0), (.amin d a b sc r, 1, 8, 0), (.amax d a b sc r, 2, 8, 0), (.aminn d a b sc r, 3, 8, 0),
    (.amaxn d a b sc r, 4, 8, 0), (.aand d a b sc r, 5, 8, 0), (.aor d a b sc r, 6, 8, 0), (.axor d a b sc r, 7, 8, 0),
    (.aswap d a b sc r, 8, 8, 0), (.acas d a b sc r, 9, 8, x.rg d), (.agts d a b sc r, 10, 8, 0), (.agtsn d a b sc r, 11, 8, 0),
    (.avswap d a b sc r, 12, 8, x.rg d), (.atagswap d a b sc r, 13, 8, x.rg d), (.afadd d a b sc r, 14, 4, 0)]

theorem atomicWord_of_mem {x : Ctx} {d a b : BitVec 6} {sc : BitVec 3} {r : BitVec 1} {w : Instr × Nat × Nat × Word}
    (hw : w ∈ atomicWords x d a b sc r) :
    ∃ z, AtomicWord w.1 (BitVec.ofNat 5 w.2.1) w.2.2.1 z d a b sc r ∧ z x = w.2.2.2 := by
  simp only [atomicWords, List.mem_cons, List.not_mem_nil, or_false] at hw
  rcases hw with rfl | rfl | rfl | rfl | rfl | rfl | rfl | rfl | rfl | rfl | rfl | rfl | rfl | rfl | rfl
  on_goal 14 => exact ⟨fun x => x.rg d, ⟨fun _ => rfl, fun _ => rfl, rfl, fun _ _ _ => rfl⟩, rfl⟩
  on_goal 13 => exact ⟨fun x => x.rg d, ⟨fun _ => rfl, fun _ => rfl, rfl, fun _ _ _ => rfl⟩, rfl⟩
  on_goal 10 => exact ⟨fun x => x.rg d, ⟨fun _ => rfl, fun _ => rfl, rfl, fun _ _ _ => rfl⟩, rfl⟩
  all_goals exact ⟨fun _ => 0, ⟨fun _ => rfl, fun _ => rfl, rfl, fun _ _ _ => rfl⟩, rfl⟩

/-- Settles O41: each atomic by where its bytes lie and by what must perform before it. -/
theorem atomicsAtIssue : Obligations.AtomicsAtIssue := by
  intro s d a b sc r hb w hw t m y hy ht hm
  obtain ⟨z, hword, hz⟩ := atomicWord_of_mem (x := s.cx) hw
  have he := hword.effect hb
  rw [hz, ← hy, ← ht] at he
  have hcls : t.cls = atCls r := by rw [ht]; rfl
  have hva : t.va = s.cx.rg a := by rw [ht]; rfl
  have hfree : s.atomicFree t m = if r = 0 then s.ungated else s.nearBy s.me m.after (s.now s.me + 7) := by
    unfold State.atomicFree; simp only [hcls, atCls_eq_at]
  unfold State.atomicIssue at he
  simp only [← hm, hcls, hva, hfree] at he
  refine ⟨fun hn hf => ?_, fun hn hf => ?_, fun hn => ?_⟩
  · rwa [if_neg (by simp [hn]), if_pos hf] at he
  · rwa [if_neg (by simp [hn]), if_neg (Bool.eq_false_iff.mp hf)] at he
  · rwa [if_pos hn] at he

/-! ### Releases -/

/-- The word stores the 8 bytes of gb at ga as a release of a class (R213, R231). -/
structure ReleaseWord (i : Instr) (cls : Cls) (a b : BitVec 6) (sc : BitVec 3) : Prop where
  meaning : ∀ s, exec i s = issue i s (fun s => s.withAcc i (fun t => s.release8 t sc (s.cx.rg b)))
  access : ∀ x, slotAcc x i = some (.one (x.rg a) 8 8 .store cls)
  plain : (uses i).vr ++ (uses i).vw = []

theorem releaseWord_of_mem {a b : BitVec 6} {sc : BitVec 3} {w : Instr × Cls}
    (hw : w ∈ [(Instr.strel a b sc, Cls.rel), (.penn a b sc, Cls.pen)]) : ReleaseWord w.1 w.2 a b sc := by
  simp only [List.mem_cons, List.not_mem_nil, or_false] at hw
  obtain rfl | rfl := hw
  · exact ⟨fun _ => rfl, fun _ => rfl, rfl⟩
  · exact ⟨fun _ => rfl, fun _ => rfl, rfl⟩

theorem ReleaseWord.effect {i : Instr} {cls : Cls} {a b : BitVec 6} {sc : BitVec 3} {s u : State} {t : SlotAcc}
    (w : ReleaseWord i cls a b sc) (hb : s.inHand) (ht : t = .one (s.cx.rg a) 8 8 .store cls)
    (hk : ∀ v, Seen i s v → Same (v.release8 t sc (s.cx.rg b)) u) : Effect i s u :=
  effect_nil (w.meaning s) hb w.plain (fun v h => by
    unfold State.withAcc
    simp only [w.access, h.rg, ← ht]
    exact hk v h)

theorem take_wordBytes (y : Word) : (wordBytes y).take 8 = numBytes 8 y.toNat := by
  rw [wordBytes_eq, List.take_of_length_le (by simp [numBytes])]

/-- Settles O42: STREL and PENN by where their bytes lie and by what must perform before them. -/
theorem releasesAtIssue : Obligations.ReleasesAtIssue := by
  intro s a b sc hb w hw t m ht hm
  have hword := releaseWord_of_mem hw
  rw [← wordBytes_eq] at hm
  subst hm
  refine ⟨fun hn hf => ?_, fun hn hf => ?_, fun hn => ?_⟩
  · rw [← take_wordBytes]
    exact hword.effect hb ht (fun v h => h.releaseNear ht hn sc _ hf)
  · exact hword.effect hb ht (fun v h => h.releaseHeld hn sc _ hf)
  · exact hword.effect hb ht (fun v h => h.releaseFar hn sc _)

end Sys2Proof.Machine
end

section
/-!
Commands that answer, cancels, and ring and crossing settings at their issue (R132, R224, R226, R227, R258, R262, R263, R280,
R284, R287). Settles O45.
-/

namespace Sys2Proof.Machine

/-! ### Changes of the context in hand that the word sees too -/

/-- A change of the context that leaves events and charges alone leaves what the word sees. -/
theorem Seen.changed {i : Instr} {s v : State} (h : Seen i s v) {f : Ctx → Ctx}
    (hf : ∀ (x : Ctx) e c, f (x.metered e c) = (f x).metered e c) : Seen i (s.modCx f) (v.modCx f) := by
  obtain ⟨e, c, rfl⟩ := h.eq
  refine ⟨e, c, ?_⟩
  rw [State.modCx_numbered, State.modCx_modCx, State.modCx_modCx]
  simp only [hf]
  rfl

/-- A change that changes nothing of the context in hand. -/
theorem Seen.of_unchanged {i : Instr} {s v : State} (h : Seen i s v) {f : Ctx → Ctx} (hf : f s.cx = s.cx) :
    Seen i (s.modCx f) v := by
  obtain ⟨e, c, rfl⟩ := h.eq
  refine ⟨e, c, ?_⟩
  rw [State.modCx_modCx, State.modCx_congr (f := fun x => (f x).metered e c) (g := fun x => x.metered e c) (by rw [hf])]
  rfl

/-- The busy bit of a scalar register under a number; g0 has none (R103). -/
def busyBits (r : BitVec 6) (n : Nat) : List (BusyReg × Nat) := if r = 0 then [] else [(.g r, n)]

/-- A state with more busy bits in the context in hand. -/
def State.holding (s : State) (l : List (BusyReg × Nat)) : State := s.modCx (fun z => { z with busy := z.busy ++ l })

/-- A register that a word keeps busy until its answer, seen by the rest of its meaning. -/
theorem Seen.holding {i : Instr} {s v : State} (h : Seen i s v) (r : BitVec 6) (n : Nat) :
    Seen i (s.holding (busyBits r n)) (if r = 0 then v else v.setBusy (.g r) n) := by
  unfold busyBits
  split
  · exact h.of_unchanged (by rw [List.append_nil])
  · exact h.changed (fun _ _ _ => rfl)

/-- What a word puts in flight does not see a change of the context that keeps the program counter. -/
theorem State.flight_modCx (s : State) {f : Ctx → Ctx} (hf : (f s.cx).pc = s.cx.pc) (i : Instr) (lat : Nat) (cls : Cls)
    (a : Act) : (s.modCx f).flight i lat cls a = s.flight i lat cls a := by
  unfold State.flight
  rw [State.res_modCx, State.cx_modCx, hf]
  rfl

/-! ### Commands that answer (R263, R280) -/

theorem Seen.contact {i : Instr} {s v : State} (h : Seen i s v) (j : Instr) (a b : Word) (k : Nat) :
    Same (v.contact j a b k) (s.contact j a b k) := by
  unfold State.contact
  rw [h.ofCx (fun x => Table.get (0 : BitVec 32) x.ctthr k) (fun _ _ _ => rfl)]
  exact h.pushContact ..

theorem ctqry_effect {s : State} {a b : BitVec 6} {k : BitVec 4} (hb : s.inHand) :
    Effect (.ctqry a b k) s ((s.holding (busyBits a s.seq)).contact (.ctqry a b k) 0 (s.cx.rg b) k.toNat) :=
  effect_nil rfl hb rfl (fun v h => by
    simp only [h.rg, h.seq]
    exact (h.holding a s.seq).contact ..)

theorem hread_effect {s : State} {a b : BitVec 6} {k : BitVec 5} (hb : s.inHand) :
    Effect (.hread a b k) s
      (((s.holding (busyBits a s.seq)).holding (busyBits b s.seq)).pushSmall (.hread a b k) 0 0) :=
  effect_nil rfl hb rfl (fun v h => by
    simp only [h.seq]
    exact ((h.holding a s.seq).holding b s.seq).pushSmall ..)

theorem Effect.congr {i : Instr} {s u w : State} (h : Effect i s u) (hu : Same u w) : Effect i s w := by
  obtain ⟨t, ht, hs⟩ := h
  exact ⟨t, ht, hs.trans hu⟩

/-- The command of a contact question, and the queue it enters. -/
theorem State.contact_asks (s : State) (i : Instr) (b : Word) (k : Nat) :
    ∃ m : CtCmd, m.i = i ∧ m.b = b ∧ m.issue = s.now s.me ∧ m.res = s.res ∧ m.start = none ∧
      Same (s.contact i 0 b k) (s.modMe (fun q => { q with ct := q.ct ++ [m] })) :=
  ⟨_, rfl, rfl, rfl, rfl, rfl, Same.tick1 _⟩

/-- The command of a question to the hoist controller, and the queue it enters. -/
theorem State.pushSmall_asks (s : State) (i : Instr) :
    ∃ m : SmallCmd, m.i = i ∧ m.issue = s.now s.me ∧ m.res = s.res ∧ m.k = 0 ∧
      Same (s.pushSmall i 0 0) (s.modMe (fun q => { q with small := q.small ++ [m] })) :=
  ⟨_, rfl, rfl, rfl, rfl, Same.tick1 _⟩

@[simp] theorem State.res_holding (s : State) (l : List (BusyReg × Nat)) : (s.holding l).res = s.res := State.res_modCx ..

/-! ### CPYX (R258) -/

/-- A channel whose copies a CPYX cancels. -/
def Chan.cancelled (q : Chan) (e : Nat × BitVec 6 × BitVec 1 × Bool) : Chan :=
  { q with
    queue := []
    cancel := q.cancel ++ [e]
    st := if q.st = .active then .cancelling else if q.st = .suspended then .idle else q.st
    cur := if q.st = .suspended then none else q.cur
    fault := if q.st = .suspended then none else q.fault }

/-- The entry of a CPYX in its channel: it notes whether it found the channel idle. -/
def State.cancelEntry (s : State) (ch : Nat) (a : BitVec 6) : Nat × BitVec 6 × BitVec 1 × Bool :=
  let q := (s.core s.me).chan ch
  (s.seq, a, s.res, q.cur.isNone && q.st = .idle)

@[simp] theorem State.chan_holding (s : State) (l : List (BusyReg × Nat)) (ch : Nat) :
    ((s.holding l).core s.me).chan ch = (s.core s.me).chan ch := by
  unfold State.holding State.modCx Core.chan
  rw [State.core_modCtx, Core.setCtx_chans]

theorem cpyx_effect {s : State} {a : BitVec 6} {c : BitVec 2} (hb : s.inHand) :
    Effect (.cpyx a c) s ((s.holding (busyBits a s.seq)).modMe (fun z =>
      z.setChan c.toNat (((s.core s.me).chan c.toNat).cancelled (s.cancelEntry c.toNat a)))) :=
  effect_nil rfl hb rfl (fun v h => by
    have hv := h.holding a s.seq
    have hq := hv.ofCore (fun k => k.chan c.toNat) (fun _ => rfl)
    have hm : (s.holding (busyBits a s.seq)).me = s.me := rfl
    rw [hm, State.chan_holding] at hq
    unfold State.cancelCopy
    simp only [h.seq]
    refine (Same.tick1 _).trans (Same.modMe hv.same ?_)
    rw [hm, hq, hv.res, State.res_holding, Core.bare_setChan, Core.bare_setChan, hv.core]
    simp only [Chan.cancelled, State.cancelEntry]
    congr 1
    cases ((s.core s.me).chan c.toNat).st <;> rfl)

/-! ### Effects a fixed time after the issue (R224, R262, R284) -/

/-- A word whose one effect is in flight from its issue on. -/
theorem later_effect {i : Instr} {s : State} {lat : Nat} {cls : Cls} (A : Ctx → Act)
    (hx : exec i s = issue i s (fun v => v.later lat cls (A v.cx))) (hb : s.inHand) (hn : (uses i).vr ++ (uses i).vw = [])
    (hA : ∀ (x : Ctx) e c, A (x.metered e c) = A x) : Effect i s (s.flying (s.flight i lat cls (A s.cx))) :=
  effect_nil hx hb hn (fun v h => by
    simp only [h.ofCx A hA]
    exact h.later ..)

theorem enq_effect {s : State} {a b : BitVec 6} (hb : s.inHand) :
    Effect (.enq a b) s ((s.holding (busyBits a s.seq)).flying
      (s.flight (.enq a b) 6 .st (.enqRead a (s.cx.rg b).toNat (s.cx.rg a)))) :=
  effect_nil rfl hb rfl (fun v h => by
    simp only [h.rg, h.seq]
    rw [← State.flight_modCx s (f := fun z => { z with busy := z.busy ++ busyBits a s.seq }) rfl]
    exact (h.holding a s.seq).later ..)

/-! ### DEQ and XSTAT (R227, R287) -/

theorem deq_effect {s : State} {a b : BitVec 6} (hb : s.inHand) :
    Effect (.deq a b) s (if s.ungated then s.flying (s.flight (.deq a b) 8 .at (.deq a (s.cx.rg a) (vaultOffset (s.cx.rg b))))
      else s.sendInto (s.heldMsg 8 (s.message s.me s.res .at 0 (s.cx.rg b)
        [⟨.mem (vaultKey s.me (vaultOffset (s.cx.rg b))), 64, .rc, true, 0, 0⟩] (.deq (s.cx.rg a)) .none)) (.g a) 0) :=
  effect_nil rfl hb rfl (fun v h => by
    simp only [h.rg, h.me, h.res, Twin.ungated h.same, Twin.heldMsg h.same, h.twin.message]
    split
    · exact h.later ..
    · exact (h.twin.sendInto ..).same)

theorem xstat_effect {s : State} {a b : BitVec 6} (hb : s.inHand) :
    Effect (.xstat a b) s (s.sendInto { s.message s.me s.res .ld 0 (s.cx.rg b) [] .read .none with host := true, after := [] }
      (.g a) 0) :=
  effect_nil rfl hb rfl (fun v h => by
    simp only [h.rg, h.me, h.res, h.twin.message]
    exact (h.twin.sendInto ..).same)

/-- Settles O45: each word by the register it keeps busy, or by the time at which it takes effect; that a DEQ behind an
outstanding acquire is a message is log entry 26. -/
theorem answersAndSettings : Obligations.AnswersAndSettings := by
  intro s a b c k h n x y busy hb hx hy hbusy
  subst hx hy
  obtain rfl : busy = fun r => busyBits r s.seq := funext hbusy
  refine ⟨?_, ?_, fun q q' hq hq' => ?_, fun w hw => ?_, deq_effect hb, enq_effect hb, xstat_effect hb⟩
  · obtain ⟨m, hi, hmb, hissue, hres, hstart, hm⟩ :=
      (s.holding (busyBits a s.seq)).contact_asks (.ctqry a b k) (s.cx.rg b) k.toNat
    exact ⟨m, hi, hmb, hissue, hres.trans (State.res_holding ..), hstart, (ctqry_effect hb).congr hm⟩
  · obtain ⟨m, hi, hissue, hres, hk, hm⟩ :=
      ((s.holding (busyBits a s.seq)).holding (busyBits b s.seq)).pushSmall_asks (.hread a b h)
    refine ⟨m, hi, hissue, ?_, hk, ?_⟩
    · rw [hres, State.res_holding, State.res_holding]
    · have he := (hread_effect hb).congr hm
      unfold State.holding at he
      rwa [State.modCx_modCx] at he
  · subst hq hq'
    exact cpyx_effect hb
  · simp only [List.mem_cons, List.not_mem_nil, or_false] at hw
    obtain rfl | rfl | rfl | rfl | rfl := hw
    · exact later_effect (fun x => .xbind (x.rg a) (x.rg b)) rfl hb rfl (fun _ _ _ => rfl)
    · exact later_effect (fun x => .ringSet k { Ring.none with
        conf := true, base := x.rg a, slots := ((x.rg b).extractLsb' 0 9).setWidth 16
        slotsize := ((x.rg b).extractLsb' 16 16).setWidth 24 * 64 }) rfl hb rfl (fun _ _ _ => rfl)
    · exact later_effect (fun _ => .ringSet k Ring.none) rfl hb rfl (fun _ _ _ => rfl)
    · exact later_effect (fun _ => .ring k true n) rfl hb rfl (fun _ _ _ => rfl)
    · exact later_effect (fun _ => .ring k false n) rfl hb rfl (fun _ _ _ => rfl)

end Sys2Proof.Machine
end

section
/-!
Fences, barriers, waits and streams at their issue (R131, R133, R218 to R223, R227, R228, R230). Settles O46.
-/

namespace Sys2Proof.Machine

/-! ### What fences and barriers read is the same in two states that are the same -/

section
variable {v s : State} (h : Same v s)
include h

theorem Same.fabric : v.fabric = s.fabric := by rw [h.fields]

theorem Same.domainOf (lid : Word) (c : Nat) (sc : BitVec 3) : v.domainOf lid c sc = s.domainOf lid c sc := by
  rw [h.fields]; rfl

theorem Same.domainTime (c : Nat) (sc : BitVec 3) : v.domainTime c sc = s.domainTime c sc := by rw [h.fields]; rfl

/-- A part of a core that its contexts' meters and its translations do not change. -/
theorem Same.ofCore {α : Type} (f : Core → α) (hf : ∀ k : Core, f k.bare = f k) (c : Nat) : f (v.core c) = f (s.core c) := by
  rw [← hf, h.2, hf]

theorem Same.accessIds (c : Nat) (r : BitVec 1) (m : BitVec 4) : v.accessIds c r m = s.accessIds c r m := by
  unfold State.accessIds State.msgOps
  rw [h.ofCore (fun k => k.nearOps c r) (fun _ => rfl), h.fabric]

theorem Same.commandIds (c : Nat) (r : BitVec 1) : (v.core c).commandIds r = (s.core c).commandIds r :=
  h.ofCore (fun k => k.commandIds r) (fun _ => rfl) c

theorem Same.outstanding (c : Nat) : v.outstanding c = s.outstanding c := by
  have ha : ∀ r : BitVec 1, (v.core c).accessing r = (s.core c).accessing r := by
    intro r
    refine h.ofCore (fun k => k.accessing r) (fun k => ?_) c
    unfold Core.accessing
    rw [Core.ctx_bare]
    rfl
  funext id
  unfold State.outstanding
  rw [h.fabric, Twin.timed h, ha, ha]

theorem Same.fenceDone (c : Nat) (x : Ctx) (f : Fence) : v.fenceDone c x f = s.fenceDone c x f := by
  unfold State.fenceDone State.still
  rw [h.outstanding]

theorem Same.openFences (c : Nat) (x : Ctx) : v.openFences c x = s.openFences c x := by
  unfold State.openFences
  simp only [h.fenceDone]

theorem Same.countWord (sc : BitVec 3) : v.countWord sc = s.countWord sc := by
  have hl : v.cx.lid = s.cx.lid := by have := congrArg Ctx.lid (Twin.cx h); exact this
  unfold State.countWord State.countAt
  rw [h.me, hl, h.domainOf]

end

theorem Same.modDomain {v s : State} (h : Same v s) (d : Domain) (f : Domain → Domain) :
    Same (v.modDomain d f) (s.modDomain d f) := by
  refine ⟨?_, h.2⟩
  have := congrArg (fun u : State => u.modDomain d f) h.1
  exact this

/-- A context changed alike in two states that are the same. -/
theorem Same.modCtx {v s : State} (h : Same v s) (c : Nat) (r : BitVec 1) {f : Ctx → Ctx}
    (hf : ∀ (x : Ctx), (f x).metered [] 0 = (f (x.metered [] 0)).metered [] 0) : Same (v.modCtx c r f) (s.modCtx c r f) := by
  refine h.setCore c (Core.setCtx_bare_congr (h.2 c) ?_)
  have hx : (v.ctx c r).metered [] 0 = (s.ctx c r).metered [] 0 := Core.ctx_eq_of_bare (h.2 c) r
  rw [hf, hx, ← hf]

/-- An arrival at a barrier notes the same in two states that are the same (R133). -/
theorem Same.arrive {v s : State} (h : Same v s) (c : Nat) (r : BitVec 1) (sc : BitVec 3) :
    Same (v.arrive c r sc) (s.arrive c r sc) := by
  have ha : (v.ctx c r).arrived = (s.ctx c r).arrived := Twin.ctx h (fun x => x.arrived) (fun _ _ _ => rfl) c r
  have hl : (v.ctx c r).lid = (s.ctx c r).lid := Twin.ctx h (fun x => x.lid) (fun _ _ _ => rfl) c r
  have hm : Same (v.modCtx c r (fun x => { x with arrived := x.arrived ++ [sc] }))
      (s.modCtx c r (fun x => { x with arrived := x.arrived ++ [sc] })) := h.modCtx c r (fun _ => rfl)
  unfold State.arrive
  simp only [ha, hl, h.accessIds, h.commandIds, hm.domainOf, hm.domainTime]
  split
  · exact h
  · split
    · exact hm
    · exact hm.modDomain _ _

/-! ### Fences and barriers (R131, R218, R220) -/

/-- The token of the next fence. -/
def State.fenceToken (s : State) (m : BitVec 4) (sc : BitVec 3) : Word := (0 : BitVec 41) ++ sc ++ m ++ (s.cx.fenceNo + 1)

/-- The next fence: what it covers of the context. -/
def State.nextFence (s : State) (m : BitVec 4) : Fence :=
  ⟨s.cx.fenceNo + 1, s.accessIds s.me s.res m ++ (if m.getLsbD 2 then (s.core s.me).commandIds s.res else []),
    if m.getLsbD 3 then s.cx.streamMarks else []⟩

theorem Seen.nextFence {i : Instr} {s v : State} (h : Seen i s v) (m : BitVec 4) : v.nextFence m = s.nextFence m := by
  unfold State.nextFence
  rw [h.me, h.res, h.same.accessIds, h.same.commandIds, h.ofCx (fun x => x.fenceNo) (fun _ _ _ => rfl),
    h.ofCx (fun x => x.streamMarks) (fun _ _ _ => rfl)]

/-- Register writes queued leave the accesses that the engines have still to make. -/
theorem Core.accessing_setCtx_writes (k : Core) (r q : BitVec 1) (ws : List RegWrite) :
    (k.setCtx r { k.ctx r with writes := ws }).accessing q = k.accessing q := by
  unfold Core.setCtx Core.accessing Core.ctx
  split
  · split <;> rfl
  · split <;> rfl

theorem State.outstanding_queued (s : State) (ws : List RegWrite) : (s.queued ws).outstanding s.me = s.outstanding s.me := by
  have hc : (s.queued ws).core s.me = (s.core s.me).setCtx s.res { s.cx with writes := s.cx.writes ++ ws } :=
    State.core_modCtx ..
  have ht : ((s.queued ws).core s.me).timed = (s.core s.me).timed := by rw [hc, Core.setCtx_timed]
  have ha : ∀ q, ((s.queued ws).core s.me).accessing q = (s.core s.me).accessing q := fun q => by
    rw [hc]; exact Core.accessing_setCtx_writes ..
  funext id
  unfold State.outstanding
  rw [ht, ha, ha]
  rfl

/-- The token that a fence writes leaves the fences not yet complete as they are. -/
theorem State.openFences_queued (s : State) (ws : List RegWrite) :
    (s.queued ws).openFences s.me (s.queued ws).cx = s.openFences s.me s.cx := by
  rw [State.cx_queued]
  unfold State.openFences State.fenceDone State.still
  rw [State.outstanding_queued]
  rfl

theorem Same.openFences_cx {v s : State} (h : Same v s) (c : Nat) : v.openFences c v.cx = s.openFences c s.cx := by
  have hm : ∀ (x : Ctx), s.openFences c x = s.openFences c (x.metered [] 0) := fun _ => rfl
  rw [h.openFences, hm, Twin.cx h, ← hm]

theorem fence_effect {s : State} {a : BitVec 6} {m : BitVec 4} {sc : BitVec 3} (hb : s.inHand) :
    Effect (.fence a m sc) s
      ((s.queued [s.wrote 1 (.g a) ((s.fenceToken m sc).setWidth 4096) (BitVec.allOnes 4096) 0]).modCx (fun x =>
        { x with fenceNo := s.cx.fenceNo + 1, fences := s.openFences s.me s.cx ++ [s.nextFence m] })) :=
  effect_nil (k := fun v => (v.writeG 1 a (v.fenceToken m sc)).modCx (fun x =>
    { x with
      fenceNo := v.cx.fenceNo + 1
      fences := (v.writeG 1 a (v.fenceToken m sc)).openFences (v.writeG 1 a (v.fenceToken m sc)).me x ++ [v.nextFence m] }))
    rfl hb rfl (fun v h => by
    have ht : v.fenceToken m sc = s.fenceToken m sc :=
      h.ofCx (fun x => (0 : BitVec 41) ++ sc ++ m ++ (x.fenceNo + 1)) (fun _ _ _ => rfl)
    have hn : v.cx.fenceNo = s.cx.fenceNo := h.ofCx (fun x => x.fenceNo) (fun _ _ _ => rfl)
    have hw := h.writeG 1 a (s.fenceToken m sc) 0
    have hf := (hw.openFences_cx s.me).trans (State.openFences_queued ..)
    have hme : (v.writeG 1 a (s.fenceToken m sc) 0).me = s.me := hw.me
    simp only [ht, hn, h.nextFence]
    refine Same.modCx hw ?_
    rw [hme, hf]
    exact congrArg (fun x : Ctx =>
      { x with fenceNo := s.cx.fenceNo + 1, fences := s.openFences s.me s.cx ++ [s.nextFence m] }) (Twin.cx hw))

theorem bar_effect {i : Instr} {s : State} {a : BitVec 6} {sc : BitVec 3}
    (hx : exec i s = issue i s (fun v => v.writeG 1 a (v.countWord sc))) (hb : s.inHand)
    (hn : (uses i).vr ++ (uses i).vw = []) :
    Effect i s (s.queued [s.wrote 1 (.g a) ((s.countWord sc).setWidth 4096) (BitVec.allOnes 4096) 0]) :=
  effect_nil hx hb hn (fun v h => by
    simp only [h.same.countWord]
    exact h.writeG ..)

theorem bara_effect {s : State} {a : BitVec 6} {sc : BitVec 3} (hb : s.inHand) :
    Effect (.bara a sc) s
      ((s.queued [s.wrote 1 (.g a) ((s.countWord sc).setWidth 4096) (BitVec.allOnes 4096) 0]).arrive s.me s.res sc) :=
  effect_nil rfl hb rfl (fun v h => by
    simp only [h.same.countWord, h.me, h.res]
    exact (h.writeG 1 a (s.countWord sc) 0).arrive ..)

/-! ### Streams (R221, R228, R230) -/

/-- The words whose writes an SBAR of classes `c` waits for: the bound write streams and the draining ones of the classes, with
the registers taken of each (R221). -/
def Ctx.sbarMarks (x : Ctx) (c : BitVec 3) : List (Nat × Nat) :=
  (x.streams.filter (fun p => p.2.bound && c.getLsbD p.2.classBit && p.2.write)).map (fun p => (p.2.id, p.2.taken)) ++
    (x.drains.filter (fun t => c.getLsbD t.classBit)).map (fun t => (t.id, t.taken))

/-- A context with one more SBAR, those complete dropped. -/
def Ctx.sbarred (x : Ctx) (c : BitVec 3) (marks : List (Nat × Nat)) : Ctx :=
  { x with sbars := x.sbars.filter (fun b => b.2.any (fun m => !x.marked m)) ++ [(c, marks)] }

/-- The read streams of classes `c` that have begun, of which an SBAR drops what was fetched ahead (R221). -/
def Ctx.fetching (x : Ctx) (c : BitVec 3) : List (Nat × Stream) :=
  (x.streams.filter (fun p => p.2.bound && c.getLsbD p.2.classBit)).filter (fun p => !p.2.write && p.2.read)

theorem Ctx.fetching_eq_nil {x : Ctx} {c : BitVec 3}
    (h : ∀ p ∈ x.streams, p.2.bound = true → c.getLsbD p.2.classBit = true → p.2.write = true ∨ p.2.read = false) :
    x.fetching c = [] := by
  unfold Ctx.fetching
  rw [List.filter_filter, List.filter_eq_nil_iff]
  rintro p hp hand
  simp only [Bool.and_eq_true, Bool.not_eq_true'] at hand
  obtain ⟨⟨hwrite, hread⟩, hbound, hclass⟩ := hand
  rcases h p hp hbound hclass with hw | hr
  · exact absurd (hw.symm.trans hwrite) (by decide)
  · exact absurd (hread.symm.trans hr) (by decide)

theorem Ctx.sbarMarks_eq (x : Ctx) (c : BitVec 3) :
    (((x.streams.filter (fun p => p.2.bound && c.getLsbD p.2.classBit)).filter (fun p => p.2.write)).map
      (fun p => (p.2.id, p.2.taken))) ++ (x.drains.filter (fun t => c.getLsbD t.classBit)).map (fun t => (t.id, t.taken)) =
      x.sbarMarks c := by
  unfold Ctx.sbarMarks
  simp only [List.filter_filter, Bool.and_comm]

theorem exec_sbar {s : State} {c : BitVec 3} (hc : c ≠ 0) : exec (.sbar c) s = issue (.sbar c) s (fun v =>
    ((v.cx.fetching c).foldl (fun u p => u.unfetch p.1) v).modCx (fun x => x.sbarred c (v.cx.sbarMarks c))) := by
  have h : exec (.sbar c) s = execSbar c s := rfl
  rw [h]
  unfold execSbar
  simp only [hc, if_false, Ctx.sbarMarks_eq]
  rfl

theorem exec_next {i : Instr} {s : State} (h : isEvent i = false) : ∃ u, exec i s = .next u := by
  obtain ⟨k, hk⟩ := exec_eq_issue h
  exact ⟨_, hk s⟩

/-- An SBAR that names no stream with data fetched ahead notes the writes that it waits for. -/
theorem sbar_effect {s : State} {c : BitVec 3} (hb : s.inHand) (hc : c ≠ 0) (hf : s.cx.fetching c = []) :
    Effect (.sbar c) s (s.modCx (fun x => x.sbarred c (s.cx.sbarMarks c))) :=
  effect_nil (exec_sbar hc) hb rfl (fun v h => by
    have h1 : v.cx.fetching c = [] := (h.ofCx (fun x => x.fetching c) (fun _ _ _ => rfl)).trans hf
    have h2 : v.cx.sbarMarks c = s.cx.sbarMarks c := h.ofCx (fun x => x.sbarMarks c) (fun _ _ _ => rfl)
    rw [h1, h2, List.foldl_nil]
    exact h.modCx (fun _ _ => rfl))

/-- The stream that an STBIND of register 24 + `c` binds (R228). -/
def State.bindStream (s : State) (a : BitVec 6) (w : BitVec 1) (c : BitVec 3) : Stream :=
  { Stream.none with id := s.seq, reg := 24 + c.toNat, write := w = 1, addr := s.cx.rg a, bound := true }

theorem stbind_effect {s : State} {a : BitVec 6} {w : BitVec 1} {c : BitVec 3} (hb : s.inHand) :
    Effect (.stbind a w c) s ((s.modCx (fun x => x.setStream (24 + c.toNat) (s.bindStream a w c))).flying
      (s.flight (.stbind a w c) 6 .ld (.streamDesc c (vaultOffset (s.cx.rg a))))) :=
  effect_nil rfl hb rfl (fun v h => by
    have hv := h.changed (f := fun x => x.setStream (24 + c.toNat) (s.bindStream a w c)) (fun _ _ _ => rfl)
    simp only [h.seq, h.rg]
    rw [← State.flight_modCx s (f := fun x => x.setStream (24 + c.toNat) (s.bindStream a w c)) rfl]
    exact hv.later ..)

section
variable {s : State} {n : Nat}

theorem State.unbind_of_unbound (h : (s.cx.stream n).bound = false) : s.unbind n = s := by
  unfold State.unbind; simp [h]

/-- A write stream unbound drains when some of its registers have still to move (R230). -/
theorem State.unbind_of_write (h : (s.cx.stream n).bound = true) (hw : (s.cx.stream n).write = true) :
    s.unbind n = s.modCx (fun x => { x.setStream n Stream.none with
      drains := x.drains ++ (if (s.cx.stream n).moved < (s.cx.stream n).taken then [s.cx.stream n] else []) }) := by
  unfold State.unbind
  simp only [h, hw, Bool.not_true, Bool.false_and, Bool.false_eq_true, if_false, Bool.true_and, decide_eq_true_eq]
  refine State.modCx_congr ?_
  split
  · rfl
  · rw [List.append_nil]; rfl

end

/-- A word that does nothing once it no longer stalls (R219, R222, R223, R227). -/
theorem wait_effect {i : Instr} {s : State} (hx : exec i s = issue i s (fun v => v)) (hb : s.inHand)
    (hn : (uses i).vr ++ (uses i).vw = []) : Effect i s s :=
  effect_nil hx hb hn (fun _ h => h.same)

theorem Seen.stream {i : Instr} {s v : State} (h : Seen i s v) (n : Nat) : v.cx.stream n = s.cx.stream n :=
  h.ofCx (fun x => x.stream n) (fun _ _ _ => rfl)

/-- Settles O46: each word by what it records and by the register it writes; the number of a fence is log entry 71. -/
theorem syncAtIssue : Obligations.SyncAtIssue := by
  intro s a sc c m k h r4 f w1 count n t hb hn hcount
  have hcount : count = s.countWord sc := by
    rw [hcount]
    unfold State.countWord State.countAt
    cases s.domainOf s.cx.lid s.me sc <;> rfl
  subst hn hcount
  refine ⟨fun w hw => ?_, ⟨_, State.wrote_is .., fence_effect hb⟩, fun i hi => ⟨_, State.wrote_is .., ?_⟩,
    ⟨_, State.wrote_is .., bara_effect hb⟩, wait_effect rfl hb rfl, ⟨exec_next rfl, fun marks hc hf hm => ?_⟩,
    fun ht => ?_, fun ht => ⟨exec_next rfl, fun hu => ?_, fun hu hw => ?_⟩⟩
  · simp only [List.mem_cons, List.not_mem_nil, or_false] at hw
    obtain rfl | rfl | rfl | rfl := hw
    · exact wait_effect rfl hb rfl
    · exact wait_effect rfl hb rfl
    · exact wait_effect rfl hb rfl
    · exact wait_effect rfl hb rfl
  · simp only [List.mem_cons, List.not_mem_nil, or_false] at hi
    obtain rfl | rfl | rfl := hi
    · exact bar_effect rfl hb rfl
    · exact bar_effect rfl hb rfl
    · exact bar_effect rfl hb rfl
  · subst hm
    exact sbar_effect hb hc (Ctx.fetching_eq_nil hf)
  · subst ht
    exact stbind_effect hb
  · subst ht
    exact effect_nil rfl hb rfl (fun v h => by rw [State.unbind_of_unbound (by rwa [h.stream])]; exact h.same)
  · subst ht
    exact effect_nil rfl hb rfl (fun v h => by
      rw [State.unbind_of_write (by rwa [h.stream]) (by rwa [h.stream]), h.stream]
      exact h.modCx (fun _ _ => rfl))

end Sys2Proof.Machine
end

section
/-!
The formats of the instruction words (R139 to R154): the bytes of an encoded instruction, and the words that the spec writes
out. Settles O1 and O3.
-/

namespace Sys2Proof

/-! ### The end mark is no part of an instruction (R139) -/

/-- Two words that agree in every field below the end mark decode alike. -/
theorem decodeWord_of_fields {w v : IWord} (h : ∀ lo len, lo + len ≤ 31 → fld w lo len = fld v lo len)
    (lx : Option (BitVec 27)) : decodeWord w lx = decodeWord v lx := by
  have hg : group w = group v := by unfold group; rw [h 27 4 (by decide)]
  have sr : decodeSR w = decodeSR v := by
    unfold decodeSR
    rw [h 0 6 (by decide), h 0 18 (by decide), h 6 6 (by decide), h 12 6 (by decide), h 18 9 (by decide)]
  have si : decodeSI w lx = decodeSI v lx := by
    unfold decodeSI immOf
    rw [h 10 6 (by decide), h 16 6 (by decide), h 22 5 (by decide), h 0 10 (by decide)]
  have co : decodeControl w = decodeControl v := by
    unfold decodeControl
    rw [h 0 11 (by decide), h 0 17 (by decide), h 0 23 (by decide), h 11 6 (by decide), h 17 6 (by decide),
      h 23 4 (by decide)]
  have sy : decodeSY w = decodeSY v := by
    unfold decodeSY
    rw [h 0 1 (by decide), h 0 3 (by decide), h 0 5 (by decide), h 0 9 (by decide), h 0 21 (by decide),
      h 1 8 (by decide), h 3 6 (by decide), h 5 4 (by decide), h 9 6 (by decide), h 15 6 (by decide),
      h 21 6 (by decide)]
  have mx : decodeMX w = decodeMX v := by
    unfold decodeMX
    rw [h 0 1 (by decide), h 0 2 (by decide), h 0 5 (by decide), h 1 1 (by decide), h 2 1 (by decide),
      h 2 3 (by decide), h 2 15 (by decide), h 2 19 (by decide), h 3 1 (by decide), h 4 1 (by decide),
      h 5 1 (by decide), h 5 2 (by decide), h 6 1 (by decide), h 6 11 (by decide), h 7 1 (by decide),
      h 7 3 (by decide), h 8 1 (by decide), h 9 1 (by decide), h 10 3 (by decide), h 13 2 (by decide),
      h 13 4 (by decide), h 15 2 (by decide), h 17 3 (by decide), h 17 4 (by decide), h 20 1 (by decide),
      h 21 3 (by decide), h 24 3 (by decide)]
  have cx : decodeCX w = decodeCX v := by
    unfold decodeCX
    rw [h 0 2 (by decide), h 0 4 (by decide), h 0 5 (by decide), h 0 6 (by decide), h 0 12 (by decide),
      h 2 2 (by decide), h 2 4 (by decide), h 2 10 (by decide), h 4 2 (by decide), h 4 8 (by decide),
      h 4 14 (by decide), h 5 1 (by decide), h 5 7 (by decide), h 6 6 (by decide), h 12 6 (by decide),
      h 18 9 (by decide)]
  have vv : decodeVV w = decodeVV v := by
    unfold decodeVV
    rw [h 0 5 (by decide), h 5 5 (by decide), h 10 5 (by decide), h 15 3 (by decide), h 18 3 (by decide),
      h 21 6 (by decide)]
  have vr : decodeVR w = decodeVR v := by
    unfold decodeVR
    rw [h 0 3 (by decide), h 0 5 (by decide), h 0 10 (by decide), h 3 2 (by decide), h 5 5 (by decide),
      h 10 5 (by decide), h 15 3 (by decide), h 18 3 (by decide), h 21 6 (by decide)]
  have vm : decodeVM w = decodeVM v := by
    unfold decodeVM
    rw [h 0 5 (by decide), h 0 10 (by decide), h 5 5 (by decide), h 10 5 (by decide), h 15 3 (by decide),
      h 15 6 (by decide), h 18 3 (by decide), h 21 6 (by decide)]
  have fs : decodeFS w = decodeFS v := by
    unfold decodeFS
    rw [h 0 1 (by decide), h 0 6 (by decide), h 1 5 (by decide), h 6 5 (by decide), h 11 5 (by decide),
      h 16 3 (by decide), h 19 3 (by decide), h 22 5 (by decide)]
  have ml : decodeML w = decodeML v := by
    unfold decodeML
    rw [h 0 10 (by decide), h 10 6 (by decide), h 16 3 (by decide), h 16 5 (by decide), h 16 6 (by decide),
      h 19 3 (by decide), h 21 1 (by decide), h 22 5 (by decide)]
  have ma : decodeMA w = decodeMA v := by
    unfold decodeMA
    rw [h 0 1 (by decide), h 1 3 (by decide), h 4 6 (by decide), h 10 6 (by decide), h 16 6 (by decide),
      h 22 5 (by decide)]
  have ms : decodeMS w = decodeMS v := by
    unfold decodeMS
    rw [h 0 3 (by decide), h 0 5 (by decide), h 0 9 (by decide), h 3 1 (by decide), h 3 4 (by decide),
      h 3 6 (by decide), h 3 18 (by decide), h 4 11 (by decide), h 5 1 (by decide), h 5 3 (by decide),
      h 5 4 (by decide), h 5 10 (by decide), h 6 3 (by decide), h 7 8 (by decide), h 8 7 (by decide),
      h 9 4 (by decide), h 9 5 (by decide), h 9 6 (by decide), h 13 2 (by decide), h 13 8 (by decide),
      h 14 1 (by decide), h 15 6 (by decide), h 21 6 (by decide)]
  unfold decodeWord
  rw [hg, sr, si, co, sy, mx, cx, vv, vr, vm, fs, ml, ma, ms]

/-- A word with the end mark added. -/
def marked (w : IWord) : IWord := iw (w.toNat + 2147483648)

theorem iw_toNat_self (w : IWord) : iw w.toNat = w := BitVec.ofNat_toNat ..

theorem fld_marked_word (w : IWord) {lo len : Nat} (h : lo + len ≤ 31) : fld (marked w) lo len = fld w lo len := by
  unfold marked; rw [fld_marked _ _ _ h, iw_toNat_self]

theorem group_marked (w : IWord) : group (marked w) = group w := by
  unfold group; rw [fld_marked_word w (by decide)]

theorem decodeWord_marked (w : IWord) (lx : Option (BitVec 27)) : decodeWord (marked w) lx = decodeWord w lx :=
  decodeWord_of_fields (fun _ _ h => fld_marked_word w h) lx

theorem endMark_marked {w : IWord} (h : endMark w = false) : endMark (marked w) = true := by
  have h0 : ¬ fld w 31 1 = 1#1 := of_decide_eq_false h
  have hw := w.isLt
  have hb : w.toNat < 2147483648 := by
    by_contra hc
    exact h0 (by rw [← iw_toNat_self w]; exact fld_eq 1#1 (by decide) (by simp; omega))
  have : fld (marked w) 31 1 = 1#1 := fld_eq 1#1 (by decide) (by simp; omega)
  simp [endMark, this]

end Sys2Proof

namespace Sys2Proof.Laws

/-- The encoder and the decoder agree on every instruction. -/
theorem roundTrip (i : Instr) : RoundTrip.Statement i := by
  cases i
  exacts [RoundTrip.nop, RoundTrip.add _ _ _, RoundTrip.sub _ _ _, RoundTrip.and _ _ _, RoundTrip.or _ _ _,
    RoundTrip.xor _ _ _, RoundTrip.andn _ _ _, RoundTrip.shl _ _ _, RoundTrip.shr _ _ _, RoundTrip.sra _ _ _,
    RoundTrip.rol _ _ _, RoundTrip.ror _ _ _, RoundTrip.mul _ _ _, RoundTrip.mulh _ _ _, RoundTrip.mulhn _ _ _,
    RoundTrip.div _ _ _, RoundTrip.divn _ _ _, RoundTrip.rem _ _ _, RoundTrip.remn _ _ _, RoundTrip.min _ _ _,
    RoundTrip.max _ _ _, RoundTrip.minn _ _ _, RoundTrip.maxn _ _ _, RoundTrip.ceq _ _ _, RoundTrip.cne _ _ _,
    RoundTrip.clt _ _ _, RoundTrip.cle _ _ _, RoundTrip.cltn _ _ _, RoundTrip.clen _ _ _, RoundTrip.sel _ _ _,
    RoundTrip.clz _ _, RoundTrip.ctz _ _, RoundTrip.popc _ _, RoundTrip.brev _ _, RoundTrip.bswap _ _,
    RoundTrip.exts _ _ _, RoundTrip.extz _ _ _, RoundTrip.addW _ _ _, RoundTrip.subW _ _ _, RoundTrip.shlW _ _ _,
    RoundTrip.shrW _ _ _, RoundTrip.sraW _ _ _, RoundTrip.mulW _ _ _, RoundTrip.divW _ _ _, RoundTrip.divnW _ _ _,
    RoundTrip.remW _ _ _, RoundTrip.remnW _ _ _, RoundTrip.addi _ _ _, RoundTrip.andi _ _ _, RoundTrip.ori _ _ _,
    RoundTrip.xori _ _ _, RoundTrip.shli _ _ _, RoundTrip.shri _ _ _, RoundTrip.srai _ _ _, RoundTrip.muli _ _ _,
    RoundTrip.ceqi _ _ _, RoundTrip.clti _ _ _, RoundTrip.cltni _ _ _, RoundTrip.movhi _ _ _, RoundTrip.adpc _ _,
    RoundTrip.addwi _ _ _, RoundTrip.beq _ _ _, RoundTrip.bne _ _ _, RoundTrip.blt _ _ _, RoundTrip.bge _ _ _,
    RoundTrip.bltn _ _ _, RoundTrip.bgen _ _ _, RoundTrip.jmp _, RoundTrip.jal _ _, RoundTrip.jr _ _,
    RoundTrip.jalr _ _ _, RoundTrip.loop _ _, RoundTrip.knext, RoundTrip.endTask, RoundTrip.trap _ _,
    RoundTrip.srr _ _, RoundTrip.srw _ _ _, RoundTrip.srs _ _ _, RoundTrip.src _ _ _, RoundTrip.idle _ _,
    RoundTrip.digest _ _ _, RoundTrip.brk, RoundTrip.eret, RoundTrip.tlbi _ _, RoundTrip.swctx, RoundTrip.flushi,
    RoundTrip.retime _ _ _, RoundTrip.mma _ _ _ _ _ _ _ _ _ _, RoundTrip.mmas _ _ _ _ _ _ _ _ _,
    RoundTrip.mmag _ _ _ _ _ _ _ _ _ _, RoundTrip.mhad _ _ _, RoundTrip.mzero _ _, RoundTrip.mdrain _ _ _ _ _ _ _ _ _,
    RoundTrip.mload _ _ _ _, RoundTrip.ecw _ _, RoundTrip.ecr _ _, RoundTrip.cpy _ _ _ _, RoundTrip.cpyx _ _,
    RoundTrip.gcfg _ _, RoundTrip.ctblk _ _, RoundTrip.ctsnap _ _, RoundTrip.ctqry _ _ _, RoundTrip.ctstep _,
    RoundTrip.ctclr _ _, RoundTrip.ctsave _, RoundTrip.ctload _, RoundTrip.kvcommit _ _ _, RoundTrip.kvreset _ _ _,
    RoundTrip.xbind _ _, RoundTrip.xstat _ _, RoundTrip.rcfg _ _ _, RoundTrip.rrst _, RoundTrip.hcfg _ _,
    RoundTrip.harm _ _, RoundTrip.hread _ _ _, RoundTrip.vadd _ _ _ _ _, RoundTrip.vsub _ _ _ _ _,
    RoundTrip.vmul _ _ _ _ _, RoundTrip.vfma _ _ _ _ _, RoundTrip.vfms _ _ _ _ _, RoundTrip.vfnma _ _ _ _ _,
    RoundTrip.vmin _ _ _ _ _, RoundTrip.vmax _ _ _ _ _, RoundTrip.vabs _ _ _ _, RoundTrip.vneg _ _ _ _,
    RoundTrip.vand _ _ _ _ _, RoundTrip.vor _ _ _ _ _, RoundTrip.vxor _ _ _ _ _, RoundTrip.vnot _ _ _ _,
    RoundTrip.vshl _ _ _ _ _, RoundTrip.vshr _ _ _ _ _, RoundTrip.vsra _ _ _ _ _, RoundTrip.vmov _ _ _ _,
    RoundTrip.vsel _ _ _ _ _, RoundTrip.vceq _ _ _ _ _, RoundTrip.vcne _ _ _ _ _, RoundTrip.vclt _ _ _ _ _,
    RoundTrip.vcle _ _ _ _ _, RoundTrip.vscaleb _ _ _ _ _, RoundTrip.vexpo _ _ _ _, RoundTrip.vcvt _ _ _ _ _ _,
    RoundTrip.vcvts _ _ _ _ _ _, RoundTrip.vrmax _ _ _ _, RoundTrip.vrmin _ _ _ _, RoundTrip.vrsum _ _ _ _,
    RoundTrip.vrssq _ _ _ _, RoundTrip.vramax _ _ _ _, RoundTrip.vrarg _ _ _ _, RoundTrip.vcsum _ _ _ _,
    RoundTrip.vscan _ _ _ _, RoundTrip.vbrow _ _ _ _, RoundTrip.vbcol _ _ _ _, RoundTrip.vsplat _ _ _ _,
    RoundTrip.vins _ _ _ _, RoundTrip.vext _ _ _ _, RoundTrip.vperm _ _ _ _ _, RoundTrip.vtrans _ _ _ _,
    RoundTrip.viota _ _ _, RoundTrip.vrand _ _ _ _, RoundTrip.voxd _ _ _ _ _, RoundTrip.voxe _ _ _ _,
    RoundTrip.mand _ _ _, RoundTrip.mor _ _ _, RoundTrip.mxor _ _ _, RoundTrip.mnot _ _, RoundTrip.mpopc _ _ _,
    RoundTrip.vtree _ _ _ _ _, RoundTrip.ppinit _, RoundTrip.ppdeg _ _, RoundTrip.ppmul _ _ _ _ _,
    RoundTrip.ppdiv _ _ _ _ _, RoundTrip.pprd _ _ _ _ _, RoundTrip.ppscale _ _, RoundTrip.ppstat _ _,
    RoundTrip.fexp2 _ _ _ _, RoundTrip.fexp2m _ _ _ _ _, RoundTrip.flog2 _ _ _ _, RoundTrip.frcp _ _ _ _,
    RoundTrip.frsq _ _ _ _, RoundTrip.fsqrt _ _ _ _, RoundTrip.fsin _ _ _ _, RoundTrip.fcos _ _ _ _,
    RoundTrip.ftanh _ _ _ _, RoundTrip.fsigm _ _ _ _, RoundTrip.ferf _ _ _ _, RoundTrip.fsilu _ _ _ _,
    RoundTrip.ldb _ _ _, RoundTrip.ldh _ _ _, RoundTrip.ldw _ _ _, RoundTrip.ldd _ _ _, RoundTrip.ldbn _ _ _,
    RoundTrip.ldhn _ _ _, RoundTrip.ldwn _ _ _, RoundTrip.stb _ _ _, RoundTrip.sth _ _ _, RoundTrip.stw _ _ _,
    RoundTrip.std _ _ _, RoundTrip.vld _ _ _, RoundTrip.vst _ _ _, RoundTrip.vldx _ _ _, RoundTrip.ldf _ _ _,
    RoundTrip.ppsave _ _ _, RoundTrip.ppload _ _ _, RoundTrip.aadd _ _ _ _ _, RoundTrip.amin _ _ _ _ _,
    RoundTrip.amax _ _ _ _ _, RoundTrip.aminn _ _ _ _ _, RoundTrip.amaxn _ _ _ _ _, RoundTrip.aand _ _ _ _ _,
    RoundTrip.aor _ _ _ _ _, RoundTrip.axor _ _ _ _ _, RoundTrip.aswap _ _ _ _ _, RoundTrip.acas _ _ _ _ _,
    RoundTrip.agts _ _ _ _ _, RoundTrip.agtsn _ _ _ _ _, RoundTrip.avswap _ _ _ _ _, RoundTrip.atagswap _ _ _ _ _,
    RoundTrip.afadd _ _ _ _ _, RoundTrip.ldacq _ _ _, RoundTrip.strel _ _ _, RoundTrip.fence _ _ _,
    RoundTrip.fwait _ _, RoundTrip.bar _ _ _, RoundTrip.bara _ _, RoundTrip.barw _ _ _, RoundTrip.barq _ _,
    RoundTrip.sbar _, RoundTrip.hwait _ _ _, RoundTrip.rwait _ _ _ _, RoundTrip.radvp _ _, RoundTrip.radvc _ _,
    RoundTrip.enq _ _, RoundTrip.deq _ _, RoundTrip.qwait _ _, RoundTrip.stbind _ _ _, RoundTrip.stunb _,
    RoundTrip.penn _ _ _, RoundTrip.residencySwitch _, RoundTrip.idleCoreDispatch _, RoundTrip.idleTimeout _,
    RoundTrip.periodBoundary _, RoundTrip.sampleArrival _ _ _ _, RoundTrip.missedSampleTime _,
    RoundTrip.regionResumption _, RoundTrip.outputSampleTime _, RoundTrip.railSwitchEnd _,
    RoundTrip.energyBucketUpdate _, RoundTrip.ballastPass _, RoundTrip.hoistReach _ _ _,
    RoundTrip.pendingSlotActionRelease _ _ _, RoundTrip.barrierCompletion _ _ _, RoundTrip.registerDataArrival _,
    RoundTrip.waitLimitExpiry _, RoundTrip.matrixCommandStart _, RoundTrip.matrixCommandEnd _,
    RoundTrip.matrixWaitLimitExpiry _, RoundTrip.copyBegin _ _, RoundTrip.chunkCommit _ _,
    RoundTrip.copyChunkFault _ _, RoundTrip.copyCompletionAction _ _, RoundTrip.watermarkWaitLimitExpiry _ _,
    RoundTrip.copyCancelComplete _ _, RoundTrip.apertureCommandArrival _ _ _, RoundTrip.contactCommandStart _,
    RoundTrip.streamTransfer _ _ _, RoundTrip.fabricWrite _, RoundTrip.fabricAtomic _, RoundTrip.fabricRead _,
    RoundTrip.enqueueRequest _, RoundTrip.launchPacketTake _, RoundTrip.launchCompletion _,
    RoundTrip.hostWindowSubmit _ _, RoundTrip.queueEnable _ _, RoundTrip.queueDisable _ _, RoundTrip.queueSwapOut _ _,
    RoundTrip.queueSwapIn _ _, RoundTrip.queueGenerationChange _ _, RoundTrip.hbmStackFailure _,
    RoundTrip.preemptSave _ _, RoundTrip.saveComplete _, RoundTrip.preemptRestore _ _, RoundTrip.restoreComplete _,
    RoundTrip.partitionEntryCommit _ _, RoundTrip.clusterEntryCommit _ _, RoundTrip.sourceEnable _ _,
    RoundTrip.sourceDisable _ _, RoundTrip.rateEntryCommit _ _, RoundTrip.crossingEnable _ _,
    RoundTrip.crossingDisable _ _, RoundTrip.regionStatusClear _ _, RoundTrip.powerEntryCommit _,
    RoundTrip.replicaRelease _, RoundTrip.replicaDiscard _, RoundTrip.replicaDigestArrival _ _ _,
    RoundTrip.replicaDigestTimeout _, RoundTrip.loaderLoad _ _, RoundTrip.loaderUnload _ _, RoundTrip.loadDone _,
    RoundTrip.constantStoreWrite _ _, RoundTrip.bar4Access _ _, RoundTrip.registerWrite _ _, RoundTrip.firmwareStart _,
    RoundTrip.perst _, RoundTrip.trainingDone _ _, RoundTrip.tagsDone, RoundTrip.selftestDone _,
    RoundTrip.lockingDone _, RoundTrip.cxlExpanderLoss _ _ _, RoundTrip.gxlPortFailure _, RoundTrip.scrubRead _ _,
    RoundTrip.powerLoss, RoundTrip.mirrorCopyComplete _ _, RoundTrip.swapInCopyComplete _,
    RoundTrip.packetStagingWrite _ _ _]

end Sys2Proof.Laws

namespace Sys2Proof.Machine

/-! ### The words of an instruction -/

/-- What a decodable instruction has for words, and what the decoder makes of them. -/
theorem encode_of_word {i : Instr} (h : isEvent i = false) : ∃ w lx, encode i = some (w, lx) ∧
    decodeWord w lx = .ok i ∧ endMark w = false ∧ group w ≠ 13 ∧ (lx.isSome = true → group w = 1) := by
  unfold isEvent at h
  cases he : encode i with
  | none => rw [he] at h; cases h
  | some p =>
    obtain ⟨w, lx⟩ := p
    exact ⟨w, lx, rfl, Laws.roundTrip i w lx he⟩

/-- The LX word that extends an SI word (R140, R145), with E = 0. -/
def lxWord (x : BitVec 27) : IWord := iw (0x68000000 + x.toNat)

theorem lxWord_toNat (x : BitVec 27) : (lxWord x).toNat = 0x68000000 + x.toNat := by
  have := x.isLt
  unfold lxWord
  rw [iw_toNat]
  omega

theorem group_lxWord (x : BitVec 27) : group (lxWord x) = 13 := by
  have := x.isLt
  unfold lxWord
  rw [group_iw]
  omega

theorem endMark_lxWord (x : BitVec 27) : endMark (lxWord x) = false := by
  have := x.isLt
  exact endMark_iw (by omega)

theorem lxBits_lxWord (x : BitVec 27) : lxBits (lxWord x) = some x := by
  have hx := x.isLt
  unfold lxBits
  rw [if_pos (group_lxWord x)]
  exact congrArg some (fld_at x 13 0 (by decide) (by omega) (by decide))

theorem lxBits_marked (w : IWord) : lxBits (marked w) = lxBits w := by
  unfold lxBits
  rw [group_marked, fld_marked_word w (by decide)]

theorem lxBits_of_group {w : IWord} (h : group w ≠ 13) : lxBits w = none := if_neg h

theorem encodeWords_one {i : Instr} {w : IWord} (h : encode i = some (w, none)) (e : Bool) :
    encodeWords i e = [if e then marked w else w] := by
  unfold encodeWords
  rw [h]
  cases e
  · exact congrArg (fun v => [v]) (iw_toNat_self w)
  · rfl

theorem encodeWords_two {i : Instr} {w : IWord} {x : BitVec 27} (h : encode i = some (w, some x)) (e : Bool) :
    encodeWords i e = [w, if e then marked (lxWord x) else lxWord x] := by
  unfold encodeWords
  rw [h]
  cases e
  · rfl
  · simp only [if_true, marked, lxWord_toNat]

/-! ### Words as bytes (R139) -/

/-- A byte behind others counts below them. -/
theorem toNat_append_byte {n : Nat} (x : BitVec n) (b : Byte) : (x ++ b).toNat = x.toNat * 256 + b.toNat := by
  rw [BitVec.toNat_append, ← Nat.shiftLeft_add_eq_or_of_lt b.isLt, Nat.shiftLeft_eq]

theorem takeWord_leBytes (w : IWord) (rest : List Byte) : takeWord (leBytes 4 w.toNat ++ rest) = some (w, rest) := by
  have hw := w.isLt
  simp only [leBytes, List.cons_append, List.nil_append, takeWord, Option.some.injEq, Prod.mk.injEq, and_true]
  apply BitVec.eq_of_toNat_eq
  simp only [toNat_append_byte, BitVec.toNat_ofNat]
  omega

theorem codeBytes_cons (w : IWord) (ws : List IWord) : codeBytes (w :: ws) = leBytes 4 w.toNat ++ codeBytes ws := rfl

@[simp] theorem codeBytes_nil : codeBytes [] = [] := rfl

/-- A word that does not wait for an LX word is decoded alone. -/
theorem decodeBytes_one {w : IWord} (h : endMark w = true) (rest : List Byte) :
    decodeBytes (codeBytes [w] ++ rest) = (decodeWord w none).map (fun i => (i, rest)) := by
  rw [codeBytes_cons, codeBytes_nil, List.append_nil]
  unfold decodeBytes
  simp only [takeWord_leBytes, h, Bool.not_true, Bool.and_false, Bool.false_eq_true, if_false]

/-- An SI word that does not end its bundle is decoded with the LX word behind it. -/
theorem decodeBytes_two {w v : IWord} {x : BitVec 27} (hg : group w = 1) (he : endMark w = false) (hx : lxBits v = some x)
    (rest : List Byte) :
    decodeBytes (codeBytes [w, v] ++ rest) = (decodeWord w (some x)).map (fun i => (i, rest)) := by
  rw [codeBytes_cons, codeBytes_cons, codeBytes_nil, List.append_nil, List.append_assoc]
  unfold decodeBytes
  simp only [takeWord_leBytes, hg, he, hx, decide_true, Bool.not_false, Bool.and_self, if_true]

/-- Settles O3: from the bytes of an instruction the decoder reads exactly this instruction. -/
theorem roundTripBytes : Obligations.RoundTripBytes := by
  intro i rest _ hi
  obtain ⟨w, lx, he, hd, hm, -, hsi⟩ := encode_of_word hi
  cases lx with
  | none =>
    rw [encodeWords_one he, if_pos rfl, decodeBytes_one (endMark_marked hm), decodeWord_marked, hd]
    rfl
  | some x =>
    rw [encodeWords_two he, if_pos rfl,
      decodeBytes_two (hsi rfl) hm ((lxBits_marked _).trans (lxBits_lxWord x)), hd]
    rfl

/-- Settles O1: the words that the spec writes out. -/
theorem wordsDecode : Obligations.WordsDecode := by
  unfold Obligations.WordsDecode
  decide

end Sys2Proof.Machine
end

section
/-!
Fetching a bundle (R139 to R142): the words that the instruction store holds, their slots, and the instructions they decode to.
Settles O2 and O9.
-/

namespace Sys2Proof.Machine

/-! ### A word that fails to decode (R142, R143) -/

/-- The decoder on an SR word with op9 = 0. -/
theorem decodeWord_op9_zero {w : IWord} (hg : group w = 0) (ho : fld w 18 9 = 0) (lx : Option (BitVec 27)) :
    decodeWord w lx = clear "NOP" (fld w 0 18 = 0#18) .nop := by
  rw [Laws.decodeWord_SR hg]
  unfold decodeSR
  rw [ho]
  rfl

/-- With op9 clear, the 27 bits below the group are clear when the 18 below op9 are. -/
theorem fld_low27_eq_zero {w : IWord} (ho : fld w 18 9 = 0) : fld w 0 27 = 0 ↔ fld w 0 18 = 0#18 := by
  have h := congrArg BitVec.toNat ho
  rw [← BitVec.toNat_inj, ← BitVec.toNat_inj]
  simp only [fld, BitVec.extractLsb'_toNat, Nat.shiftRight_eq_div_pow] at h ⊢
  simp at h ⊢
  omega

/-- A word of the scalar groups alone keeps steps 3 and 4; when it does not decode, it raises ILLEGAL_INSTRUCTION. -/
theorem State.framed_undecodable (s : State) (c : Nat) (res : BitVec 1) (pc : Word) {w : IWord} {e : DecodeError}
    (hg : group w < 6) (hd : decodeWord w none = .error e) : s.framed c res pc [w] = .trap (illegal pc ⟨.nop, 0, w⟩) := by
  have hf : ([w].zipIdx).find? (fun p => decide (14 ≤ group p.1)) = none := by
    rw [List.find?_eq_none]
    intro p hp
    rw [List.mem_singleton.mp hp, decide_eq_true_iff]
    exact Nat.not_le.mpr (Nat.lt_trans hg (by decide))
  have hc : classOf w = .s := if_pos hg
  have h4 : step4 0 none [] false [w] = none := by
    unfold step4
    rw [if_neg (by omega), hc]
    rfl
  have hall : decodeAll 0 [w] = ([], some (0, w)) := by
    unfold decodeAll
    rw [if_neg (by omega)]
    simp only [List.head?_nil, Option.bind_none, hd]
  unfold State.framed
  simp only [hf, h4, hall]
  rfl

/-- Settles O2: a word with op9 = 0 is NOP when its other bits are clear, and else no instruction. -/
theorem reservedNopBits : Obligations.ReservedNopBits := by
  intro s c res pc w hg ho
  have hd := decodeWord_op9_zero hg ho none
  refine ⟨fun h => ?_, fun h => ?_⟩
  · rw [hd, (fld_low27_eq_zero ho).mp h]; rfl
  · have h := mt (fld_low27_eq_zero ho).mpr h
    have he : decodeWord w none = .error (.reservedField "NOP") := by rw [hd, decide_eq_false h]; rfl
    exact ⟨⟨_, he⟩, _, State.framed_undecodable s c res pc (by omega) he, rfl, rfl, rfl, rfl⟩

/-! ### Bytes of the store -/

/-- Fewer bytes of a memory are the first of more. -/
theorem Memory.take_leading (m : Memory) (a : Nat) {k n : Nat} (h : k ≤ n) :
    (Memory.leading n m a).take k = Memory.leading k m a := by
  induction k generalizing n m a with
  | zero => rfl
  | succ k ih =>
    obtain ⟨n, rfl⟩ : ∃ l, n = l + 1 := ⟨n - 1, by omega⟩
    have ih := fun m a => ih m a (n := n) (by omega)
    match m with
    | [] => simp only [Memory.leading, List.take_succ_cons, ih]
    | (j, b) :: t =>
      unfold Memory.leading
      split <;> simp only [List.take_succ_cons, ih]

theorem State.take_sample (s : State) (key : Nat) {k n : Nat} (h : k ≤ n) : (s.sample key n).take k = s.sample key k :=
  Memory.take_leading _ _ h

theorem leNat_leBytes (w : IWord) : leNat (leBytes 4 w.toNat) = w.toNat := by
  have hw := w.isLt
  simp only [leBytes, leNat, BitVec.toNat_ofNat]
  omega

theorem length_leBytes (n v : Nat) : (leBytes n v).length = n := by
  induction n generalizing v with
  | zero => rfl
  | succ n ih => exact congrArg (· + 1) (ih _)

theorem length_codeBytes (ws : List IWord) : (codeBytes ws).length = 4 * ws.length := by
  induction ws with
  | nil => rfl
  | cons w ws ih => rw [codeBytes_cons, List.length_append, length_leBytes, ih, List.length_cons]; omega

/-- The word of four bytes of a list. -/
def wordAt (bs : List Byte) (i : Nat) : IWord := BitVec.ofNat 32 (leNat ((bs.drop (4 * i)).take 4))

theorem wordAt_zero (w : IWord) (bs : List Byte) : wordAt (leBytes 4 w.toNat ++ bs) 0 = w := by
  unfold wordAt
  rw [Nat.mul_zero, List.drop_zero, List.take_left' (length_leBytes ..), leNat_leBytes]
  exact iw_toNat_self w

theorem wordAt_succ (w : IWord) (bs : List Byte) (i : Nat) : wordAt (leBytes 4 w.toNat ++ bs) (i + 1) = wordAt bs i := by
  unfold wordAt
  rw [show 4 * (i + 1) = 4 + 4 * i by omega, ← List.drop_drop, List.drop_left' (length_leBytes ..)]

/-- The words of a list of bytes that begins with those of `ws`. -/
theorem map_wordAt_codeBytes (ws : List IWord) (bs : List Byte) (k : Nat) :
    (List.range (ws.length + k)).map (wordAt (codeBytes ws ++ bs)) = ws ++ (List.range k).map (wordAt bs) := by
  induction ws with
  | nil => simp
  | cons w ws ih =>
    rw [List.length_cons, Nat.add_right_comm, List.range_succ_eq_map, List.map_cons, List.map_map, codeBytes_cons,
      List.append_assoc, wordAt_zero]
    exact congrArg (w :: ·) ((List.map_congr_left (fun i _ => wordAt_succ w _ i)).trans ih)

theorem State.iwords_eq (s : State) (c a n : Nat) :
    s.iwords c a n = (List.range n).map (wordAt (s.sample (istoreKey c a) (4 * n))) := rfl

/-- The words of a block that begins with a bundle. -/
theorem State.iwords_of_code {s : State} {c a : Nat} {ws : List IWord} {n : Nat} (hn : ws.length ≤ n)
    (h : s.sample (istoreKey c a) (4 * ws.length) = codeBytes ws) : ∃ l, s.iwords c a n = ws ++ l := by
  have hs : s.sample (istoreKey c a) (4 * n) = codeBytes ws ++ (s.sample (istoreKey c a) (4 * n)).drop (4 * ws.length) := by
    rw [← h, ← State.take_sample s _ (show 4 * ws.length ≤ 4 * n by omega), List.take_append_drop]
  have hm := map_wordAt_codeBytes ws ((s.sample (istoreKey c a) (4 * n)).drop (4 * ws.length)) (n - ws.length)
  rw [← hs, Nat.add_sub_cancel' hn] at hm
  exact ⟨_, hm⟩

/-! ### The end of a bundle (R139, R141) -/

theorem upToEnd_append {l : List IWord} (h : ∀ w ∈ l, endMark w = false) (ws : List IWord) :
    upToEnd (l ++ ws) = (upToEnd ws).map (fun t => l ++ t) := by
  induction l with
  | nil => simp
  | cons w l ih =>
    rw [List.cons_append, upToEnd, if_neg (by rw [h w (List.mem_cons_self ..)]; decide),
      ih (fun v hv => h v (List.mem_cons_of_mem _ hv)), Option.map_map]
    rfl

theorem upToEnd_marked {w : IWord} (h : endMark w = true) (ws : List IWord) : upToEnd (w :: ws) = some [w] := by
  rw [upToEnd, if_pos h]

/-- The words of an instruction that does not end its bundle carry no end mark. -/
theorem endMark_of_mem {i : Instr} (h : isEvent i = false) : ∀ w ∈ encodeWords i false, endMark w = false := by
  obtain ⟨w, lx, he, -, hm, -, -⟩ := encode_of_word h
  cases lx with
  | none => rw [encodeWords_one he]; simpa using hm
  | some x => rw [encodeWords_two he]; simp [hm, endMark_lxWord]

theorem upToEnd_encodeWords {i : Instr} (h : isEvent i = false) (l : List IWord) :
    upToEnd (encodeWords i true ++ l) = some (encodeWords i true) := by
  obtain ⟨w, lx, he, -, hm, -, -⟩ := encode_of_word h
  cases lx with
  | none => rw [encodeWords_one he]; exact upToEnd_marked (endMark_marked hm) l
  | some x =>
    rw [encodeWords_two he, if_pos rfl, List.cons_append, upToEnd, if_neg (by rw [hm]; decide)]
    exact congrArg (Option.map _) (upToEnd_marked (endMark_marked (endMark_lxWord x)) l)

/-- The words of a bundle end at its own end mark, whatever lies behind. -/
theorem upToEnd_bundleWords {is : List Instr} (hn : is ≠ []) (h : ∀ i ∈ is, isEvent i = false) (l : List IWord) :
    upToEnd (bundleWords is ++ l) = some (bundleWords is) := by
  induction is using bundleWords.induct with
  | case1 => exact absurd rfl hn
  | case2 i => exact upToEnd_encodeWords (h i (List.mem_cons_self ..)) l
  | case3 i j is ih =>
    have hi := endMark_of_mem (h i (List.mem_cons_self ..))
    rw [bundleWords, List.append_assoc, upToEnd_append hi,
      ih (by simp) (fun k hk => h k (List.mem_cons_of_mem _ hk))]
    rfl

/-! ### Decoding a bundle (R142) -/

/-- A word that decodes lies in a group below that of the LX words. -/
theorem group_of_decodeWord {w : IWord} {lx : Option (BitVec 27)} {i : Instr} (h : decodeWord w lx = .ok i) : group w < 13 := by
  unfold decodeWord at h
  split at h
  case h_14 | h_15 => cases h
  all_goals omega

/-- The instructions that a list of words decodes to, and the word that does not decode. -/
def decoded (n : Nat) (ws : List IWord) : List Instr × Option (Nat × IWord) :=
  ((decodeAll n ws).1.map (fun w => w.i), (decodeAll n ws).2)

theorem decoded_nil (n : Nat) : decoded n [] = ([], none) := rfl

theorem decoded_lx {w : IWord} (h : group w = 13) (n : Nat) (ws : List IWord) : decoded n (w :: ws) = decoded (n + 1) ws := by
  unfold decoded; rw [decodeAll, if_pos h]

theorem decoded_word {w : IWord} {ws : List IWord} {i : Instr} (h : decodeWord w (ws.head?.bind lxBits) = .ok i) (n : Nat) :
    decoded n (w :: ws) = (i :: (decoded (n + 1) ws).1, (decoded (n + 1) ws).2) := by
  have hg := group_of_decodeWord h
  unfold decoded
  rw [decodeAll, if_neg (by omega), h]
  rfl

/-- The words of an instruction decode to it when no LX word follows. -/
theorem decoded_encodeWords {i : Instr} (hi : isEvent i = false) (e : Bool) (n : Nat) {ws : List IWord}
    (hw : ws.head?.bind lxBits = none) : ∃ k, decoded n (encodeWords i e ++ ws) = (i :: (decoded k ws).1, (decoded k ws).2) := by
  obtain ⟨w, lx, he, hd, -, -, -⟩ := encode_of_word hi
  cases lx with
  | none =>
    rw [encodeWords_one he]
    refine ⟨n + 1, decoded_word ?_ n⟩
    change decodeWord _ (ws.head?.bind lxBits) = _
    rw [hw]
    cases e
    · exact hd
    · exact (decodeWord_marked w none).trans hd
  | some x =>
    rw [encodeWords_two he]
    have hl : group (if e then marked (lxWord x) else lxWord x) = 13 := by
      cases e
      · exact group_lxWord x
      · exact (group_marked _).trans (group_lxWord x)
    have hx : lxBits (if e then marked (lxWord x) else lxWord x) = some x := by
      cases e
      · exact lxBits_lxWord x
      · exact (lxBits_marked _).trans (lxBits_lxWord x)
    refine ⟨n + 2, ?_⟩
    have hfirst : decodeWord w ((_ :: ws).head?.bind lxBits) = .ok i := (congrArg (decodeWord w) hx).trans hd
    rw [List.cons_append, List.cons_append, List.nil_append, decoded_word hfirst, decoded_lx hl]

/-- The first word of an instruction is no LX word. -/
theorem head_encodeWords {i : Instr} (hi : isEvent i = false) (e : Bool) (ws : List IWord) :
    (encodeWords i e ++ ws).head?.bind lxBits = none := by
  obtain ⟨w, lx, he, -, -, hg, -⟩ := encode_of_word hi
  cases lx with
  | none =>
    rw [encodeWords_one he, List.cons_append, List.head?_cons, Option.bind_some]
    cases e
    · rw [if_neg Bool.false_ne_true, lxBits_of_group hg]
    · rw [if_pos rfl, lxBits_marked, lxBits_of_group hg]
  | some x => rw [encodeWords_two he, List.cons_append, List.head?_cons, Option.bind_some, lxBits_of_group hg]

theorem head_bundleWords {is : List Instr} (h : ∀ i ∈ is, isEvent i = false) : (bundleWords is).head?.bind lxBits = none := by
  match is with
  | [] => rfl
  | [i] => simpa [bundleWords] using head_encodeWords (h i (List.mem_cons_self ..)) true []
  | i :: _ :: _ => exact head_encodeWords (h i (List.mem_cons_self ..)) false _

/-- The words of a bundle decode to its instructions. -/
theorem decoded_bundleWords {is : List Instr} (h : ∀ i ∈ is, isEvent i = false) (n : Nat) :
    decoded n (bundleWords is) = (is, none) := by
  induction is using bundleWords.induct generalizing n with
  | case1 => rfl
  | case2 i =>
    obtain ⟨k, hk⟩ := decoded_encodeWords (h i (List.mem_cons_self ..)) true n (ws := []) rfl
    rw [List.append_nil] at hk
    exact hk
  | case3 i j is ih =>
    have hr := fun k hk => h k (List.mem_cons_of_mem i hk)
    obtain ⟨k, hk⟩ := decoded_encodeWords (h i (List.mem_cons_self ..)) false n (head_bundleWords hr)
    rw [bundleWords, hk, ih hr]

/-- The words of an instruction lie in the groups that have instructions, or are LX words. -/
theorem group_encodeWords {i : Instr} (hi : isEvent i = false) (e : Bool) : ∀ w ∈ encodeWords i e, group w < 14 := by
  obtain ⟨w, lx, he, hd, -, -, -⟩ := encode_of_word hi
  have hg := group_of_decodeWord hd
  have hmark : ∀ v, group v < 14 → group (if e then marked v else v) < 14 := by
    intro v hv
    split
    · rwa [group_marked]
    · exact hv
  cases lx with
  | none =>
    rw [encodeWords_one he]
    exact List.forall_mem_singleton.mpr (hmark w (by omega))
  | some x =>
    rw [encodeWords_two he]
    exact List.forall_mem_cons.mpr ⟨by omega, List.forall_mem_singleton.mpr (hmark _ (by rw [group_lxWord]; decide))⟩

theorem group_bundleWords {is : List Instr} (h : ∀ i ∈ is, isEvent i = false) : ∀ w ∈ bundleWords is, group w < 14 := by
  induction is using bundleWords.induct with
  | case1 => exact fun w hw => nomatch hw
  | case2 i => exact group_encodeWords (h i (List.mem_cons_self ..)) true
  | case3 i j is ih =>
    intro w hm
    rcases List.mem_append.mp hm with hm | hm
    · exact group_encodeWords (h i (List.mem_cons_self ..)) false w hm
    · exact ih (fun k hk => h k (List.mem_cons_of_mem _ hk)) w hm

/-- The words of a bundle that keeps the slot order are its instructions. -/
theorem State.framed_bundleWords (s : State) (c : Nat) (res : BitVec 1) (pc : Word) {is : List Instr}
    (h : ∀ i ∈ is, isEvent i = false) (h4 : step4 0 none [] false (bundleWords is) = none) :
    s.framed c res pc (bundleWords is) = .words is := by
  have hf : ((bundleWords is).zipIdx).find? (fun p => decide (14 ≤ group p.1)) = none := by
    rw [List.find?_eq_none]
    rintro ⟨w, k⟩ hp
    rw [decide_eq_true_iff]
    exact Nat.not_le.mpr (group_bundleWords h w (List.fst_mem_of_mem_zipIdx hp))
  have hd := decoded_bundleWords h 0
  unfold decoded at hd
  obtain ⟨hi, hn⟩ := Prod.ext_iff.mp hd
  unfold State.framed
  simp only [hf, h4]
  generalize decodeAll 0 (bundleWords is) = p at hi hn
  obtain ⟨l, o⟩ := p
  simp only at hi hn
  subst hi hn
  rfl

/-- Settles O9: the fetch of a bundle that the instruction store holds. -/
theorem fetchReadsTheBundle : Obligations.FetchReadsTheBundle := by
  intro s c res is hne hi hcode h4
  obtain ⟨ha, hlt, hblock, hs, hbad⟩ := hcode
  have hroom : (bundleWords is).length ≤ 16 - (s.ctx c res).pc.toNat % 64 / 4 := by omega
  obtain ⟨l, hl⟩ := State.iwords_of_code hroom hs
  have hu : upToEnd (s.iwords c (s.ctx c res).pc.toNat (16 - (s.ctx c res).pc.toNat % 64 / 4)) = some (bundleWords is) := by
    rw [hl]; exact upToEnd_bundleWords hne hi l
  have he : s.fetchErrs c (s.ctx c res).pc.toNat (4 * (bundleWords is).length) = [] := hbad
  unfold State.fetch
  simp only [ha, ne_eq, not_true_eq_false, if_false, Nat.not_le.mpr hlt, hu, Option.map_some, Option.getD_some, he,
    List.any_nil, Bool.false_eq_true]
  exact State.framed_bundleWords s c res _ hi h4

end Sys2Proof.Machine
end

section
/-!
The issue of a bundle (R142, R144, R157, R354): what surrounds a word that is alone in its bundle, and the step of a device whose
region has one core. Settles O8, O10 and O11.
-/

namespace Sys2Proof.Machine

/-! ### A bundle of one word -/

theorem issue_alone {i : Instr} {s : State} (k : State → State) (h : s.bundle = none) : issue i s k = .next (s.single i k) := by
  unfold issue; simp only [h, Option.isSome_none, Bool.false_eq_true, if_false]

/-- A bundle begun is in hand. -/
theorem State.begins_inHand (s : State) (is : List Instr) : (s.begins is).inHand := rfl

section
variable {s : State} {i : Instr} {k : State → State}

theorem State.single_of_async {t : State} (h : s.asyncTrap s.me s.res = some t) : s.single i k = t := by
  unfold State.single; simp only [h]

variable {u : State} (ha : s.asyncTrap s.me s.res = none)
include ha

theorem State.single_of_held (h : s.clears s.me s.res [i] = (u, false)) : s.single i k = u := by
  unfold State.single; simp only [ha, h, Bool.false_eq_true, if_false]

theorem State.single_of_clear (h : s.clears s.me s.res [i] = (u, true)) : s.single i k = ((u.begins [i]).word i k).finish := by
  unfold State.single; simp only [ha, h, if_true]

end

/-- Settles O10: a trap that is pending, the trap or stall of the checks, or the word with the bundle around it. -/
theorem oneWordBundle : Obligations.OneWordBundle := by
  intro i s hi hb
  obtain ⟨k, hk⟩ := exec_eq_issue hi
  have hs : exec i s = .next (s.single i k) := (hk s).trans (issue_alone k hb)
  refine ⟨fun t ht => ?_, fun ha u => ⟨fun hc => ?_, fun hc => ?_⟩⟩
  · rw [hs, State.single_of_async ht]
  · rw [hs, State.single_of_held ha hc]
  · refine ⟨(u.begins [i]).word i k, (hk _).trans (issue_inHand k (u.begins_inHand [i])), ?_⟩
    rw [hs, State.single_of_clear ha hc]

/-! ### The cycle of a region with one core -/

/-- A step without input is a cycle of the region whose turn it is. -/
theorem step_of_runsNext {s : State} {r : Nat} (h : s.runsNext r) :
    step s = .next (((s.opened r).cycle r).passes.commit s.mem) := by
  obtain ⟨hin, hnext, hruns, hmay⟩ := h
  have ht : s.free1 = (s.opened r).cycle r := by
    unfold State.free1
    rw [hnext]
    exact if_pos (by rw [Bool.and_eq_true]; exact ⟨hruns, hmay⟩)
  rw [step_of_no_input hin, ht]

/-- The cores of a region lie on the device (R5). -/
theorem State.lt_of_mem_coresOf {s : State} {r c : Nat} (h : c ∈ s.coresOf r) : c < 768 := by
  obtain ⟨p, hp, hc⟩ := List.mem_flatMap.mp h
  obtain ⟨i, hi, rfl⟩ := List.mem_map.mp hc
  have h8 := List.mem_range.mp hi
  have h96 := (List.mem_filter.mp hp).2
  simp only [Bool.and_eq_true, decide_eq_true_eq] at h96
  omega

theorem State.lt_of_present {s : State} {r c : Nat} (h : s.present r = [c]) : c < 768 :=
  State.lt_of_mem_coresOf (List.mem_of_mem_filter (h ▸ List.mem_singleton.mpr rfl : c ∈ s.present r))

/-- The issue of a core whose holder may issue: the bundle at its program counter. -/
theorem State.issueTurn_of_issues {u : State} {c : Nat} (h : State.issues { u with cur := BitVec.ofNat 10 c } c) :
    u.issueTurn c = State.bundleTurn { u with cur := BitVec.ofNat 10 c } c := by
  obtain ⟨hmay, hidle, hfold, -⟩ := h
  unfold State.issueTurn
  simp only [hmay, hidle, hfold, Option.isSome_none, Bool.false_eq_true, Bool.not_true, if_false]

section
variable {s : State} {r c : Nat}

/-- The core about to issue is the core in hand. -/
theorem State.me_readied (h : c < 768) : (s.readied r c).me = c := by
  unfold State.readied State.me
  rw [BitVec.toNat_ofNat]
  exact Nat.mod_eq_of_lt (by omega)

/-- The cycle of a core that is not freezing: it chooses, issues, and ends its cycle. -/
theorem State.coreTurn_of_clocked {u : State} (h : (u.regOf c).drain = false) :
    u.coreTurn c = (both.foldl (fun s res => s.digestSample c res) (((u.sequence c).issueTurn c).lateBegin c)).modCore c
      (fun k => k.endCycle ((u.sequence c).core c) false) := by
  unfold State.coreTurn
  simp only [h, Bool.false_eq_true, if_false]

theorem State.cycle_of_one (h : (s.opened r).present r = [c]) :
    (s.opened r).cycle r =
      ((((s.performed r c).coreTurn c).eachCtx [c] State.recPenTurn).ownHold r).regionEnd r := by
  unfold State.cycle
  rw [h]
  rfl

/-- A step with one core that issues: its issue, then the rest of the cycle. -/
theorem step_of_issue (hr : s.runsNext r) (hp : (s.opened r).present r = [c])
    (hd : ((s.performed r c).regOf c).drain = false) :
    step s = .next ((((s.performed r c).sequence c).issueTurn c).closed r c ((s.readied r c).core c) s.mem) := by
  rw [step_of_runsNext hr, State.cycle_of_one hp, State.coreTurn_of_clocked hd]
  rfl

end

/-! ### The bundle at the program counter -/

theorem length_encodeWords (i : Instr) (e : Bool) : (encodeWords i e).length = wordCount i := by
  unfold wordCount encodeWords
  split <;> rfl

theorem length_bundleWords (is : List Instr) : (bundleWords is).length = (is.map wordCount).sum := by
  induction is using bundleWords.induct with
  | case1 => rfl
  | case2 i => simp [bundleWords, length_encodeWords]
  | case3 i j is ih => rw [bundleWords, List.length_append, length_encodeWords, ih, List.map_cons (a := i), List.sum_cons]

/-- Words without an error in the store are fetched without an event (R367). -/
theorem State.fetchEvents_of_sound {s : State} {c n : Nat} (h : s.fetchErrs c s.cx.pc.toNat (4 * n) = []) :
    s.fetchEvents c n = s := by
  unfold State.fetchEvents
  simp only [h, List.foldl_nil]
  split
  · rfl
  · split <;> rfl

/-- Without a trap in its place, the turn of a context is the bundle that it fetches. -/
theorem State.bundleTurn_of_words {s : State} {c : Nat} {is : List Instr} (ha : s.asyncTrap c s.res = none)
    (hf : s.fetch c s.res = .words is) (he : s.fetchErrs c s.cx.pc.toNat (4 * (is.map wordCount).sum) = []) :
    s.bundleTurn c = s.runBundle c is := by
  unfold State.bundleTurn
  simp only [ha, hf, State.fetchEvents_of_sound he]

/-- The step of a device whose next bundle the instruction store holds. -/
theorem step_of_bundle {s : State} {r c : Nat} {is : List Instr} (hr : s.runsNext r) (hp : (s.opened r).present r = [c])
    (hd : ((s.performed r c).regOf c).drain = false) (hv : (s.readied r c).issues c) (hne : is ≠ [])
    (hi : ∀ i ∈ is, isEvent i = false)
    (hcode : (s.readied r c).holdsCode c (s.readied r c).cx.pc.toNat (bundleWords is))
    (h4 : step4 0 none [] false (bundleWords is) = none) :
    step s = .next (((s.readied r c).runBundle c is).closed r c ((s.readied r c).core c) s.mem) := by
  have hme : (s.readied r c).me = c := State.me_readied (State.lt_of_present hp)
  have hcx : (s.readied r c).cx = (s.readied r c).ctx c (s.readied r c).res := by unfold State.cx; rw [hme]
  have hf : (s.readied r c).fetch c (s.readied r c).res = .words is :=
    fetchReadsTheBundle _ c _ is hne hi (hcx ▸ hcode) h4
  obtain ⟨-, -, -, -, hbad⟩ := hcode
  obtain ⟨-, -, -, hasync⟩ := id hv
  rw [length_bundleWords] at hbad
  have ht : ((s.performed r c).sequence c).issueTurn c = (s.readied r c).bundleTurn c := State.issueTurn_of_issues hv
  rw [step_of_issue hr hp hd, ht, State.bundleTurn_of_words hasync hf hbad]

/-- The words of one instruction keep the slot order (R140). -/
theorem step4_encodeWords {i : Instr} (hi : isEvent i = false) : step4 0 none [] false (encodeWords i true) = none := by
  obtain ⟨w, lx, he, hd, -, -, hsi⟩ := encode_of_word hi
  have hg := group_of_decodeWord hd
  have hslot : ∀ v : IWord, group v < 13 → slotsOk [classOf v] = true := by
    intro v hv
    unfold classOf
    simp only [hv, if_true]
    split
    · decide
    · split
      · decide
      · split <;> decide
  have hfirst : ∀ v l, group v < 13 → step4 0 none [] false (v :: l) = step4 1 (some v) [classOf v] (isControl v) l := by
    intro v l hv
    rw [step4, if_neg (by omega)]
    simp [hslot v hv]
  cases lx with
  | none =>
    rw [encodeWords_one he, if_pos rfl, hfirst _ _ (by rwa [group_marked])]
    rfl
  | some x =>
    have hx : group (marked (lxWord x)) = 13 := (group_marked _).trans (group_lxWord x)
    rw [encodeWords_two he, if_pos rfl, hfirst _ _ hg, step4, if_pos hx]
    simp [hsi rfl, step4]

/-- Settles O8: the step of a device whose next bundle is one instruction is its meaning, with the cycle around it. -/
theorem stepRunsInstruction : Obligations.StepRunsInstruction := by
  intro s t r c i hr hp hd v hv _ hi hcode ht
  have hs := step_of_bundle (is := [i]) hr hp hd hv (List.cons_ne_nil i [])
    (fun j hj => by rwa [List.mem_singleton.mp hj]) hcode (step4_encodeWords hi)
  rw [hs]
  exact congrArg (fun u : State => Host.Outcome.next (u.closed r c (v.core c) s.mem)) (State.runWord_of_next ht)

/-! ### Several words -/

theorem foldl_runWord_of_runs {is : List Instr} {u w : State} (h : State.runs is u w) : is.foldl State.runWord u = w := by
  induction is generalizing u with
  | nil => exact h.symm
  | cons i is ih =>
    obtain ⟨v, hv, hw⟩ := h
    rw [List.foldl_cons, State.runWord_of_next hv]
    exact ih hw

section
variable {s u : State} {c : Nat} {is : List Instr} (h2 : 2 ≤ is.length)
include h2

theorem State.runBundle_of_many :
    s.runBundle c is =
      if (s.clears c s.res is).2 then (is.foldl State.runWord ((s.clears c s.res is).1.begins is)).finish
      else (s.clears c s.res is).1 := by
  unfold State.runBundle
  split
  · simp at h2
  · rfl

theorem State.runBundle_of_held (h : s.clears c s.res is = (u, false)) : s.runBundle c is = u := by
  rw [State.runBundle_of_many h2, h]; rfl

theorem State.runBundle_of_clear (h : s.clears c s.res is = (u, true)) {w : State} (hw : State.runs is (u.begins is) w) :
    s.runBundle c is = w.finish := by
  rw [State.runBundle_of_many h2, h, if_pos rfl, foldl_runWord_of_runs hw]

end

/-- Settles O11: a bundle of several words issues all of them in order, or none. -/
theorem stepRunsBundle : Obligations.StepRunsBundle := by
  intro s u r c is hr hp hd v hv h2 hi hcode h4
  have hs := step_of_bundle hr hp hd hv (List.ne_nil_of_length_pos (by omega)) hi hcode h4
  refine ⟨fun hc => ?_, fun hc w hw => ?_⟩
  · rw [hs, State.runBundle_of_held h2 hc]
  · rw [hs, State.runBundle_of_clear h2 hc hw]

end Sys2Proof.Machine
end

section
/-!
The words that end or suspend a bundle (R143, R171, R172, R176, R179, R181), and the end of a bundle (R144, R166, R169, R170).
Settles O27 and O29.
-/

namespace Sys2Proof.Machine

/-! ### Words that turn the bundle elsewhere -/

section
variable {i : Instr} {s v : State}

/-- A change of what the bundle goes on with, seen by the word and by the bundle. -/
theorem Seen.turning (h : Seen i s v) (f : Ctl → Ctl) : Same (v.turning (f v.ctl)) (s.turning (f s.ctl)) := by
  rw [h.same.ctl]
  exact h.same.turning _

/-- The trap that a TRAP or BREAK asks for. -/
theorem Seen.softTrap (h : Seen i s v) (code : BitVec 17) (arg : Word) :
    Same (v.softTrap code arg) (s.turning { s.ctl with trap := s.ctl.trap.or (some (code, arg, s.wordIx)) }) := by
  have ht := h.turning (fun k => { k with trap := k.trap.or (some (code, arg, s.wordIx)) })
  rw [← h.wordIx] at ht ⊢
  exact ht

end

/-! ### IDLE (R176) -/

/-- Whether an IDLE ends in the cycle of its issue by a wake event or a pending trap. -/
def Ctx.woken (x : Ctx) : Bool := x.idleEvent || x.trapPending

/-- The cycles that an IDLE waits at most. -/
def Ctx.idleCount (x : Ctx) (a : BitVec 6) : Nat := min (x.rg a).toNat 0xFFFFFFFF

/-- The write of an IDLE that ends in the cycle of its issue: 1 when a wake event or a pending trap ended it. -/
def State.idleWrite (s : State) (d : BitVec 6) (woken : Bool) : RegWrite :=
  ⟨.g d, if woken then 1 else 0, BitVec.allOnes 4096, 0, false, s.now s.me + 1, s.seq, 0, s.now s.me⟩

theorem State.idleWrite_is (s : State) (d : BitVec 6) (woken : Bool) :
    (s.idleWrite d woken).Is s (.g d) 1 ((if woken then 1 else 0 : Word).setWidth 4096) := by
  refine ⟨rfl, ?_, rfl, rfl, rfl, rfl⟩
  change (if woken then 1 else 0 : BitVec 4096) = _
  cases woken <;> simp

/-- A state in which the IDLE of a word has ended. -/
def State.idled (s : State) (d : BitVec 6) (woken : Bool) : State :=
  (s.queued [s.idleWrite d woken]).modCx (fun x => { x with idle := none, gate := max x.gate (s.now s.me + 1) })

theorem Seen.idleEnd {i : Instr} {s v : State} (h : Seen i s v) (d : BitVec 6) (woken : Bool) :
    Same (v.idleEnd v.me v.res d woken) (s.idled d woken) := by
  have hw : v.idleWrite d woken = s.idleWrite d woken := by
    unfold State.idleWrite; rw [h.seq, h.now, h.me]
  have hv : v.idleEnd v.me v.res d woken = (v.modCx (fun x =>
      { x with writes := x.writes ++ [v.idleWrite d woken], idle := none, gate := max x.gate (v.now v.me + 1) })).tick1 := rfl
  rw [hv, hw, h.now, h.me]
  unfold State.idled State.queued
  rw [State.modCx_modCx]
  exact (Same.tick1 _).trans (h.modCx (fun _ _ => rfl))

/-- IDLE by its count and by what wakes it in the cycle of its issue. -/
theorem idle_effect {s : State} {d a : BitVec 6} (hb : s.inHand) : Effect (.idle d a) s
    (if s.cx.idleCount a = 0 then s.idled d false
     else if s.cx.woken then s.idled d true
     else s.modCx (fun x => { x with idle := some (s.now s.me + s.cx.idleCount a, d) })) :=
  effect_nil (k := fun v => if v.cx.idleCount a = 0 then v.idleEnd v.me v.res d false
      else if v.cx.woken then v.idleEnd v.me v.res d true
      else v.modCx (fun x => { x with idle := some (v.now v.me + v.cx.idleCount a, d) })) rfl hb rfl (fun v h => by
    rw [h.ofCx (fun x => x.idleCount a) (fun _ _ _ => rfl), h.ofCx Ctx.woken (fun _ _ _ => rfl)]
    split
    · exact h.idleEnd d false
    · split
      · exact h.idleEnd d true
      · rw [h.now, h.me]
        exact h.modCx (fun _ _ => rfl))

/-- Settles O29: each word by what it asks of its bundle, and IDLE by its count and what wakes it. -/
theorem controlWords : Obligations.ControlWords := by
  intro s d a o n hb hn
  have hc : s.cx.idleCount a = n := hn.symm
  have hidle := idle_effect (d := d) (a := a) hb
  rw [hc] at hidle
  refine ⟨effect_nil rfl hb rfl (fun v h => h.same), effect_nil rfl hb rfl (fun v h => h.same.sent _),
    effect_nil rfl hb rfl (fun v h => h.same.sent _),
    effect_nil rfl hb rfl (fun v h => h.turning (fun k => { k with eret := true })),
    effect_nil rfl hb rfl (fun v h => h.turning (fun k => { k with refetch := true })),
    effect_nil rfl hb rfl (fun v h => by rw [h.rg]; exact h.softTrap ..), effect_nil rfl hb rfl (fun v h => h.softTrap ..),
    effect_nil rfl hb rfl (fun v h => ?_), fun h0 he ht => ?_, ?_⟩
  · rw [h.me, h.res, h.ofCore (fun k => k.slice s.res) (fun _ => rfl)]
    exact h.modCx (fun _ _ => rfl)
  · have hw : s.cx.woken = false := by unfold Ctx.woken; rw [he, ht]; rfl
    rwa [if_neg (by omega), if_neg (by rw [hw]; decide)] at hidle
  · rintro v (⟨h0, rfl⟩ | ⟨h0, hw, rfl⟩)
    · rw [if_pos h0] at hidle
      exact ⟨_, s.idleWrite_is d false, hidle⟩
    · have hw : s.cx.woken = true := by unfold Ctx.woken; simpa using hw
      rw [if_neg (by omega), if_pos hw] at hidle
      exact ⟨_, s.idleWrite_is d true, hidle⟩

/-! ### The end of a bundle -/

/-- Where a context goes on behind a bundle that makes no taken transfer (R169). -/
theorem Ctx.loopTest_eq (x : Ctx) (next : Word) :
    x.loopTest next =
      { x with
        pc := if x.lact ∧ x.pc = x.lend ∧ 1 < x.lcnt.toNat then x.lbeg else next
        lcnt := if x.lact ∧ x.pc = x.lend ∧ 1 < x.lcnt.toNat then x.lcnt - 1 else x.lcnt
        lact := decide (x.lact ∧ (x.pc = x.lend → 1 < x.lcnt.toNat)) } := by
  unfold Ctx.loopTest
  by_cases hl : x.lact = true
  · by_cases hp : x.pc = x.lend
    · by_cases hn : 1 < x.lcnt.toNat
      · simp [hl, hp, hn]
      · simp [hl, hp, hn]
    · simp [hl, hp]
  · simp only [Bool.not_eq_true] at hl
    simp [hl]

/-- A taken transfer keeps the loop active within its body, and under a handler (R170, log 89). -/
theorem Ctx.jumpTo_eq (x : Ctx) (t : Word) (now : Nat) :
    x.jumpTo t now =
      { x with
        pc := t
        lact := decide (x.lact ∧ (x.act ∨ (x.lbeg.toNat ≤ t.toNat ∧ t.toNat ≤ x.lend.toNat)))
        gate := now + 2 } := by
  unfold Ctx.jumpTo
  simp

theorem Ctx.jumpTo_metered (x : Ctx) (e : List (Nat × Bool)) (c : Nat) (t : Word) (now : Nat) :
    (x.jumpTo t now).metered e c = (x.metered e c).jumpTo t now := rfl

/-- The bundle is over: its waits are gone and nothing is in hand. -/
theorem Same.idleHand (s : State) : Same s.idleHand (s.modCx Ctx.waitsDone).ended := ⟨rfl, fun _ => rfl⟩

@[simp] theorem State.cx_ended (s : State) : s.ended.cx = s.cx := rfl

theorem State.modCx_ended (s : State) (f : Ctx → Ctx) : s.ended.modCx f = (s.modCx f).ended := rfl

theorem Same.event {s t : State} (h : Same s t) (c : Nat) (res : BitVec 1) (code : Nat) : Same (s.event c res code) t := by
  refine (Same.modCtx_self s c res ?_).trans h
  split <;> rfl

/-- The end of a bundle that has made no taken transfer. -/
theorem State.finish_next {s : State} {late : Bool} (h : s.ctl = { Ctl.plain with refetch := late }) :
    Same s.finish (s.modCx (fun x =>
      { x.waitsDone.loopTest s.nextAddr with gate := s.now s.me + (if late then 2 else 1) })).ended := by
  have hf : s.finish = s.idleHand.modCx (fun x =>
      { x.loopTest s.nextAddr with gate := s.now s.me + (if late then 2 else 1) }) := by
    unfold State.finish State.goOn
    rw [h]
    rfl
  rw [hf]
  refine (Same.modCx (Same.idleHand s) (g := fun x =>
    { x.loopTest s.nextAddr with gate := s.now s.me + (if late then 2 else 1) }) rfl).trans ?_
  rw [State.modCx_ended, State.modCx_modCx]
  exact Same.refl _

/-- The end of a bundle with a taken transfer. -/
theorem State.finish_jump {s : State} {t : Word} {late : Bool} (h : s.ctl = { Ctl.plain with go := .jump t, refetch := late }) :
    Same s.finish (s.modCx (fun x => x.waitsDone.jumpTo t (s.now s.me))).ended := by
  have hf : s.finish = (s.idleHand.event s.idleHand.me s.idleHand.res 9).modCx (fun x => x.jumpTo t (s.now s.me)) := by
    unfold State.finish State.goOn
    rw [h]
    rfl
  have he := (Same.idleHand s).event s.idleHand.me s.idleHand.res 9
  rw [hf]
  refine (Same.modCx he (f := fun x => x.jumpTo t (s.now s.me)) (g := fun x => x.jumpTo t (s.now s.me))
    (by rw [Ctx.jumpTo_metered, Ctx.jumpTo_metered, Twin.cx he])).trans ?_
  rw [State.modCx_ended, State.modCx_modCx]
  exact Same.refl _

/-- The end of a bundle whose TRAP or BREAK is taken: the trap comes on top of the rest of the end (R172). -/
theorem State.finish_trap {s : State} {q : BitVec 17 × Word × Nat} (h : s.ctl.trap = some q) :
    s.finish = (State.finish { s with ctl := { s.ctl with trap := none } }).takeTrap s.me s.res (s.now s.me + 1)
      (Trap.soft s.cx.pc s.nextAddr q) := by
  have hme : s.idleHand.me = s.me := rfl
  have hres : s.idleHand.res = s.res := State.res_modCx s Ctx.waitsDone
  have hpc : s.idleHand.cx.pc = s.cx.pc := by
    change (s.modCx Ctx.waitsDone).cx.pc = _
    rw [State.cx_modCx]
    rfl
  have hrest : State.finish { s with ctl := { s.ctl with trap := none } } =
      s.idleHand.goOn s.nextAddr (s.now s.me) { s.ctl with trap := none } := rfl
  rw [hrest]
  unfold State.finish State.goOn
  rw [h, hme, hres, hpc]

theorem State.nextAddr_of {s : State} {next : Word} (h : s.bundle = some next) : s.nextAddr = next := by
  unfold State.nextAddr; rw [h]; rfl

/-- Settles O27: the end of a bundle by the transfer that its words ask for, and its trap on top. -/
theorem bundleEnd : Obligations.BundleEnd := by
  intro s next t hb
  have hn := State.nextAddr_of hb
  refine ⟨fun late h => ?_, fun late h => ?_, fun code arg slot h => ?_⟩
  · have hs := State.finish_next h
    rw [hn] at hs
    simp only [Ctx.loopTest_eq] at hs
    exact hs
  · have hs := State.finish_jump h
    simp only [Ctx.jumpTo_eq] at hs
    exact hs
  · have hs := State.finish_trap h
    rw [hn] at hs
    exact ⟨_, hs, rfl, rfl, rfl, rfl, rfl, rfl⟩

end Sys2Proof.Machine
end

section
/-!
What a lane-wise result leaves in a register (R148, R187), and stream registers as operands (R158, R226). Settles O19 and O36.
-/

namespace Sys2Proof.Machine

/-! ### Lanes -/

/-- A write of every bit leaves nothing of the old value. -/
theorem merge_allOnes {n : Nat} (old new : BitVec n) : merge n old new (BitVec.allOnes n) = new := by
  unfold merge; simp

/-- Settles O36: the lanes that a result writes, and those it keeps. -/
theorem lanesWritten : Obligations.LanesWritten := by
  refine ⟨fun f m op old l hl => lane_merge_lanes (bitOf m) op old (eb_mul_laneCount f) hl,
    fun w n act op old l hwn hl => lane_merge_lanes act op old hwn hl, fun r old => ?_⟩
  simp only [VRes.whole, merge_allOnes]

/-- The lanes of a format fill the register. -/
theorem eb_mul_laneCount_eq (f : BitVec 3) : eb f * laneCount f = 4096 := by
  revert f; decide

/-- Lanes without flags raise none. -/
theorem lanesNat_flags {w : Nat} {act : Nat → Bool} {op : Nat → Nat × Flags} (h : ∀ l, (op l).2 = 0) (n : Nat) :
    (lanesNat w act op n).2.2 = 0 := by
  induction n with
  | zero => rfl
  | succ n ih =>
    unfold lanesNat
    generalize lanesNat w act op n = r at ih ⊢
    obtain ⟨v, m, g⟩ := r
    simp only at ih ⊢
    split
    · change g ||| (op n).2 = 0
      rw [ih, h]
      rfl
    · exact ih

/-- The copy of every lane of a register is the register. -/
theorem each_copy (f : BitVec 3) (x : BitVec 4096) :
    each f (BitVec.allOnes 512) (fun l => (lane (eb f) x l, 0)) = ⟨x, BitVec.allOnes 4096, 0⟩ := by
  have hw : 0 < eb f := by revert f; decide
  have hf := lanesNat_flags (w := eb f) (act := bitOf (BitVec.allOnes 512)) (op := fun l => (lane (eb f) x l, 0))
    (fun _ => rfl) (laneCount f)
  obtain ⟨-, -, hbits⟩ := lanesNat_spec (eb f) (bitOf (BitVec.allOnes 512)) (fun l => (lane (eb f) x l, 0)) (laneCount f)
  have hbit : ∀ k < 4096,
      (lanesNat (eb f) (bitOf (BitVec.allOnes 512)) (fun l => (lane (eb f) x l, 0)) (laneCount f)).2.1.testBit k = true ∧
      (lanesNat (eb f) (bitOf (BitVec.allOnes 512)) (fun l => (lane (eb f) x l, 0)) (laneCount f)).1.testBit k = x.getLsbD k := by
    intro k hk
    have hl : k / eb f < laneCount f := Nat.div_lt_of_lt_mul (by rwa [eb_mul_laneCount_eq])
    have hon : bitOf (BitVec.allOnes 512) (k / eb f) = true := by
      have := laneCount_le f
      unfold bitOf
      rw [BitVec.getLsbD_allOnes]
      exact decide_eq_true (by omega)
    have hb := hbits _ hl _ (Nat.mod_lt k hw)
    rw [Nat.div_add_mod, hon, testBit_lane x _ _ (Nat.mod_lt k hw), Nat.div_add_mod, Bool.true_and] at hb
    exact hb
  unfold each lanes
  generalize lanesNat (eb f) (bitOf (BitVec.allOnes 512)) (fun l => (lane (eb f) x l, 0)) (laneCount f) = r at hbit hf
  obtain ⟨v, m, g⟩ := r
  simp only at hbit hf ⊢
  rw [hf, VRes.mk.injEq]
  refine ⟨BitVec.eq_of_getLsbD_eq (fun k hk => ?_), BitVec.eq_of_getLsbD_eq (fun k hk => ?_), rfl⟩
  · rw [BitVec.getLsbD_ofNat, (hbit k hk).2, decide_eq_true hk, Bool.true_and]
  · rw [BitVec.getLsbD_ofNat, (hbit k hk).1, decide_eq_true hk, BitVec.getLsbD_allOnes, decide_eq_true hk]; rfl

/-! ### Words that name stream registers (R158) -/

/-- A stream that is neither a crossing nor a port has its data in it. -/
theorem State.feed_of_memory {s : State} {n : Nat} (h2 : (s.cx.stream n).kind ≠ 2) (h3 : (s.cx.stream n).kind ≠ 3) :
    s.feed n = s := by
  unfold State.feed
  dsimp only
  split
  · next h => exact absurd h h2
  · next h => exact absurd h h3
  · rfl

/-- Before a word that makes no access and whose streams have their data. -/
theorem Seen.of_fed {s : State} {i : Instr} (he : ∀ s : State, s.accessEvent i = none)
    (hf : (s.cx.boundIn false (uses i).vr).foldl State.feed (s.place i) = s.place i) : Seen i s (s.beforeWord i) := by
  refine ⟨s.cx.evs, s.cx.charge + (s.place i).wordCharge i, ?_⟩
  have hp : (s.place i).cx = s.cx := rfl
  unfold State.beforeWord
  simp only [hp, hf, he]
  rfl

/-- After a word that makes no access: the stream registers that it names are taken. -/
theorem Same.afterTaken {s t : State} {i : Instr} (ha : ∀ x : Ctx, slotRanges x i = (.load, []))
    (hs : t.cx.streams = s.cx.streams) :
    Same (t.afterWord i) (t.modCx (fun y =>
      (s.cx.boundIn false (uses i).vr ++ s.cx.boundIn true (uses i).vw).foldl Ctx.taken1 y)) := by
  unfold State.afterWord
  simp only [State.useWord_plain ha, Ctx.boundIn_same hs]
  exact Same.indexed _ _

/-- The state of a word whose meaning has run, with the stream registers that it names taken. -/
def State.takenBy (s u : State) (i : Instr) : State :=
  u.modCx (fun y => (s.cx.boundIn false (uses i).vr ++ s.cx.boundIn true (uses i).vw).foldl Ctx.taken1 y)

theorem Ctx.foldl_taken1_metered (ns : List Nat) (x : Ctx) (e : List (Nat × Bool)) (c : Nat) :
    ns.foldl Ctx.taken1 (x.metered e c) = (ns.foldl Ctx.taken1 x).metered e c := by
  induction ns generalizing x with
  | nil => rfl
  | cons n ns ih => exact ih (x.taken1 n)

/-- A word that names stream registers completes with the effect of its meaning, and takes those registers. -/
theorem effect_taken {i : Instr} {s u : State} {k : State → State} (hx : exec i s = issue i s k) (hb : s.inHand)
    (he : ∀ s : State, s.accessEvent i = none) (ha : ∀ x : Ctx, slotRanges x i = (.load, []))
    (hf : (s.cx.boundIn false (uses i).vr).foldl State.feed (s.place i) = s.place i)
    (hk : ∀ v, Seen i s v → Same (k v) u) (hs : u.cx.streams = s.cx.streams) : Effect i s (s.takenBy u i) := by
  have hk := hk _ (Seen.of_fed he hf)
  refine ⟨s.word i k, hx.trans (issue_inHand k hb), (Same.afterTaken ha (hk.streams.trans hs)).trans (Same.modCx hk ?_)⟩
  rw [← Ctx.foldl_taken1_metered, ← Ctx.foldl_taken1_metered, Twin.cx hk]

theorem Ctx.boundIn_one {x : Ctx} {v : BitVec 5} {b : Bool} (hb : (x.stream v.toNat).bound = true)
    (hw : (x.stream v.toNat).write = b) : x.boundIn b [v] = [v.toNat] := by
  unfold Ctx.boundIn
  simp [hb, hw]
  rfl

theorem Ctx.boundIn_unbound {x : Ctx} {v : BitVec 5} (hb : (x.stream v.toNat).bound = false) (b : Bool) : x.boundIn b [v] = [] :=
  Ctx.boundIn_nil (fun w hw => by rwa [List.mem_singleton.mp hw])

/-! ### VMOV under m0 -/

section
variable {s : State} {f : BitVec 3} {d a : BitVec 5}

/-- VMOV under m0 queues the value of its source, and takes the stream registers that it names. -/
theorem vmov_effect (hb : s.inHand)
    (hf : (s.cx.boundIn false [a]).foldl State.feed (s.place (.vmov f 0 d a)) = s.place (.vmov f 0 d a)) :
    Effect (.vmov f 0 d a) s (s.takenBy (s.queued [s.wrote 2 (.v d) (s.cx.rv a) (BitVec.allOnes 4096) 0]) (.vmov f 0 d a)) :=
  effect_taken (k := fun v => v.vv1 2 f 0 d a (fun _ x => (x, 0))) rfl hb (fun _ => rfl) (fun _ => rfl) hf (fun v h => by
    have hv : v.vv1 2 f 0 d a (fun _ x => (x, 0)) = v.queueWrite 2 (.v d) (s.cx.rv a) (BitVec.allOnes 4096) 0 false := by
      unfold State.vv1 State.writeV
      simp only [Ctx.rm_zero, each_copy, h.rv]
    rw [hv, State.queueWrite_queued, h.wrote]
    exact (Same.numbered _ _ _ _).trans (h.queued _)) (by rw [State.cx_queued])

/-- A stream register that VMOV reads gives the register of data next in it, and that one is taken. -/
theorem vmov_of_bound_source {v : BitVec 4096} {rest : List (BitVec 4096)} (hb : s.inHand)
    (hd : (s.cx.stream d.toNat).bound = false) (ha : (s.cx.stream a.toNat).bound = true)
    (hw : (s.cx.stream a.toNat).write = false) (h2 : (s.cx.stream a.toNat).kind ≠ 2) (h3 : (s.cx.stream a.toNat).kind ≠ 3)
    (hdata : (s.cx.stream a.toNat).data = v :: rest) :
    ∃ w : RegWrite, w.Is s (.v d) 2 v ∧ Effect (.vmov f 0 d a) s ((s.queued [w]).modCx (fun x =>
      x.setStream a.toNat { s.cx.stream a.toNat with taken := (s.cx.stream a.toNat).taken + 1, data := rest })) := by
  have hv : s.cx.rv a = v := by unfold Ctx.rv; simp [ha, hw, hdata]
  have hf : (s.cx.boundIn false [a]).foldl State.feed (s.place (.vmov f 0 d a)) = s.place (.vmov f 0 d a) := by
    rw [Ctx.boundIn_one ha hw]
    exact State.feed_of_memory h2 h3
  have he := vmov_effect (f := f) (d := d) hb hf
  rw [hv] at he
  refine ⟨_, State.wrote_is .., he.congr (Same.modCx (Same.refl _) ?_)⟩
  change ((s.cx.boundIn false [a] ++ s.cx.boundIn true [d]).foldl Ctx.taken1 _).metered [] 0 = _
  rw [Ctx.boundIn_one ha hw, Ctx.boundIn_unbound hd, State.cx_queued]
  change Ctx.metered (Ctx.setStream _ a.toNat { s.cx.stream a.toNat with
    taken := (s.cx.stream a.toNat).taken + 1
    data := if (s.cx.stream a.toNat).write then (s.cx.stream a.toNat).data else (s.cx.stream a.toNat).data.tail }) [] 0 = _
  rw [hw, hdata]
  rfl

/-- A stream register that VMOV writes has one entry of it reserved. -/
theorem vmov_of_bound_target (hb : s.inHand) (ha : (s.cx.stream a.toNat).bound = false)
    (hd : (s.cx.stream d.toNat).bound = true) (hw : (s.cx.stream d.toNat).write = true) :
    ∃ w : RegWrite, w.Is s (.v d) 2 (s.cx.rv a) ∧ Effect (.vmov f 0 d a) s ((s.queued [w]).modCx (fun x =>
      x.setStream d.toNat { s.cx.stream d.toNat with taken := (s.cx.stream d.toNat).taken + 1 })) := by
  have hf : (s.cx.boundIn false [a]).foldl State.feed (s.place (.vmov f 0 d a)) = s.place (.vmov f 0 d a) := by
    rw [Ctx.boundIn_unbound ha]
    rfl
  refine ⟨_, State.wrote_is .., (vmov_effect (f := f) (d := d) hb hf).congr (Same.modCx (Same.refl _) ?_)⟩
  change ((s.cx.boundIn false [a] ++ s.cx.boundIn true [d]).foldl Ctx.taken1 _).metered [] 0 = _
  rw [Ctx.boundIn_unbound ha, Ctx.boundIn_one hd hw, State.cx_queued]
  change Ctx.metered (Ctx.setStream _ d.toNat { s.cx.stream d.toNat with
    taken := (s.cx.stream d.toNat).taken + 1
    data := if (s.cx.stream d.toNat).write then (s.cx.stream d.toNat).data else (s.cx.stream d.toNat).data.tail }) [] 0 = _
  rw [hw]
  rfl

end

/-! ### A write that performs -/

theorem Ctx.stream_setStream_self (x : Ctx) (n : Nat) (t : Stream) : (x.setStream n t).stream n = t := Table.get_set_self ..

/-- A register written to a bound write stream enters it behind the data it holds. -/
theorem Ctx.data_streamPut {x : Ctx} {n seq : Nat} (v : BitVec 4096) (hb : (x.stream n).bound = true)
    (hw : (x.stream n).write = true) (hid : (x.stream n).id < seq) :
    ((x.streamPut n seq v).stream n).data = (x.stream n).data ++ [v] := by
  unfold Ctx.streamPut
  simp only [hb, hw, hid, decide_true, Bool.and_self, if_true, Ctx.stream_setStream_self]

/-- What a vector register write that performs leaves in its context. -/
theorem Core.ctx_performWrite_v {k : Core} {res : BitVec 1} {w : RegWrite} {n : BitVec 5} (hr : w.reg = .v n) :
    (k.performWrite res w).ctx res =
      { (k.ctx res).wv n (merge 4096 ((k.ctx res).rv0 n) w.value w.mask) with
        upsets := (k.ctx res).unmasked n.toNat w.mask }.streamPut n.toNat w.seq
          (merge 4096 ((k.ctx res).rv0 n) w.value w.mask) := by
  unfold Core.performWrite
  simp only [hr, Core.ctx_setCtx_self]

/-- Settles O19: the stream data that a word takes, the entry that it reserves, and the write that enters the stream. -/
theorem streamOperands : Obligations.StreamOperands := by
  intro s f d a hb
  refine ⟨fun v rest hd ha hw h2 h3 hdata => vmov_of_bound_source hb hd ha hw h2 h3 hdata,
    fun ha hd hw => vmov_of_bound_target hb ha hd hw, fun k res w n hr hm hbound hw hid => ?_⟩
  rw [Core.ctx_performWrite_v hr, hm, merge_allOnes]
  exact Ctx.data_streamPut _ hbound hw hid

end Sys2Proof.Machine
end

section
/-!
The register writes of a context that perform in a cycle (R148, R155, R156): the register files they leave. Settles O12.
-/

namespace Sys2Proof.Machine

/-! ### Issue order -/

theorem insertWrite_perm (w : RegWrite) (l : List RegWrite) : (insertWrite w l).Perm (w :: l) := by
  induction l with
  | nil => exact List.Perm.refl _
  | cons v t ih =>
    unfold insertWrite
    split
    · exact List.Perm.refl _
    · exact (ih.cons v).trans (List.Perm.swap w v t)

theorem insertWrite_sorted (w : RegWrite) {l : List RegWrite} (h : l.Pairwise (fun a b => a.seq ≤ b.seq)) :
    (insertWrite w l).Pairwise (fun a b => a.seq ≤ b.seq) := by
  induction l with
  | nil => exact List.pairwise_singleton ..
  | cons v t ih =>
    obtain ⟨hv, ht⟩ := List.pairwise_cons.mp h
    unfold insertWrite
    split
    · next hlt =>
      refine List.pairwise_cons.mpr ⟨fun a ha => ?_, h⟩
      rcases List.mem_cons.mp ha with rfl | ha
      · omega
      · have := hv a ha; omega
    · next hle =>
      refine List.pairwise_cons.mpr ⟨fun a ha => ?_, ih ht⟩
      rcases List.mem_cons.mp ((insertWrite_perm w t).mem_iff.mp ha) with rfl | ha
      · omega
      · exact hv a ha

/-- Writes in issue order are the same writes. -/
theorem sortWrites_perm (l : List RegWrite) : (sortWrites l).Perm l := by
  have h : ∀ (l acc : List RegWrite), (l.foldl (fun a w => insertWrite w a) acc).Perm (l ++ acc) := by
    intro l
    induction l with
    | nil => exact fun acc => List.Perm.refl acc
    | cons w l ih =>
      exact fun acc => (ih _).trans (((insertWrite_perm w acc).append_left l).trans List.perm_middle)
  have hl := h l []
  rw [List.append_nil] at hl
  exact hl

theorem sortWrites_sorted (l : List RegWrite) : (sortWrites l).Pairwise (fun a b => a.seq ≤ b.seq) := by
  have h : ∀ (l acc : List RegWrite), acc.Pairwise (fun a b => a.seq ≤ b.seq) →
      (l.foldl (fun a w => insertWrite w a) acc).Pairwise (fun a b => a.seq ≤ b.seq) := by
    intro l
    induction l with
    | nil => exact fun acc ha => ha
    | cons w l ih => exact fun acc ha => ih _ (insertWrite_sorted w ha)
  exact h l [] List.Pairwise.nil

/-- In a list in issue order, a write issued after every other one stands last. -/
theorem getLast_of_latest {l : List RegWrite} {w : RegWrite} (hs : l.Pairwise (fun a b => a.seq ≤ b.seq)) (hw : w ∈ l)
    (h : ∀ v ∈ l, v ≠ w → v.seq < w.seq) : ∃ t, l = t ++ [w] := by
  rcases List.eq_nil_or_concat' l with rfl | ⟨t, z, rfl⟩
  · cases hw
  · by_cases hz : z = w
    · exact ⟨t, by rw [hz]⟩
    · have hlt := h z (by simp) hz
      rcases List.mem_append.mp hw with ht | ht
      · have := (List.pairwise_append.mp hs).2.2 w ht z (List.mem_singleton.mpr rfl)
        omega
      · exact absurd (List.mem_singleton.mp ht).symm hz

/-! ### What a write leaves in the other files -/

/-- The registers of a context and the writes queued for them. -/
def Ctx.files (x : Ctx) : Table Word × Table (BitVec 4096) × Table (BitVec 512) × List RegWrite := (x.g, x.v, x.m, x.writes)

theorem Ctx.files_setSys (x : Ctx) (n : BitVec 9) (w : Word) : (x.setSys n w).files = x.files := by
  unfold Ctx.setSys
  split
  case h_3 => split <;> rfl
  case h_17 => split <;> [rfl; split <;> [rfl; split <;> rfl]]
  all_goals rfl

theorem Core.files_setSys (k : Core) (res : BitVec 1) (n : BitVec 9) (w : Word) :
    ((k.setSys res n w).ctx res).files = (k.ctx res).files := by
  unfold Core.setSys
  split
  case h_5 => rw [Core.ctx_setCtx_self, Ctx.files_setSys]
  all_goals unfold Core.ctx; split <;> rfl

theorem Ctx.files_streamPut (x : Ctx) (n seq : Nat) (v : BitVec 4096) : (x.streamPut n seq v).files = x.files := by
  unfold Ctx.streamPut
  simp only
  split
  · rfl
  · split <;> rfl

section
variable {x y : Ctx} (h : x.files = y.files)
include h

theorem Ctx.rg_of_files (n : BitVec 6) : x.rg n = y.rg n := by
  unfold Ctx.rg; rw [show x.g = y.g from congrArg (fun f => f.1) h]

theorem Ctx.rv0_of_files (n : BitVec 5) : x.rv0 n = y.rv0 n := by
  unfold Ctx.rv0; rw [show x.v = y.v from congrArg (fun f => f.2.1) h]

theorem Ctx.rm_of_files (n : BitVec 3) : x.rm n = y.rm n := by
  unfold Ctx.rm; rw [show x.m = y.m from congrArg (fun f => f.2.2.1) h]

theorem Ctx.writes_of_files : x.writes = y.writes := congrArg (fun f => f.2.2.2) h

end

@[simp] theorem Ctx.rv0_wg (x : Ctx) (n : BitVec 6) (w : Word) (m : BitVec 5) : (x.wg n w).rv0 m = x.rv0 m := by
  unfold Ctx.wg; split <;> rfl

@[simp] theorem Ctx.rm_wg (x : Ctx) (n : BitVec 6) (w : Word) (m : BitVec 3) : (x.wg n w).rm m = x.rm m := by
  unfold Ctx.wg; split <;> rfl

@[simp] theorem Ctx.writes_wg (x : Ctx) (n : BitVec 6) (w : Word) : (x.wg n w).writes = x.writes := by
  unfold Ctx.wg; split <;> rfl

@[simp] theorem Ctx.rg_wm (x : Ctx) (n : BitVec 3) (w : BitVec 512) (m : BitVec 6) : (x.wm n w).rg m = x.rg m := by
  unfold Ctx.wm; split <;> rfl

@[simp] theorem Ctx.rv0_wm (x : Ctx) (n : BitVec 3) (w : BitVec 512) (m : BitVec 5) : (x.wm n w).rv0 m = x.rv0 m := by
  unfold Ctx.wm; split <;> rfl

@[simp] theorem Ctx.writes_wm (x : Ctx) (n : BitVec 3) (w : BitVec 512) : (x.wm n w).writes = x.writes := by
  unfold Ctx.wm; split <;> rfl

/-! ### One write performed -/

/-- What a write leaves in a register of a width: its value where its mask is set, and else the old bits (R148). -/
def RegWrite.onto (w : RegWrite) (n : Nat) (old : BitVec n) : BitVec n := merge n old (w.value.setWidth n) (w.mask.setWidth n)

theorem RegWrite.onto_of_whole {w : RegWrite} (h : w.mask = BitVec.allOnes 4096) {n : Nat} (hn : n ≤ 4096) (old : BitVec n) :
    w.onto n old = w.value.setWidth n := by
  have hm : (BitVec.allOnes 4096).setWidth n = BitVec.allOnes n := by
    apply BitVec.eq_of_getLsbD_eq
    intro i hi
    rw [BitVec.getLsbD_setWidth, BitVec.getLsbD_allOnes, BitVec.getLsbD_allOnes, decide_eq_true hi, Bool.true_and]
    exact decide_eq_true (by omega)
  unfold RegWrite.onto
  rw [h, hm, merge_allOnes]

section
variable (k : Core) (res : BitVec 1) {w : RegWrite}

theorem Core.ctx_performWrite_g {n : BitVec 6} (h : w.reg = .g n) :
    (k.performWrite res w).ctx res = (k.ctx res).wg n (w.onto 64 ((k.ctx res).rg n)) := by
  unfold Core.performWrite
  simp only [h, Core.ctx_setCtx_self]
  rfl

theorem Core.ctx_performWrite_m {n : BitVec 3} (h : w.reg = .m n) :
    (k.performWrite res w).ctx res = (k.ctx res).wm n (w.onto 512 ((k.ctx res).rm n)) := by
  unfold Core.performWrite
  simp only [h, Core.ctx_setCtx_self]
  rfl

/-- A vector register write in the register files; it may enter a stream besides. -/
theorem Core.files_performWrite_v {n : BitVec 5} (h : w.reg = .v n) :
    ((k.performWrite res w).ctx res).files = ((k.ctx res).wv n (w.onto 4096 ((k.ctx res).rv0 n))).files := by
  rw [Core.ctx_performWrite_v h, Ctx.files_streamPut]
  unfold RegWrite.onto
  rw [BitVec.setWidth_eq, BitVec.setWidth_eq]
  rfl

/-- A system register write leaves the register files. -/
theorem Core.files_performWrite_sys {n : BitVec 9} (h : w.reg = .sys n) :
    ((k.performWrite res w).ctx res).files = (k.ctx res).files := by
  unfold Core.performWrite
  simp only [h]
  exact Core.files_setSys ..

theorem Core.writes_performWrite (w : RegWrite) : ((k.performWrite res w).ctx res).writes = (k.ctx res).writes := by
  cases h : w.reg with
  | g n => rw [Core.ctx_performWrite_g k res h, Ctx.writes_wg]
  | v n => rw [Ctx.writes_of_files (Core.files_performWrite_v k res h)]; rfl
  | m n => rw [Core.ctx_performWrite_m k res h, Ctx.writes_wm]
  | sys n => exact Ctx.writes_of_files (Core.files_performWrite_sys k res h)

end

/-! ### Registers -/

/-- A register of a context: how it reads, and what a write that names it leaves in it. -/
structure RegView (n : Nat) where
  reg : Reg
  get : Ctx → BitVec n
  get_writes : ∀ (x : Ctx) l, get { x with writes := l } = get x
  get_raise : ∀ (x : Ctx) l, get (x.raise l) = get x
  get_performWrite : ∀ (k : Core) (res : BitVec 1) (w : RegWrite),
    get ((k.performWrite res w).ctx res) = if w.reg = reg then w.onto n (get (k.ctx res)) else get (k.ctx res)

/-- A general register but g0. -/
def RegView.g (n : BitVec 6) (hn : n ≠ 0) : RegView 64 where
  reg := .g n
  get x := x.rg n
  get_writes _ _ := rfl
  get_raise _ _ := rfl
  get_performWrite k res w := by
    cases h : w.reg with
    | g m =>
      rw [Core.ctx_performWrite_g k res h, Ctx.rg_wg]
      by_cases hm : n = m
      · subst hm; rw [if_pos rfl, if_neg hn, if_pos rfl]
      · simp [hm, Ne.symm hm]
    | v m => rw [Ctx.rg_of_files (Core.files_performWrite_v k res h)]; rfl
    | m m => rw [Core.ctx_performWrite_m k res h, Ctx.rg_wm]; rfl
    | sys m => rw [Ctx.rg_of_files (Core.files_performWrite_sys k res h)]; rfl

/-- A vector register. -/
def RegView.v (n : BitVec 5) : RegView 4096 where
  reg := .v n
  get x := x.rv0 n
  get_writes _ _ := rfl
  get_raise _ _ := rfl
  get_performWrite k res w := by
    cases h : w.reg with
    | g m => rw [Core.ctx_performWrite_g k res h, Ctx.rv0_wg]; rfl
    | v m =>
      rw [Ctx.rv0_of_files (Core.files_performWrite_v k res h), Ctx.rv0_wv]
      by_cases hm : n = m
      · subst hm; simp
      · simp [hm, Ne.symm hm]
    | m m => rw [Core.ctx_performWrite_m k res h, Ctx.rv0_wm]; rfl
    | sys m => rw [Ctx.rv0_of_files (Core.files_performWrite_sys k res h)]; rfl

/-- A mask register but m0. -/
def RegView.m (n : BitVec 3) (hn : n ≠ 0) : RegView 512 where
  reg := .m n
  get x := x.rm n
  get_writes _ _ := rfl
  get_raise _ _ := rfl
  get_performWrite k res w := by
    cases h : w.reg with
    | g m => rw [Core.ctx_performWrite_g k res h, Ctx.rm_wg]; rfl
    | v m => rw [Ctx.rm_of_files (Core.files_performWrite_v k res h)]; rfl
    | m m =>
      rw [Core.ctx_performWrite_m k res h, Ctx.rm_wm]
      by_cases hm : n = m
      · subst hm; rw [if_pos rfl, if_neg hn, if_pos rfl]
      · simp [hm, Ne.symm hm]
    | sys m => rw [Ctx.rm_of_files (Core.files_performWrite_sys k res h)]; rfl

/-! ### The writes that are due -/

/-- The writes of a context due by a cycle, in issue order. -/
def Ctx.dueWrites (x : Ctx) (now : Nat) : List RegWrite := sortWrites (x.writes.filter (fun w => w.due ≤ now))

theorem Ctx.mem_dueWrites {x : Ctx} {now : Nat} {w : RegWrite} : w ∈ x.dueWrites now ↔ w ∈ x.writes ∧ w.due ≤ now := by
  unfold Ctx.dueWrites
  rw [(sortWrites_perm _).mem_iff, List.mem_filter, decide_eq_true_iff]

/-- With no write due nothing changes. -/
theorem Core.performDue_of_none {k : Core} {res : BitVec 1} {now : Nat} (h : (k.ctx res).dueWrites now = []) :
    k.performDue res now = k := by
  unfold Core.performDue
  exact if_pos (by rw [List.isEmpty_iff]; exact h)

/-- The context after its due writes: each performed in issue order, then the flags they raise. -/
theorem Core.ctx_performDue {k : Core} {res : BitVec 1} {now : Nat} (h : (k.ctx res).dueWrites now ≠ []) :
    (k.performDue res now).ctx res =
      ((((k.ctx res).dueWrites now).foldl (fun k w => k.performWrite res w)
        (k.setCtx res { k.ctx res with writes := (k.ctx res).writes.filter (fun w => now < w.due) })).ctx res).raise
          ((k.ctx res).dueWrites now) := by
  have hn : ¬ (sortWrites ((k.ctx res).writes.filter (fun w => decide (w.due ≤ now)))).isEmpty = true := by
    rw [List.isEmpty_iff]; exact h
  unfold Core.performDue
  simp only [if_neg hn, Core.ctx_setCtx_self]
  rfl

theorem Core.writes_foldl (res : BitVec 1) (l : List RegWrite) (k : Core) :
    ((l.foldl (fun k w => k.performWrite res w) k).ctx res).writes = (k.ctx res).writes := by
  induction l generalizing k with
  | nil => rfl
  | cons w l ih => rw [List.foldl_cons, ih, Core.writes_performWrite]

/-- The writes that are not due stay queued. -/
theorem Core.writes_performDue (k : Core) (res : BitVec 1) (now : Nat) :
    ((k.performDue res now).ctx res).writes = (k.ctx res).writes.filter (fun w => now < w.due) := by
  by_cases h : (k.ctx res).dueWrites now = []
  · rw [Core.performDue_of_none h]
    refine (List.filter_eq_self.mpr (fun w hw => decide_eq_true ?_)).symm
    have hd : ¬ (w ∈ (k.ctx res).writes ∧ w.due ≤ now) := by rw [← Ctx.mem_dueWrites, h]; exact List.not_mem_nil
    exact Nat.not_le.mp (fun hle => hd ⟨hw, hle⟩)
  · rw [Core.ctx_performDue h]
    exact (Core.writes_foldl ..).trans (by rw [Core.ctx_setCtx_self])

/-! ### Flags -/

/-- Flags that lie within others lie within more. -/
theorem and_or_of_and {a b : Flags} (c : Flags) (h : a &&& b = a) : a &&& (c ||| b) = a := by
  apply BitVec.eq_of_getLsbD_eq
  intro i _
  have hi := congrArg (fun x => x.getLsbD i) h
  simp only [BitVec.getLsbD_and, BitVec.getLsbD_or] at hi ⊢
  revert hi
  cases a.getLsbD i <;> simp +contextual

theorem foldl_flags_keeps {a b : Flags} (h : a &&& b = a) (l : List RegWrite) :
    a &&& (l.foldl (fun (f : Flags) w => if w.toMx then f else f ||| w.flags) b) = a := by
  induction l generalizing b with
  | nil => exact h
  | cons w l ih =>
    rw [List.foldl_cons]
    split
    · exact ih h
    · exact ih (by rw [BitVec.or_comm]; exact and_or_of_and _ h)

/-- Every flag of a write is among those that its list raises. -/
theorem foldl_flags_of_mem {l : List RegWrite} {w : RegWrite} (hw : w ∈ l) (hm : w.toMx = false) (b : Flags) :
    w.flags &&& (l.foldl (fun (f : Flags) w => if w.toMx then f else f ||| w.flags) b) = w.flags := by
  induction l generalizing b with
  | nil => cases hw
  | cons v l ih =>
    rw [List.foldl_cons]
    rcases List.mem_cons.mp hw with rfl | hw
    · rw [if_neg (by rw [hm]; decide)]
      exact foldl_flags_keeps (and_or_of_and b BitVec.and_self) l
    · exact ih hw _

/-- The flags of a due write are raised, whatever register it names. -/
theorem Core.flags_performDue {k : Core} {res : BitVec 1} {now : Nat} {w : RegWrite} (hw : w ∈ (k.ctx res).writes)
    (hd : w.due ≤ now) (hm : w.toMx = false) : w.flags &&& ((k.performDue res now).ctx res).raised = w.flags := by
  have hmem : w ∈ (k.ctx res).dueWrites now := Ctx.mem_dueWrites.mpr ⟨hw, hd⟩
  rw [Core.ctx_performDue (List.ne_nil_of_mem hmem)]
  exact and_or_of_and _ (foldl_flags_of_mem hmem hm 0)

namespace RegView

variable {n : Nat} (V : RegView n)

/-- The due writes of a context that name the register, in issue order. -/
def due (x : Ctx) (now : Nat) : List RegWrite := (x.dueWrites now).filter (fun w => w.reg = V.reg)

theorem get_foldl (res : BitVec 1) (l : List RegWrite) (k : Core) :
    V.get ((l.foldl (fun k w => k.performWrite res w) k).ctx res) =
      (l.filter (fun w => w.reg = V.reg)).foldl (fun a w => w.onto n a) (V.get (k.ctx res)) := by
  induction l generalizing k with
  | nil => rfl
  | cons w l ih =>
    rw [List.foldl_cons, ih, V.get_performWrite]
    by_cases h : w.reg = V.reg <;> simp [h]

/-- A register after the due writes of its context: those that name it, one after the other in issue order. -/
theorem get_performDue (k : Core) (res : BitVec 1) (now : Nat) :
    V.get ((k.performDue res now).ctx res) = (V.due (k.ctx res) now).foldl (fun a w => w.onto n a) (V.get (k.ctx res)) := by
  unfold due
  by_cases h : (k.ctx res).dueWrites now = []
  · rw [Core.performDue_of_none h, h]; rfl
  · rw [Core.ctx_performDue h, V.get_raise, V.get_foldl, Core.ctx_setCtx_self, V.get_writes]

variable {k : Core} {res : BitVec 1} {now : Nat}

/-- A register that no due write names keeps its value. -/
theorem get_of_none (h : ∀ w ∈ (k.ctx res).writes, w.reg = V.reg → now < w.due) :
    V.get ((k.performDue res now).ctx res) = V.get (k.ctx res) := by
  have hd : V.due (k.ctx res) now = [] := by
    unfold due
    rw [List.filter_eq_nil_iff]
    intro w hw
    obtain ⟨hw, hdue⟩ := Ctx.mem_dueWrites.mp hw
    exact fun hr => absurd (h w hw (of_decide_eq_true hr)) (by omega)
  rw [V.get_performDue, hd]
  rfl

/-- A register that one due write names takes the bits of its mask. -/
theorem get_of_one {w : RegWrite} (h : (k.ctx res).writes.filter (fun v => v.due ≤ now && v.reg == V.reg) = [w]) :
    V.get ((k.performDue res now).ctx res) = w.onto n (V.get (k.ctx res)) := by
  have hp : (V.due (k.ctx res) now).Perm [w] := by
    unfold due Ctx.dueWrites
    refine ((sortWrites_perm _).filter _).trans ?_
    rw [List.filter_filter, ← h]
    refine List.Perm.of_eq (List.filter_congr (fun v _ => ?_))
    rw [Bool.and_comm]
    rfl
  rw [V.get_performDue, List.perm_singleton.mp hp]
  rfl

/-- A register whose latest due write covers it holds the value of that write. -/
theorem get_of_latest {w : RegWrite} (hw : w ∈ (k.ctx res).writes) (hd : w.due ≤ now) (hr : w.reg = V.reg)
    (hm : w.mask = BitVec.allOnes 4096)
    (hl : ∀ v ∈ (k.ctx res).writes, v ≠ w → v.due ≤ now → v.reg = w.reg → v.seq < w.seq) (hn : n ≤ 4096) :
    V.get ((k.performDue res now).ctx res) = w.value.setWidth n := by
  have hs : (V.due (k.ctx res) now).Pairwise (fun a b => a.seq ≤ b.seq) := (sortWrites_sorted _).filter _
  have hmem : w ∈ V.due (k.ctx res) now :=
    List.mem_filter.mpr ⟨Ctx.mem_dueWrites.mpr ⟨hw, hd⟩, decide_eq_true hr⟩
  obtain ⟨t, ht⟩ := getLast_of_latest hs hmem (fun v hv hne => by
    obtain ⟨hv, hvr⟩ := List.mem_filter.mp hv
    obtain ⟨hv, hvd⟩ := Ctx.mem_dueWrites.mp hv
    exact hl v hv hne hvd ((of_decide_eq_true hvr).trans hr.symm))
  rw [V.get_performDue, ht, List.foldl_append, List.foldl_cons, List.foldl_nil, RegWrite.onto_of_whole hm hn]

end RegView

/-- Settles O12: the due writes of a context, by the registers they name. -/
theorem registersKeepTheLastWrite : Obligations.RegistersKeepTheLastWrite := by
  refine ⟨fun k res now => ⟨k.writes_performDue res now, rfl, rfl, fun w hw hd hm => Core.flags_performDue hw hd hm,
    fun w hw hd hm hl => ⟨fun n hn hr => ?_, fun n hr => ?_, fun n hn hr => ?_⟩, fun w n h => ?_, fun n h => ?_, fun n h => ?_,
    fun n h => ?_⟩, fun n => ?_, fun n => rfl, fun n hn => ?_⟩
  · exact (RegView.g n hn).get_of_latest hw hd hr hm hl (by decide)
  · exact ((RegView.v n).get_of_latest hw hd hr hm hl (Nat.le_refl _)).trans (BitVec.setWidth_eq _)
  · exact (RegView.m n hn).get_of_latest hw hd hr hm hl (by decide)
  · have hv := (RegView.v n).get_of_one h
    unfold RegWrite.onto at hv
    rw [BitVec.setWidth_eq, BitVec.setWidth_eq] at hv
    exact hv
  · by_cases hn : n = 0
    · rw [hn]; rfl
    · exact (RegView.g n hn).get_of_none h
  · exact (RegView.v n).get_of_none h
  · by_cases hn : n = 0
    · rw [hn]; rfl
    · exact (RegView.m n hn).get_of_none h
  · unfold Ctx.rg
    split <;> rfl
  · exact if_neg hn

end Sys2Proof.Machine
end

section
/-!
Words of the SR and SI groups (R161 to R165): what the operators of a meaning compute, as the values of Tables 8.1 and 8.2, and
that each word queues its value. Settles O20 to O23.
-/

namespace Sys2Proof.Machine

/-! ### Values of words of any width -/

section
variable {n : Nat} (x y : BitVec n) (k : Nat)

theorem ofNat_add_toNat : BitVec.ofNat n (x.toNat + y.toNat) = x + y := by
  rw [BitVec.ofNat_add, BitVec.ofNat_toNat, BitVec.ofNat_toNat, BitVec.setWidth_eq, BitVec.setWidth_eq]

theorem ofInt_sub_toInt : BitVec.ofInt n (x.toInt - y.toInt) = x - y :=
  BitVec.eq_of_toInt_eq (by rw [BitVec.toInt_ofInt, BitVec.toInt_sub])

theorem ofInt_mul_toInt : BitVec.ofInt n (x.toInt * y.toInt) = x * y :=
  BitVec.eq_of_toInt_eq (by rw [BitVec.toInt_ofInt, BitVec.toInt_mul])

theorem ofInt_min_toInt : BitVec.ofInt n (min x.toInt y.toInt) = if x.toInt ≤ y.toInt then x else y := by
  rw [min_def, apply_ite (BitVec.ofInt n), BitVec.ofInt_toInt, BitVec.ofInt_toInt]

theorem ofInt_max_toInt : BitVec.ofInt n (max x.toInt y.toInt) = if x.toInt ≤ y.toInt then y else x := by
  rw [max_def, apply_ite (BitVec.ofInt n), BitVec.ofInt_toInt, BitVec.ofInt_toInt]

theorem ofNat_toNat_self : BitVec.ofNat n x.toNat = x := by rw [BitVec.ofNat_toNat, BitVec.setWidth_eq]

theorem ofNat_min_toNat : BitVec.ofNat n (min x.toNat y.toNat) = if x.toNat ≤ y.toNat then x else y := by
  rw [min_def, apply_ite (BitVec.ofNat n), ofNat_toNat_self, ofNat_toNat_self]

theorem ofNat_max_toNat : BitVec.ofNat n (max x.toNat y.toNat) = if x.toNat ≤ y.toNat then y else x := by
  rw [max_def, apply_ite (BitVec.ofNat n), ofNat_toNat_self, ofNat_toNat_self]

theorem ofNat_mul_two_pow : BitVec.ofNat n (x.toNat * 2 ^ k) = x <<< k :=
  BitVec.eq_of_toNat_eq (by rw [BitVec.toNat_ofNat, BitVec.toNat_shiftLeft, Nat.shiftLeft_eq])

theorem ofNat_div_two_pow : BitVec.ofNat n (x.toNat / 2 ^ k) = x >>> k := by
  refine BitVec.eq_of_toNat_eq ?_
  rw [BitVec.toNat_ofNat, BitVec.toNat_ushiftRight, Nat.shiftRight_eq_div_pow]
  exact Nat.mod_eq_of_lt (Nat.lt_of_le_of_lt (Nat.div_le_self _ _) x.isLt)

theorem toInt_div_two_pow : x.toInt / 2 ^ k = (x.sshiftRight k).toInt := by
  rw [BitVec.toInt_sshiftRight, Int.shiftRight_eq_div_pow]
  norm_cast

theorem ofInt_div_two_pow : BitVec.ofInt n (x.toInt / 2 ^ k) = x.sshiftRight k := by
  rw [toInt_div_two_pow, BitVec.ofInt_toInt]

/-! ### Quotients and remainders (R162) -/

theorem sdivWord_eq : sdivWord x y = if y = 0 then BitVec.allOnes n else BitVec.ofInt n (x.toInt.tdiv y.toInt) := by
  have hq : BitVec.ofInt n (x.toInt.tdiv y.toInt) = x.sdiv y :=
    BitVec.eq_of_toInt_eq (by rw [BitVec.toInt_ofInt, BitVec.toInt_sdiv])
  rw [hq]
  rfl

theorem udivWord_eq : udivWord x y = if y = 0 then BitVec.allOnes n else BitVec.ofNat n (x.toNat / y.toNat) := by
  have hq : BitVec.ofNat n (x.toNat / y.toNat) = x / y := by rw [← BitVec.toNat_udiv]; exact ofNat_toNat_self _
  rw [hq]
  rfl

/-- The remainder for a zero divisor is that of the truncated division by zero: the dividend. -/
theorem sremWord_eq : sremWord x y = BitVec.ofInt n (x.toInt.tmod y.toInt) := by
  have hr : BitVec.ofInt n (x.toInt.tmod y.toInt) = x.srem y := by rw [← BitVec.toInt_srem, BitVec.ofInt_toInt]
  rw [hr]
  unfold sremWord
  split
  · next h => rw [h]; exact BitVec.srem_zero.symm
  · rfl

theorem uremWord_eq : uremWord x y = BitVec.ofNat n (x.toNat % y.toNat) := by
  have hr : BitVec.ofNat n (x.toNat % y.toNat) = x % y := by rw [← BitVec.toNat_umod]; exact ofNat_toNat_self _
  rw [hr]
  unfold uremWord
  split
  · next h => rw [h]; exact BitVec.umod_zero.symm
  · rfl

end

/-! ### Values of 64-bit registers -/

/-- The high half of the exact unsigned product. -/
theorem mulhn_eq (x y : Word) : BitVec.ofNat 64 (x.toNat * y.toNat / 2 ^ 64) =
    (x.setWidth 128 * y.setWidth 128).extractLsb' 64 64 := by
  have hp : x.toNat * y.toNat < 2 ^ 64 * 2 ^ 64 := Nat.mul_lt_mul'' x.isLt y.isLt
  have hx := x.isLt
  have hy := y.isLt
  refine BitVec.eq_of_toNat_eq ?_
  rw [BitVec.toNat_ofNat, BitVec.extractLsb'_toNat, BitVec.toNat_mul, BitVec.toNat_setWidth, BitVec.toNat_setWidth,
    Nat.mod_eq_of_lt (a := x.toNat) (by omega), Nat.mod_eq_of_lt (a := y.toNat) (by omega),
    Nat.mod_eq_of_lt (hp.trans_eq (by norm_num)), Nat.shiftRight_eq_div_pow]

theorem boolWord_decide (p : Prop) [Decidable p] : boolWord (decide p) = if p then 1 else 0 := by
  unfold boolWord; by_cases h : p <;> simp [h]

theorem boolWord_beq (x y : Word) : boolWord (x == y) = if x = y then 1 else 0 := by
  unfold boolWord; simp only [beq_iff_eq]

theorem boolWord_bne (x y : Word) : boolWord (x != y) = if x = y then 0 else 1 := by
  unfold boolWord; by_cases h : x = y <;> simp [h]

theorem eq_brevWord {x v : Word} (h : ∀ j < 64, v.getLsbD j = x.getLsbD (63 - j)) : v = brevWord x :=
  BitVec.eq_of_getLsbD_eq (fun j hj => by rw [h j hj, getLsbD_brevWord x hj])

/-- Eight bytes make a word. -/
theorem eq_of_bytes {v w : Word} (h : ∀ j < 8, v.extractLsb' (8 * j) 8 = w.extractLsb' (8 * j) 8) : v = w := by
  refine BitVec.eq_of_getLsbD_eq (fun i hi => ?_)
  have hb := congrArg (fun b => b.getLsbD (i % 8)) (h (i / 8) (by omega))
  simp only [BitVec.getLsbD_extractLsb', show i % 8 < 8 by omega, decide_true, Bool.true_and, Nat.div_add_mod] at hb
  exact hb

/-- Byte j of the reversed word is byte 7 - j of the word: each j picks one part of the concatenation. -/
theorem extractLsb'_bswapWord (x : Word) {j : Nat} (h : j < 8) :
    (bswapWord x).extractLsb' (8 * j) 8 = x.extractLsb' (8 * (7 - j)) 8 := by
  refine BitVec.eq_of_getLsbD_eq (fun i hi => ?_)
  unfold bswapWord
  simp only [BitVec.getLsbD_extractLsb', BitVec.getLsbD_append, hi, decide_true, Bool.true_and]
  interval_cases j <;> grind

theorem eq_bswapWord {x v : Word} (h : ∀ j < 8, v.extractLsb' (8 * j) 8 = x.extractLsb' (8 * (7 - j)) 8) : v = bswapWord x :=
  eq_of_bytes (fun j hj => by rw [h j hj, extractLsb'_bswapWord x hj])

/-- The value of an immediate is that of its field, extended by its sign (R145). -/
theorem immVal_eq {i : Imm} {n : Word} (hs : ∀ k : BitVec 10, i = .short k → n = BitVec.ofInt 64 k.toInt)
    (hl : ∀ k : BitVec 37, i = .long k → n = BitVec.ofInt 64 k.toInt) : i.val = n := by
  cases i with
  | short k => exact (hs k rfl).symm
  | long k => exact (hl k rfl).symm

theorem low32_eq (x : Word) : low32 x = x.extractLsb' 0 32 := by
  unfold low32; exact BitVec.setWidth_eq_extractLsb' (by decide)

theorem divFlags_eq (w : Nat) (y : Word) : divFlags w y = if y.toNat % 2 ^ w = 0 then fInvalid else 0 := by
  unfold divFlags flagIf; simp only [decide_eq_true_iff]

/-- A 64-bit divisor of 0 raises the invalid flag. -/
theorem divFlags_word (y : Word) : divFlags 64 y = if y = 0 then fInvalid else 0 := by
  have hz : y.toNat % 2 ^ 64 = 0 ↔ y = 0 := by
    rw [Nat.mod_eq_of_lt y.isLt, ← BitVec.toNat_inj]; rfl
  rw [divFlags_eq]; simp only [hz]

/-- A divisor whose low half is 0 raises the invalid flag in the .W words. -/
theorem divFlags_half (y : Word) : divFlags 32 y = if low32 y = 0 then fInvalid else 0 := by
  have hz : y.toNat % 2 ^ 32 = 0 ↔ low32 y = 0 := by
    rw [← BitVec.toNat_inj]; unfold low32; rw [BitVec.toNat_setWidth]; rfl
  rw [divFlags_eq]; simp only [hz]

/-! ### Words -/

section
variable {i : Instr} {s : State} {d a b : BitVec 6} {lat : Nat} {v : Word}

/-- A two-source SR word completes with its result and its flags; it makes no access and names no vector register. -/
theorem sr2_flagged {f : Word → Word → Word} {fl : Word → Flags} {g : Flags}
    (hx : exec i s = issue i s (fun s => s.sr2 lat d a b f fl)) (hb : s.inHand) (hv : v = f (s.cx.rg a) (s.cx.rg b))
    (hg : g = fl (s.cx.rg b)) (he : ∀ s : State, s.accessEvent i = none := by exact fun _ => rfl)
    (ha : ∀ x : Ctx, slotRanges x i = (.load, []) := by exact fun _ => rfl)
    (hu : (uses i).vr ++ (uses i).vw = [] := by exact rfl) : GivesG i s d lat v g := sr2_gives hx he ha hu hb hv hg

/-- A two-source SR word without flags completes with its result. -/
theorem sr2_value {f : Word → Word → Word} (hx : exec i s = issue i s (fun s => s.sr2 lat d a b f noFlags)) (hb : s.inHand)
    (hv : v = f (s.cx.rg a) (s.cx.rg b)) (he : ∀ s : State, s.accessEvent i = none := by exact fun _ => rfl)
    (ha : ∀ x : Ctx, slotRanges x i = (.load, []) := by exact fun _ => rfl)
    (hu : (uses i).vr ++ (uses i).vw = [] := by exact rfl) : GivesG i s d lat v := sr2_gives hx he ha hu hb hv rfl

/-- A one-source SR word completes with its result. -/
theorem sr1_value {f : Word → Word} (hx : exec i s = issue i s (fun s => s.sr1 d a f)) (hb : s.inHand)
    (hv : v = f (s.cx.rg a)) (he : ∀ s : State, s.accessEvent i = none := by exact fun _ => rfl)
    (ha : ∀ x : Ctx, slotRanges x i = (.load, []) := by exact fun _ => rfl)
    (hu : (uses i).vr ++ (uses i).vw = [] := by exact rfl) : GivesG i s d 1 v := sr1_gives hx he ha hu hb hv

/-- An SI word completes with its result. -/
theorem si_value {n : Imm} {f : Word → Word → Word} (hx : exec i s = issue i s (fun s => s.si lat d a n f)) (hb : s.inHand)
    (hv : v = f (s.cx.rg a) n.val) (he : ∀ s : State, s.accessEvent i = none := by exact fun _ => rfl)
    (ha : ∀ x : Ctx, slotRanges x i = (.load, []) := by exact fun _ => rfl)
    (hu : (uses i).vr ++ (uses i).vw = [] := by exact rfl) : GivesG i s d lat v := si_gives hx he ha hu hb hv

end

/-- SEL reads its destination too (R163). -/
theorem sel_gives {s : State} {d a b : BitVec 6} (hb : s.inHand) :
    GivesG (.sel d a b) s d 1 (if s.cx.rg d ≠ 0 then s.cx.rg a else s.cx.rg b) :=
  givesG_of (fun x => if x.rg d ≠ 0 then x.rg a else x.rg b) (fun _ => 0) rfl (fun _ => rfl) (fun _ => rfl) hb
    (unbound_of_none rfl) (fun _ => rfl) (fun _ _ _ => rfl) (fun _ _ _ => rfl)

/-- ADPC adds to the address of the bundle (R165). -/
theorem adpc_gives {s : State} {d : BitVec 6} {i : Imm} (hb : s.inHand) : GivesG (.adpc d i) s d 1 (s.cx.pc + i.val) :=
  givesG_of (fun x => x.pc + i.val) (fun _ => 0) rfl (fun _ => rfl) (fun _ => rfl) hb (unbound_of_none rfl) (fun _ => rfl)
    (fun _ _ _ => rfl) (fun _ _ _ => rfl)

/-- Settles O20: each word by the operation of its meaning and the value that this operation has. -/
theorem scalarArithmetic : Obligations.ScalarArithmetic := by
  rintro s d a b x y hb rfl rfl
  exact ⟨sr2_value rfl hb (ofNat_add_toNat ..), sr2_value rfl hb (ofInt_sub_toInt ..), sr2_value rfl hb rfl,
    sr2_value rfl hb rfl, sr2_value rfl hb rfl, sr2_value rfl hb rfl, sr2_value rfl hb (ofInt_mul_toInt ..),
    sr2_value rfl hb (mulh_eq ..), sr2_value rfl hb (mulhn_eq ..), sr2_value rfl hb (ofInt_min_toInt ..),
    sr2_value rfl hb (ofInt_max_toInt ..), sr2_value rfl hb (ofNat_min_toNat ..), sr2_value rfl hb (ofNat_max_toNat ..)⟩

/-- Settles O21: each word by the operation of its meaning; the counts, extensions and reversals by the bits that they give. -/
theorem scalarBits : Obligations.ScalarBits := by
  rintro s d a b x y hb rfl rfl
  refine ⟨sr2_value rfl hb (ofNat_mul_two_pow ..), sr2_value rfl hb (ofNat_div_two_pow ..),
    sr2_value rfl hb (ofInt_div_two_pow ..), sr2_value rfl hb rfl, sr2_value rfl hb rfl,
    sr2_value rfl hb (boolWord_beq ..).symm, sr2_value rfl hb (boolWord_bne ..).symm,
    sr2_value rfl hb (boolWord_decide _).symm, sr2_value rfl hb (boolWord_decide _).symm,
    sr2_value rfl hb (boolWord_decide _).symm, sr2_value rfl hb (boolWord_decide _).symm, ?_, sr1_value rfl hb rfl,
    fun v hv => sr1_value rfl hb (eq_brevWord hv), fun v hv => sr1_value rfl hb (eq_bswapWord hv), fun w hw => ?_,
    fun n hn hz h1 => sr1_value rfl hb (clzWord_eq _ hn hz h1).symm,
    fun n hn hz h1 => sr1_value rfl hb (ctzWord_eq _ hn hz h1).symm⟩
  · have h := sel_gives (d := d) (a := a) (b := b) hb
    rwa [ite_not] at h
  · have h0 : 0 < w.toNat := Nat.pos_of_ne_zero (fun h => hw (BitVec.eq_of_toNat_eq h))
    exact ⟨sr1_value rfl hb (extsWord_eq _ h0 w.isLt).symm, sr1_value rfl hb (extzWord_eq _ w.isLt).symm⟩

/-- Settles O22: each word by its quotient or remainder, and the flag by the divisor. -/
theorem division : Obligations.Division := by
  rintro s d a b x y p q fl fw hb rfl rfl rfl rfl rfl rfl
  simp only [← low32_eq]
  exact ⟨sr2_flagged rfl hb (sdivWord_eq ..).symm (divFlags_word _).symm,
    sr2_flagged rfl hb (udivWord_eq ..).symm (divFlags_word _).symm,
    sr2_flagged rfl hb (sremWord_eq ..).symm (divFlags_word _).symm,
    sr2_flagged rfl hb (uremWord_eq ..).symm (divFlags_word _).symm,
    sr2_flagged rfl hb (congrArg sext32 (sdivWord_eq ..).symm) (divFlags_half _).symm,
    sr2_flagged rfl hb (congrArg sext32 (udivWord_eq ..).symm) (divFlags_half _).symm,
    sr2_flagged rfl hb (congrArg sext32 (sremWord_eq ..).symm) (divFlags_half _).symm,
    sr2_flagged rfl hb (congrArg sext32 (uremWord_eq ..).symm) (divFlags_half _).symm⟩

/-- Settles O23: each word by the operation of its meaning on the low halves or on the extended immediate. -/
theorem immediatesAndHalves : Obligations.ImmediatesAndHalves := by
  rintro s d a b i x y n p q hb rfl rfl hs hl rfl rfl
  obtain rfl : i.val = n := immVal_eq hs hl
  simp only [← low32_eq, ← BitVec.setWidth_eq_extractLsb' (show (27 : Nat) ≤ 64 by decide),
    ← BitVec.setWidth_eq_extractLsb' (show (37 : Nat) ≤ 64 by decide)]
  exact ⟨sr2_value rfl hb rfl, sr2_value rfl hb rfl, sr2_value rfl hb (congrArg sext32 (ofNat_mul_two_pow ..)),
    sr2_value rfl hb (congrArg sext32 (ofNat_div_two_pow ..)),
    sr2_value rfl hb (congrArg (BitVec.ofInt 64) (toInt_div_two_pow ..)), sr2_value rfl hb rfl, si_value rfl hb rfl,
    si_value rfl hb rfl, si_value rfl hb rfl, si_value rfl hb rfl,
    fun _ => ⟨si_value rfl hb (ofNat_mul_two_pow ..), si_value rfl hb (ofNat_div_two_pow ..),
      si_value rfl hb (ofInt_div_two_pow ..)⟩,
    si_value rfl hb rfl, si_value rfl hb (boolWord_beq ..).symm, si_value rfl hb (boolWord_decide _).symm,
    si_value rfl hb (boolWord_decide _).symm, si_value rfl hb rfl, si_value rfl hb rfl, adpc_gives hb⟩

end Sys2Proof.Machine
end

section
/-!
The control group (R145, R166 to R169): targets, branches, links, and the hardware loop. Settles O24 to O26.
-/

namespace Sys2Proof.Machine

/-! ### Targets (R145, R167) -/

/-- Four times an offset, extended by its sign, added to a base. -/
theorem add_signExtend_mul_four {n : Nat} (x : Word) (o : BitVec n) :
    x + o.signExtend 64 * 4 = BitVec.ofInt 64 (x.toInt + 4 * o.toInt) := by
  rw [BitVec.ofInt_add, BitVec.ofInt_mul, BitVec.ofInt_toInt, BitVec.mul_comm]
  rfl

theorem sbTarget_eq (x : Word) (o : BitVec 11) : sbTarget x o = BitVec.ofInt 64 (x.toInt + 4 * o.toInt) :=
  add_signExtend_mul_four x o

theorem sjTarget_eq (x : Word) (o : BitVec 17) : sjTarget x o = BitVec.ofInt 64 (x.toInt + 4 * o.toInt) :=
  add_signExtend_mul_four x o

/-! ### Branches (R167) -/

section
variable {i : Instr} {s : State} {a b : BitVec 6} {o : BitVec 11} {f : Word → Word → Bool}

/-- A branch sends the bundle to its target when its comparison holds, and else leaves everything as it is. -/
theorem branch_effect (hx : exec i s = issue i s (fun s => s.branch a b o f)) (hb : s.inHand)
    (hu : (uses i).vr ++ (uses i).vw = [] := by exact rfl) :
    Effect i s (if f (s.cx.rg a) (s.cx.rg b) then s.sent (.jump (sbTarget s.cx.pc o)) else s) :=
  effect_nil hx hb hu (fun v h => by
    unfold State.branch
    rw [h.rg, h.rg, h.pc]
    split
    · exact h.same.sent _
    · exact h.same)

/-- A branch on a comparison. -/
theorem branch_on {p : Prop} [Decidable p] (hx : exec i s = issue i s (fun s => s.branch a b o f)) (hb : s.inHand)
    (hp : f (s.cx.rg a) (s.cx.rg b) = true ↔ p) (hu : (uses i).vr ++ (uses i).vw = [] := by exact rfl) :
    Effect i s (if p then s.sent (.jump (BitVec.ofInt 64 (s.cx.pc.toInt + 4 * o.toInt))) else s) := by
  have h := branch_effect hx hb hu
  simp only [hp, sbTarget_eq] at h
  exact h

/-- A branch on the contrary of a comparison. -/
theorem branch_on_not {p : Prop} [Decidable p] (hx : exec i s = issue i s (fun s => s.branch a b o f)) (hb : s.inHand)
    (hp : f (s.cx.rg a) (s.cx.rg b) = true ↔ ¬ p) (hu : (uses i).vr ++ (uses i).vw = [] := by exact rfl) :
    Effect i s (if p then s else s.sent (.jump (BitVec.ofInt 64 (s.cx.pc.toInt + 4 * o.toInt)))) := by
  have h := branch_on hx hb hp hu
  rwa [ite_not] at h

end

/-- Settles O24: each branch by its comparison and its target, each jump by its target. -/
theorem branches : Obligations.Branches := by
  rintro s a b o q x y pc u hb rfl rfl rfl rfl
  refine ⟨branch_on rfl hb beq_iff_eq, branch_on_not rfl hb bne_iff_ne, branch_on rfl hb decide_eq_true_iff,
    branch_on_not rfl hb (decide_eq_true_iff.trans not_lt.symm), branch_on rfl hb decide_eq_true_iff,
    branch_on_not rfl hb (decide_eq_true_iff.trans not_lt.symm), effect_nil rfl hb rfl (fun v h => ?_),
    effect_nil rfl hb rfl (fun v h => ?_)⟩
  · rw [h.pc, sjTarget_eq]
    exact h.same.sent _
  · rw [h.rg, sbTarget_eq]
    exact h.same.sent _

/-! ### Links (R168) -/

/-- A bundle with an address behind it is in hand. -/
theorem State.inHand_of {s : State} {next : Word} (h : s.bundle = some next) : s.inHand := by
  unfold State.inHand; rw [h]; rfl

/-- A link queues the address behind the bundle and sends the bundle to its target. -/
theorem Seen.link {i : Instr} {s v : State} (h : Seen i s v) (d : BitVec 6) {next : Word} (hn : s.bundle = some next) (t : Word) :
    Same ((v.writeG 1 d v.nextAddr).goTo (.jump t))
      ((s.queued [s.wrote 1 (.g d) (next.setWidth 4096) (BitVec.allOnes 4096) 0]).sent (.jump t)) := by
  rw [h.nextAddr, State.nextAddr_of hn]
  exact (h.writeG 1 d next 0).sent _

/-- A program counter between words is a misaligned access when it is fetched (R142). -/
theorem State.fetch_misaligned {s : State} {c : Nat} {res : BitVec 1} {pc : Word} (hpc : (s.ctx c res).pc = pc)
    (h : pc.toNat % 4 ≠ 0) : s.fetch c res = .trap ⟨4, 0, pc, pc, false, some { FaultRec.plain 4 0 pc with addr := pc }⟩ := by
  unfold State.fetch
  rw [hpc]
  exact if_pos h

/-- A program counter outside the instruction store makes an ill-formed bundle when it is fetched (R142). -/
theorem State.fetch_outside {s : State} {c : Nat} {res : BitVec 1} {pc : Word} (hpc : (s.ctx c res).pc = pc)
    (h : pc.toNat % 4 = 0) (ho : 0x20000 ≤ pc.toNat) : s.fetch c res = .trap (bundleTrap 1 pc 0 0 0) := by
  unfold State.fetch
  rw [hpc]
  exact (if_neg (not_not.mpr h)).trans (if_pos ho)

/-- Control words with a reserved opcode, or with a register in a field that JMP and JR reserve, are no instructions. -/
theorem decodeControl_error {w : IWord}
    (h : fld w 23 4 = 6 ∨ fld w 23 4 = 7 ∨ (fld w 23 4 = 8 ∧ fld w 17 6 ≠ 0) ∨ (fld w 23 4 = 10 ∧ fld w 11 6 ≠ 0)) :
    ∃ e, decodeControl w = .error e := by
  unfold decodeControl
  obtain ho | ho | ⟨ho, hr⟩ | ⟨ho, hr⟩ := h
  · rw [ho]; exact ⟨_, rfl⟩
  · rw [ho]; exact ⟨_, rfl⟩
  · rw [ho]; exact ⟨_, if_neg (mt of_decide_eq_true hr)⟩
  · rw [ho]; exact ⟨_, if_neg (mt of_decide_eq_true hr)⟩

/-- Settles O25: the link and the target of each word, the traps of a target that is no place of the store, and the words
that do not decode. -/
theorem links : Obligations.Links := by
  refine ⟨fun s a b d o q next hn => ?_, fun s c res => ⟨fun h => ?_, fun h ho => ?_⟩, fun w hg h => ?_⟩
  · have hb := State.inHand_of hn
    refine ⟨⟨_, s.wrote_is .., effect_nil rfl hb rfl (fun v h => ?_)⟩, _, s.wrote_is .., effect_nil rfl hb rfl (fun v h => ?_)⟩
    · rw [h.pc, sjTarget_eq]
      exact h.link d hn _
    · rw [h.rg, sbTarget_eq]
      exact h.link b hn _
  · exact ⟨_, State.fetch_misaligned rfl h, rfl, rfl, rfl⟩
  · exact ⟨_, State.fetch_outside rfl h ho, rfl, rfl, rfl⟩
  · rw [Laws.decodeWord_Control hg]
    exact decodeControl_error h

/-! ### The loop (R169) -/

/-- From an address of the store, the bundle of n words there ends behind them: the first mark E stands in the last one. -/
theorem State.afterWordAt_of_bundle {s : State} {core n fuel a : Nat} (h0 : 0 < n) (hf : n ≤ fuel) (hs : a + 4 * n ≤ 0x20000)
    (hm : ∀ j, j + 1 < n → (Memory.read s.mem (istoreKey core (a + 4 * j + 3))).getLsbD 7 = false)
    (hl : (Memory.read s.mem (istoreKey core (a + 4 * n - 1))).getLsbD 7 = true) :
    s.afterWordAt core fuel a = a + 4 * n := by
  induction n generalizing fuel a with
  | zero => omega
  | succ n ih =>
    obtain ⟨fuel, rfl⟩ : ∃ m, fuel = m + 1 := ⟨fuel - 1, by omega⟩
    unfold State.afterWordAt
    by_cases hn : n = 0
    · subst hn
      exact if_pos ⟨by omega, hl⟩
    · have h := hm 0 (by omega)
      rw [if_neg (fun hc => by rw [h] at hc; exact absurd hc.2 (by decide)),
        ih (Nat.pos_of_ne_zero hn) (by omega) (by omega)
          (fun j hj => by rw [show a + 4 + 4 * j + 3 = a + 4 * (j + 1) + 3 by omega]; exact hm (j + 1) (by omega))
          (by rw [show a + 4 + 4 * n - 1 = a + 4 * (n + 1) - 1 by omega]; exact hl)]
      omega

/-- The address behind a bundle of n words within its block of 64 bytes. -/
theorem State.nextAfter_of_bundle {s : State} {core n : Nat} {a : Word} (h0 : 0 < n) (hb : a.toNat % 64 + 4 * n ≤ 64)
    (hs : a.toNat + 4 * n ≤ 0x20000)
    (hm : ∀ j, j + 1 < n → (Memory.read s.mem (istoreKey core (a.toNat + 4 * j + 3))).getLsbD 7 = false)
    (hl : (Memory.read s.mem (istoreKey core (a.toNat + 4 * n - 1))).getLsbD 7 = true) :
    s.nextAfter core a = a + BitVec.ofNat 64 (4 * n) := by
  unfold State.nextAfter
  rw [State.afterWordAt_of_bundle h0 (by omega) hs hm hl, BitVec.ofNat_add, ofNat_toNat_self]

theorem Seen.nextAfter {i : Instr} {s v : State} (h : Seen i s v) (core : Nat) (a : Word) :
    v.nextAfter core a = s.nextAfter core a := by
  have hw : ∀ n a, v.afterWordAt core n a = s.afterWordAt core n a := fun n => by
    induction n with
    | zero => intro a; rfl
    | succ n ih => intro a; unfold State.afterWordAt; rw [h.mem, ih]
  unfold State.nextAfter
  rw [hw]

/-- LOOP by its count: it begins its body, or goes on behind the body's last bundle. -/
theorem loop_effect {s : State} {a : BitVec 6} {o : BitVec 11} {next : Word} (hn : s.bundle = some next) :
    Effect (.loop a o) s
      (if s.cx.rg a = 0 then s.sent (.jump (s.nextAfter s.me (sbTarget s.cx.pc o)))
       else s.modCx (fun x => { x with lact := true, lbeg := next, lend := sbTarget s.cx.pc o, lcnt := s.cx.rg a })) :=
  effect_nil rfl (State.inHand_of hn) rfl (fun v h => by
    simp only [h.rg, h.pc, h.me, h.nextAfter, h.nextAddr, State.nextAddr_of hn]
    split
    · exact h.same.sent _
    · exact h.modCx (fun _ _ => rfl))

/-- Settles O26: LOOP by its count, and where the last bundle of a body ends. -/
theorem loopBegins : Obligations.LoopBegins := by
  rintro s a o next last n hn rfl
  have he := loop_effect (a := a) (o := o) hn
  rw [sbTarget_eq] at he
  refine ⟨fun h => ?_, fun h _ h0 hb hs hm hl => ?_⟩
  · rwa [if_neg h] at he
  · rwa [if_pos h, State.nextAfter_of_bundle h0 hb hs hm hl] at he

end Sys2Proof.Machine
end

section
/-!
The SY group: system registers, DIGEST, RETIME and TLBI (R173, R178, R181 to R183). Settles O28 and O30; that a TLBI names the
translations of its context's ASID alone is log entry 75.
-/

namespace Sys2Proof

/-- A table whose values are all changed by index. -/
theorem Table.get_map {α : Type} (d : α) (t : Table α) (f : Nat → α → α) (i : Nat) (hd : f i d = d) :
    Table.get d (t.map (fun p => (p.1, f p.1 p.2))) i = f i (Table.get d t i) := by
  induction t with
  | nil => exact hd.symm
  | cons p t ih =>
    obtain ⟨j, a⟩ := p
    simp only [List.map_cons, Table.get]
    split
    · next h => rw [h]
    · exact ih

end Sys2Proof

namespace Sys2Proof.Machine

/-! ### System registers (R173) -/

/-- SRR reads the system register as the bundle finds it. -/
theorem srr_gives {s : State} {d : BitVec 6} {n : BitVec 9} (hb : s.inHand) :
    GivesG (.srr d n) s d 1 (s.readSys s.me s.res n) := by
  have hu : s.unbound (.srr d n) := unbound_of_none rfl
  refine queues_of rfl (fun _ => rfl) (fun _ => rfl) hb hu ?_
  rw [← Seen.readSys ⟨State.beforeWord_eq hu⟩ n]
  rfl

/-- What an access to a system register queues: the old value for gd, the new one in the fields of the context's level. -/
def State.sysWrites (s : State) (d : BitVec 6) (n : BitVec 9) (new : Word) : List RegWrite :=
  let old := s.readSys s.me s.res n
  let m := sysMask s.cx.lvl n
  [s.wrote 1 (.g d) (old.setWidth 4096) (BitVec.allOnes 4096) 0,
    { s.wrote 1 (.sys n) (((old &&& ~~~m) ||| (new &&& m)).setWidth 4096) (m.setWidth 4096) 0 with seq := s.seq + 1 }]

/-- An access to a system register queues its two writes. -/
theorem Same.sysAccess (s : State) (d : BitVec 6) (n : BitVec 9) (f : Word → Word) :
    Same (s.sysAccess d n f) (s.queued (s.sysWrites d n (f (s.readSys s.me s.res n)))) := by
  unfold State.sysAccess State.writeG
  simp only [State.queueWrite_queued, State.queued_numbered, State.queued_queued, State.numbered_numbered]
  exact Same.numbered _ _ _ _

theorem Seen.sysWrites {i : Instr} {s v : State} (h : Seen i s v) (d : BitVec 6) (n : BitVec 9) (new : Word) :
    v.sysWrites d n new = s.sysWrites d n new := by
  unfold State.sysWrites
  simp only [h.readSys, h.wrote, h.seq, h.ofCx (fun x => x.lvl) (fun _ _ _ => rfl)]

/-- A word that writes a system register with a value made of ga and of the old value. -/
theorem sysAccess_effect {i : Instr} {s : State} {d a : BitVec 6} {n : BitVec 9} (f : Word → Word → Word)
    (hx : exec i s = issue i s (fun s => s.sysAccess d n (f (s.cx.rg a)))) (hb : s.inHand)
    (hu : (uses i).vr ++ (uses i).vw = [] := by exact rfl) :
    Effect i s (s.queued (s.sysWrites d n (f (s.cx.rg a) (s.readSys s.me s.res n)))) :=
  effect_nil hx hb hu (fun v h => by
    have hs := Same.sysAccess v d n (f (v.cx.rg a))
    rw [h.sysWrites, h.readSys, h.rg] at hs
    rw [h.rg]
    exact hs.trans (h.queued _))

/-- What a write is does not depend on its number. -/
theorem RegWrite.Is.numbered {w : RegWrite} {s : State} {r : Reg} {lat : Nat} {v m : BitVec 4096} {fl : Flags}
    (h : w.Is s r lat v m fl) (k : Nat) : RegWrite.Is { w with seq := k } s r lat v m fl := h

/-- The two writes of an access, by what they write and when they perform. -/
theorem sysWrites_two {i : Instr} {s : State} {d : BitVec 6} {n : BitVec 9} {new : Word}
    (h : Effect i s (s.queued (s.sysWrites d n new))) :
    ∃ p q : RegWrite, p.Is s (.g d) 1 ((s.readSys s.me s.res n).setWidth 4096) ∧
      q.Is s (.sys n) 1
        (((s.readSys s.me s.res n &&& ~~~(sysMask s.cx.lvl n)) ||| (new &&& sysMask s.cx.lvl n)).setWidth 4096)
        ((sysMask s.cx.lvl n).setWidth 4096) ∧ Effect i s (s.queued [p, q]) :=
  ⟨_, _, s.wrote_is .., (s.wrote_is ..).numbered (s.seq + 1), h⟩

/-- Settles O28: SRR by what it reads, the others by the two writes of their access. -/
theorem systemRegisters : Obligations.SystemRegisters := by
  rintro s d a n old x m hb rfl rfl rfl
  refine ⟨srr_gives hb, fun i new hi => ?_⟩
  simp only [List.mem_cons, Prod.mk.injEq, List.not_mem_nil, or_false] at hi
  obtain ⟨rfl, rfl⟩ | ⟨rfl, rfl⟩ | ⟨rfl, rfl⟩ := hi
  · exact sysWrites_two (sysAccess_effect (fun x _ => x) rfl hb)
  · exact sysWrites_two (sysAccess_effect (fun x old => old ||| x) rfl hb)
  · exact sysWrites_two (sysAccess_effect (fun x old => old &&& ~~~x) rfl hb)

/-! ### DIGEST (R178) -/

theorem State.send_eq (s : State) (m : Msg) : s.send m = { s with fabric := (s.send m).fabric, seq := (s.send m).seq } := by
  unfold State.send
  split
  · rfl
  · split <;> rfl

/-- The reads of a DIGEST put messages on the fabric and change nothing else. -/
theorem State.digestReads_eq (s : State) (va : Word) (ps : List (Part × Xlat)) (off : Nat) :
    s.digestReads va ps off =
      { s with fabric := (s.digestReads va ps off).fabric, seq := (s.digestReads va ps off).seq } := by
  induction ps generalizing s off with
  | nil => rfl
  | cons p ps ih =>
    unfold State.digestReads
    split
    · exact ih s _
    · rw [ih, State.send_eq]

theorem Twin.digestReads {v s : State} (h : Twin v s) (va : Word) (ps : List (Part × Xlat)) (off : Nat) :
    Twin (v.digestReads va ps off) (s.digestReads va ps off) := by
  induction ps generalizing v s off with
  | nil => exact h
  | cons p ps ih =>
    unfold State.digestReads
    simp only [h.same.me, h.same.res, h.message]
    split
    · exact ih h _
    · exact ih (h.send _) _

/-- A change of the context in hand that the meters do not see, in two states that are the same. -/
theorem Same.modCx_alike {v s : State} (h : Same v s) {f : Ctx → Ctx}
    (hf : ∀ x : Ctx, (f x).metered [] 0 = f (x.metered [] 0)) : Same (v.modCx f) (s.modCx f) :=
  Same.modCx h (by rw [hf, hf, Twin.cx h])

/-- DIGEST of a range that resolves: its reads begin, and its fold. -/
theorem digest_effect {s : State} {d a : BitVec 6} {z : BitVec 1} {ps : List (Part × Xlat)} (hb : s.inHand)
    (hp : s.parts s.me s.cx (s.cx.rg a) (s.cx.rg d).toNat .load = .ok ps) :
    Effect (.digest d a z) s ((s.digestReads (s.cx.rg a) ps 0).modCx (fun x =>
      { x with folding := some ⟨s.cx.pc, s.wordIx, s.now s.me, s.cx.rg a, (s.cx.rg d).toNat, z = 1, []⟩ })) :=
  effect_nil rfl hb rfl (fun v h => by
    have hr := h.twin.digestReads (s.cx.rg a) ps 0
    have hi : (v.digestReads (s.cx.rg a) ps 0).wordIx = s.wordIx := by rw [State.digestReads_eq]; exact h.wordIx
    have hm : (v.digestReads (s.cx.rg a) ps 0).me = s.me := by rw [State.digestReads_eq]; exact h.me
    have ht : (v.digestReads (s.cx.rg a) ps 0).now s.me = s.now s.me := by rw [State.digestReads_eq]; exact h.now s.me
    simp only [h.rg, h.pc, h.me, h.twin.parts s.me (Twin.cx h.same), hp, hi, hm, ht]
    exact hr.same.modCx_alike (fun _ => rfl))

/-! ### RETIME (R183) -/

theorem Same.retimeOk {v s : State} (h : Same v s) (c : Nat) (x : Word) (r : BitVec 5) : v.retimeOk c x r = s.retimeOk c x r := by
  rw [h.fields]; rfl

/-- The write of a RETIME: 0 when its request is accepted, else 1. -/
def State.retimeWrite (s : State) (d : BitVec 6) (x : Word) (r : BitVec 5) : RegWrite :=
  s.wrote 1 (.g d) ((if s.retimeOk s.me x r then 0 else 1 : Word).setWidth 4096) (BitVec.allOnes 4096) 0

/-- RETIME by whether its request is accepted. -/
theorem retime_effect {s : State} {d a : BitVec 6} {r : BitVec 5} {x : Word} (hb : s.inHand) (hx : s.cx.rg a = x) :
    Effect (.retime d a r) s (if s.retimeOk s.me x r then
      (s.queued [s.retimeWrite d x r]).modRegion r.toNat (fun g =>
        { g with mbox := some ⟨x.setWidth 32, x.extractLsb' 32 16, x.extractLsb' 48 1, x.getLsbD 49⟩ })
      else s.queued [s.retimeWrite d x r]) :=
  effect_nil rfl hb rfl (fun v h => by
    have hw := h.writeG 1 d (if s.retimeOk s.me x r then 0 else 1) 0
    unfold State.retimeWrite
    simp only [h.rg, h.me, h.same.retimeOk, hx]
    split
    · next hok => rw [if_pos hok] at hw; exact hw.modRegion _ _
    · next hok => rw [if_neg hok] at hw; exact hw)

/-! ### TLBI (R182) -/

section
variable (s : State) (c : Option Nat) (keep : TlbEnt → Bool)

theorem State.core_tlbKeep (d : Nat) : (s.tlbKeep c keep).core d =
    if c.all (fun n => n = d) then { s.core d with tlb := (s.core d).tlb.filter keep } else s.core d :=
  Table.get_map Core.fresh s.cores (fun d k => if c.all (fun n => n = d) then { k with tlb := k.tlb.filter keep } else k) d
    (by split <;> rfl)

theorem State.ctlbs_tlbKeep (n : Nat) : Table.get [] (s.tlbKeep c keep).ctlbs n =
    if c.all (fun m => m / 8 = n) then (Table.get [] s.ctlbs n).filter keep else Table.get [] s.ctlbs n :=
  Table.get_map [] s.ctlbs (fun n l => if c.all (fun m => m / 8 = n) then l.filter keep else l) n (by split <;> rfl)

/-- Taking translations out changes nothing else. -/
theorem Same.tlbKeep : Same (s.tlbKeep c keep) s := by
  refine ⟨rfl, fun d => ?_⟩
  rw [State.core_tlbKeep]
  split <;> rfl

end

/-- A TLBI of kind 0 or 2 takes out the translations of its address, one of kind 1 or 3 all of the address space. -/
theorem TlbEnt.dropped_iff {e : TlbEnt} {k : BitVec 3} {p : Nat} {asid : BitVec 16} {va : Word} :
    e.dropped k p asid va = true ↔
      e.part.toNat = p ∧ e.asid = asid ∧ (k.toNat % 2 = 0 → e.va ≤ va.toNat ∧ va.toNat < e.va + e.size) := by
  unfold TlbEnt.dropped TlbEnt.hits
  split
  · next h => simp [h, and_assoc]
  · next h => simp [h]

/-- The TLBs that a TLBI of a core acts on: those of kinds 0 and 1 are the core's own, those of kinds 2 and 3 all. -/
theorem tlbiScope_all (k : BitVec 3) (c : Nat) (q : Nat → Bool) :
    (if k.toNat < 2 then some c else none : Option Nat).all q = true ↔ (k.toNat < 2 → q c = true) := by
  split
  · next h => simp [h]
  · next h => simp [h]

/-- What a conditional filter keeps. -/
theorem mem_ite_filter_not {α : Type} {P : Prop} [Decidable P] {l : List α} {f : α → Bool} {e : α} :
    e ∈ (if P then l.filter (fun t => !f t) else l) ↔ e ∈ l ∧ ¬ (P ∧ f e = true) := by
  by_cases h : P <;> simp [h]

/-- A translation stays in a core's TLB unless the TLBI acts on that TLB and names the translation. -/
theorem State.mem_tlb_tlbi {s : State} {c p : Nat} {res : BitVec 1} {k : BitVec 3} {va : Word} (hp : s.partOf c = some p)
    {d : Nat} {e : TlbEnt} : e ∈ ((s.tlbi c res k va).core d).tlb ↔ e ∈ (s.core d).tlb ∧ ¬ ((k.toNat < 2 → d = c) ∧
      e.part.toNat = p ∧ e.asid = (s.ctx c res).asid ∧
      (k.toNat % 2 = 0 → e.va ≤ va.toNat ∧ va.toNat < e.va + e.size)) := by
  unfold State.tlbi
  simp only [hp, State.core_tlbKeep, apply_ite Core.tlb, mem_ite_filter_not, tlbiScope_all, TlbEnt.dropped_iff, decide_eq_true_iff,
    eq_comm (a := c)]

/-- A translation stays in a cluster's TLB unless the TLBI acts on that TLB and names the translation. -/
theorem State.mem_ctlbs_tlbi {s : State} {c p : Nat} {res : BitVec 1} {k : BitVec 3} {va : Word} (hp : s.partOf c = some p)
    {n : Nat} {e : TlbEnt} : e ∈ Table.get [] (s.tlbi c res k va).ctlbs n ↔ e ∈ Table.get [] s.ctlbs n ∧
      ¬ ((k.toNat < 2 → n = c / 8) ∧ e.part.toNat = p ∧ e.asid = (s.ctx c res).asid ∧
        (k.toNat % 2 = 0 → e.va ≤ va.toNat ∧ va.toNat < e.va + e.size)) := by
  unfold State.tlbi
  simp only [hp, State.ctlbs_tlbKeep, mem_ite_filter_not, tlbiScope_all, TlbEnt.dropped_iff, decide_eq_true_iff, eq_comm (a := c / 8)]

theorem Same.tlbi (s : State) (c : Nat) (res : BitVec 1) (k : BitVec 3) (va : Word) : Same (s.tlbi c res k va) s := by
  unfold State.tlbi
  split
  · exact Same.refl s
  · exact Same.tlbKeep ..

/-- What follows a word without an access and without vector registers leaves every translation. -/
theorem State.tlbs_afterWord {t : State} {i : Instr} (ha : ∀ x : Ctx, slotRanges x i = (.load, []))
    (hn : (uses i).vr ++ (uses i).vw = []) :
    (∀ d, ((t.afterWord i).core d).tlb = (t.core d).tlb) ∧ (t.afterWord i).ctlbs = t.ctlbs := by
  rw [State.afterWord_plain (s := t) ha (unbound_of_none hn) rfl]
  exact ⟨fun d => State.tlb_modCtx .., rfl⟩

/-- TLBI completes; it changes translations alone, and those as the operation does on the state that the word sees. -/
theorem tlbi_next {s : State} {a : BitVec 6} {k : BitVec 3} (hb : s.inHand) :
    ∃ v t, exec (.tlbi a k) s = .next t ∧ Seen (.tlbi a k) s v ∧ Same t s ∧
      (∀ d, (t.core d).tlb = ((v.tlbi v.me v.res k (v.cx.rg a)).core d).tlb) ∧
      t.ctlbs = (v.tlbi v.me v.res k (v.cx.rg a)).ctlbs := by
  have hv : Seen (.tlbi a k) s (s.beforeWord (.tlbi a k)) := ⟨State.beforeWord_eq (unbound_of_none rfl)⟩
  exact ⟨_, _, issue_inHand _ hb, hv, (Same.afterNone rfl).trans ((Same.tlbi ..).trans hv.same),
    State.tlbs_afterWord (fun _ => rfl) rfl⟩

/-- Settles O30: DIGEST by its reads, RETIME by its acceptance, TLBI by the translations that stay. -/
theorem digestTlbiRetime : Obligations.DigestTlbiRetime := by
  intro s d a z r k p ps hb
  refine ⟨digest_effect hb, ⟨s.retimeWrite d (s.cx.rg a) r, s.wrote_is .., ?_⟩, fun hp _ => ?_⟩
  · rw [← BitVec.setWidth_eq_extractLsb' (show (32 : Nat) ≤ 64 by decide)]
    exact retime_effect hb rfl
  · obtain ⟨v, t, hx, hv, hs, ht, hc⟩ := tlbi_next (a := a) (k := k) hb
    have hpv : v.partOf v.me = some p := by rw [hv.me, Twin.partOf hv.same, hp]
    have hx' : (v.ctx v.me v.res).asid = s.cx.asid := hv.ofCx (fun x => x.asid) (fun _ _ _ => rfl)
    refine ⟨t, hx, hs, fun c e => ?_, fun n e => ?_⟩
    · rw [ht, State.mem_tlb_tlbi hpv, hx', hv.me, hv.rg, hv.twin.tlb]
    · rw [hc, State.mem_ctlbs_tlbi hpv, hx', hv.me, hv.rg, hv.twin.ctlbs]

end Sys2Proof.Machine
end

section
/-!
Lanes of the integer formats (R188, R189, R198): the lane operations as arithmetic on signed values. Settles O37.
-/

namespace Sys2Proof.Machine

/-! ### Two's complement -/

theorem intBits_eq_ofInt (w : Nat) (z : Int) : intBits w z = (BitVec.ofInt w z).toNat := by
  rw [BitVec.toNat_ofInt]
  unfold intBits
  norm_cast

/-- The signed value of a lane is that of its bits as a bit vector. -/
theorem sintOf_eq_toInt {w : Nat} (hw : 0 < w) (b : Nat) : sintOf w b = (BitVec.ofNat w b).toInt := by
  have h : b % 2 ^ w < 2 ^ (w - 1) ↔ 2 * (b % 2 ^ w) < 2 ^ w := by
    have hp : 2 ^ w = 2 * 2 ^ (w - 1) := by rw [← pow_succ']; congr 1; omega
    omega
  rw [BitVec.toInt_eq_toNat_cond, BitVec.toNat_ofNat]
  unfold sintOf
  simp only [h]
  norm_cast

theorem eb_pos (f : BitVec 3) : 0 < eb f := by revert f; decide

/-! ### Operations on two and three lanes -/

section
variable {f : BitVec 3} (hf : isInt f = true) {a b : Nat}
include hf

/-- A binary operation on two lanes is that of their signed values, modulo 2^w. -/
theorem arith_int (fl : Num → Num → Nat × Flags) (op : Int → Int → Int) (a b : Nat) :
    arith f fl op a b = ((BitVec.ofInt (eb f) (op (BitVec.ofNat (eb f) a).toInt (BitVec.ofNat (eb f) b).toInt)).toNat, 0) := by
  unfold arith
  rw [if_pos hf, intBits_eq_ofInt, sintOf_eq_toInt (eb_pos f), sintOf_eq_toInt (eb_pos f)]

/-- The fused forms add the product, or its negative, and the third operand, or its negative (R189). -/
theorem fused_int (r : Rnd) (negP negD : Bool) (a b d : Nat) :
    fused f r negP negD a b d = ((BitVec.ofInt (eb f)
      ((if negP then -((BitVec.ofNat (eb f) a).toInt * (BitVec.ofNat (eb f) b).toInt)
        else (BitVec.ofNat (eb f) a).toInt * (BitVec.ofNat (eb f) b).toInt) +
       if negD then -(BitVec.ofNat (eb f) d).toInt else (BitVec.ofNat (eb f) d).toInt)).toNat, 0) := by
  unfold fused
  rw [if_pos hf]
  simp only [intBits_eq_ofInt, sintOf_eq_toInt (eb_pos f)]

theorem signOp_int (neg : Bool) (a : Nat) :
    signOp f neg a = ((BitVec.ofInt (eb f)
      (if neg then -(BitVec.ofNat (eb f) a).toInt else ((BitVec.ofNat (eb f) a).toInt.natAbs : Int))).toNat, 0) := by
  unfold signOp
  rw [if_pos hf]
  simp only [intBits_eq_ofInt, sintOf_eq_toInt (eb_pos f)]

/-- The operand that VMIN or VMAX takes, by the comparison of the signed values. -/
theorem minmax_int (big : Bool) (a b : Nat) : minmax f big a b =
    (if decide ((BitVec.ofNat (eb f) a).toInt < (BitVec.ofNat (eb f) b).toInt) != big then a else b, 0) := by
  unfold minmax
  rw [if_pos hf]
  simp only [sintOf_eq_toInt (eb_pos f)]

theorem min_int (ha : a < 2 ^ eb f) (hb : b < 2 ^ eb f) : minmax f false a b =
    ((BitVec.ofInt (eb f) (min (BitVec.ofNat (eb f) a).toInt (BitVec.ofNat (eb f) b).toInt)).toNat, 0) := by
  rw [minmax_int hf, min_comm, ofInt_min_toInt, apply_ite BitVec.toNat, BitVec.toNat_ofNat, BitVec.toNat_ofNat,
    Nat.mod_eq_of_lt ha, Nat.mod_eq_of_lt hb]
  simp only [Bool.bne_false, decide_eq_true_eq, ← not_lt, ite_not]

theorem max_int (ha : a < 2 ^ eb f) (hb : b < 2 ^ eb f) : minmax f true a b =
    ((BitVec.ofInt (eb f) (max (BitVec.ofNat (eb f) a).toInt (BitVec.ofNat (eb f) b).toInt)).toNat, 0) := by
  rw [minmax_int hf, max_comm, ofInt_max_toInt, apply_ite BitVec.toNat, BitVec.toNat_ofNat, BitVec.toNat_ofNat,
    Nat.mod_eq_of_lt ha, Nat.mod_eq_of_lt hb]
  simp only [Bool.bne_true, Bool.not_eq_true', decide_eq_false_iff_not, not_lt]

end

/-! ### Shifts -/

section
variable (f : BitVec 3) {a : Nat} (b : Nat) (ha : a < 2 ^ eb f)
include ha

theorem vshift_left : vshift f 0 a b = ((BitVec.ofNat (eb f) a <<< (b % eb f)).toNat, 0) := by
  rw [← ofNat_mul_two_pow, BitVec.toNat_ofNat, BitVec.toNat_ofNat, Nat.mod_eq_of_lt ha]
  rfl

theorem vshift_right : vshift f 1 a b = ((BitVec.ofNat (eb f) a >>> (b % eb f)).toNat, 0) := by
  rw [BitVec.toNat_ushiftRight, Nat.shiftRight_eq_div_pow, BitVec.toNat_ofNat, Nat.mod_eq_of_lt ha]
  rfl

end

theorem vshift_signed (f : BitVec 3) (a b : Nat) :
    vshift f 2 a b = (((BitVec.ofNat (eb f) a).sshiftRight (b % eb f)).toNat, 0) := by
  rw [← ofInt_div_two_pow, ← intBits_eq_ofInt, ← sintOf_eq_toInt (eb_pos f)]
  rfl

/-! ### Sums -/

/-- sat clamps, and marks exactly the values outside the range (R86). -/
theorem satInt_eq {lo hi : Int} (h : lo ≤ hi) (x : Int) :
    satInt lo hi x = (max lo (min hi x), !decide (lo ≤ x ∧ x ≤ hi)) := by
  unfold satInt
  split
  · next hx => rw [decide_eq_false (by omega), min_eq_right (by omega), max_eq_left (by omega)]; rfl
  · split
    · next hx => rw [decide_eq_false (by omega), min_eq_left (by omega), max_eq_right h]; rfl
    · rw [decide_eq_true (by omega), min_eq_right (by omega), max_eq_right (by omega)]; rfl

/-- An integer sum is exact, then saturated to the format (R198). -/
theorem sumI_eq (k : Nat) (xs : List Int) : sumI k xs =
    ((BitVec.ofInt k (max (-2 ^ (k - 1)) (min (2 ^ (k - 1) - 1) xs.sum))).toNat,
      if -2 ^ (k - 1) ≤ xs.sum ∧ xs.sum ≤ 2 ^ (k - 1) - 1 then 0 else fSaturation) := by
  have hp : (0 : Int) < 2 ^ (k - 1) := by positivity
  unfold sumI
  rw [← List.sum_eq_foldl, satInt_eq (by omega)]
  simp only [intBits_eq_ofInt, flagIf, Bool.not_eq_true', decide_eq_false_iff_not, ite_not]

/-- Settles O37: each lane operation on an integer format by the signed values of its lanes, and the sum by its clamp. -/
theorem integerLanes : Obligations.IntegerLanes := by
  rintro f r _ a b d x y z hf rfl ha hb - rfl rfl rfl
  refine ⟨arith_int hf .., arith_int hf .., arith_int hf .., min_int hf ha hb, max_int hf ha hb, fused_int hf .., fused_int hf ..,
    ?_, signOp_int hf .., signOp_int hf .., vshift_left f b ha, vshift_right f b ha, vshift_signed f a b, ?_⟩
  · rw [fused_int hf, sub_eq_neg_add]
    rfl
  · rintro k _ - - xs rfl
    exact sumI_eq k xs

end Sys2Proof.Machine
end

section
/-!
Vector words without stream registers (R184, R187 to R207): each queues the result of its operation on the operands read at
issue. Settles O31 to O34.
-/

namespace Sys2Proof.Machine

/-! ### The shapes of a vector word -/

section
variable {i : Instr} {s : State} {lat : Nat} {f m : BitVec 3} {d a b : BitVec 5} {r : VRes} {k : State → State}

/-- A word whose meaning writes one vector register completes with what it computes from the context. -/
theorem writeV_gives (F : Env → Ctx → VRes) (hx : exec i s = issue i s k) (hb : s.inHand)
    (hk : ∀ u : State, k u = u.writeV lat d (F u.env u.cx) := by exact fun _ => rfl)
    (hF : ∀ v (x : Ctx) e c, F v (x.metered e c) = F v x := by exact fun _ _ _ _ => rfl)
    (he : ∀ s : State, s.accessEvent i = none := by exact fun _ => rfl)
    (ha : ∀ x : Ctx, slotRanges x i = (.load, []) := by exact fun _ => rfl) (hu : s.unbound i) :
    GivesV i s d lat (F s.env s.cx) := givesV_of F hx he ha hb hu hk hF

/-- A one-source element-wise word completes with its operation on each active lane. -/
theorem vv1_gives {op : Env → Nat → Nat × Flags} (hx : exec i s = issue i s (fun s => s.vv1 lat f m d a op)) (hb : s.inHand)
    (hr : r = each f (s.cx.rm m) (fun l => op s.env (lane (eb f) (s.cx.rv a) l)))
    (he : ∀ s : State, s.accessEvent i = none := by exact fun _ => rfl)
    (ha : ∀ x : Ctx, slotRanges x i = (.load, []) := by exact fun _ => rfl) : s.unbound i → GivesV i s d lat r :=
  hr ▸ writeV_gives (fun e x => each f (x.rm m) (fun l => op e (lane (eb f) (x.rv a) l))) hx hb (he := he) (ha := ha)

/-- A two-source element-wise word completes with its operation on the pairs of active lanes. -/
theorem vv2_gives {op : Env → Nat → Nat → Nat × Flags} (hx : exec i s = issue i s (fun s => s.vv2 lat f m d a b op))
    (hb : s.inHand)
    (hr : r = each f (s.cx.rm m) (fun l => op s.env (lane (eb f) (s.cx.rv a) l) (lane (eb f) (s.cx.rv b) l)))
    (he : ∀ s : State, s.accessEvent i = none := by exact fun _ => rfl)
    (ha : ∀ x : Ctx, slotRanges x i = (.load, []) := by exact fun _ => rfl) : s.unbound i → GivesV i s d lat r :=
  hr ▸ writeV_gives (fun e x => each f (x.rm m) (fun l => op e (lane (eb f) (x.rv a) l) (lane (eb f) (x.rv b) l))) hx hb
    (he := he) (ha := ha)

/-- A fused word reads its destination too (R189). -/
theorem vv3_gives {negP negD : Bool} (hx : exec i s = issue i s (fun s => s.vv3 f m d a b negP negD)) (hb : s.inHand)
    (he : ∀ s : State, s.accessEvent i = none := by exact fun _ => rfl)
    (ha : ∀ x : Ctx, slotRanges x i = (.load, []) := by exact fun _ => rfl) : s.unbound i →
    GivesV i s d 4 (each f (s.cx.rm m) (fun l => fused f s.env.rnd negP negD (lane (eb f) (s.cx.rv a) l)
      (lane (eb f) (s.cx.rv b) l) (lane (eb f) (s.cx.rv d) l))) :=
  writeV_gives (fun e x => each f (x.rm m) (fun l => fused f e.rnd negP negD (lane (eb f) (x.rv a) l) (lane (eb f) (x.rv b) l)
    (lane (eb f) (x.rv d) l))) hx hb (he := he) (ha := ha)

/-- A VR word of one vector source completes with its operation on the register and the mask. -/
theorem vr1_gives {op : Env → BitVec 512 → BitVec 4096 → VRes} (hx : exec i s = issue i s (fun s => s.vr1 lat m d a op))
    (hb : s.inHand) (hr : r = op s.env (s.cx.rm m) (s.cx.rv a))
    (he : ∀ s : State, s.accessEvent i = none := by exact fun _ => rfl)
    (ha : ∀ x : Ctx, slotRanges x i = (.load, []) := by exact fun _ => rfl) : s.unbound i → GivesV i s d lat r :=
  hr ▸ writeV_gives (fun e x => op e (x.rm m) (x.rv a)) hx hb (he := he) (ha := ha)

/-- A compare writes the mask bits of its active lanes, and clears those from the lane count up (R191). -/
theorem vcompare_gives {k : Nat} (hx : exec i s = issue i s (fun s => s.vcompare f m d a b k)) (hb : s.inHand)
    (he : ∀ s : State, s.accessEvent i = none := by exact fun _ => rfl)
    (ha : ∀ x : Ctx, slotRanges x i = (.load, []) := by exact fun _ => rfl) (hu : s.unbound i) :
    ∃ w c : BitVec 512, GivesM i s (d.setWidth 3) 2 w c ∧
      (∀ l < laneCount f, c.getLsbD l = (s.cx.rm m).getLsbD l ∧ ((s.cx.rm m).getLsbD l →
        w.getLsbD l = vcmp f k (lane (eb f) (s.cx.rv a) l) (lane (eb f) (s.cx.rv b) l))) ∧
      ∀ l, laneCount f ≤ l → l < 512 → c.getLsbD l = true ∧ w.getLsbD l = false :=
  ⟨_, _, givesM_of (fun x => (compareLanes f (x.rm m) k (x.rv a) (x.rv b)).1)
    (fun x => (compareLanes f (x.rm m) k (x.rv a) (x.rv b)).2) hx he ha hb hu (fun _ => rfl) (fun _ _ _ => rfl) (fun _ _ _ => rfl),
    compareLanes_spec f (s.cx.rm m) k (s.cx.rv a) (s.cx.rv b)⟩

/-- A word of mask registers writes all 512 bits (R204). -/
theorem mask2_gives {op : BitVec 512 → BitVec 512 → BitVec 512} {w : BitVec 512}
    (hx : exec i s = issue i s (fun s => s.mask2 d a b op)) (hb : s.inHand)
    (hw : w = op (s.cx.rm (a.setWidth 3)) (s.cx.rm (b.setWidth 3)))
    (he : ∀ s : State, s.accessEvent i = none := by exact fun _ => rfl)
    (ha : ∀ x : Ctx, slotRanges x i = (.load, []) := by exact fun _ => rfl)
    (hu : (uses i).vr ++ (uses i).vw = [] := by exact rfl) : GivesM i s (d.setWidth 3) 2 w (BitVec.allOnes 512) :=
  hw ▸ givesM_of (fun x => op (x.rm (a.setWidth 3)) (x.rm (b.setWidth 3))) (fun _ => BitVec.allOnes 512) hx he ha hb
    (unbound_of_none hu) (fun _ => rfl) (fun _ _ _ => rfl) (fun _ _ _ => rfl)

end

/-! ### Words with a shape of their own -/

section
variable {s : State} (f m : BitVec 3) (d a b : BitVec 5) (hb : s.inHand)
include hb

/-- VSEL takes every lane from one of its sources, and writes the whole register (R192). -/
theorem vsel_gives : s.unbound (.vsel f m d a b) → GivesV (.vsel f m d a b) s d 2
    (each f (BitVec.allOnes 512)
      (fun l => (if (s.cx.rm m).getLsbD l then lane (eb f) (s.cx.rv a) l else lane (eb f) (s.cx.rv b) l, 0))).whole :=
  writeV_gives (fun _ x => (each f (BitVec.allOnes 512)
    (fun l => (if (x.rm m).getLsbD l then lane (eb f) (x.rv a) l else lane (eb f) (x.rv b) l, 0))).whole) rfl hb

/-- MPOPC counts among the bits of the lanes of the format (R204). -/
theorem mpopc_gives : GivesG (.mpopc f d a) s (d.setWidth 6) 2
    (BitVec.ofNat 64 ((List.range (laneCount f)).countP (fun l => (s.cx.rm (a.setWidth 3)).getLsbD l))) :=
  givesG_of (fun x => BitVec.ofNat 64 (maskCount f (x.rm (a.setWidth 3)))) (fun _ => 0) rfl (fun _ => rfl) (fun _ => rfl) hb
    (unbound_of_none rfl) (fun _ => rfl) (fun _ _ _ => rfl) (fun _ _ _ => rfl)

/-- VEXT reads its lane number from a scalar register (R200). -/
theorem vext_gives (hu : s.unbound (.vext f d a b)) :
    GivesG (.vext f d a b) s (d.setWidth 6) 4 (vext f (s.cx.rv a) (s.cx.rg (b.setWidth 6))) :=
  givesG_of (fun x => vext f (x.rv a) (x.rg (b.setWidth 6))) (fun _ => 0) rfl (fun _ => rfl) (fun _ => rfl) hb hu (fun _ => rfl)
    (fun _ _ _ => rfl) (fun _ _ _ => rfl)

end

/-! ### The tables -/

/-- Settles O31: each word by its operation on one lane of each source. -/
theorem elementWise : Obligations.ElementWise := by
  rintro s f m d a b x y z r hb rfl hx hy hz
  obtain rfl : x = lane (eb f) (s.cx.rv a) := funext hx
  obtain rfl : y = lane (eb f) (s.cx.rv b) := funext hy
  obtain rfl : z = lane (eb f) (s.cx.rv d) := funext hz
  simp only [List.forall_mem_cons, List.not_mem_nil, false_imp_iff, implies_true, and_true]
  exact ⟨⟨vv2_gives rfl hb rfl, vv2_gives rfl hb rfl, vv2_gives rfl hb rfl, vv2_gives rfl hb rfl, vv2_gives rfl hb rfl,
      vv2_gives rfl hb rfl, vv2_gives rfl hb rfl, vv2_gives rfl hb rfl, vv2_gives rfl hb rfl, vv2_gives rfl hb rfl,
      vv2_gives rfl hb rfl, vv2_gives rfl hb rfl⟩,
    ⟨vv1_gives rfl hb rfl, vv1_gives rfl hb rfl, vv1_gives rfl hb rfl, vv1_gives rfl hb rfl, vv1_gives rfl hb rfl⟩,
    ⟨vv3_gives rfl hb, vv3_gives rfl hb, vv3_gives rfl hb⟩, vsel_gives f m d a b hb⟩

/-- Settles O32: each word by its operation on the register, the mask and what it reads of the context. -/
theorem vectorResults : Obligations.VectorResults := by
  rintro s f fs m p d a b e k x y g h hb rfl rfl rfl rfl rfl rfl
  simp only [List.forall_mem_cons, List.not_mem_nil, false_imp_iff, implies_true, and_true]
  exact ⟨vr1_gives rfl hb rfl, vr1_gives rfl hb rfl, vr1_gives rfl hb rfl, vr1_gives rfl hb rfl, vr1_gives rfl hb rfl,
    vr1_gives rfl hb rfl, vr1_gives rfl hb rfl, vr1_gives rfl hb rfl, vr1_gives rfl hb rfl, vr1_gives rfl hb rfl,
    vr1_gives rfl hb rfl, vr1_gives rfl hb rfl, vr1_gives rfl hb rfl,
    writeV_gives (fun _ x => vperm f (x.rm m) (x.rv a) (x.rv b)) rfl hb, vr1_gives rfl hb rfl,
    writeV_gives (fun _ x => voxe f (x.rv a) b.toNat) rfl hb,
    writeV_gives (fun _ x => vsplat f (x.rm m) (x.rg (a.setWidth 6))) rfl hb,
    writeV_gives (fun _ x => vins f (x.rg (a.setWidth 6)) (x.rg (b.setWidth 6))) rfl hb,
    writeV_gives (fun e x => viota e f (x.rm m)) rfl hb,
    writeV_gives (fun e x => vrand e f (x.rm m) (x.rg (a.setWidth 6))) rfl hb,
    writeV_gives (fun e x => vtree e f (x.rm m) (x.rv a) (x.rg (b.setWidth 6))) rfl hb⟩

/-- Settles O33: each compare by the mask bits that it writes, the mask words by their operation on 512 bits. -/
theorem masks : Obligations.Masks := by
  rintro s f m d a b x y p q hb rfl rfl rfl rfl
  simp only [List.forall_mem_cons, List.not_mem_nil, false_imp_iff, implies_true, and_true]
  exact ⟨⟨vcompare_gives rfl hb, vcompare_gives rfl hb, vcompare_gives rfl hb, vcompare_gives rfl hb⟩, mask2_gives rfl hb rfl,
    mask2_gives rfl hb rfl, mask2_gives rfl hb rfl, mask2_gives (b := a) rfl hb rfl, mpopc_gives f d a hb, vext_gives f d a b hb⟩

/-- Settles O34: each function by the operation of its word, ten cycles after the issue. -/
theorem specialFunctions : Obligations.SpecialFunctions := by
  intro s f m d a b hb
  simp only [List.forall_mem_cons, List.not_mem_nil, false_imp_iff, implies_true, and_true]
  exact ⟨⟨vr1_gives rfl hb rfl, vr1_gives rfl hb rfl, vr1_gives rfl hb rfl, vr1_gives rfl hb rfl, vr1_gives rfl hb rfl,
    vr1_gives rfl hb rfl, vr1_gives rfl hb rfl, vr1_gives rfl hb rfl, vr1_gives rfl hb rfl, vr1_gives rfl hb rfl,
    vr1_gives rfl hb rfl⟩, writeV_gives (fun e x => vexp2m e f (x.rm m) (x.rv a) (x.rv b)) rfl hb⟩

end Sys2Proof.Machine
end

section
/-!
Near loads and stores at their issue (R208 to R213, R232, R274). Settles O38 and O39; that an access held back is none of these is
log entry 26.
-/

namespace Sys2Proof.Machine

/-! ### Addresses and pieces -/

/-- The effective address with the offset as a signed number (R208). -/
theorem Ctx.ea_eq (x : Ctx) (a : BitVec 6) (o : BitVec 10) (n : Nat) :
    x.ea a o n = x.rg a + BitVec.ofInt 64 (o.toInt * n) := by
  rw [BitVec.ofInt_mul, BitVec.ofInt_natCast]; rfl

/-- An access is near when the first and the last byte of each of its ranges are. -/
theorem SlotAcc.near_iff {t : SlotAcc} {c : Nat} :
    t.near c = true ↔ ∀ g ∈ t.segs, isOwn c g.1 = true ∧ isOwn c (g.1 + BitVec.ofNat 64 (g.2 - 1)) = true := by
  unfold SlotAcc.near
  simp only [List.all_eq_true, Bool.and_eq_true]

theorem SlotAcc.near_one {va : Word} {n m c : Nat} {acc : Acc} {cls : Cls} (h : isOwn c va = true)
    (h' : isOwn c (va + BitVec.ofNat 64 (n - 1)) = true) : (SlotAcc.one va n m acc cls).near c = true := by
  rw [SlotAcc.near_iff]
  intro g hg
  rw [List.mem_singleton.mp hg]
  exact ⟨h, h'⟩

/-- Ranges of `k` bytes each. -/
theorem SlotAcc.near_ranges {α : Type} {l : List α} (f : α → Word) {k m c : Nat} {acc : Acc} {cls : Cls}
    (h : ∀ x ∈ l, isOwn c (f x) = true ∧ isOwn c (f x + BitVec.ofNat 64 (k - 1)) = true) :
    (SlotAcc.mk (l.map (fun x => (f x, k))) m acc cls).near c = true := by
  rw [SlotAcc.near_iff]
  intro g hg
  obtain ⟨x, hx, rfl⟩ := List.mem_map.mp hg
  exact h x hx

/-- The segments of a vector access, by their addresses (R210). -/
theorem Ctx.segments_eq (x : Ctx) (va : Word) : x.segments va =
    ((List.range (2 ^ x.seg.toNat)).map (fun k => va + BitVec.ofNat 64 (k * x.pitch.toNat * 64))).map
      (fun p => (p, 512 / 2 ^ x.seg.toNat)) := by
  rw [List.map_map]; rfl

/-- The granules of a gather, by their addresses (R211). -/
theorem gather_eq (va : Word) (v : BitVec 4096) :
    gather va v = ((List.range 8).map (fun k => va + v.extractLsb' (64 * k) 64)).map (fun p => (p, 64)) := by
  rw [List.map_map]; rfl

/-! ### Loads (R208 to R213) -/

/-- A word that loads `n` bytes from an effective address into gd, extended from `k` bits by their sign. -/
structure NearLoadWord (i : Instr) (n k : Nat) (d a : BitVec 6) (o : BitVec 10) : Prop where
  meaning : ∀ s, exec i s = issue i s (fun s => s.withAcc i (fun t => s.load t (.g d) (.g d) k))
  access : ∀ x, slotAcc x i = some (.one (x.ea a o n) n n .load .ld)
  plain : (uses i).vr ++ (uses i).vw = []

theorem nearLoadWord_of_mem {d a : BitVec 6} {o : BitVec 10} {w : Instr × Nat × Nat}
    (hw : w ∈ [(Instr.ldb d a o, 1, 8), (.ldh d a o, 2, 16), (.ldw d a o, 4, 32), (.ldd d a o, 8, 0), (.ldbn d a o, 1, 0),
      (.ldhn d a o, 2, 0), (.ldwn d a o, 4, 0)]) : NearLoadWord w.1 w.2.1 w.2.2 d a o := by
  simp only [List.mem_cons, List.not_mem_nil, or_false] at hw
  obtain rfl | rfl | rfl | rfl | rfl | rfl | rfl := hw <;> exact ⟨fun _ => rfl, fun _ => rfl, rfl⟩

/-- The samples of PPLOAD begin six cycles after the issue, and keep the polynomial busy until the fifteenth (R274). -/
theorem Seen.polyLoad {i : Instr} {s v : State} (hv : Seen i s v) (q : BitVec 3) (off : Nat) :
    let u := v.later 6 .ld (.polyLoad q off 0 [])
    Same (u.modCx (fun x => { x with qbusy := Table.set x.qbusy q.toNat (u.now u.me + 15) }))
      ((s.flying (s.flight i 6 .ld (.polyLoad q off 0 []))).modCx
        (fun x => { x with qbusy := Table.set x.qbusy q.toNat (s.now s.me + 15) })) := by
  intro u
  have hu : Same u (s.flying (s.flight i 6 .ld (.polyLoad q off 0 []))) := hv.later ..
  have hnow : u.now u.me = s.now s.me := by rw [hu.me]; exact hu.now s.me
  rw [hnow]
  exact Same.modCx hu
    (congrArg (fun x : Ctx => { x with qbusy := Table.set x.qbusy q.toNat (s.now s.me + 15) }) (Twin.cx hu))

/-- Bytes of memory are in no copy aperture (R232). -/
theorem apertureBad_of_mem {c : Nat} {res : BitVec 1} {i : Instr} {ps : List Part} (h : ∀ p ∈ ps, ∃ k, p.place = .mem k) :
    apertureBad c res i ps = false := by
  unfold apertureBad
  rw [List.any_eq_false]
  intro p hp
  obtain ⟨k, hk⟩ := h p hp
  simp [hk]

/-- A load of 8 bytes of the own vault raises no TRANSLATION. -/
theorem State.ldfLoads_own (s : State) {d a : BitVec 6} {o : BitVec 10} {va : Word} (h : isOwn s.me va = true)
    (h' : isOwn s.me (va + BitVec.ofNat 64 (8 - 1)) = true) : s.ldfLoads (.one va 8 8 .load .ld) (.ldf d a o) := by
  obtain ⟨ps, hps, hmem⟩ := parts_own s s.cx .load (by decide) (by decide) h h'
  refine ⟨ps, ?_, apertureBad_of_mem (fun p hp => ?_)⟩
  · unfold SlotAcc.one State.resolveSegs State.resolveSegs
    simp only [hps, List.append_nil]
  · obtain ⟨x, hx, rfl⟩ := List.mem_map.mp hp
    exact hmem x hx

section
variable {s : State} {d a : BitVec 6} {e : BitVec 5} {q : BitVec 3} {o : BitVec 10} (hb : s.inHand) (hg : s.ungated = true)
include hb hg

theorem NearLoadWord.effect {i : Instr} {n k : Nat} (w : NearLoadWord i n k d a o) (h : isOwn s.me (s.cx.ea a o n) = true)
    (h' : isOwn s.me (s.cx.ea a o n + BitVec.ofNat 64 (n - 1)) = true) :
    Effect i s (s.flying (s.flight i 6 .ld (.load (.g d) [(vaultOffset (s.cx.ea a o n), n)] k))) :=
  load_near (w.meaning s) hb (unbound_of_none w.plain) (w.access s.cx) (SlotAcc.near_one h h') hg

/-- LDF of the own vault is LDD (R212). -/
theorem ldf_near (h : isOwn s.me (s.cx.ea a o 8) = true)
    (h' : isOwn s.me (s.cx.ea a o 8 + BitVec.ofNat 64 (8 - 1)) = true) :
    Effect (.ldf d a o) s (s.flying (s.flight (.ldf d a o) 6 .ld (.load (.g d) [(vaultOffset (s.cx.ea a o 8), 8)] 0))) := by
  have hl := s.ldfLoads_own (d := d) (a := a) (o := o) h h'
  refine effect_acc exec_ldf hb (unbound_of_none rfl) rfl (fun v hv => ?_) (by rw [State.cx_flying])
  rw [State.ldf_of_loads (hv.ldfLoads_iff.mpr hl)]
  unfold State.loadG State.load
  rw [hv.me, Twin.ungated hv.same, SlotAcc.near_one h h', if_neg (by decide), if_pos hg]
  exact hv.later 6 .ld _

/-- A vector load from addresses of the own vault. -/
theorem vectorLoad_near {i : Instr} {ps : List Word} {k : Nat}
    (hx : exec i s = issue i s (fun s => s.withAcc i (fun t => s.load t (.v e) (.v e) 0))) (hu : s.unbound i)
    (ht : slotAcc s.cx i = some ⟨ps.map (fun p => (p, k)), 64, .load, .ld⟩)
    (h : ∀ p ∈ ps, isOwn s.me p = true ∧ isOwn s.me (p + BitVec.ofNat 64 (k - 1)) = true) :
    Effect i s (s.flying (s.flight i 6 .ld (.load (.v e) (ps.map (fun p => (vaultOffset p, k))) 0))) := by
  have := load_near hx hb hu ht (SlotAcc.near_ranges (fun p => p) h) hg
  rwa [List.map_map] at this

theorem ppload_near (h : isOwn s.me (s.cx.ea a o 8) = true)
    (h' : isOwn s.me (s.cx.ea a o 8 + BitVec.ofNat 64 (520 - 1)) = true) :
    Effect (.ppload q a o) s
      ((s.flying (s.flight (.ppload q a o) 6 .ld (.polyLoad q (vaultOffset (s.cx.ea a o 8)) 0 []))).modCx
        (fun x => { x with qbusy := Table.set x.qbusy q.toNat (s.now s.me + 15) })) :=
  effect_acc (k := fun s t => _) rfl hb (unbound_of_none rfl) rfl (fun v hv => by
    simp only [hv.me, SlotAcc.near_one h h', Twin.ungated hv.same, hg, Bool.not_true, Bool.false_eq_true, if_false, if_true]
    exact hv.polyLoad q _) (by rw [State.cx_modCx, State.cx_flying])

end

/-- Settles O38: each near load by the one effect that it puts in flight. -/
theorem nearLoads : Obligations.NearLoads := by
  intro s d a e q sc o va hb hg hva
  have hea : ∀ n, va n = s.cx.ea a o n := fun n => (hva n).trans (Ctx.ea_eq ..).symm
  simp only [hea]
  refine ⟨fun w hw h h' => ?_, fun h h' => ?_, fun n ps hn hps hu h => ?_, fun ps hps hu h => ?_, fun h h' => ?_⟩
  · by_cases hldf : w = (.ldf d a o, 8, 0)
    · subst hldf
      exact ldf_near hb hg h h'
    · refine (nearLoadWord_of_mem ?_).effect hb hg h h'
      simpa [hldf] using hw
  · exact load_near (t := .one (s.cx.rg a) 8 8 .load .acq) (sc := sc) rfl hb (unbound_of_none rfl) rfl (SlotAcc.near_one h h') hg
  · subst hn
    refine vectorLoad_near hb hg rfl hu ?_ h
    rw [hps, ← Ctx.segments_eq]
    rfl
  · refine vectorLoad_near hb hg rfl hu ?_ h
    rw [hps, ← gather_eq]
    rfl
  · exact ppload_near hb hg h h'

/-! ### Stores (R208 to R210, R232, R274) -/

/-- The pieces that the word in hand puts in flight, `k` bytes of `bs` to each address. -/
def State.storeFlights (s : State) (i : Instr) (p : Nat → Word) (n k : Nat) (bs : List Byte) : List Timed :=
  (List.range n).map (fun j =>
    { s.flight i 6 .st (.store (vaultOffset (p j)) ((bs.drop (k * j)).take k)) with seq := s.seq + j })

/-- The pieces of the image of a polynomial that the word in hand puts in flight, 64 bytes a cycle. -/
def State.saveFlights (s : State) (i : Instr) (off n : Nat) (bs : List Byte) : List Timed :=
  (List.range n).map (fun k =>
    { s.flight i (6 + k) .st (.store (off + 64 * k) ((bs.drop (64 * k)).take 64)) with seq := s.seq + k })

/-- The bytes ahead of piece `j` of pieces that are all `k` long. -/
theorem sum_take_pieces (p : Nat → Word) (k : Nat) {n j : Nat} (hj : j < n) :
    ((((List.range n).map (fun j => (p j, k))).take j).map (fun g => g.2)).sum = k * j := by
  rw [← List.map_take, List.take_range, List.map_map, Function.comp_def, List.map_const', List.length_range, List.sum_replicate,
    smul_eq_mul, Nat.min_eq_left hj.le, Nat.mul_comm]

/-- A near store of equal pieces that nothing holds back puts them in flight in order (R209, R210). -/
theorem Seen.storePieces {i : Instr} {s v : State} (hv : Seen i s v) {p : Nat → Word} {n k m : Nat} {acc : Acc}
    (h : ∀ j < n, isOwn s.me (p j) = true ∧ isOwn s.me (p j + BitVec.ofNat 64 (k - 1)) = true) (hg : s.ungated = true)
    (bs : List Byte) :
    Same (v.store ⟨(List.range n).map (fun j => (p j, k)), m, acc, .st⟩ bs) (s.flights (s.storeFlights i p n k bs)) := by
  have hn : (SlotAcc.mk ((List.range n).map (fun j => (p j, k))) m acc .st).near s.me = true :=
    SlotAcc.near_ranges p (fun j hj => h j (List.mem_range.mp hj))
  unfold State.store
  rw [hv.me, Twin.ungated hv.same, hn, if_neg (by decide), if_pos hg]
  obtain ⟨ls, hfl, hlen, hget⟩ := Flown.storeNear .st ((List.range n).map (fun j => (p j, k))) hv.flown bs
  have hls : ls = s.storeFlights i p n k bs := by
    have hlen : ls.length = n := by simpa using hlen
    refine List.ext_getElem? (fun j => ?_)
    by_cases hj : j < n
    · rw [hget j (by simpa using hj)]
      simp only [State.storeFlights, sum_take_pieces p k hj, List.getElem_map, List.getElem_range, List.getElem?_map,
        List.getElem?_range hj, List.length_nil, Nat.add_zero, Option.map_some]
    · rw [List.getElem?_eq_none (by omega), List.getElem?_eq_none (by simp [State.storeFlights]; omega)]
  rw [← hls]
  exact hfl.same

/-- The image of a polynomial put in flight piece by piece, after its first `k` pieces (R274). -/
theorem Flown.saveNear {i : Instr} {s : State} {off : Nat} {img : List Byte} (n : Nat) :
    ∀ {v : State} {k : Nat}, Flown i s v (s.saveFlights i off k img) → k + n = 9 →
      Flown i s (v.saveNear off n (img.drop (64 * k))) (s.saveFlights i off 9 img) := by
  induction n with
  | zero =>
    intro v k h hk
    rw [← hk]; exact h
  | succ n ih =>
    intro v k h hk
    have h1 := h.later (6 + k) .st (.store (off + 64 * k) ((img.drop (64 * k)).take 64))
    have hlen : (s.saveFlights i off k img).length = k := by unfold State.saveFlights; simp
    have hs : s.saveFlights i off (k + 1) img = s.saveFlights i off k img ++
        [{ s.flight i (6 + k) .st (.store (off + 64 * k) ((img.drop (64 * k)).take 64)) with seq := s.seq + k }] := by
      unfold State.saveFlights; rw [List.range_succ, List.map_append]; rfl
    rw [hlen, ← hs] at h1
    have := ih h1 (by omega)
    unfold State.saveNear
    rw [show 8 - n = k by omega, List.drop_drop]
    exact this

/-- A word that stores the low `n` bytes of gd at an effective address. -/
structure NearStoreWord (i : Instr) (n : Nat) (d a : BitVec 6) (o : BitVec 10) : Prop where
  meaning : ∀ s, exec i s = issue i s (fun s => s.withAcc i (fun t => s.storeG t n d))
  access : ∀ x, slotAcc x i = some (.one (x.ea a o n) n n .store .st)
  plain : (uses i).vr ++ (uses i).vw = []

theorem nearStoreWord_of_mem {d a : BitVec 6} {o : BitVec 10} {w : Instr × Nat}
    (hw : w ∈ [(Instr.stb d a o, 1), (.sth d a o, 2), (.stw d a o, 4)]) :
    NearStoreWord w.1 w.2 d a o := by
  simp only [List.mem_cons, List.not_mem_nil, or_false] at hw
  obtain rfl | rfl | rfl := hw <;> exact ⟨fun _ => rfl, fun _ => rfl, rfl⟩

section
variable {s : State} {d a : BitVec 6} {e : BitVec 5} {q : BitVec 3} {o : BitVec 10}

/-- A scalar store puts one effect in flight. -/
theorem Seen.storeG_near {i : Instr} {v : State} (hv : Seen i s v) (hg : s.ungated = true) {n m : Nat} {acc : Acc}
    {va : Word} (h : isOwn s.me va = true) (h' : isOwn s.me (va + BitVec.ofNat 64 (n - 1)) = true) :
    Same (v.storeG (.one va n m acc .st) n d)
      (s.flying (s.flight i 6 .st (.store (vaultOffset va) (numBytes n (s.cx.rg d).toNat)))) := by
  have hp := hv.storePieces (p := fun _ => va) (n := 1) (k := n) (m := m) (acc := acc) (fun _ _ => ⟨h, h'⟩) hg
    (numBytes n (s.cx.rg d).toNat)
  have ht : (numBytes n (s.cx.rg d).toNat).take n = numBytes n (s.cx.rg d).toNat :=
    List.take_of_length_le (by simp [numBytes])
  unfold State.storeFlights at hp
  simp only [List.range_one, List.map_cons, List.map_nil, Nat.mul_zero, List.drop_zero, ht] at hp
  unfold State.storeG lowBytes
  rw [hv.rg]
  exact hp

theorem NearStoreWord.effect {i : Instr} {n : Nat} (w : NearStoreWord i n d a o) (hb : s.inHand) (hg : s.ungated = true)
    (h : isOwn s.me (s.cx.ea a o n) = true) (h' : isOwn s.me (s.cx.ea a o n + BitVec.ofNat 64 (n - 1)) = true) :
    Effect i s (s.flying (s.flight i 6 .st (.store (vaultOffset (s.cx.ea a o n)) (numBytes n (s.cx.rg d).toNat)))) :=
  effect_acc (w.meaning s) hb (unbound_of_none w.plain) (w.access s.cx) (fun _ hv => hv.storeG_near hg h h')
    (by rw [State.cx_flying])

/-- An address of the own vault names no copy aperture (R97, R232). -/
theorem channelOf_own (h : isOwn s.me (s.cx.ea a o 8) = true) : s.channelOf s.me s.cx (.std d a o) = none := by
  unfold State.channelOf
  simp only [resolve_own s s.cx .store h]

variable (hb : s.inHand)
include hb

theorem std_near (hg : s.ungated = true) (h : isOwn s.me (s.cx.ea a o 8) = true)
    (h' : isOwn s.me (s.cx.ea a o 8 + BitVec.ofNat 64 (8 - 1)) = true) :
    Effect (.std d a o) s
      (s.flying (s.flight (.std d a o) 6 .st (.store (vaultOffset (s.cx.ea a o 8)) (numBytes 8 (s.cx.rg d).toNat)))) :=
  effect_acc (k := fun s t => _) rfl hb (unbound_of_none rfl) rfl (fun v hv => by
    simp only [hv.channelOf, channelOf_own h]
    exact hv.storeG_near hg h h') (by rw [State.cx_flying])

/-- A store to an aperture of the own core is a copy command (R232). -/
theorem std_aperture {ch : Nat} (h : s.channelOf s.me s.cx (.std d a o) = some ch) :
    Effect (.std d a o) s (s.pushCopy ch 0 ((s.cx.rg d).extractLsb' 0 6) 0 0 0 0) :=
  effect_acc (k := fun s t => _) rfl hb (unbound_of_none rfl) rfl (fun v hv => by
    simp only [hv.channelOf, h, hv.rg, BitVec.setWidth_eq_extractLsb' (show 6 ≤ 64 by decide)]
    exact hv.pushCopy ..) (by rw [State.cx_pushCopy])

theorem vst_near (hg : s.ungated = true) {n : Nat} {p : Nat → Word} (hu : s.unbound (.vst e a o))
    (ht : s.cx.segments (s.cx.ea a o 512) = (List.range n).map (fun j => (p j, 512 / n)))
    (h : ∀ k < n, isOwn s.me (p k) = true ∧ isOwn s.me (p k + BitVec.ofNat 64 (512 / n - 1)) = true) :
    Effect (.vst e a o) s (s.flights (s.storeFlights (.vst e a o) p n (512 / n) (numBytes 512 (s.cx.rv e).toNat))) :=
  effect_acc (k := fun s t => s.store t (numBytes 512 (s.cx.rv e).toNat)) rfl hb hu
    (show _ = some ⟨(List.range n).map (fun j => (p j, 512 / n)), 64, .store, .st⟩ by rw [← ht]; rfl)
    (fun v hv => by rw [hv.rv]; exact hv.storePieces h hg _) (by rw [State.cx_flights])

theorem ppsave_near (hg : s.ungated = true) (h : isOwn s.me (s.cx.ea a o 8) = true)
    (h' : isOwn s.me (s.cx.ea a o 8 + BitVec.ofNat 64 (520 - 1)) = true) :
    Effect (.ppsave q a o) s
      (s.flights (s.saveFlights (.ppsave q a o) (vaultOffset (s.cx.ea a o 8)) 9 (s.cx.poly q.toNat).image)) :=
  effect_acc (k := fun s t => _) rfl hb (unbound_of_none rfl) rfl (fun v hv => by
    have hi : (v.cx.poly q.toNat).image = (s.cx.poly q.toNat).image :=
      hv.ofCx (fun x => (x.poly q.toNat).image) (fun _ _ _ => rfl)
    simp only [hv.me, SlotAcc.near_one h h', Twin.ungated hv.same, hg, Bool.not_true, Bool.false_eq_true, if_false, if_true, hi]
    exact (Flown.saveNear (k := 0) 9 hv.flown rfl).same) (by rw [State.cx_flights])

end

/-- Settles O39: each near store by the effects that it puts in flight, and STD to an own aperture by its command. -/
theorem nearStores : Obligations.NearStores := by
  intro s d a e q o va hb hg hva
  have hea : ∀ n, va n = s.cx.ea a o n := fun n => (hva n).trans (Ctx.ea_eq ..).symm
  simp only [hea]
  refine ⟨fun w hw h h' => ?_, fun ch h => std_aperture hb h, fun n p hn hp hu h => ?_, fun h h' => ppsave_near hb hg h h'⟩
  · by_cases hstd : w = (.std d a o, 8)
    · subst hstd
      exact std_near hb hg h h'
    · refine (nearStoreWord_of_mem ?_).effect hb hg h h'
      simpa [hstd] using hw
  · subst hn
    refine vst_near hb hg hu (List.map_congr_left (fun k _ => ?_)) h
    rw [hp]

end Sys2Proof.Machine
end

section
/-!
The steps of hardware queues and producer windows (R226, R307, R314, R315, R318). Settles O52; that a packet which arrived is
taken in the next cycle is log entry 22, and that the mirrors are written in full when a queue is enabled log entry 52.
-/

namespace Sys2Proof.Machine

/-! ### Packets at their queues (R226) -/

section
variable {s : State} {id : Nat} {m : Msg} {h : Word} {p : List Byte}

/-- A packet that may be delivered, by whether the clocks of its queue's region run. -/
theorem State.enqueueRequest_of_deliverable (hf : s.fabric.find? (fun m => m.id = id) = some m) (hd : s.deliverable m = true) :
    s.enqueueRequest id =
      if (s.enqRegion m).isSome = true then
        { s with fabric := s.fabric.map (fun n => if n.id = id then { n with arrived := true } else n) }
      else s.enqAnswer m := by
  unfold State.enqueueRequest
  simp only [hf, hd, Bool.not_true, Bool.false_eq_true, if_false]

theorem State.enqAnswer_of_waits (hm : m.ask = .enq h p) (hw : s.handleWaits (s.partOf m.core) h = true) : s.enqAnswer m = s := by
  unfold State.enqAnswer
  simp only [hm, hw, if_true]

/-- The answer of a queue as a number: the last SEQ over the status (R226). -/
theorem answerWord_toNat (st : Nat) (last : BitVec 32) (u : State) :
    (answerWord (st, last, u)).toNat = last.toNat * 2 ^ 32 + st % 256 := by
  change (last ++ (0 : BitVec 24) ++ BitVec.ofNat 8 st).toNat = _
  rw [BitVec.toNat_append, ← Nat.shiftLeft_add_eq_or_of_lt (BitVec.isLt _), BitVec.toNat_append,
    ← Nat.shiftLeft_add_eq_or_of_lt (BitVec.isLt _), Nat.shiftLeft_eq, Nat.shiftLeft_eq, BitVec.toNat_ofNat,
    show (0 : BitVec 24).toNat = 0 from rfl]
  omega

/-- A queue that does not wait answers; a handle that is not stale leaves no record (R226). -/
theorem State.enqAnswer_of_status {st : Nat} {last : BitVec 32} {u : State} (hm : m.ask = .enq h p)
    (hw : s.handleWaits (s.partOf m.core) h = false)
    (hs : s.enqueue (s.partOf m.core) (some ⟨m.core, m.res, m.pc, m.slot⟩) h p = (st, last, u)) (h4 : st ≠ 4) :
    s.enqAnswer m = u.answered m (numBytes 8 (last.toNat * 2 ^ 32 + st % 256)) := by
  rw [← answerWord_toNat st last u, ← wordBytes_eq]
  unfold State.enqAnswer
  simp only [hm, hw, hs, h4, Bool.false_eq_true, if_false]

end

/-! ### Producer windows (R314, R315) -/

section
variable {s : State} {w : Nat}

theorem State.windowSubmit_of_free (h : Word) (hp : (s.window w).pending = false) :
    s.windowSubmit w h = (s.setWindow w { s.window w with pending := true, handle := h }).windowAnswer w :=
  if_neg (by simp [hp])

theorem State.windowSubmit_of_pending (h : Word) (hp : (s.window w).pending = true) : s.windowSubmit w h = s := if_pos hp

end

/-- One byte, numbered `b.2` in a write at an offset, put into a staging buffer. -/
def putStaged (off : Nat) (v : BitVec 512) (b : Byte × Nat) : BitVec 512 :=
  if 64 ≤ off + b.2 then v
  else
    (v &&& ~~~BitVec.ofNat 512 (255 * 256 ^ (off + b.2))) ||| BitVec.ofNat 512 (b.1.toNat * 256 ^ (off + b.2))

theorem State.stagePacket_eq (s : State) (w off : Nat) (bs : List Byte) :
    s.stagePacket w off bs =
      s.setWindow w { s.window w with staging := bs.zipIdx.foldl (putStaged off) (s.window w).staging } := rfl

/-- A number put at byte `i`, bit by bit. -/
theorem getLsbD_ofNat_mul_pow (n i k : Nat) :
    (BitVec.ofNat 512 (n * 256 ^ i)).getLsbD k = (decide (k < 512) && (decide (8 * i ≤ k) && n.testBit (k - 8 * i))) := by
  rw [BitVec.getLsbD_ofNat, show (256 : Nat) ^ i = 2 ^ (8 * i) by rw [Nat.pow_mul], Nat.mul_comm, Nat.testBit_two_pow_mul]

/-- Byte `j` of the staging buffer after one byte is put. -/
theorem extractLsb'_putStaged {off j : Nat} (v : BitVec 512) (b : Byte × Nat) (hb : off + b.2 < 64) (hj : j < 64) :
    (putStaged off v b).extractLsb' (8 * j) 8 = if j = off + b.2 then b.1 else v.extractLsb' (8 * j) 8 := by
  unfold putStaged
  rw [if_neg (by omega)]
  refine BitVec.eq_of_getLsbD_eq (fun t ht => ?_)
  have hmask : (255 : Nat) = 2 ^ 8 - 1 := rfl
  rw [BitVec.getLsbD_extractLsb', BitVec.getLsbD_or, BitVec.getLsbD_and, BitVec.getLsbD_not, getLsbD_ofNat_mul_pow,
    getLsbD_ofNat_mul_pow, hmask, Nat.testBit_two_pow_sub_one]
  split
  · next h =>
    subst h
    have : 8 * (off + b.2) + t - 8 * (off + b.2) = t := by omega
    simp [this, ht, show 8 * (off + b.2) + t < 512 by omega, BitVec.getLsbD]
  · next h =>
    rw [BitVec.getLsbD_extractLsb']
    by_cases hlo : 8 * (off + b.2) ≤ 8 * j + t
    · have h8 : 8 ≤ 8 * j + t - 8 * (off + b.2) := by omega
      have hbit : b.1.toNat.testBit (8 * j + t - 8 * (off + b.2)) = false :=
        Nat.testBit_lt_two_pow (lt_of_lt_of_le b.1.isLt (Nat.pow_le_pow_right (by decide) h8))
      simp [hbit, ht, show ¬ 8 * j + t - 8 * (off + b.2) < 8 by omega, show 8 * j + t < 512 by omega]
    · simp [hlo, ht, show 8 * j + t < 512 by omega]

/-- The bytes of the staging buffer after a write: those written where they stand, the old ones elsewhere. -/
theorem extractLsb'_foldl_putStaged {off j : Nat} (hj : j < 64) (bs : List Byte) :
    ∀ (k : Nat) (v : BitVec 512), off + k + bs.length ≤ 64 →
      ((bs.zipIdx k).foldl (putStaged off) v).extractLsb' (8 * j) 8 =
        if off + k ≤ j ∧ j < off + k + bs.length then bs.getD (j - (off + k)) 0 else v.extractLsb' (8 * j) 8 := by
  induction bs with
  | nil => intro k v _; rw [if_neg (by rw [List.length_nil]; omega)]; rfl
  | cons b bs ih =>
    intro k v h
    rw [List.length_cons] at h ⊢
    rw [List.zipIdx_cons, List.foldl_cons, ih (k + 1) _ (by omega), extractLsb'_putStaged v (b, k) (by simp only; omega) hj]
    by_cases he : j = off + k
    · subst he
      rw [if_neg (by omega), if_pos rfl, if_pos (by omega), Nat.sub_self, List.getD_cons_zero]
    · rw [if_neg he]
      by_cases hin : off + k ≤ j ∧ j < off + k + (bs.length + 1)
      · rw [if_pos (by omega), if_pos hin, show j - (off + k) = j - (off + (k + 1)) + 1 by omega, List.getD_cons_succ]
      · rw [if_neg (by omega), if_neg hin]

/-! ### Queue entries (R307) -/

/-- A written entry is acceptable: it enables a queue that may be enabled, or leaves the places of an enabled one. -/
def State.queueAccepts (s : State) (q : Nat) (f : Queue) : Prop :=
  (s.queue q).en = false ∧ s.queueOk q f = true ∨
    (s.queue q).en = true ∧ f.seq = (s.queue q).seq ∧ f.log2n = (s.queue q).log2n ∧ f.img = (s.queue q).img ∧
      f.moff = (s.queue q).moff

/-- An accepted entry is stored and brought to the directory and the mirrors. -/
theorem State.queueCommit_of_accepts {s : State} {q : Nat} {v : BitVec 256} {f : Queue} (hf : f = (s.queue q).written v)
    (hb : queueBits v = true) (ha : s.queueAccepts q f) (hen : f.en = true) :
    s.queueCommit q v =
      let g := { f with copying := (s.queue q).copying || ((s.queue q).en && (s.queue q).swap && !f.swap) }
      let t := (s.setQueue q g).dirQueue q
      if (s.queue q).en then t.mirrorHead q else t.mirrorAll q := by
  unfold State.queueCommit
  simp only [← hf]
  obtain ⟨he, hok⟩ | ⟨he, h1, h2, h3, h4⟩ := ha
  · simp only [he, hb, hok, hen, Bool.not_true, Bool.not_false, Bool.and_self, Bool.or_true, Bool.false_eq_true, if_true,
      if_false]
  · simp only [he, hb, h1, h2, h3, h4, hen, beq_self_eq_true, Bool.not_true, Bool.and_self, Bool.and_false, Bool.true_or,
      Bool.false_eq_true, if_true, if_false]

/-! ### The steps -/

section
variable {s : State}

theorem exec_enqueueRequest (id : Nat) : exec (.enqueueRequest id) s = .next (s.enqueueRequest id) := rfl

theorem exec_hostWindowSubmit (hb : s.boot = .ready) (w : BitVec 6) (h : Word) :
    exec (.hostWindowSubmit w h) s = .next (s.windowSubmit w.toNat h) :=
  congrArg Host.Outcome.next (State.ready_of_ready _ hb)

theorem exec_packetStagingWrite (hb : s.boot = .ready) (w off : BitVec 6) (data : List Byte) :
    exec (.packetStagingWrite w off data) s = .next (s.stagePacket w.toNat off.toNat data) :=
  congrArg Host.Outcome.next (State.ready_of_ready _ hb)

/-- A write to a queue entry commits it when the condition of its step holds. -/
theorem exec_commits {i : Instr} {q : Nat} {word : Word} {c : State → Bool}
    (hx : exec i s = .next (s.ready (fun s => if c s = true then s.commitQueue q word else s))) (hb : s.boot = .ready)
    (hc : c s = true) : exec i s = .next (s.commitQueue q word) := by
  rw [hx, State.ready_of_ready _ hb, if_pos hc]

/-- The five steps that commit a queue entry, each under its own condition. -/
theorem exec_queueEntry {q : BitVec 13} {word : Word} {e : Queue} (hb : s.boot = .ready) (he : e = s.queue q.toNat)
    (hq : q.toNat < 6144) {p : Instr × Bool}
    (hp : p ∈ [(Instr.queueEnable q word, !e.en && word.getLsbD 0), (.queueDisable q word, e.en && !word.getLsbD 0),
      (.queueSwapOut q word, e.en && !e.swap && word.getLsbD 6), (.queueSwapIn q word, e.en && e.swap && !word.getLsbD 6),
      (.queueGenerationChange q word, e.en && e.gen != word.extractLsb' 8 12)]) (hc : p.2 = true) :
    exec p.1 s = .next (s.commitQueue q.toNat word) := by
  have hin : decide (q.toNat < 6144) = true := decide_eq_true hq
  subst he
  simp only [List.mem_cons, List.not_mem_nil, or_false] at hp
  obtain rfl | rfl | rfl | rfl | rfl := hp
  all_goals
    refine exec_commits rfl hb ?_
    simpa only [hin, Bool.true_and] using hc

theorem exec_swapInCopyComplete (q : BitVec 13) : exec (.swapInCopyComplete q) s = .next (s.swapInDone q.toNat).windowsTurn := rfl

theorem exec_mirrorCopyComplete (stack fresh : BitVec 4) :
    exec (.mirrorCopyComplete stack fresh) s = .next (s.mirrorCopied stack.toNat fresh.toNat).windowsTurn := rfl

/-- The packets of a queue that copies them back stand in its vault image. -/
theorem State.swapInDone_of_copying {q : Nat} (h : (s.queue q).copying = true) :
    s.swapInDone q = (s.fillImage q ((s.stacksOf q).headD 0)).setQueue q { s.queue q with copying := false } :=
  if_neg (by simp [h])

end

/-- Settles O52: each step of a queue or window by the condition under which it acts. -/
theorem queueSteps : Obligations.QueueSteps := by
  intro s w h word q n e x hn he hx
  subst hx he
  refine ⟨fun id m p st last u hf hm hd => ⟨fun hr => ?_, fun hr => ?_, State.enqAnswer_of_waits hm,
      State.enqAnswer_of_status hm⟩, fun hb hp => ?_, fun hb hp => ?_, fun off data hb hl => ?_, fun p hp hb hlt hc => ?_,
    fun v f hf hbits ha hen => ?_, fun hcopy => ?_, fun stack fresh _ _ _ => exec_mirrorCopyComplete stack fresh⟩
  · rw [exec_enqueueRequest, State.enqueueRequest_of_deliverable hf hd, if_pos hr]
  · rw [exec_enqueueRequest, State.enqueueRequest_of_deliverable hf hd, if_neg (by simp [hr])]
  · rw [exec_hostWindowSubmit hb, State.windowSubmit_of_free h hp]
  · rw [exec_hostWindowSubmit hb, State.windowSubmit_of_pending h hp]
  · rw [exec_packetStagingWrite hb, State.stagePacket_eq]
    exact ⟨_, rfl, fun i hi => extractLsb'_foldl_putStaged hi data 0 _ hl⟩
  · subst hn
    exact exec_queueEntry hb rfl hlt hp hc
  · exact State.queueCommit_of_accepts hf hbits ha hen
  · subst hn
    rw [exec_swapInCopyComplete, State.swapInDone_of_copying hcopy]

end Sys2Proof.Machine
end

section
/-!
Matrix words, MDRAIN and the words of the engines at their issue (R132, R236, R239, R244 to R246, R248, R250, R254, R260, R261,
R263, R276). Settles O43 and O44; that a near command waits for the accesses in its gates is log entry 26.
-/

namespace Sys2Proof.Machine

/-! ### Matrix words (R236, R239) -/

/-- A context in which a tile has a kind tag; kind X takes the next tile too (R236). -/
def Ctx.tagged (x : Ctx) (c : Nat) (t : Tag) : Ctx := if t = .x then (x.setTag c t).setTag (c + 1) .x else x.setTag c t

theorem Ctx.tagged_eq (x : Ctx) (c : Nat) (t : Tag) :
    x.tagged c t = if t = .x then (x.setTag c .x).setTag (c + 1) .x else x.setTag c t :=
  ite_congr rfl (fun h => by rw [h]) (fun _ => rfl)

/-- The tags that a word leaves do not depend on the meters. -/
theorem Ctx.mxTags_metered (x : Ctx) (e : List (Nat × Bool)) (n : Nat) (i : Instr) :
    (x.metered e n).mxTags i = (x.mxTags i).metered e n := by
  have hset : ∀ c t, (x.metered e n).tagged c t = (x.tagged c t).metered e n := fun c t => by
    unfold Ctx.tagged
    split <;> rfl
  cases i with
  | mma c _ _ f => exact hset c.toNat (if f = 4 then .i else if x.fx then .x else .f)
  | mmas c _ _ f => exact hset c.toNat (if f = 4 then .i else if x.fx then .x else .f)
  | mmag c _ _ f => exact hset c.toNat (if f = 4 then .i else if x.fx then .x else .f)
  | mzero c k => exact hset c.toNat (kindTag k)
  | mload c _ _ k => exact hset c.toNat (kindTag k)
  | _ => rfl

/-- A word of the matrix queue, and the kind that it gives its tile in a context. -/
structure MatrixWord (i : Instr) (x : Ctx) (c : Nat) (t : Tag) : Prop where
  meaning : ∀ s, exec i s = issue i s (fun v => v.pushMatrix i)
  tags : x.mxTags i = x.tagged c t
  plain : (uses i).vr ++ (uses i).vw = []

/-- A matrix word puts its command at the end of the queue, and tags its tile. -/
theorem MatrixWord.effect {s : State} {i : Instr} {c : Nat} {t : Tag} (w : MatrixWord i s.cx c t) (hb : s.inHand) :
    Effect i s ((s.modCx (fun x => x.tagged c t)).modMe (fun k => { k with mq := k.mq ++ [s.mxCmd i] })) :=
  effect_nil (w.meaning s) hb w.plain (fun v hv => hv.pushMatrix i (fun e n => by
    rw [Ctx.mxTags_metered, w.tags]
    rfl))

/-! ### MDRAIN (R248) -/

/-- What MDRAIN drains in a context, in a period of its region. -/
def Ctx.drained (x : Ctx) (c : BitVec 3) (h j : BitVec 4) (f : BitVec 3) (p u w : BitVec 1) (r : BitVec 2) (period : Word) :
    VRes :=
  drain ⟨⟨r, x.round.getLsbD 2⟩, u = 1, x.key, x.tile, period⟩ x.vshape.toNat f (x.tagOf c.toNat).num x.fxq.toInt
    (x.tile1 c.toNat) (x.tile1 (c.toNat + 1)) (p ++ h).toNat
    (if w = 1 then some (x.rv (BitVec.ofNat 5 (16 + j.toNat))) else none)

theorem Ctx.drained_metered (x : Ctx) (e : List (Nat × Bool)) (n : Nat) (c : BitVec 3) (h j : BitVec 4) (f : BitVec 3)
    (p u w : BitVec 1) (r : BitVec 2) (period : Word) :
    (x.metered e n).drained c h j f p u w r period = x.drained c h j f p u w r period := rfl

theorem mdrain_gives {s : State} {c : BitVec 3} {h j : BitVec 4} {f : BitVec 3} {p u w : BitVec 1} {r : BitVec 2}
    {d : BitVec 5} (hb : s.inHand) (hu : s.unbound (.mdrain c h j f p u w r d)) :
    GivesV (.mdrain c h j f p u w r d) s d 8 (s.cx.drained c h j f p u w r (s.regOf s.me).period) true := by
  have hx : exec (.mdrain c h j f p u w r d) s = issue (.mdrain c h j f p u w r d) s
    (fun v => v.writeV 8 d (v.cx.drained c h j f p u w r v.env.period) true) := rfl
  refine queues_of hx (fun _ => rfl) (fun _ => rfl) hb hu ?_
  rw [State.env_beforeWord (fun _ => rfl) hu, State.cx_beforeWord (fun _ => rfl) hu, Ctx.drained_metered]
  rfl

/-- Settles O43: each word of the queue by its command and its tags, MDRAIN by what it drains. -/
theorem matrixAtIssue : Obligations.MatrixAtIssue := by
  intro s c f g h3 h j v n k j2 rn v1 l z p q u w1 d tag hb htag
  subst htag
  refine ⟨fun w hw _ => ?_, fun e he hu => he ▸ mdrain_gives hb hu⟩
  have hmx : MatrixWord w.1 s.cx c.toNat w.2 := by
    simp only [List.mem_cons, List.not_mem_nil, or_false] at hw
    obtain rfl | rfl | rfl | rfl | rfl | rfl := hw <;> exact ⟨fun _ => rfl, rfl, rfl⟩
  have he := hmx.effect hb
  simp only [Ctx.tagged_eq] at he
  exact ⟨s.mxCmd w.1, rfl, rfl, rfl, rfl, rfl, rfl, rfl, rfl, rfl, rfl, he⟩

/-! ### Engine commands (R250, R254, R263, R276) -/

/-- The command of a word of the small engine, as it enters the queue. -/
def State.smallCmd (s : State) (i : Instr) (a b : Word) : SmallCmd :=
  ⟨i, s.res, s.now s.me, s.seq, s.cx.pc, s.wordIx, a, b, s.gates s.me s.res, 0, 0, []⟩

theorem State.pushSmall_same (s : State) (i : Instr) (a b : Word) :
    Same (s.pushSmall i a b) (s.modMe (fun k => { k with small := k.small ++ [s.smallCmd i a b] })) := Same.tick1 _

/-- The command of a contact word on block `k`, as it enters the queue. -/
def State.ctCmd (s : State) (i : Instr) (a b : Word) (k : Nat) : CtCmd :=
  ⟨i, s.res, s.now s.me, s.seq, s.cx.pc, s.wordIx, a, b, s.gates s.me s.res,
    Table.get (0 : BitVec 32) s.cx.ctthr k, none, 0, 0, []⟩

theorem State.contact_same (s : State) (i : Instr) (a b : Word) (k : Nat) :
    Same (s.contact i a b k) (s.modMe (fun q => { q with ct := q.ct ++ [s.ctCmd i a b k] })) := Same.tick1 _

/-- The command of a copy or KV word, as it enters its channel. -/
def State.copyCmd (s : State) (kind : BitVec 2) (tidx : BitVec 6) (mode : BitVec 2) (disp kd kp : Word) : CopyCmd :=
  { kind, tidx, mode, disp, kvDesc := kd, kvPath := kp, res := s.res, seq := s.seq, pc := s.cx.pc, slot := s.wordIx
    issue := s.now s.me, aperture := false, sat := some (s.cx.round.getLsbD 2), tmpl := none
    after := (s.core s.me).openEcw s.res, gates := s.gates s.me s.res, cursor0 := 0, kvBuf := [], kvShift := 0 }

theorem State.pushCopy_same (s : State) (ch : Nat) (kind : BitVec 2) (tidx : BitVec 6) (mode : BitVec 2) (disp kd kp : Word) :
    Same (s.pushCopy ch kind tidx mode disp kd kp) (s.modMe (fun q => q.setChan ch
      { q.chan ch with queue := (q.chan ch).queue ++ [s.copyCmd kind tidx mode disp kd kp] })) := Same.tick1 _

section
variable {i : Instr} {s : State} (hb : s.inHand) (hn : (uses i).vr ++ (uses i).vw = [])
include hb hn

/-- A command of the small engine carries its operands as read at issue. -/
theorem small_effect (x y : (BitVec 6 → Word) → Word)
    (hx : exec i s = issue i s (fun v => v.pushSmall i (x v.cx.rg) (y v.cx.rg))) :
    Effect i s (s.pushSmall i (x s.cx.rg) (y s.cx.rg)) :=
  effect_nil hx hb hn (fun v hv => by rw [funext hv.rg]; exact hv.pushSmall ..)

/-- A contact command carries its operand and the threshold of its block as read at issue. -/
theorem contact_effect (x : (BitVec 6 → Word) → Word) (k : Nat)
    (hx : exec i s = issue i s (fun v => v.contact i (x v.cx.rg) 0 k)) : Effect i s (s.contact i (x s.cx.rg) 0 k) :=
  effect_nil hx hb hn (fun v hv => by rw [funext hv.rg]; exact hv.contact ..)

/-- A copy or KV command carries its arguments as read at issue. -/
theorem copy_effect (ch : Nat) (kind mode : BitVec 2) (t : (BitVec 6 → Word) → BitVec 6)
    (disp kd kp : (BitVec 6 → Word) → Word)
    (hx : exec i s = issue i s (fun v => v.pushCopy ch kind (t v.cx.rg) mode (disp v.cx.rg) (kd v.cx.rg) (kp v.cx.rg))) :
    Effect i s (s.pushCopy ch kind (t s.cx.rg) mode (disp s.cx.rg) (kd s.cx.rg) (kp s.cx.rg)) :=
  effect_nil hx hb hn (fun v hv => by rw [funext hv.rg]; exact hv.pushCopy ..)

end

/-- Settles O44: each word by the command that it puts in the queue of its engine. -/
theorem engineCommands : Obligations.EngineCommands := by
  rintro s a b n c k h md x y hb rfl rfl
  refine ⟨fun w hw => ?_, fun w hw => ?_, fun w hw => ?_⟩
  · have he : Effect w.1 s (s.pushSmall w.1 w.2.1 w.2.2) := by
      revert w
      simp only [List.forall_mem_cons, List.not_mem_nil, false_imp_iff, implies_true, and_true]
      exact ⟨small_effect hb rfl (· a) (· b) rfl, small_effect hb rfl (· a) (· b) rfl,
        small_effect hb rfl (· a) (fun _ => 0) rfl, small_effect hb rfl (· a) (fun _ => 0) rfl,
        small_effect hb rfl (· a) (fun _ => 0) rfl⟩
    exact ⟨s.smallCmd w.1 w.2.1 w.2.2, rfl, rfl, rfl, rfl, rfl, rfl, rfl, rfl, rfl, rfl, he.congr (s.pushSmall_same ..)⟩
  · have he : Effect w.1 s (s.contact w.1 w.2.1 0 w.2.2) := by
      revert w
      simp only [List.forall_mem_cons, List.not_mem_nil, false_imp_iff, implies_true, and_true]
      exact ⟨contact_effect hb rfl (· a) k.toNat rfl, contact_effect hb rfl (· a) k.toNat rfl,
        contact_effect hb rfl (fun _ => 0) k.toNat rfl, contact_effect hb rfl (· a) k.toNat rfl,
        contact_effect hb rfl (· a) 0 rfl, contact_effect hb rfl (· a) 0 rfl⟩
    exact ⟨s.ctCmd w.1 w.2.1 0 w.2.2, rfl, rfl, rfl, rfl, rfl, rfl, rfl, rfl, rfl, rfl, he.congr (s.contact_same ..)⟩
  · have he : Effect w.1 s
        (s.pushCopy c.toNat (BitVec.ofNat 2 w.2.1) w.2.2.1 w.2.2.2.1 w.2.2.2.2.1 w.2.2.2.2.2.1 w.2.2.2.2.2.2) := by
      revert w
      simp only [List.forall_mem_cons, List.not_mem_nil, false_imp_iff, implies_true, and_true]
      exact ⟨copy_effect hb rfl c.toNat 0 md (fun g => (g a).extractLsb' 0 6) (· b) (fun _ => 0) (fun _ => 0) rfl,
        copy_effect hb rfl c.toNat 1 0 (fun _ => 0) (fun _ => 0) (· a) (· b) rfl,
        copy_effect hb rfl c.toNat 2 0 (fun _ => 0) (· b) (· a) (fun _ => 0) rfl⟩
    exact ⟨s.copyCmd (BitVec.ofNat 2 w.2.1) w.2.2.1 w.2.2.2.1 w.2.2.2.2.1 w.2.2.2.2.2.1 w.2.2.2.2.2.2, rfl, rfl, rfl, rfl,
      rfl, rfl, rfl, rfl, rfl, rfl, rfl, rfl, rfl, rfl, rfl, he.congr (s.pushCopy_same ..)⟩

end Sys2Proof.Machine
end

section
/-!
Polynomial words without stream registers (R266 to R273): what each puts in flight or queues, and how long its polynomial is
busy. Settles O35.
-/

namespace Sys2Proof.Machine

/-! ### A polynomial put in flight (R267) -/

/-- A context whose polynomial q is busy until a cycle. -/
def Ctx.holdPoly (x : Ctx) (q : BitVec 3) (n : Nat) : Ctx := { x with qbusy := Table.set x.qbusy q.toNat n }

/-- A polynomial that performs in the next cycle is never busy. -/
theorem State.putPoly_one (v : State) (q : BitVec 3) (r : Poly × Flags) : v.putPoly 1 q r = v.later 1 .ld (.poly q r.1 r.2) :=
  rfl

/-- A polynomial that performs later is busy until then: the time counts from the issue cycle. -/
theorem State.putPoly_busy (v : State) {lat : Nat} (hl : lat ≠ 1) (q : BitVec 3) (r : Poly × Flags) :
    v.putPoly lat q r = (v.later lat .ld (.poly q r.1 r.2)).modCx (fun x => x.holdPoly q (v.now v.me + lat)) :=
  if_neg hl

theorem Seen.putPoly {i : Instr} {s v : State} (hv : Seen i s v) {lat : Nat} (hl : lat ≠ 1) (q : BitVec 3) (r : Poly × Flags) :
    Same (v.putPoly lat q r)
      ((s.flying (s.flight i lat .ld (.poly q r.1 r.2))).modCx (fun x => x.holdPoly q (s.now s.me + lat))) := by
  have hu : Same (v.later lat .ld (.poly q r.1 r.2)) (s.flying (s.flight i lat .ld (.poly q r.1 r.2))) := hv.later ..
  rw [State.putPoly_busy v hl, hv.me, hv.now]
  exact hu.modCx (congrArg (fun x => x.holdPoly q (s.now s.me + lat)) (Twin.cx hu))

/-! ### Words that leave a polynomial -/

section
variable {i : Instr} {s : State} {q : BitVec 3} (R : Ctx → Poly × Flags)
  (hR : ∀ (x : Ctx) e c, R (x.metered e c) = R x)
include hR

/-- A word that sets a polynomial directly puts it in flight for one cycle (R269). -/
theorem setPoly_effect (hx : exec i s = issue i s (fun v => v.putPoly 1 q (R v.cx))) (hb : s.inHand)
    (hn : (uses i).vr ++ (uses i).vw = []) : Effect i s (s.flying (s.flight i 1 .ld (.poly q (R s.cx).1 (R s.cx).2))) :=
  later_effect (fun x => .poly q (R x).1 (R x).2) (hx.trans (by simp only [State.putPoly_one])) hb hn
    (fun x e c => by simp only [hR])

/-- A word of several cycles puts its polynomial in flight and keeps it busy until then; the cycles of PPMUL depend on
its mask (R267, R270, R271). -/
theorem stepPoly_effect (L : Ctx → Nat) (hL : ∀ (x : Ctx) e c, L (x.metered e c) = L x) (hl : L s.cx ≠ 1)
    (hx : exec i s = issue i s (fun v => v.putPoly (L v.cx) q (R v.cx))) (hb : s.inHand) (hu : s.unbound i) :
    Effect i s ((s.flying (s.flight i (L s.cx) .ld (.poly q (R s.cx).1 (R s.cx).2))).modCx
      (fun x => x.holdPoly q (s.now s.me + L s.cx))) :=
  effect_of hx hb hu (fun v hv => by
    rw [hv.ofCx R hR, hv.ofCx L hL]
    exact hv.putPoly hl q (R s.cx)) (by rw [State.cx_modCx, State.cx_flying]; rfl)

end

/-! ### Words that read a polynomial (R273) -/

section
variable {s : State} {f m : BitVec 3} {d a b : BitVec 5} (hb : s.inHand)
include hb

theorem pprd_gives (hu : s.unbound (.pprd f m d a b)) : GivesV (.pprd f m d a b) s d 4
    (ppRead s.env (s.cx.poly (a.setWidth 3).toNat) f (s.cx.rm m) (s.cx.rg (b.setWidth 6))) :=
  writeV_gives (fun e x => ppRead e (x.poly (a.setWidth 3).toNat) f (x.rm m) (x.rg (b.setWidth 6))) rfl hb (hu := hu)

theorem ppstat_gives : GivesG (.ppstat d a) s (d.setWidth 6) 4 (s.cx.poly (a.setWidth 3).toNat).status :=
  givesG_of (fun x => (x.poly (a.setWidth 3).toNat).status) (fun _ => 0) rfl (fun _ => rfl) (fun _ => rfl) hb
    (unbound_of_none rfl) (fun _ => rfl) (fun _ _ _ => rfl) (fun _ _ _ => rfl)

end

/-- Settles O35: PPINIT, PPDEG and PPSCALE by what they set, PPMUL and PPDIV by their step and its cycles, PPRD and PPSTAT by
what they read. -/
theorem polynomials : Obligations.Polynomials := by
  rintro s f m q t d a b p g h hb rfl rfl rfl rfl rfl
  simp only [List.forall_mem_cons, List.not_mem_nil, false_imp_iff, implies_true, and_true]
  refine ⟨⟨?init, ?deg, ?scale⟩, ⟨?mul, ?div⟩, pprd_gives hb, ppstat_gives hb⟩
  case init => exact setPoly_effect (fun x => (ppInit (x.poly (d.setWidth 3).toNat), 0)) (fun _ _ _ => rfl) rfl hb rfl
  case deg =>
    exact setPoly_effect (fun x => ppDeg (x.poly (d.setWidth 3).toNat) (x.rg (a.setWidth 6))) (fun _ _ _ => rfl) rfl hb rfl
  case scale =>
    exact setPoly_effect (fun x => ppScale (x.poly (d.setWidth 3).toNat) (x.rg (a.setWidth 6))) (fun _ _ _ => rfl) rfl hb rfl
  case mul =>
    exact stepPoly_effect (fun x => ppMul (x.poly (d.setWidth 3).toNat) f (x.rm m) (x.rv a) (x.rv b)) (fun _ _ _ => rfl)
      (fun x => (activeLanes f (x.rm m)).length + 4) (fun _ _ _ => rfl) (by omega) rfl hb
  case div =>
    exact stepPoly_effect (fun x => ppDiv (x.poly (d.setWidth 3).toNat) f (x.rm m) (x.rv a) (x.rv b)) (fun _ _ _ => rfl)
      (fun _ => 5) (fun _ _ _ => rfl) (by decide) rfl hb

end Sys2Proof.Machine
end

section
/-!
The steps of the launch units and of the save units (R306, R310 to R313, R328, R329, R335). Settles O53; the code of a STOP
that names no launch is log entry 39, what a packet waits for log entry 40, the order of the causes log entry 45, and that a
RESTORE takes its energy word at its commit and reads its image when it completes log entry 47.
-/

namespace Sys2Proof.Machine

/-! ### The packet that a launch unit looks at (R306) -/

section
variable {s : State} {q part i : Nat} {w : BitVec 512}

/-- Packet `i` of a launch queue taken: it waits no longer for what a reset took. -/
def State.takeSlot (s : State) (q i : Nat) : State :=
  s.setQueue q { s.queue q with taken := (s.queue q).taken ++ [i], again := (s.queue q).again.filter (fun j => j ≠ i) }

/-- The next packet of the launch queue of a region, in acceptance order, as its slot holds it. -/
theorem State.launchTake_of_next {r : Nat} (hl : s.launchQueue r = some q) (hp : s.partOf (q / 8) = some part)
    (hen : (s.queue q).en = true) (hsw : (s.queue q).swap = false) (hc : (s.queue q).copying = false)
    (hi : (s.queue q).held.find? (fun i => !(s.queue q).taken.contains i && !(s.queue q).retired.contains i) = some i) :
    s.launchTake r = s.takePacket part q i (BitVec.ofNat 512 (Memory.num s.mem ((s.queue q).slotKey q i) 64)) := by
  unfold State.launchTake
  simp only [hl, hp, hi, hen, hsw, hc, Bool.not_true, Bool.or_self, Bool.false_eq_true, if_false]

/-! ### LAUNCH and STOP packets (R310, R311, R313) -/

variable (ha : (s.queue q).again.contains i = false)
include ha

/-- A LAUNCH that the codes of its image and its region apply to is refused at once, clocks or not. -/
theorem State.takePacket_refused {code : Nat} (hw : w.getLsbD 92 = false) (hr : s.refusalCode part w = code)
    (hcode : code = 1 ∨ code = 2 ∨ code = 3) :
    s.takePacket part q i w = (s.takeSlot q i).refusePacket part q i w code := by
  unfold State.takePacket
  simp only [ha, hw, hr, hcode, Bool.false_eq_true, false_and, if_false, if_true]
  rfl

/-- A LAUNCH that no code applies to starts, in a region whose clocks run, on contexts that no launch owns. -/
theorem State.takePacket_starts {m : Image} {box : List (Nat × Nat)} (hw : w.getLsbD 92 = false)
    (hr : s.refusalCode part w = 0) (hg : (s.region (pfield w 80 5)).gated = false) (hm : s.imageOf part w = some m)
    (hb : packetBox w = some box) (ho : ∀ c ∈ launchCores w (boxCount box), (s.ctx c (packetRes w)).owned = false) :
    s.takePacket part q i w = (s.takeSlot q i).startLaunch part q i w m box := by
  have hfree : (launchCores w (boxCount box)).any (fun c => (s.ctx c (packetRes w)).owned) = false := by
    simpa only [List.any_eq_false, Bool.not_eq_true] using ho
  have hcode : ¬ ((0 : Nat) = 1 ∨ (0 : Nat) = 2 ∨ (0 : Nat) = 3) := by decide
  unfold State.takePacket
  simp only [ha, hw, hr, hg, hm, hb, hfree, hcode, ne_eq, not_true, Bool.false_eq_true, false_and, if_false]
  rfl

/-- A STOP that names no launch is refused with code 1. -/
theorem State.takePacket_stop_unnamed (hw : w.getLsbD 92 = true) (ht : s.stopTarget part w = none) :
    s.takePacket part q i w = (s.takeSlot q i).refusePacket part q i w 1 := by
  unfold State.takePacket
  simp only [ha, hw, ht, Bool.false_eq_true, false_and, if_false, if_true]
  rfl

/-- A STOP that names a launch is refused with the code that applies to it. -/
theorem State.takePacket_stop_refused {t : Launch} {code : Nat} (hw : w.getLsbD 92 = true)
    (ht : s.stopTarget part w = some t) (hr : s.refusalCode part w = code) (hcode : code ≠ 0) :
    s.takePacket part q i w = (s.takeSlot q i).refusePacket part q i w code := by
  unfold State.takePacket
  simp only [ha, hw, ht, hr, if_pos hcode, Bool.false_eq_true, false_and, if_false, if_true]
  rfl

/-- Any other STOP marks the launch that it names, which retires its slot when it ends. -/
theorem State.takePacket_stop_marks {t : Launch} (hw : w.getLsbD 92 = true) (ht : s.stopTarget part w = some t)
    (hr : s.refusalCode part w = 0) :
    s.takePacket part q i w = { s.takeSlot q i with launches := s.launches.map (fun l =>
      if l.lid == t.lid then { l with stop := true, stopSlots := l.stopSlots ++ [(q, i)] } else l) } := by
  unfold State.takePacket
  simp only [ha, hw, ht, hr, ne_eq, not_true, Bool.false_eq_true, false_and, if_false, if_true]
  rfl

end

/-! ### The end of a launch (R312) -/

/-- A launch whose completion pennant has performed retires. -/
theorem State.launchComplete_of_performed {s : State} {lid : Word} {l : Launch} {ids : List Nat}
    (hl : s.launches.find? (fun l => l.lid == lid) = some l) (he : l.ending = some ids)
    (hp : ∀ n ∈ ids, ∀ m ∈ s.fabric, m.id = n → m.performed = true) : s.launchComplete lid = s.retireLaunch l := by
  have hdone : ids.any (fun n => s.fabric.any (fun m => m.id = n && !m.performed)) = false := by
    simpa [List.any_eq_false] using hp
  unfold State.launchComplete
  simp only [hl, he, hdone, Bool.false_eq_true, if_false]

/-! ### Requests to the save unit of a core (R328, R329, R335) -/

/-- A save unit with no request in hand. -/
def Core.preFree (k : Core) : Prop := k.preSt ≠ .pending ∧ k.preSt ≠ .saving ∧ k.preSt ≠ .restoring

section
variable {s : State} {c : Nat} {w : Word}

theorem Core.not_busy_of_preFree {k : Core} (h : k.preFree) :
    ¬ (k.preSt = .pending ∨ k.preSt = .saving ∨ k.preSt = .restoring) := by
  obtain ⟨hp, hs, hr⟩ := h
  simp only [hp, hs, hr, or_self, not_false_eq_true]

/-- A request that a cause applies to is refused with it. -/
theorem State.preRequest_refused {cause : BitVec 8} (hk : (s.core c).preFree) (hw : w.toNat % 8 ≠ 0)
    (hr : s.preRefusal c w = some cause) :
    s.preRequest c w = s.modCore c (fun k => { k with preSt := .refused, preCause := cause }) := by
  unfold State.preRequest
  simp only [if_neg (Core.not_busy_of_preFree hk), hr, hw, if_false]

/-- Any other SAVE is pending until its context no longer issues. -/
theorem State.preRequest_save (hk : (s.core c).preFree) (hw : w.toNat % 8 = 1) (hr : s.preRefusal c w = none) :
    s.preRequest c w = s.modCore c (fun k => { k with
      preSt := .pending, preCause := 0, preArea := w &&& 0xFFFFFFFFFFFFF000, preRes := w.extractLsb' 3 1 }) := by
  unfold State.preRequest
  simp only [if_neg (Core.not_busy_of_preFree hk), hr, hw, Nat.one_ne_zero, if_false, if_true]

/-- Any other RESTORE keeps the image as it stands, and takes its energy word at once. -/
theorem State.preRequest_restore (hk : (s.core c).preFree) (hw : w.toNat % 8 = 2) (hr : s.preRefusal c w = none) :
    s.preRequest c w =
      let area := w &&& 0xFFFFFFFFFFFFF000
      let old := s.areaNow c (w.extractLsb' 3 1) area
      (s.modCore c (fun k => { k with
        preSt := .restoring, preCause := 0, preArea := area, preRes := w.extractLsb' 3 1, preOld := sparse old })).modCtx c
        (w.extractLsb' 3 1)
        (fun x => { x.setEnergy (BitVec.ofNat 64 (leNat ((old.drop 0x560).take 8))) with saved := false }) := by
  unfold State.preRequest
  simp only [if_neg (Core.not_busy_of_preFree hk), hr, hw, OfNat.ofNat_ne_zero, OfNat.ofNat_ne_one, if_false]

/-! ### The end of a request -/

/-- A save whose energy word has performed is complete. -/
theorem State.saveComplete_of_written (hs : (s.core c).preSt = .saving) (hp : (s.core c).prePhase = 6)
    (he : (s.core c).preEnergy.any (s.outstanding c) = false) :
    s.saveComplete c = (s.modCore c (fun k => { k with preSt := .saved, preEnergy := none })).modCtx c (s.core c).preRes
      (fun x => { x with savedOk := true }) := by
  unfold State.saveComplete
  simp only [hs, hp, he, ne_eq, not_true, Bool.false_eq_true, or_self, if_false]

/-- A restore refused with a cause; its context stays saved. -/
def State.refuseRestore (s : State) (c : Nat) (res : BitVec 1) (cause : BitVec 8) : State :=
  (s.modCore c (fun k => { k with preSt := .refused, preCause := cause, preOld := [] })).modCtx c res
    (fun x => { x with saved := true })

/-- The state behind the read of an image, which took a free value for each of its words (log entry 47). -/
def State.imageRead (s : State) : State := { s with free := s.free + areaBytes / 8 }

variable {h : Nat} (hs : (s.core c).preSt = .restoring) (hh : h = imgNum (s.readImage c) 0 256)
include hs hh

/-- The image of another core is refused. -/
theorem State.restoreComplete_other_core (hc : h / 2 ^ 432 % 65536 ≠ c) :
    s.restoreComplete c = s.imageRead.refuseRestore c (s.core c).preRes 6 := by
  unfold State.restoreComplete
  simp only [hs, ← hh, ne_eq, not_true, if_false, if_pos hc]
  rfl

/-- An image with an invalid header is refused. -/
theorem State.restoreComplete_invalid (hc : h / 2 ^ 432 % 65536 = c) (hk : headerOk h = false) :
    s.restoreComplete c = s.imageRead.refuseRestore c (s.core c).preRes 7 := by
  unfold State.restoreComplete
  simp only [hs, ← hh, hk, ne_eq, not_true, Bool.not_false, if_false, if_true, if_neg (not_not_intro hc)]
  rfl

/-- Any other image is taken. -/
theorem State.restoreComplete_taken (hc : h / 2 ^ 432 % 65536 = c) (hk : headerOk h = true) :
    s.restoreComplete c =
      ((s.imageRead.takeImage c (s.core c).preRes (s.readImage c)).modCore c
        (fun k => { k with preSt := .resumed, preOld := [] })).modCtx c (s.core c).preRes
        (fun x => { x with saved := false, savedOk := false }) := by
  unfold State.restoreComplete
  simp only [hs, ← hh, hk, ne_eq, not_true, Bool.not_true, Bool.false_eq_true, if_false, if_neg (not_not_intro hc)]
  rfl

end

/-! ### What the constructors of these steps mean -/

section
variable (s : State)

theorem exec_launchPacketTake (r : BitVec 5) : exec (.launchPacketTake r) s = .next (s.launchTake r.toNat) := rfl

theorem exec_launchCompletion (lid : Word) : exec (.launchCompletion lid) s = .next (s.launchComplete lid) := rfl

theorem exec_preemptSave (core : BitVec 10) {w : Word} (hw : w.toNat % 8 = 1) :
    exec (.preemptSave core w) s = .next (s.preRequest core.toNat w) := congrArg Host.Outcome.next (if_pos hw)

theorem exec_preemptRestore (core : BitVec 10) {w : Word} (hw : w.toNat % 8 = 2) :
    exec (.preemptRestore core w) s = .next (s.preRequest core.toNat w) := congrArg Host.Outcome.next (if_pos hw)

theorem exec_saveComplete (core : BitVec 10) : exec (.saveComplete core) s = .next (s.saveComplete core.toNat) := rfl

theorem exec_restoreComplete (core : BitVec 10) : exec (.restoreComplete core) s = .next (s.restoreComplete core.toNat) := rfl

/-- A request of its action, which a cause applies to, is refused with it. -/
theorem exec_preempt_refused {core : BitVec 10} {w : Word} {cause : BitVec 8} (hk : (s.core core.toNat).preFree)
    (hr : s.preRefusal core.toNat w = some cause) {p : Instr × Nat}
    (hp : p ∈ [(Instr.preemptSave core w, 1), (.preemptRestore core w, 2)]) (hw : w.toNat % 8 = p.2) :
    exec p.1 s = .next (s.modCore core.toNat (fun k => { k with preSt := .refused, preCause := cause })) := by
  simp only [List.mem_cons, List.not_mem_nil, or_false] at hp
  obtain rfl | rfl := hp
  · rw [exec_preemptSave s core hw, State.preRequest_refused hk (hw.trans_ne Nat.one_ne_zero) hr]
  · rw [exec_preemptRestore s core hw, State.preRequest_refused hk (hw.trans_ne (Nat.succ_ne_zero 1)) hr]

end

/-- Settles O53: each step by the packet or the request that it finds; what a unit waits for is outside its premises. -/
theorem launchSteps : Obligations.LaunchSteps := by
  intro s r core c q part i e w k hc hk he
  subst hk he hc
  refine ⟨fun u hl hp hen hsw hcopy hi ha hw hu => ?take, fun lid l ids hl hend hperf => ?completion,
    fun word hpend hsav hrest => ?request, fun hs hph hen => ?saved, fun img h u hs himg hh hu => ?restored⟩
  case take =>
    have hx : exec (.launchPacketTake r) s = .next (s.takePacket part q i w) := by
      rw [exec_launchPacketTake, State.launchTake_of_next hl hp hen hsw hcopy hi, ← hw]
    have hu : u = s.takeSlot q i := hu
    subst hu
    rw [hx]
    refine ⟨fun code hlaunch hr hcode => ?_, fun m box hlaunch hr hg hm hb ho => ?_, fun hstop ht => ?_,
      fun t hstop ht => ⟨fun code hr hcode => ?_, fun hr => ?_⟩⟩
    · rw [State.takePacket_refused ha hlaunch hr hcode]
    · rw [State.takePacket_starts ha hlaunch hr hg hm hb ho]
    · rw [State.takePacket_stop_unnamed ha hstop ht]
    · rw [State.takePacket_stop_refused ha hstop ht hr hcode]
    · rw [State.takePacket_stop_marks ha hstop ht hr]
  case completion => rw [exec_launchCompletion, State.launchComplete_of_performed hl hend hperf]
  case request =>
    have hfree : (s.core core.toNat).preFree := ⟨hpend, hsav, hrest⟩
    refine ⟨fun cause p hp hw hr => exec_preempt_refused s hfree hr hp hw, fun hw hr => ?_, fun old hw hr hold => ?_⟩
    · rw [exec_preemptSave s core hw, State.preRequest_save hfree hw hr]
    · subst hold
      rw [exec_preemptRestore s core hw, State.preRequest_restore hfree hw hr]
  case saved => rw [exec_saveComplete, State.saveComplete_of_written hs hph hen]
  case restored =>
    rw [himg] at hh ⊢
    rw [hu]
    refine ⟨fun cause hcause => ?_, fun hcore hok => ?_⟩
    · obtain ⟨hcore, rfl⟩ | ⟨hcore, hbad, rfl⟩ := hcause
      · rw [exec_restoreComplete, State.restoreComplete_other_core hs hh hcore]
        rfl
      · rw [exec_restoreComplete, State.restoreComplete_invalid hs hh hcore hbad]
        rfl
    · rw [exec_restoreComplete, State.restoreComplete_taken hs hh hcore hok]
      rfl

end Sys2Proof.Machine
end

section
/-!
Bring-up, reset, the host's writes and the failures of the package (R318, R368, R398 to R401, R406 to R408). Settles O55; that
CXL memory survives PERST# and a loss of power is log entry 63, what the CRC covers and the cause of short firmware log entry 51,
the signs that LOCKING writes log entry 53, and that a failed port changes the mask alone log entry 18.
-/

namespace Sys2Proof.Machine

/-! ### Firmware and bring-up (R406, R407) -/

section
variable {s : State}

/-- A firmware image of `n` bytes is valid: its size is in range, and its last four bytes are the CRC of the others. -/
def State.firmwareOk (s : State) (n : Nat) : Prop :=
  4 ≤ n ∧ n ≤ 16777216 ∧ crc32 ((s.firmware n).take (n - 4)) = rd (s.firmware n) (n - 4) 4

theorem State.not_firmwareOk_iff {n : Nat} :
    ¬ s.firmwareOk n ↔ n < 4 ∨ 16777216 < n ∨ crc32 ((s.firmware n).take (n - 4)) ≠ rd (s.firmware n) (n - 4) 4 := by
  simp only [State.firmwareOk, not_and_or, Nat.not_le, ne_eq]

/-- START in FIRMWARE checks the staged image. -/
theorem State.firmwareStart_valid {w : Word} {n : Nat} (hb : s.boot = .firmware) (hw : w.getLsbD 32 = true)
    (hn : n = w.toNat % 4294967296) (hok : s.firmwareOk n) :
    s.firmwareStart w = { s with fwLen := w.extractLsb' 0 32, boot := .training } := by
  have hbad := mt State.not_firmwareOk_iff.mpr (not_not_intro hok)
  rw [← BitVec.setWidth_eq_extractLsb' (show 32 ≤ 64 by decide)]
  unfold State.firmwareStart
  simp only [hb, hw, ← hn, if_neg hbad, ne_eq, not_true, Bool.not_true, Bool.false_eq_true, or_self, if_false]

theorem State.firmwareStart_invalid {w : Word} {n : Nat} (hb : s.boot = .firmware) (hw : w.getLsbD 32 = true)
    (hn : n = w.toNat % 4294967296) (hbad : ¬ s.firmwareOk n) :
    s.firmwareStart w = ({ s with fwLen := w.extractLsb' 0 32 }).bootFail 1 := by
  rw [← BitVec.setWidth_eq_extractLsb' (show 32 ≤ 64 by decide)]
  unfold State.firmwareStart
  simp only [hb, hw, ← hn, if_pos (State.not_firmwareOk_iff.mp hbad), ne_eq, not_true, Bool.not_true, Bool.false_eq_true,
    or_self, if_false]

/-- The end of TRAINING, by whether every HBM stack trained. -/
theorem State.trainingDone_eq (hb : s.boot = .training) (m : BitVec 12) (cs : List (BitVec 43)) :
    s.trainingDone m cs = if m = BitVec.allOnes 12 then
      { s with boot := .tags, cxlCap := (List.range 4).map (fun p => (p, installed (cs.getD p 0))) } else s.bootFail 2 := by
  unfold State.trainingDone
  rw [if_neg (not_not_intro hb), ite_not]

theorem State.tagsDone_of_tags (hb : s.boot = .tags) :
    s.tagsDone = { s with
      boot := .selftest, gtags := [], wipe := .vaults, ecc := s.ecc.filter (fun e => Wipe.vaults.keeps e.1) } :=
  if_neg (not_not_intro hb)

theorem State.selftestDone_eq (hb : s.boot = .selftest) (pass : Bool) :
    s.selftestDone pass = if pass then { s with boot := .locking } else s.bootFail 3 :=
  if_neg (not_not_intro hb)

/-- The state that LOCKING leaves to READY: `$wall` starts, the signs are in the constant store, the queues are back. -/
def State.locked (s : State) : State := ({ s with wall := 0 } : State).writeSigns.restoreQueues

theorem State.lockingDone_eq (hb : s.boot = .locking) (pass : Bool) :
    s.lockingDone pass = if pass then
      ({ s.locked with boot := .ready }).hostPost s.locked.readyAddr (0x0100000000000000 + s.locked.devId.setWidth 64)
    else s.bootFail 4 := by
  unfold State.lockingDone State.locked
  rw [if_neg (not_not_intro hb)]
  cases pass with
  | false => exact if_pos rfl
  | true => exact if_neg Bool.false_ne_true

/-- Without a place for its pennant, a failed bring-up changes the state and the cause alone. -/
theorem State.bootFail_of_no_pennant (h : s.readyAddr = 0) (cause : BitVec 8) :
    s.bootFail cause = { s with boot := .failed, bootCause := cause } :=
  if_pos h

/-! ### The host's writes (R398, R399) -/

theorem State.bar4Write_of_memory {off pa : Nat} (h : s.bar4Pa off = some pa) (bs : List Byte) :
    s.bar4Write off bs = if bs = [] then s else s.put (paKey pa) bs := by
  unfold State.bar4Write
  rw [h]

/-- A write to the device block goes by its register. -/
theorem State.bar0Write_device {off : Nat} (ha : off % 8 = 0) (hd : off < 0x1000) (v : Word) :
    s.bar0Write off v = s.deviceWrite off v :=
  (if_neg (not_not_intro ha)).trans (if_pos hd)

/-- The identity of the device is fixed in READY. -/
theorem State.deviceWrite_devId (hb : s.boot ≠ .ready) (v : Word) :
    s.deviceWrite 0x020 v = { s with devId := v.extractLsb' 0 19 } := by
  rw [← BitVec.setWidth_eq_extractLsb' (show 19 ≤ 64 by decide)]
  exact if_neg hb

theorem State.deviceWrite_wbase (v : Word) : s.deviceWrite 0x030 v = { s with wbase := v.extractLsb' 0 31 } := by
  rw [← BitVec.setWidth_eq_extractLsb' (show 31 ≤ 64 by decide)]
  rfl

/-! ### Failures and scrubbing (R318, R368, R401) -/

theorem State.gxlFailure_of_port {p : BitVec 6} (h : p.toNat < 36) :
    s.gxlFailure p = { s with gxlDown := s.gxlDown ||| BitVec.ofNat 36 (2 ^ p.toNat) } := if_pos h

theorem State.stackFailure_of_stack {k : BitVec 4} (h : k.toNat < 12) :
    s.stackFailure k = { s with failedStacks := s.failedStacks ||| BitVec.ofNat 12 (2 ^ k.toNat) } := if_pos h

section
variable {c n key : Nat} (hkey : key = vaultKey c (8 * n))
include hkey

/-- A single-bit error is mended when no other write of the cycle touches its granule. -/
theorem State.scrub_mends (he : s.ecc.find? (fun e => e.1 = key) = some (key, false))
    (hw : ∀ w ∈ s.wlog, overlap w.key w.bytes.length (key / 64 * 64) 64 = 0) :
    s.scrub c n = { s with ecc := s.ecc.filter (fun e => e.1 ≠ key) } := by
  have hfree : s.wlog.any (fun w => decide (0 < overlap w.key w.bytes.length (key / 64 * 64) 64)) = false := by
    rw [List.any_eq_false]
    intro w hm
    rw [hw w hm]
    decide
  subst hkey
  unfold State.scrub
  simp only [he, hfree, Bool.false_eq_true, if_false]

/-- A double-bit error is counted in the partition of its core. -/
theorem State.scrub_counts {p : Nat} (he : s.ecc.find? (fun e => e.1 = key) = some (key, true))
    (hp : s.partOf c = some p) : s.scrub c n = s.modPartition p (fun q => { q with scrubErr := q.scrubErr + 1 }) := by
  subst hkey
  unfold State.scrub
  simp only [he, hp]

end

end

/-! ### What the constructors of these events mean -/

section
variable (s : State)

theorem exec_perst_assert : exec (.perst true) s = .next (s.lost .package) := rfl

theorem exec_perst_release (hb : s.boot = .reset) : exec (.perst false) s = .next { s with boot := .firmware } :=
  congrArg Host.Outcome.next (if_pos hb)

theorem exec_powerLoss : exec .powerLoss s = .next (s.lost .supplies) := rfl

theorem exec_firmwareStart (w : Word) : exec (.firmwareStart w) s = .next (s.firmwareStart w) := rfl

theorem exec_trainingDone (m : BitVec 12) (cs : List (BitVec 43)) :
    exec (.trainingDone m cs) s = .next (s.trainingDone m cs) := rfl

theorem exec_tagsDone : exec .tagsDone s = .next s.tagsDone := rfl

theorem exec_selftestDone (pass : Bool) : exec (.selftestDone pass) s = .next (s.selftestDone pass) := rfl

theorem exec_lockingDone (pass : Bool) : exec (.lockingDone pass) s = .next (s.lockingDone pass) := rfl

theorem exec_bar4Access (off : BitVec 40) (bs : List Byte) : exec (.bar4Access off bs) s = .next (s.bar4Write off.toNat bs) :=
  rfl

/-- A write to BAR0 that is not aligned changes nothing. -/
theorem exec_registerWrite_unaligned {off : BitVec 26} (h : off.toNat % 8 ≠ 0) (v : Word) :
    exec (.registerWrite off v) s = .next s := congrArg Host.Outcome.next (if_pos h)

theorem exec_registerWrite_device {off : BitVec 26} (ha : off.toNat % 8 = 0) (hd : off.toNat < 0x1000) (v : Word) :
    exec (.registerWrite off v) s = .next (s.deviceWrite off.toNat v) :=
  congrArg Host.Outcome.next (State.bar0Write_device ha hd v)

theorem exec_cxlExpanderLoss (p : BitVec 2) (lo : BitVec 42) (hi : BitVec 43) :
    exec (.cxlExpanderLoss p lo hi) s = .next (s.cxlLoss p lo hi) := rfl

theorem exec_gxlPortFailure (p : BitVec 6) : exec (.gxlPortFailure p) s = .next (s.gxlFailure p) := rfl

theorem exec_hbmStackFailure (k : BitVec 4) : exec (.hbmStackFailure k) s = .next (s.stackFailure k) := rfl

theorem exec_scrubRead (c : BitVec 10) (n : BitVec 19) : exec (.scrubRead c n) s = .next (s.scrub c.toNat n.toNat) := rfl

/-- PERST# and a loss of power lose every state but the memory, which they lose at the end of the step, and the inputs. -/
theorem exec_loses {i : Instr} {wp : Wipe} (h : i = .perst true ∧ wp = .package ∨ i = .powerLoss ∧ wp = .supplies) :
    exec i s = .next (s.lost wp) := by
  obtain ⟨rfl, rfl⟩ | ⟨rfl, rfl⟩ := h
  · exact exec_perst_assert s
  · exact exec_powerLoss s

end

/-- Settles O55: each step of bring-up by its state and its result, each write and failure by what it changes. -/
theorem bringUp : Obligations.BringUp := by
  intro s
  refine ⟨fun i wp h => ⟨s.lost wp, exec_loses s h, rfl, rfl, rfl, rfl, rfl, rfl, rfl, rfl⟩, exec_perst_release s,
    fun w img n hb hw hn himg => ⟨fun hlo hhi hcrc => ?_, fun hbad => ?_⟩, fun m cs hb => ⟨fun hm => ?_, fun hm => ?_⟩,
    fun hb => ?_, fun hb => ⟨?_, ?_⟩, fun hb => ⟨?_, ?_⟩, fun cause h => State.bootFail_of_no_pennant h cause,
    fun off bs pa h => ?_, fun v => ⟨?_, fun hb => ?_, ?_, ?_, fun off h => exec_registerWrite_unaligned s h v⟩,
    exec_cxlExpanderLoss s, fun p hp => ?_, fun k hk => ?_, fun c n key p hkey => ⟨fun he hw => ?_, fun he hp => ?_⟩⟩
  · subst himg
    rw [exec_firmwareStart, State.firmwareStart_valid hb hw hn ⟨hlo, hhi, hcrc⟩]
  · subst himg
    rw [exec_firmwareStart, State.firmwareStart_invalid hb hw hn (State.not_firmwareOk_iff.mpr hbad)]
  · rw [exec_trainingDone, State.trainingDone_eq hb, if_pos hm]
  · rw [exec_trainingDone, State.trainingDone_eq hb, if_neg hm]
  · rw [exec_tagsDone, State.tagsDone_of_tags hb]
  · rw [exec_selftestDone, State.selftestDone_eq hb, if_pos rfl]
  · rw [exec_selftestDone, State.selftestDone_eq hb, if_neg Bool.false_ne_true]
  · rw [exec_lockingDone, State.lockingDone_eq hb, if_pos rfl, State.locked]
  · rw [exec_lockingDone, State.lockingDone_eq hb, if_neg Bool.false_ne_true]
  · rw [exec_bar4Access, State.bar4Write_of_memory h]
  · exact exec_registerWrite_device s (by decide) (by decide) v
  · exact (exec_registerWrite_device s (by decide) (by decide) v).trans
      (congrArg Host.Outcome.next (State.deviceWrite_devId hb v))
  · exact (exec_registerWrite_device s (by decide) (by decide) v).trans (congrArg Host.Outcome.next (State.deviceWrite_wbase v))
  · exact exec_registerWrite_device s (by decide) (by decide) v
  · rw [exec_gxlPortFailure, State.gxlFailure_of_port hp]
  · rw [exec_hbmStackFailure, State.stackFailure_of_stack hk]
  · rw [exec_scrubRead, State.scrub_mends hkey he hw]
  · rw [exec_scrubRead, State.scrub_counts hkey he hp]

end Sys2Proof.Machine
end

section
/-!
Taking a trap (R355 to R357, R159), and the second trap that halts a context (R359). Settles O13 and O15.
-/

namespace Sys2Proof.Machine

/-! ### What a step within one context leaves -/

/-- A step within the context of one residency: every other context stands as before, and so does what tells a core its
region and its partition. -/
structure State.Within (c : Nat) (res : BitVec 1) (s t : State) : Prop where
  ctxs : ∀ d r, ¬(d = c ∧ r = res) → t.ctx d r = s.ctx d r
  clusters : t.clusters = s.clusters
  partitions : t.partitions = s.partitions

namespace State.Within

variable {c : Nat} {res : BitVec 1} {s t u : State}

theorem refl (s : State) : Within c res s s := ⟨fun _ _ _ => rfl, rfl, rfl⟩

theorem trans (h : Within c res s t) (k : Within c res t u) : Within c res s u :=
  ⟨fun d r hd => (k.ctxs d r hd).trans (h.ctxs d r hd), k.clusters.trans h.clusters, k.partitions.trans h.partitions⟩

theorem setCtx (s : State) (x : Ctx) : Within c res s (s.setCtx c res x) where
  ctxs d r h := by
    by_cases hd : d = c
    · subst hd
      exact State.ctx_setCtx_res _ _ _ (fun hr => h ⟨rfl, hr⟩)
    · exact State.ctx_setCtx_core _ _ _ _ hd
  clusters := rfl
  partitions := rfl

theorem modCtx (s : State) (f : Ctx → Ctx) : Within c res s (s.modCtx c res f) := setCtx s _

/-- The partition of every core stands as before. -/
theorem partOf (h : Within c res s t) (d : Nat) : t.partOf d = s.partOf d := by
  unfold State.partOf State.partOfRegion State.findPart State.regionOf State.regionOfCluster
  rw [h.clusters, h.partitions]

theorem partition (h : Within c res s t) (p : Nat) : t.partition p = s.partition p := by
  unfold State.partition; rw [h.partitions]

end State.Within

/-! ### What a record leaves (R361, R362) -/

theorem State.within_send (s : State) (c : Nat) (res : BitVec 1) (m : Msg) : Within c res s (s.send m) := by
  rw [State.send_eq]
  exact ⟨fun _ _ _ => rfl, rfl, rfl⟩

theorem State.within_storeRecord {s t : State} {c : Nat} {res : BitVec 1} {n : Nat} {b : BitVec 512}
    (h : s.storeRecord c res n b = some t) : Within c res s t := by
  unfold State.storeRecord at h
  simp only at h
  split at h
  · cases h
  · cases h; exact State.within_send ..

theorem State.Within.getD {c : Nat} {res : BitVec 1} {s u : State} {o : Option State} (hu : Within c res s u)
    (h : ∀ t, o = some t → Within c res u t) : Within c res s (o.getD u) := by
  cases o with
  | none => exact hu
  | some t => exact hu.trans (h t rfl)

/-- A record stays within its context. -/
theorem State.within_record (s : State) (c : Nat) (res : BitVec 1) (f : FaultRec) (key : Nat) :
    Within c res s (s.record c res f key) := by
  unfold State.record
  dsimp only
  split
  · exact (Within.modCtx s _).getD (fun t h => State.within_storeRecord h)
  · refine iteInduction (fun _ => .modCtx ..) (fun _ => ?_)
    split
    · exact .modCtx ..
    · next t h => exact (State.within_storeRecord h).trans (.modCtx ..)

/-- The record of a trap written, when it has one. -/
noncomputable def State.recorded (s : State) (c : Nat) (res : BitVec 1) (q : Trap) : State :=
  match q.record with
  | some f => s.record c res f 0
  | none => s

theorem State.within_recorded (s : State) (c : Nat) (res : BitVec 1) (q : Trap) : Within c res s (s.recorded c res q) := by
  unfold State.recorded
  split
  · exact State.within_record ..
  · exact .refl s

theorem State.noted_recorded (s : State) (c : Nat) (res : BitVec 1) (q : Trap) : s.noted (s.recorded c res q) := by
  unfold State.recorded
  split
  · exact State.noted_record ..
  · exact State.noted_refl s

theorem State.noted_event (s : State) (c : Nat) (res : BitVec 1) (code : Nat) : s.noted (s.event c res code) :=
  State.noted_modCtx s c res fun x => by split <;> rfl

/-! ### The latency shadow (R159) -/

/-- A context whose writes due after cycle `t` have left for the shadow, with their distance. -/
noncomputable def Ctx.shadowed (x : Ctx) (t : Nat) : Ctx :=
  { x with
    writes := x.writes.filter (fun w => w.due ≤ t)
    shadow := x.shadow ++ (x.writes.filter (fun w => t < w.due)).map (fun w =>
      { w with due := w.due - t, issued := t - w.issued }) }

/-- A change of what a core has in flight changes no context. -/
theorem State.ctx_modTimed (s : State) (c : Nat) (f : Core → List Timed) (d : Nat) (r : BitVec 1) :
    (s.modCore c (fun k => { k with timed := f k })).ctx d r = s.ctx d r := by
  unfold State.ctx
  by_cases hd : d = c
  · subst hd; rw [State.core_modCore_self]; rfl
  · unfold State.modCore; rw [State.core_setCore_other _ _ hd]

theorem State.ctx_shadow (s : State) (c : Nat) (res : BitVec 1) (t : Nat) :
    (s.shadow c res t).ctx c res = (s.ctx c res).shadowed t := by
  unfold State.shadow
  rw [State.ctx_modTimed, State.ctx_modCtx_self]
  rfl

theorem State.within_shadow (s : State) (c : Nat) (res : BitVec 1) (t : Nat) : Within c res s (s.shadow c res t) := by
  unfold State.shadow
  exact (Within.modCtx s _).trans ⟨fun d r _ => State.ctx_modTimed .., rfl, rfl⟩

/-! ### The entry of a handler (R356, R357) -/

/-- A context in which a trap of cycle `t` has begun its handler (R355 to R357). -/
noncomputable def Ctx.handling (x : Ctx) (t : Nat) (q : Trap) : Ctx :=
  { x with
    tcause := b1 q.async ++ (1 : BitVec 1) ++ x.lvl ++ q.cause ++ q.code
    tret := q.ret
    targ := q.arg
    lvl := if x.lvl = 0 then 1 else x.lvl
    pc := x.tvec
    gate := t + 2
    stall := none
    idle := none }

/-- A context behind the entry of its handler in cycle `t`, its later writes in the shadow. -/
noncomputable def Ctx.entered (x : Ctx) (t : Nat) (q : Trap) : Ctx := (x.shadowed t).handling t q

theorem Ctx.act_entered (x : Ctx) (t : Nat) (q : Trap) : (x.entered t q).act = true := by
  change (b1 q.async ++ (1 : BitVec 1) ++ x.lvl ++ q.cause ++ q.code).getLsbD 18 = true
  simp only [BitVec.getLsbD_append]
  rfl

/-- The entry of a handler, before its address is checked: the record, event 0x16, and the context entered. -/
noncomputable def State.enterTrap (s : State) (c : Nat) (res : BitVec 1) (t : Nat) (q : Trap) : State :=
  (((s.recorded c res q).event c res 0x16).shadow c res t).modCtx c res (fun x => x.handling t q)

section
variable (s : State) (c : Nat) (res : BitVec 1) (t : Nat) (q : Trap)

theorem State.within_enterTrap : Within c res s (s.enterTrap c res t q) := by
  unfold State.enterTrap
  exact (((s.within_recorded c res q).trans (Within.modCtx _ _)).trans (State.within_shadow ..)).trans (Within.modCtx _ _)

/-- The context behind the entry is the one before it, but for its records and events, entered. -/
theorem State.ctx_enterTrap : ∃ y, (s.ctx c res).noted y ∧ (s.enterTrap c res t q).ctx c res = y.entered t q := by
  refine ⟨((s.recorded c res q).event c res 0x16).ctx c res,
    (State.noted_trans (s.noted_recorded c res q) (State.noted_event ..)).ctxs c res, ?_⟩
  unfold State.enterTrap
  rw [State.ctx_modCtx_self, State.ctx_shadow]
  rfl

variable {s c res t q}

/-- A trap that is no double trap is its entry, checked for a handler that can start a bundle. -/
theorem State.takeTrap_of_entry (h : ((s.ctx c res).act && !q.async) = false) :
    s.takeTrap c res t q = match badTarget (s.ctx c res).tvec with
      | some e => (s.enterTrap c res t q).halt c res (s.ctx c res).tvec (s.ctx c res).tvec e.1 e.2
      | none => s.enterTrap c res t q :=
  if_neg (ne_true_of_eq_false h)

/-- A synchronous trap under a handler halts the context. -/
theorem State.takeTrap_of_double (h : (s.ctx c res).act = true) (ha : q.async = false) :
    s.takeTrap c res t q = s.halt c res ((q.record.map (fun f => f.pc)).getD q.ret)
      ((q.record.map (fun f => f.pc)).getD q.ret) q.code q.cause :=
  if_pos (by rw [h, ha]; rfl)

end

theorem Ctx.noted.entered {x z : Ctx} (h : x.noted z) (t : Nat) (q : Trap) : (x.entered t q).noted (z.entered t q) :=
  congrArg (fun y : Ctx => y.entered t q) h

/-- Settles O13: the context behind the entry field by field, and what stands outside of it. -/
theorem trapEntry : Obligations.TrapEntry := by
  intro s c res t q x y hact htvec
  have he : s.takeTrap c res t q = s.enterTrap c res t q := by
    rw [State.takeTrap_of_entry (by rw [hact]; rfl), htvec]
  obtain ⟨z, hz, hy⟩ := s.ctx_enterTrap c res t q
  have hy : y = z.entered t q := (congrArg (fun u : State => u.ctx c res) he).trans hy
  have hw := s.within_enterTrap c res t q
  rw [← he] at hw
  have hk := hz.entered t q
  rw [hy]
  refine ⟨hk.keeps Ctx.tcause ?_, hk.keeps Ctx.tret ?_, hk.keeps Ctx.targ ?_, hk.keeps Ctx.lvl ?_, hk.keeps Ctx.pc ?_, hk.keeps Ctx.gate ?_,
    hk.keeps Ctx.halted ?_, hk.keeps Ctx.idle ?_, hk.keeps Ctx.stall ?_, hk.keeps Ctx.writes ?_, hk.keeps Ctx.shadow ?_, hk.keeps Ctx.g ?_,
    hk.keeps Ctx.v ?_, hk.keeps Ctx.m ?_, hk.keeps Ctx.acc ?_, hk.keeps Ctx.q ?_, hk.keeps Ctx.flags ?_, hk.keeps Ctx.raised ?_,
    hk.keeps Ctx.mxstat ?_, hk.keeps Ctx.tvec ?_, hk.keeps Ctx.tscr ?_, hk.keeps Ctx.lact ?_, hk.keeps Ctx.lcnt ?_, hk.keeps Ctx.lbeg ?_,
    hk.keeps Ctx.lend ?_, hk.keeps Ctx.running ?_, hk.keeps Ctx.recs ?_, hk.keeps Ctx.rings ?_, hk.keeps Ctx.hoists ?_,
    hk.keeps Ctx.streams ?_, hw.ctxs, Prod.ext_iff.mp (s.stored_takeTrap c res t q)⟩
  all_goals exact fun _ _ => rfl

/-! ### A context that halts (R359) -/

/-- The record of a double trap (R359, log 69). -/
noncomputable def FaultRec.double (pc addr : Word) (code cause : BitVec 8) : FaultRec :=
  { FaultRec.plain 12 0 pc with addr := addr, aux0 := (0 : BitVec 48) ++ cause ++ code }

/-- A context that has halted. -/
noncomputable def Ctx.inHalt (x : Ctx) : Ctx := { x with halted := true, stall := none }

theorem Ctx.noted.inHalt {x z : Ctx} (h : x.noted z) : x.inHalt.noted z.inHalt := congrArg Ctx.inHalt h

/-- A state in which the partition given, if any, counts one more double trap. -/
noncomputable def State.doubled (s : State) : Option Nat → State
  | some p => s.modPartition p (fun q => { q with dblTrap := q.dblTrap + 1 })
  | none => s

theorem State.ctx_doubled (s : State) (o : Option Nat) (c : Nat) (res : BitVec 1) : (s.doubled o).ctx c res = s.ctx c res := by
  cases o <;> rfl

section
variable (s : State) (c : Nat) (res : BitVec 1) (pc addr : Word) (code cause : BitVec 8)

/-- A halt writes its record, counts, and stops the context. -/
theorem State.halt_eq : ∃ u, u = s.record c res (.double pc addr code cause) 0 ∧
    s.halt c res pc addr code cause = (u.doubled (u.partOf c)).modCtx c res Ctx.inHalt :=
  ⟨_, rfl, rfl⟩

/-- The halted context is the one before, but for its records and events. -/
theorem State.ctx_halt : ∃ y, (s.ctx c res).noted y ∧ (s.halt c res pc addr code cause).ctx c res = y.inHalt := by
  obtain ⟨u, hu, hs⟩ := s.halt_eq c res pc addr code cause
  have hn := (s.noted_record c res (.double pc addr code cause) 0).ctxs c res
  rw [← hu] at hn
  exact ⟨_, hn, by rw [hs, State.ctx_modCtx_self, State.ctx_doubled]⟩

/-- A halt counts one more double trap of the partition of the core. -/
theorem State.dblTrap_halt {p : Nat} (h : s.partOf c = some p) :
    ((s.halt c res pc addr code cause).partition p).dblTrap = (s.partition p).dblTrap + 1 := by
  obtain ⟨u, hu, hs⟩ := s.halt_eq c res pc addr code cause
  have hw := s.within_record c res (.double pc addr code cause) 0
  rw [← hu] at hw
  rw [hs, hw.partOf, h]
  change (Table.get Partition.fresh (Table.set _ p _) p).dblTrap = _
  rw [Table.get_set_self, hw.partition]

end

/-- A core whose holder is halted issues nothing. -/
theorem State.mayIssue_of_halted {s : State} {c : Nat} (h : ((s.core c).ctx (s.core c).holder).halted = true) :
    s.mayIssue c = false := by
  unfold State.mayIssue State.hasTask
  simp only [h, Bool.not_true, Bool.and_false, Bool.false_and]

/-- Settles O15: the trap under a handler, the handler that can start no bundle, and the halted holder. -/
theorem doubleTrap : Obligations.DoubleTrap := by
  refine ⟨?_, ?_, fun s c h => State.mayIssue_of_halted h⟩
  · intro s c res t q x u y hact hasync
    have hu := State.takeTrap_of_double (t := t) hact hasync
    obtain ⟨z, hz, hy⟩ := s.ctx_halt c res ((q.record.map (fun f => f.pc)).getD q.ret)
      ((q.record.map (fun f => f.pc)).getD q.ret) q.code q.cause
    have hy : y = z.inHalt := (congrArg (fun u : State => u.ctx c res) hu).trans hy
    have hmem : u.mem = s.mem := (Prod.ext_iff.mp (s.stored_takeTrap c res t q)).1
    have hk := hz.inHalt
    rw [hy]
    refine ⟨rfl, hk.keeps Ctx.tcause ?_, hk.keeps Ctx.tret ?_, hk.keeps Ctx.targ ?_, hk.keeps Ctx.lvl ?_, hk.keeps Ctx.pc ?_,
      hk.keeps Ctx.shadow ?_, hk.keeps Ctx.writes ?_, hk.keeps Ctx.g ?_, hk.keeps Ctx.v ?_, hk.keeps Ctx.m ?_, hk.keeps Ctx.flags ?_, hmem,
      fun p hp => (congrArg (fun u : State => (u.partition p).dblTrap) hu).trans (State.dblTrap_halt _ _ _ _ _ _ _ hp)⟩
    all_goals exact fun _ _ => rfl
  · intro s c res t q hact htvec y
    obtain ⟨e, he⟩ := Option.ne_none_iff_exists'.mp htvec
    have hu : s.takeTrap c res t q = (s.enterTrap c res t q).halt c res (s.ctx c res).tvec (s.ctx c res).tvec e.1 e.2 := by
      rw [State.takeTrap_of_entry (by rw [hact]; rfl), he]
    obtain ⟨z, -, hz⟩ := s.ctx_enterTrap c res t q
    obtain ⟨w, hw, hy⟩ := (s.enterTrap c res t q).ctx_halt c res (s.ctx c res).tvec (s.ctx c res).tvec e.1 e.2
    rw [hz] at hw
    have hy : y = w.inHalt := (congrArg (fun u : State => u.ctx c res) hu).trans hy
    have hact' : w.act = true := (hw.keeps Ctx.act (fun _ _ => rfl)).trans (z.act_entered t q)
    have hret : w.tret = q.ret := hw.keeps Ctx.tret (fun _ _ => rfl)
    rw [hy]
    exact ⟨rfl, hact', hret⟩

end Sys2Proof.Machine
end

section
/-!
Fault records (R360 to R362). Settles O17.
-/

namespace Sys2Proof.Machine

/-! ### The fields of a record (Table 20.5) -/

section
variable (s : State) (c : Nat) (res : BitVec 1) (f : FaultRec)

theorem State.recordBits_event : (s.recordBits c res f).extractLsb' 0 8 = f.code ∧
    (s.recordBits c res f).extractLsb' 8 8 = f.cause ∧
    (s.recordBits c res f).extractLsb' 16 1 = b1 (decide (f.code.toNat ≤ 12)) ∧
    (s.recordBits c res f).extractLsb' 17 1 = 0 := by
  unfold State.recordBits
  simp (disch := decide) only [BitVec.extractLsb'_append_eq_of_add_le, BitVec.extractLsb'_append_eq_of_le]
  and_intros <;> exact BitVec.extractLsb'_eq_self

theorem State.recordBits_place : (s.recordBits c res f).extractLsb' 18 2 = (s.ctx c res).lvl ∧
    (s.recordBits c res f).extractLsb' 20 1 = res ∧ (s.recordBits c res f).extractLsb' 21 3 = BitVec.ofNat 3 f.slot ∧
    (s.recordBits c res f).extractLsb' 24 10 = BitVec.ofNat 10 c ∧
    (s.recordBits c res f).extractLsb' 34 10 = BitVec.ofNat 10 f.owner ∧ (s.recordBits c res f).extractLsb' 44 20 = 0 := by
  unfold State.recordBits
  simp (disch := decide) only [BitVec.extractLsb'_append_eq_of_add_le, BitVec.extractLsb'_append_eq_of_le]
  and_intros <;> exact BitVec.extractLsb'_eq_self

theorem State.recordBits_numbers : (s.recordBits c res f).extractLsb' 64 32 = f.pc.setWidth 32 ∧
    (s.recordBits c res f).extractLsb' 96 32 = (s.ctx c res).seqNo ∧ (s.recordBits c res f).extractLsb' 128 64 = f.addr ∧
    (s.recordBits c res f).extractLsb' 192 16 = 1 ∧ (s.recordBits c res f).extractLsb' 208 32 = s.phaseOf c res ∧
    (s.recordBits c res f).extractLsb' 240 16 = BitVec.ofNat 16 f.obj := by
  unfold State.recordBits
  simp (disch := decide) only [BitVec.extractLsb'_append_eq_of_add_le, BitVec.extractLsb'_append_eq_of_le]
  and_intros <;> exact BitVec.extractLsb'_eq_self

theorem State.recordBits_aux : (s.recordBits c res f).extractLsb' 256 64 = f.aux0 ∧
    (s.recordBits c res f).extractLsb' 320 64 = f.aux1 ∧ (s.recordBits c res f).extractLsb' 384 64 = f.aux2 ∧
    (s.recordBits c res f).extractLsb' 448 64 = f.aux3 := by
  unfold State.recordBits
  simp (disch := decide) only [BitVec.extractLsb'_append_eq_of_add_le, BitVec.extractLsb'_append_eq_of_le]
  and_intros <;> exact BitVec.extractLsb'_eq_self

end

/-! ### The slot of a record in its queue, and a lost record (R361, R362) -/

/-- The slot behind the records that a fault queue holds. -/
noncomputable def Ctx.recordSlot (x : Ctx) : Nat := (x.fqHead.toNat + x.fqCount.toNat) % 64

/-- The address of that slot. -/
noncomputable def Ctx.recordAddr (x : Ctx) : Word := (0 : BitVec 7) ++ x.fqBase ++ (0 : BitVec 12) + BitVec.ofNat 64 (64 * x.recordSlot)

/-- BASE counts pages of 4,096 bytes, and 64 records fill one. -/
theorem Ctx.toNat_recordAddr (x : Ctx) : x.recordAddr.toNat = x.fqBase.toNat * 4096 + 64 * x.recordSlot := by
  have hslot : 64 * x.recordSlot < 4096 := Nat.mul_lt_mul_of_pos_left (Nat.mod_lt _ (by decide)) (by decide)
  have hbase : ((0 : BitVec 7) ++ x.fqBase ++ (0 : BitVec 12)).toNat = x.fqBase.toNat * 4096 := by
    rw [BitVec.toNat_append, BitVec.toNat_append, Nat.shiftLeft_eq, Nat.shiftLeft_eq]
    change ((0 * 2 ^ 45 ||| x.fqBase.toNat) * 2 ^ 12 ||| 0) = _
    rw [Nat.zero_mul, Nat.zero_or, Nat.or_zero]
  have hsum : x.fqBase.toNat * 4096 + 64 * x.recordSlot < 2 ^ 45 * 4096 :=
    calc x.fqBase.toNat * 4096 + 64 * x.recordSlot
      _ < (x.fqBase.toNat + 1) * 4096 := (Nat.add_lt_add_left hslot _).trans_eq (Nat.succ_mul _ _).symm
      _ ≤ 2 ^ 45 * 4096 := Nat.mul_le_mul_right _ x.fqBase.isLt
  unfold Ctx.recordAddr
  rw [BitVec.toNat_add, hbase, BitVec.toNat_ofNat, Nat.mod_eq_of_lt (hslot.trans (by decide)),
    Nat.mod_eq_of_lt (hsum.trans (by decide))]

section
variable {s : State} {c : Nat} {res : BitVec 1} {f : FaultRec}

/-- The message that carries the 64 bytes of a record to its queue. -/
noncomputable def State.recordMsg (s : State) (c : Nat) (res : BitVec 1) (f : FaultRec) (ps : List Part) : Msg :=
  { s.message c res .st 4 (s.ctx c res).recordAddr ps (.write (numBytes 64 (s.recordBits c res f).toNat)) .none with
    det := false }

/-- Only pennants are held back. -/
theorem State.fabric_send_of_store {m : Msg} (h : m.cls = .st) :
    (s.send m).fabric = s.fabric ++ [{ m with id := s.seq }] := by
  have hheld : s.heldBy m = none := by
    unfold State.heldBy
    rw [h]
    rfl
  unfold State.send
  rw [hheld]

theorem State.storeRecord_of_parts {ps : List (Part × Xlat)}
    (h : s.parts c (s.ctx c res) (s.ctx c res).recordAddr 64 .store = .ok ps) :
    s.storeRecord c res (s.ctx c res).recordSlot (s.recordBits c res f) =
      some (s.send (s.recordMsg c res f (ps.map (fun p => p.1)))) := by
  have haddr : (0 : BitVec 7) ++ (s.ctx c res).fqBase ++ (0 : BitVec 12) + BitVec.ofNat 64 (64 * ((s.ctx c res).recordSlot % 64)) =
      (s.ctx c res).recordAddr := by
    unfold Ctx.recordAddr Ctx.recordSlot; rw [Nat.mod_mod]
  unfold State.storeRecord
  dsimp only
  rw [haddr, h]
  rfl

/-- A record that coalesces with no other finds none of its key. -/
theorem find?_key_zero (l : List FRec) : l.find? (fun r => (0 : Nat) != 0 && decide (r.key = 0)) = none :=
  List.find?_eq_none.mpr (fun _ _ => Bool.false_ne_true)

/-- A record in a queue with room, at an address that translates: it is sent, and counted in its context. -/
theorem State.record_of_room {ps : List (Part × Xlat)} (hc : (s.ctx c res).fqCount ≠ 64)
    (h : s.parts c (s.ctx c res) (s.ctx c res).recordAddr 64 .store = .ok ps) :
    ∃ g : Ctx → Ctx, (∀ x, (g x).fqCount = x.fqCount + 1 ∧ (g x).seqNo = x.seqNo + 1 ∧ (g x).fqOvf = x.fqOvf) ∧
      s.record c res f 0 = (s.send (s.recordMsg c res f (ps.map (fun p => p.1)))).modCtx c res g := by
  have hs : s.storeRecord c res (((s.ctx c res).fqHead.toNat + (s.ctx c res).fqCount.toNat) % 64) (s.recordBits c res f) = _ :=
    State.storeRecord_of_parts h
  refine ⟨?step, ?counts, ?sends⟩
  case sends =>
    unfold State.record
    dsimp only
    rw [find?_key_zero, if_neg hc, hs]
  case counts => exact fun _ => ⟨rfl, rfl, rfl⟩

/-- The queue of the second context is that of the first, and a record of it has been lost. -/
def Ctx.Overflowed (x y : Ctx) : Prop := y.fqOvf = true ∧ y.fqCount = x.fqCount

/-- A record that finds its queue full is lost: the queue has overflowed, and nothing is sent. -/
theorem State.record_of_full (hc : (s.ctx c res).fqCount = 64) :
    ∃ g : Ctx → Ctx, (∀ x : Ctx, x.Overflowed (g x)) ∧ s.record c res f 0 = s.modCtx c res g := by
  refine ⟨?step, ?loses, ?stands⟩
  case stands =>
    unfold State.record
    dsimp only
    rw [find?_key_zero, if_pos hc]
  case loses =>
    exact fun x : Ctx => iteInduction (motive := x.Overflowed) (fun _ => ⟨rfl, rfl⟩)
      (fun _ => iteInduction (motive := x.Overflowed) (fun _ => ⟨rfl, rfl⟩) (fun _ => ⟨rfl, rfl⟩))

theorem State.ctx_send (m : Msg) : (s.send m).ctx c res = s.ctx c res := by
  rw [State.send_eq]; rfl

end

theorem toNat_of_eq_ofNat {n : Nat} {v : BitVec n} {k : Nat} (hv : v = BitVec.ofNat n k) (hk : k < 2 ^ n) : v.toNat = k := by
  rw [hv, BitVec.toNat_ofNat, Nat.mod_eq_of_lt hk]

/-- Settles O17: the fields of the record, its store in the slot behind the others, and its loss in a full queue. -/
theorem faultRecords : Obligations.FaultRecords := by
  intro s c res f hc hslot howner hobj x b
  refine ⟨?_, fun ps hroom _ h => ?_, fun hfull => ?_⟩
  · obtain ⟨hcode, hcause, hprecise, hrep⟩ := s.recordBits_event c res f
    obtain ⟨hlvl, hres, hslot', hcore, howner', hzero⟩ := s.recordBits_place c res f
    obtain ⟨hpc, hseq, haddr, hcount, hphase, hobj'⟩ := s.recordBits_numbers c res f
    exact ⟨hcode, hcause, hprecise, hrep, hlvl, hres, toNat_of_eq_ofNat hslot' hslot, toNat_of_eq_ofNat hcore hc,
      toNat_of_eq_ofNat howner' howner, hzero, hpc, hseq, haddr, hcount, hphase, toNat_of_eq_ofNat hobj' hobj,
      s.recordBits_aux c res f⟩
  · have hne : x.fqCount ≠ 64 := fun e => absurd hroom (by rw [e]; decide)
    obtain ⟨g, hg, ht⟩ := State.record_of_room (f := f) hne h
    obtain ⟨hcount', hseq', hovf⟩ := hg x
    have hx : (s.record c res f 0).ctx c res = g x := by
      rw [ht, State.ctx_modCtx_self, State.ctx_send]
    intro t
    rw [show t.ctx c res = g x from hx]
    exact ⟨hcount', hseq', hovf, (s.noted_record c res f 0).mem, _, (congrArg State.fabric ht).trans
      (State.fabric_send_of_store rfl), rfl, rfl, rfl, x.toNat_recordAddr⟩
  · obtain ⟨g, hg, ht⟩ := State.record_of_full (f := f) hfull
    obtain ⟨hovf, hcount'⟩ := hg x
    have hx : (s.record c res f 0).ctx c res = g x := by
      rw [ht, State.ctx_modCtx_self]
    intro t
    rw [show t.ctx c res = g x from hx]
    exact ⟨hovf, hcount'.trans hfull, (congrArg State.fabric ht).trans rfl⟩

end Sys2Proof.Machine
end

section
/-!
Errors in the register files (R367). Settles O60.
-/

namespace Sys2Proof.Machine

/-! ### Errors that a bundle reads -/

section
variable {s : State} {c : Nat} {res : BitVec 1} {i : Instr}

theorem State.readFiles_of_no_upsets {is : List Instr} (h : (s.ctx c res).upsets = []) : s.readFiles c res is = s := by
  unfold State.readFiles
  simp only [h, if_true]

/-- A bundle of one word meets the errors of what the word reads. -/
theorem State.readFiles_lone (h : (s.ctx c res).upsets ≠ []) :
    s.readFiles c res [i] = s.touchFiles ⟨c, res, (s.ctx c res).pc, 0⟩ ((s.ctx c res).fileReads i) := by
  unfold State.readFiles
  simp only [h, if_false]
  rfl

variable {a : Agent} {e : Nat × Bool} {spans : List (Nat × Nat)} (he : (s.ctx a.core a.res).upsets = [e])
include he

/-- The one word in error is met when it is read. -/
theorem State.touchFiles_one :
    s.touchFiles a spans = if ∃ p ∈ spans, p.1 ≤ e.1 ∧ e.1 < p.1 + p.2 then s.fileError a e else s := by
  have hany : spans.any (fun p => decide (p.1 ≤ e.1) && decide (e.1 < p.1 + p.2)) = true ↔
      ∃ p ∈ spans, p.1 ≤ e.1 ∧ e.1 < p.1 + p.2 := by
    simp only [List.any_eq_true, Bool.and_eq_true, decide_eq_true_eq]
  unfold State.touchFiles
  rw [he]
  simp only [List.filter_cons, List.filter_nil, ← hany]
  split <;> rfl

end

/-! ### Words written free of errors, and upsets -/

theorem Ctx.mem_without {x : Ctx} {at_ n : Nat} {e : Nat × Bool} :
    e ∈ x.without at_ n ↔ e ∈ x.upsets ∧ (e.1 < at_ ∨ at_ + n ≤ e.1) := by
  unfold Ctx.without
  simp only [List.mem_filter, Bool.or_eq_true, decide_eq_true_eq]

theorem Ctx.mem_upsets_wg {x : Ctx} {n : BitVec 6} {w : Word} {e : Nat × Bool} (hn : n ≠ 0) :
    e ∈ (x.wg n w).upsets ↔ e ∈ x.upsets ∧ e.1 ≠ n.toNat := by
  unfold Ctx.wg
  rw [if_neg hn]
  exact Ctx.mem_without.trans (and_congr_right' lt_or_lt_iff_ne)

/-- A context with one more word of its register files in error. -/
noncomputable def Ctx.upset (x : Ctx) (w : Nat) (double : Bool) : Ctx := { x with upsets := x.without w 1 ++ [(w, double)] }

/-- The key of a word of a register file leads back to its residency and the word. -/
theorem State.upset_fileKey (s : State) (c : Nat) (res : BitVec 1) {w : Nat} (double : Bool) (h : w < fileWords) :
    s.upset (fileKey c res w) double = s.modCtx c res (fun x => x.upset w double) := by
  have hbase : fileKey 0 0 0 = 0x400000000000000000 := rfl
  have hkey : fileKey c res w = 0x400000000000000000 + 8 * ((2 * c + res.toNat) * fileWords + w) := rfl
  have hle : fileKey 0 0 0 ≤ fileKey c res w := by rw [hbase, hkey]; exact Nat.le_add_right _ _
  have hword : (fileKey c res w - fileKey 0 0 0) / 8 = fileWords * (2 * c + res.toNat) + w := by
    rw [hbase, hkey, Nat.add_sub_cancel_left, Nat.mul_div_cancel_left _ (by decide), Nat.mul_comm]
  have hdiv : (fileWords * (2 * c + res.toNat) + w) / fileWords = 2 * c + res.toNat := by
    rw [Nat.mul_add_div (by decide), Nat.div_eq_of_lt h, Nat.add_zero]
  have hmod : (fileWords * (2 * c + res.toNat) + w) % fileWords = w := by
    rw [Nat.mul_add_mod, Nat.mod_eq_of_lt h]
  have hcore : (2 * c + res.toNat) / 2 = c := by
    rw [Nat.mul_add_div (by decide), Nat.div_eq_of_lt res.isLt, Nat.add_zero]
  have hside : BitVec.ofNat 1 (2 * c + res.toNat) = res := by
    apply BitVec.eq_of_toNat_eq
    rw [BitVec.toNat_ofNat, Nat.pow_one, Nat.mul_add_mod, Nat.mod_eq_of_lt res.isLt]
  unfold State.upset
  simp only [hle, if_true, hword, hdiv, hmod, hcore, hside]
  rfl

/-- Settles O60: the errors that a word reads, the registers written free of theirs, and an upset. -/
theorem registerFileErrors : Obligations.RegisterFileErrors := by
  refine ⟨fun s c res i is e => ⟨State.readFiles_of_no_upsets, fun he hout => ?_, fun p hp he hlo hhi => ?_⟩,
    fun x n w e hn => Ctx.mem_upsets_wg hn, fun x n w e => Ctx.mem_without, fun s c res w double hw => ?_⟩
  · rw [State.readFiles_lone (by rw [he]; exact List.cons_ne_nil _ _), State.touchFiles_one he, if_neg]
    rintro ⟨p, hp, hlo, hhi⟩
    rcases hout p hp with hlt | hge
    · exact Nat.not_lt.mpr hlo hlt
    · exact Nat.not_lt.mpr hge hhi
  · have hread : s.readFiles c res [i] = s.fileError ⟨c, res, (s.ctx c res).pc, 0⟩ e := by
      rw [State.readFiles_lone (by rw [he]; exact List.cons_ne_nil _ _), State.touchFiles_one he, if_pos ⟨p, hp, hlo, hhi⟩]
    rw [hread]
    unfold State.fileError
    refine ⟨fun hsingle => ?_, fun hdouble => ?_⟩
    · rw [hsingle]; rfl
    · rw [hdouble]
      exact ⟨_, rfl, rfl, rfl, rfl, rfl, rfl⟩
  · intro t
    have hx : t.ctx c res = (s.ctx c res).upset w double := by
      rw [show t = _ from s.upset_fileKey c res double hw, State.ctx_modCtx_self]
    rw [hx, show t = _ from s.upset_fileKey c res double hw]
    exact ⟨rfl, rfl, List.mem_append_right _ (List.mem_singleton.mpr rfl), fun _ => rfl, fun _ => rfl⟩

end Sys2Proof.Machine
end

section
/-!
The steps of a replica entry (R370 to R372). Settles O57.
-/

namespace Sys2Proof.Machine

/-! ### The entries -/

@[simp] theorem State.replica_modReplica_self (s : State) (p : Nat) (f : Replica → Replica) :
    (s.modReplica p f).replica p = f (s.replica p) := Table.get_set_self ..

@[simp] theorem State.replica_letGo (s : State) (p : Nat) (f : Msg → Bool) (n : Nat) :
    (s.letGo p f).replica n = s.replica n := rfl

/-! ### RELEASE and DISCARD (R372) -/

section
variable {s : State} {p : Nat}

theorem State.replicaRelease_of_mismatch (h : (s.replica p).st = .mismatch) :
    s.replicaRelease p = (s.modReplica p (fun e => { e with st := .idle })).letGo p (fun _ => true) := by
  unfold State.replicaRelease
  rw [if_neg (fun hn => hn h)]

theorem State.replicaRelease_of_other (h : (s.replica p).st ≠ .mismatch) : s.replicaRelease p = s := if_pos h

theorem State.replicaDiscard_of_mismatch (h : (s.replica p).st = .mismatch) :
    s.replicaDiscard p = { s with
      fabric := s.fabric.filter (fun m => !m.heldRep.any (fun h => decide (h.1 = p)))
      launches := s.launches.map (fun l => if l.lid == (s.replica p).lid then { l with drop := true } else l) } :=
  if_neg (fun hn => hn h)

theorem State.replicaDiscard_of_other (h : (s.replica p).st ≠ .mismatch) : s.replicaDiscard p = s := if_pos h

/-- Pennants that go on stay on the fabric. -/
theorem State.length_fabric_letGo (s : State) (p : Nat) (f : Msg → Bool) : (s.letGo p f).fabric.length = s.fabric.length :=
  List.length_map ..

/-- When all held pennants of a partition go on, it holds none. -/
theorem State.heldRep_letGo_all {m : Msg} {h : Nat × Word} (hm : m ∈ (s.letGo p (fun _ => true)).fabric)
    (hh : m.heldRep = some h) : h.1 ≠ p := by
  obtain ⟨n, -, hn⟩ := List.mem_map.mp hm
  intro hp
  by_cases hsel : (n.heldRep.any (fun h => decide (h.1 = p)) && true) = true
  · rw [if_pos hsel] at hn
    rw [← hn] at hh
    cases hh
  · rw [if_neg hsel] at hn
    rw [hn, hh] at hsel
    exact hsel (by simp [hp])

/-! ### The peer's digest, and its absence (R370, R372) -/

/-- With no step that waits for its peer nothing is compared. -/
theorem State.compareSteps_of_no_steps (h : (s.replica p).steps = []) (n : Nat) : s.compareSteps p n = s := by
  cases n with
  | zero => rfl
  | succ n =>
    have hstep : s.compareSteps p (n + 1) = ite ((s.replica p).st = .mismatch) s _ := rfl
    rw [hstep, h]
    exact ite_self _

/-- A digest that no step waits for is kept. -/
theorem State.peerDigest_of_no_steps (he : (s.replica p).en = true) (hst : (s.replica p).st ≠ .mismatch)
    (hs : (s.replica p).steps = []) (d : BitVec 128) (k : BitVec 32) :
    s.peerDigest p d k = s.modReplica p (fun e => { e with peers := e.peers ++ [(k, d)] }) := by
  unfold State.peerDigest
  simp only [he, hst, Bool.not_true, Bool.false_or, decide_false, Bool.false_eq_true, if_false]
  exact State.compareSteps_of_no_steps (by rw [State.replica_modReplica_self]; exact hs) _

theorem State.digestTimeout_of_over {lid w : Word} {k : BitVec 32} {own : BitVec 128}
    {rest : List (Word × BitVec 32 × BitVec 128 × Word)} (he : (s.replica p).en = true) (hst : (s.replica p).st ≠ .mismatch)
    (hs : (s.replica p).steps = (lid, k, own, w) :: rest) (hw : w.toNat + (s.replica p).wait ≤ s.wall.toNat) :
    s.digestTimeout p = s.stepFails p lid k own 0 2 := by
  unfold State.digestTimeout
  simp only [hs]
  rw [if_pos ⟨he, hst, hw⟩]

/-- The traps left pending in the members change no entry. -/
theorem State.replicas_foldl_modCtx {α : Type} (m : α → Nat × BitVec 1) (f : Ctx → Ctx) (l : List α) (s : State) :
    (l.foldl (fun s a => s.modCtx (m a).1 (m a).2 f) s).replicas = s.replicas := by
  induction l generalizing s with
  | nil => rfl
  | cons a l ih => exact ih _

/-- A step that fails leaves the entry in MISMATCH. -/
theorem State.st_stepFails (s : State) (p : Nat) (lid : Word) (k : BitVec 32) (own peer : BitVec 128) (cause : BitVec 8) :
    ((s.stepFails p lid k own peer cause).replica p).st = .mismatch := by
  have hset : ∀ u : State, u.replicas = (s.modReplica p (fun e =>
      { e with st := .mismatch, lid := lid, steps := [], peers := [] })).replicas → (u.replica p).st = .mismatch := by
    intro u hu
    unfold State.replica
    rw [hu]
    exact congrArg Replica.st (State.replica_modReplica_self s p _)
  unfold State.stepFails
  simp only
  split
  · exact hset _ rfl
  · exact hset _ (State.replicas_foldl_modCtx id _ _ _)

end

/-! ### What the constructors of these steps mean -/

theorem exec_replicaRelease (p : BitVec 3) (s : State) : exec (.replicaRelease p) s = .next (s.replicaRelease p.toNat) := rfl

theorem exec_replicaDiscard (p : BitVec 3) (s : State) : exec (.replicaDiscard p) s = .next (s.replicaDiscard p.toNat) := rfl

theorem exec_replicaDigestArrival (p : BitVec 3) (d : BitVec 128) (k : BitVec 32) (s : State) :
    exec (.replicaDigestArrival p d k) s = .next (s.peerDigest p.toNat d k) := rfl

theorem exec_replicaDigestTimeout (p : BitVec 3) (s : State) :
    exec (.replicaDigestTimeout p) s = .next (s.digestTimeout p.toNat) := rfl

/-- Settles O57: RELEASE and DISCARD by the state of the entry, an early digest, and a wait past the limit. -/
theorem replicaSteps : Obligations.ReplicaSteps := by
  rintro s p e rfl
  refine ⟨fun hst => ⟨?_, ?_⟩, fun hst => ⟨?_, ?_⟩, fun d k he hst hs => ?_, fun lid w k own rest he hst hs hw => ⟨?_, ?_⟩⟩
  · rw [exec_replicaRelease, State.replicaRelease_of_other hst]
  · rw [exec_replicaDiscard, State.replicaDiscard_of_other hst]
  · refine ⟨_, (exec_replicaRelease p s).trans (congrArg _ (State.replicaRelease_of_mismatch hst)), ?_, ?_, ?_⟩
    · rw [State.replica_letGo, State.replica_modReplica_self]
    · exact State.length_fabric_letGo ..
    · exact fun m hm h hh => State.heldRep_letGo_all hm hh
  · rw [exec_replicaDiscard, State.replicaDiscard_of_mismatch hst]
  · rw [exec_replicaDigestArrival, State.peerDigest_of_no_steps he hst hs]
  · rw [exec_replicaDigestTimeout, State.digestTimeout_of_over he hst hs hw]
  · exact State.st_stepFails ..

end Sys2Proof.Machine
end

section
/-!
Which of the events that fall on a bundle its context takes (R354). Settles O59.
-/

namespace Sys2Proof.Machine

/-! ### Asynchronous events -/

section
variable {s : State} {c : Nat} {res : BitVec 1}

theorem State.asyncTrap_of_act (h : (s.ctx c res).act = true) : s.asyncTrap c res = none := if_pos h

variable (ha : (s.ctx c res).act = false)
include ha

/-- A pending PERIOD_OVERRUN comes before all else. -/
theorem State.asyncTrap_of_overrun (h : 0 < (s.ctx c res).overrun) : ∃ q : Trap, q.code = 8 ∧ q.async = true ∧
    s.asyncTrap c res =
      some ((s.modCtx c res (fun y => { y with overrun := y.overrun - 1 })).takeTrap c res (s.now c) q) := by
  refine ⟨⟨8, 0, (s.ctx c res).pc, (s.regOf c).period, true, some { FaultRec.plain 8 0 (s.ctx c res).pc with
    aux0 := (s.regOf c).period, aux1 := (s.ctx c res).cursor.setWidth 64 }⟩, rfl, rfl, ?_⟩
  have hstep : s.asyncTrap c res = ite ((s.ctx c res).act = true) none (ite (0 < (s.ctx c res).overrun) _ _) := rfl
  rw [hstep, if_neg (Bool.eq_false_iff.mp ha), if_pos h]

/-- Then a pending DIGEST_MISMATCH. -/
theorem State.asyncTrap_of_mismatch {m : BitVec 32 × BitVec 128 × BitVec 128 × BitVec 8} (h0 : (s.ctx c res).overrun = 0)
    (h : (s.ctx c res).mismatch = some m) : ∃ q : Trap, q.code = 11 ∧ q.async = true ∧
    s.asyncTrap c res = some ((s.modCtx c res (fun y => { y with mismatch := none })).takeTrap c res (s.now c) q) := by
  obtain ⟨step, own, peer, cause⟩ := m
  refine ⟨⟨11, cause, (s.ctx c res).pc, step.setWidth 64, true, some { FaultRec.plain 11 cause (s.ctx c res).pc with
    addr := step.setWidth 64, aux0 := own.setWidth 64, aux1 := own.extractLsb' 64 64, aux2 := peer.setWidth 64,
    aux3 := peer.extractLsb' 64 64 }⟩, rfl, rfl, ?_⟩
  have hstep : s.asyncTrap c res = ite ((s.ctx c res).act = true) none (ite (0 < (s.ctx c res).overrun) _ _) := rfl
  rw [hstep, if_neg (Bool.eq_false_iff.mp ha), if_neg (Nat.not_lt.mpr (Nat.le_of_eq h0)), h]

theorem State.asyncTrap_of_none (h0 : (s.ctx c res).overrun = 0) (h : (s.ctx c res).mismatch = none) :
    s.asyncTrap c res = none := by
  have hstep : s.asyncTrap c res = ite ((s.ctx c res).act = true) none (ite (0 < (s.ctx c res).overrun) _ _) := rfl
  rw [hstep, if_neg (Bool.eq_false_iff.mp ha), if_neg (Nat.not_lt.mpr (Nat.le_of_eq h0)), h]

end

/-! ### The turn of a bundle -/

section
variable {s : State} {c : Nat}

theorem State.bundleTurn_of_async {t : State} (h : s.asyncTrap c s.res = some t) : s.bundleTurn c = t := by
  unfold State.bundleTurn
  simp only [h]

theorem State.bundleTurn_of_fetch {q : Trap} (ha : s.asyncTrap c s.res = none) (h : s.fetch c s.res = .trap q) :
    s.bundleTurn c = s.takeTrap c s.res (s.now c) q := by
  unfold State.bundleTurn
  simp only [ha, h]

/-! ### The checks behind step 7 -/

variable {res : BitVec 1} {ws : List BWord} (h57 : s.steps57 c res ws = none)
include h57

theorem State.check_of_report (hr : (s.ctx c res).reportDue = true) (hp : s.reportPoint c res ws = true) :
    s.check c res ws = .report := by
  unfold State.check
  simp only [h57, hr, hp, and_self, if_true]

theorem State.check_of_steps8 {q : Trap} (hr : ¬((s.ctx c res).reportDue = true ∧ s.reportPoint c res ws = true))
    (h8 : State.steps8 c res ws ws s = some q) : s.check c res ws = .trap q := by
  unfold State.check
  simp only [h57, hr, h8, if_false]

end

/-! ### What takes the place of a bundle whose words decode -/

section
variable {s u : State} {c : Nat} {res : BitVec 1} {is : List Instr} (hu : s.modCtx c res Ctx.freshWaits = u)
include hu

theorem State.clears_of_report (h : u.check c res (mkBundle 0 is) = .report) :
    s.clears c res is = (u.report c res (s.now c), false) := by
  subst hu
  unfold State.clears
  simp only [h, State.now_modCtx]

/-- The trap of a command stopped in deterministic mode that the bundle would wait on (R138). -/
theorem State.clears_of_engine {q : Trap} {d : DetStop} (h : u.check c res (mkBundle 0 is) = .engine q d) :
    s.clears c res is = ((u.takeTrap c res (s.now c) q).engineTrapped c res d, false) := by
  subst hu
  unfold State.clears
  simp only [h, State.now_modCtx]

/-- A limit that has expired of one of the conditions that hold a bundle (R217): the first of them traps. -/
theorem State.clears_of_expired {v : State} {w : Why} (hc : u.check c res (mkBundle 0 is) = .ok)
    (hm : u.matrixLimit c res = none) (ha : u.abandonedTrap c res (mkBundle 0 is) = none)
    (hv : v = if (u.holds c res (mkBundle 0 is)).isEmpty then (u.arriveAll c res is).tlbiAll c res is else u)
    (hw : (u.holds c res (mkBundle 0 is) ++ v.lateWhy c res (mkBundle 0 is)).find? (v.ctx c res).expired = some w) :
    s.clears c res is = (v.waitLimit c res w, false) := by
  have hne : (u.holds c res (mkBundle 0 is) ++ v.lateWhy c res (mkBundle 0 is)).isEmpty = false := by
    cases hall : u.holds c res (mkBundle 0 is) ++ v.lateWhy c res (mkBundle 0 is) with
    | nil => rw [hall] at hw; cases hw
    | cons => rfl
  have hstall : v.stallFor c res (u.holds c res (mkBundle 0 is) ++ v.lateWhy c res (mkBundle 0 is)) = v.waitLimit c res w := by
    unfold State.stallFor
    simp only [hw]
  subst hu
  unfold State.clears
  simp only [hc, hm, ha, Option.or_none, ← hv, hne, hstall, Bool.false_eq_true, if_false]

end

/-- Settles O59: the asynchronous events, the fetch, the checks in their order, and the limits of what holds a bundle. -/
theorem eventsInOrder : Obligations.EventsInOrder := by
  intro s c res is x ws
  refine ⟨State.asyncTrap_of_act, fun ha ho => ?_, fun m ha h0 hm => ?_, State.asyncTrap_of_none, fun t hres ht => ?_,
    fun q hres ha hf => ?_, fun q => State.check_of_steps57, State.check_of_report,
    fun q h57 hr => State.check_of_steps8 h57 hr, ?_⟩
  · obtain ⟨q, hcode, hasync, hq⟩ := State.asyncTrap_of_overrun ha ho
    exact ⟨q, _, hcode, hasync, hq, rfl⟩
  · obtain ⟨q, hcode, hasync, hq⟩ := State.asyncTrap_of_mismatch ha h0 hm
    exact ⟨q, _, hcode, hasync, hq, rfl⟩
  · subst hres
    exact State.bundleTurn_of_async ht
  · subst hres
    exact State.bundleTurn_of_fetch ha hf
  · intro u
    refine ⟨fun q => State.clears_of_trap, State.clears_of_report rfl, fun q d => State.clears_of_engine rfl, ?_⟩
    rintro w v all hc hm ha hv rfl hw
    exact State.clears_of_expired rfl hc hm ha hv hw

end Sys2Proof.Machine
end

section
/-!
The state after reset (R148, R406, R408). Settles O5.
-/

namespace Sys2Proof.Machine

/-! ### The parts of the device at reset -/

@[simp] theorem State.ctx_reset (c : Nat) (res : BitVec 1) : State.reset.ctx c res = Ctx.fresh := ite_self _

@[simp] theorem State.region_reset (r : Nat) : State.reset.region r = Region.fresh := rfl

/-- No region is awake, so that no step runs a cycle of one. -/
theorem State.nextRegion_reset : State.reset.nextRegion = none := by
  unfold State.nextRegion
  simp only [State.region_reset]
  exact List.find?_eq_none.mpr (fun _ _ => Bool.false_ne_true)

/-- No cluster is assigned to a region. -/
theorem State.regionOf_reset (c : Nat) : State.reset.regionOf c = none := by
  have he : Table.get (0 : BitVec 6) State.reset.clusters (c / 8) = 0 := rfl
  unfold State.regionOf State.regionOfCluster
  rw [he]
  exact if_neg (by decide)

/-! ### The registers of a fresh context (R148) -/

theorem Ctx.rg_fresh (n : BitVec 6) : Ctx.fresh.rg n = 0 := ite_self _

theorem Ctx.rv0_fresh (n : BitVec 5) : Ctx.fresh.rv0 n = 0 := rfl

theorem Ctx.rm_fresh (n : BitVec 3) : Ctx.fresh.rm n = if n = 0 then BitVec.allOnes 512 else 0 := rfl

/-- Settles O5: the reset state field by field, every table of it empty. -/
theorem resetIsSound : Obligations.ResetIsSound := by
  refine ⟨⟨rfl, rfl, rfl⟩, rfl, rfl, State.nextRegion_reset, fun r => rfl, fun q => rfl, fun u => rfl, State.regionOf_reset,
    fun p => rfl, fun p => rfl, fun key => rfl, fun c res => ?_⟩
  rw [State.ctx_reset]
  exact ⟨Ctx.rg_fresh, Ctx.rv0_fresh, Ctx.rm_fresh⟩

end Sys2Proof.Machine
end

section
/-!
ERET outside of a handler (R181, R358). Refutes O14.
-/

namespace Sys2Proof.Machine

/-- At task level step 5 finds nothing wrong with an ERET whatever ACT is: R181 comes first, in step 6. -/
theorem State.step5_eret_of_task {s : State} {c : Nat} {res : BitVec 1} (h : (s.ctx c res).lvl = 0) :
    s.step5 c res [lone .eret] = none := by
  have hbad : s.badNow c res .eret = false := by
    unfold State.badNow
    simp only [h, bne_self_eq_false, Bool.false_and]
  have hstream : (s.ctx c res).badStream .eret = false := rfl
  unfold State.step5
  rw [List.find?_cons_of_neg]
  · rfl
  · simp only [lone, hbad, hstream]
    decide

/-- An ERET at task level takes PRIVILEGE (R181). -/
theorem State.check_eret_of_task {s : State} {c : Nat} {res : BitVec 1} (h : (s.ctx c res).lvl = 0) :
    s.check c res (mkBundle 0 [.eret]) = .trap (privTrap (s.ctx c res).pc (lone .eret)) := by
  rw [mkBundle_lone]
  exact State.check_of_steps57 (State.steps57_of_privileged (State.step5_eret_of_task h) (.inl ⟨rfl, h⟩))

/-- Refutes O14: its last clause asks for ILLEGAL_INSTRUCTION (code 1) of every ERET with ACT = 0, but a context at task level,
such as every context after reset, takes PRIVILEGE (code 5) by R181. -/
theorem not_trapReturn : ¬ Obligations.TrapReturn := by
  intro h
  obtain ⟨-, -, -, h⟩ := h
  obtain ⟨q, hq, hcode, -⟩ := h State.reset 0 0 rfl
  rw [State.check_eret_of_task rfl] at hq
  cases hq
  exact absurd hcode (by decide)

end Sys2Proof.Machine
end
